-- ==== Sys2Proof/Word.lean ====
section
/-! DEFINITION. The word types of the block and their plainest arithmetic. -/

namespace Sys2Proof

/-- A byte of memory, of a record or of a message. -/
abbrev Byte := BitVec 8
/-- A 32-bit register, or the bits of an FP32 value. -/
abbrev W32 := BitVec 32
/-- A 64-bit register, or the bits of an FP64 value. -/
abbrev W64 := BitVec 64

end Sys2Proof
end

