-- ==== Sys2Proof/Syntax.lean ====
section
/-! DEFINITION. The commands of the block and their operands. The table gives no bits, so the operands are the
model's own (log entry 1). -/

namespace Sys2Proof

/-- A letter is known by its mailbox and its sequence number (R103, R113). -/
structure LetterId where
  mbx : Nat
  seq : Nat
  deriving DecidableEq, Repr

/-- The privilege modes of a resident core (R378). -/
inductive CoreMode where
  | m | hs | s | vs | u | vu
  deriving DecidableEq, Repr

/-- Machine and hypervisor mode: the modes that R32 and R500 admit. -/
def CoreMode.high : CoreMode → Bool
  | .m | .hs => true
  | _ => false

/-- Who makes an MMIO access, and by which path (R32, R37, R39, R500). -/
inductive Via where
  | bar0
  | bar4
  | core (hart : Nat) (mode : CoreMode)
  | clerk
  /-- An engine or a mailbox reader: its context, partition (4 for the module-level dies), node, ENGINE code, letter and stage. -/
  | engine (ctx part node kind : Nat) (letter : Option LetterId) (stage : Nat)
  deriving DecidableEq, Repr

/-- The capabilities of configuration space (R371). -/
inductive CapId where
  | pm | msix | pcie | aer | serial | rebar | doe | margining
  deriving DecidableEq, Repr

/-- PCIe configuration requests (R371-R373): the reads and writes of the fields that other rules use. -/
inductive CfgOp where
  /-- Read a configuration doubleword of the header. -/
  | read (off : Nat)
  /-- Command register: Memory Space Enable and Bus Master Enable. -/
  | command (memSpace busMaster : Bool)
  /-- Device Control: Max_Payload_Size and Max_Read_Request_Size in bytes. -/
  | sizes (mps mrrs : Nat)
  /-- MSI-X message control: MSI-X Enable and Function Mask. -/
  | msix (enable mask : Bool)
  /-- Resizable BAR control of BAR2: its size is 2^log2 bytes. -/
  | bar2Size (log2 : Nat)
  /-- Base address of BAR 0, 2 or 4. -/
  | barBase (bar : Nat) (base : W64)
  /-- Power state: D0 or D3hot. -/
  | power (d3hot : Bool)
  /-- Read doubleword `i` of a capability's structure, wherever its list has it (R371, R372). -/
  | capability (c : CapId) (i : Nat)
  /-- Clear bits of AER's uncorrectable error status. -/
  | aerClear (mask : Nat)
  /-- DOE Discovery of the data object type with an index (R371). -/
  | doeDiscovery (index : Nat)
  deriving DecidableEq, Repr

/-- What an MSI-X unmask touches (R118): one vector, the function mask or MSI-X Enable. -/
inductive MsixWhat where
  | vector (v : Nat)
  | function
  | enable
  deriving DecidableEq, Repr

/-- A request that expects data through BAR2: a read, or an AtomicOp, which the module does not take (R371). -/
inductive BarRequest where
  | read (len : Nat)
  | atomic (len : Nat)
  deriving DecidableEq, Repr

/-- What every CONTROL frame carries: the port on which it arrives and its LACK (R343, R344). -/
structure CtlFrame where
  port : Nat
  lack : Nat
  deriving DecidableEq, Repr

/-- What arrives on a port: a frame as it came out of the FEC, and how many of its codewords the FEC corrected and could not correct
(R340, R369). -/
structure RxFrame where
  bytes : List Byte
  corrected : Nat
  uncorrectable : Nat
  deriving DecidableEq, Repr

/-- How a read that the gate issued ends (R374). -/
inductive CplStatus where
  | success | unsupported | abort | poisoned
  deriving DecidableEq, Repr

/-- Operations of a resident core on one physical address (R379). -/
inductive CoreOp where
  | load (size : Nat)
  | store (data : List Byte)
  | amoAdd (size value : Nat)
  | amoSwap (size value : Nat)
  | amoAnd (size value : Nat)
  | amoOr (size value : Nat)
  | amoXor (size value : Nat)
  | amoMin (size value : Nat)
  | amoMax (size value : Nat)
  | amoMinu (size value : Nat)
  | amoMaxu (size value : Nat)
  | lr (size : Nat)
  | sc (data : List Byte)
  | fetch (size : Nat)
  | fenceI
  | cboClean
  | cboFlush
  | cboInval
  | cboZero
  /-- A load and a store of a page that Svpbmt makes non-cacheable (R379). -/
  | ncLoad (size : Nat)
  | ncStore (data : List Byte)
  deriving DecidableEq, Repr

/-- An access at a sorting office (R24, R71, R400): its source, its context and generation where an engine issued
it, and what it does. -/
structure SortReq where
  ctx : Option (Nat × Nat)
  addr : Nat
  write : Option (List Byte)
  len : Nat
  deriving DecidableEq, Repr

/-- How the ECC of a stacked-memory access ends (R143). -/
inductive EccOutcome where
  | clean | corrected | uncorrectable
  deriving DecidableEq, Repr

/-- An access at a base die (R136, R143). -/
structure MemReq where
  addr : Nat
  write : Option (List Byte)
  len : Nat
  ecc : EccOutcome
  deriving DecidableEq, Repr

/-- Requests of the coherence directory (R384). -/
inductive DirReq where
  | read (agent : Nat)
  | own (agent : Nat)
  | writeBack (agent : Nat) (data : List Byte)
  | evict (agent : Nat)
  | uncachedRead
  | uncachedWrite (data : List Byte)
  | uncachedPartial (off : Nat) (data : List Byte)
  | uncachedAmo (off : Nat) (op : CoreOp)
  deriving DecidableEq, Repr

/-- The three IMSIC interrupt files of a hart (R382). -/
inductive ImsicFile where
  | machine | supervisor | guest
  deriving DecidableEq, Repr

/-- The two doorbells of a mailbox (R110). -/
inductive BellSrc where
  | bar0 (page off : Nat)
  | mmio (via : Via) (mbx : Nat)
  deriving DecidableEq, Repr

/-- How a fetch of a ring slot fails (R115). -/
inductive FetchError where
  | addressFault | partitionDown | uncorrectable
  deriving DecidableEq, Repr

/-- Functions that can be switched (R107, R408). -/
inductive FnId where
  | mailbox (n : Nat)
  | engine (p node slot : Nat)
  | partition (p : Nat)
  | port (n : Nat)
  deriving DecidableEq, Repr

/-- Why a partition is reset (R412). -/
inductive ResetCause where
  | register | coherence | training
  deriving DecidableEq, Repr

/-- The paths whose drain markers a teardown or a context reset awaits (R403-R405). -/
inductive DrainPath where
  | fabric | memory | courier | upstream | intake
  deriving DecidableEq, Repr

/-- SPDM transports (R449). -/
inductive Transport where
  | doe | mctp
  deriving DecidableEq, Repr

/-- The commands of the block: one constructor per row of spec/opcode_table.json. -/
inductive Instr where
  /-- INPUT_48V_GOOD (R475): The voltage behind the closed input switch first reaches 40 V, which samples the straps and starts the power-up sequence. -/
  | input48vGood (straps : Nat)
  /-- PWR_EN_ASSERT (R475): PWR_EN is asserted and the input switch closes. -/
  | pwrEnAssert (lowMs : Nat)
  /-- PWR_EN_DEASSERT (R476): PWR_EN is deasserted, which removes the rails behind the input switch. -/
  | pwrEnDeassert
  /-- UNDERVOLTAGE_REMOVAL (R474): The input stays below 36 V for 20 µs, so every rail behind the switch is removed and the module goes OFF. -/
  | undervoltageRemoval
  /-- OVERVOLTAGE_REMOVAL (R474): The input stays above 62 V for 20 µs, so the rails are removed as for an undervoltage. -/
  | overvoltageRemoval
  /-- INPUT_OVERLOAD_REMOVAL (R477): Input power above 4.6 kW, or the current limit acting, lasts longer than 5 ms, so the rails are removed. -/
  | inputOverloadRemoval
  /-- STANDBY_ISLAND_LOSS (R474): The input falls below 30 V and the standby island loses power. -/
  | standbyIslandLoss
  /-- FIRMWARE_BOOT_DONE (R440): The K-die boot ROM finishes checking the firmware image, then either extends SEC_MEAS[1] and starts the Clerk or enters recovery mode. -/
  | firmwareBootDone
  /-- GATE_SECTION_LOADED (R440): The G-die finishes loading and measuring the gate section and starts the gate firmware. -/
  | gateSectionLoaded
  /-- DIE_AUTHENTICATION_DONE (R438): Every die's nonce signature has been checked, SEC_DIE_AUTH is set, and partitions with a failed die are held in reset. -/
  | dieAuthenticationDone (answers : List (Nat × List Byte × List Byte))
  /-- GATE_READY (R455): The gate becomes ready, Configuration Request Retry Status ends, the BARs are enabled and all 16 ports are enabled. -/
  | gateReady
  /-- PORT_LINK_TRAINED (R455): 802.3dj link training of a cabled port completes and the port starts sending CLOSED frames. -/
  | portLinkTrained (port : Nat)
  /-- STACK_TRAINING_DONE (R455): Training of a partition's stacks ends, setting TRAINED or DEGRADED. -/
  | stackTrainingDone (p : Nat) (lost : List Nat)
  /-- PCIE_CONFIG_REQUEST (R371): A PCIe configuration request is served, or receives Configuration Request Retry Status before gate ready. -/
  | pcieConfigRequest (op : CfgOp)
  /-- FUNCTION_LEVEL_RESET (R371): A Function Level Reset performs a chip reset of everything beyond the link and configuration space. -/
  | functionLevelReset
  /-- PERST_ASSERT (R456): PERST# is asserted; before gate ready it holds the link in reset, and after gate ready it performs a chip reset. -/
  | perstAssert
  /-- PERST_DEASSERT (R456): PERST# is deasserted, after which the PHY enters Detect within 20 ms. -/
  | perstDeassert
  /-- BAR2_READ (R42): A commander read through the BAR2 aperture is served, or returns poisoned all-ones data with an incident. -/
  | bar2Read (off : Nat) (req : BarRequest)
  /-- BAR2_WRITE (R42): A commander write through BAR2 reaches stacked memory, or is dropped and reported when the home partition is down. -/
  | bar2Write (off : Nat) (data : List Byte)
  /-- REGISTER_WRITE (R7): A write to a register that has no row of its own takes effect by its access type, privilege and reset-domain rules. -/
  | registerWrite (via : Via) (addr size : Nat) (value : W64)
  /-- GATE_APERTURE_BASE_WRITE (R41): A write to GATE_APERTURE_BASE is applied in order with the commander's other requests. -/
  | gateApertureBaseWrite (via : Via) (value : W32)
  /-- GATE_MMIO_WINDOW_WRITE (R41): A write to GATE_MMIO_WINDOW moves the BAR4 MMIO window, in order with the commander's other requests. -/
  | gateMmioWindowWrite (via : Via) (value : W32)
  /-- MSIX_UNMASK (R118): A vector or function unmask, or MSI-X Enable being set, sends the pending MSI-X messages. -/
  | msixUnmask (what : MsixWhat)
  /-- HOST_READ_COMPLETION (R374): A PCIe completion arrives for a read the gate issued, and error statuses end the access in error. -/
  | hostReadCompletion (tag : Nat) (status : CplStatus) (data : List Byte)
  /-- HOST_READ_TIMEOUT (R374): The completion timeout of a read the gate issued expires, and the access completes in error. -/
  | hostReadTimeout (tag : Nat)
  /-- SORTING_OFFICE_REQUEST (R24): An access arriving at a sorting office is checked for generation, forwarded, held during install, or answered partition-down. -/
  | sortingOfficeRequest (x : Nat) (r : SortReq)
  /-- MEMORY_REQUEST (R136): A base die serves a stacked-memory access in 64-byte bursts, with ECC correction or an uncorrectable-error return. -/
  | memoryRequest (r : MemReq)
  /-- CORE_ACCESS (R379): A resident core load, store, AMO or LR/SC is performed under the memory attributes of its target, or faults. -/
  | coreAccess (hart : Nat) (mode : CoreMode) (addr : Nat) (op : CoreOp)
  /-- DIRECTORY_REQUEST (R384): The coherence directory serves a read, ownership, write-back, eviction or uncached request for a line under MESI. -/
  | directoryRequest (p : Nat) (line : Nat) (r : DirReq)
  /-- SNOOP_HOLD_EXPIRE (R386): The hold time of a granted line ends and the agent answers its deferred snoops in arrival order. -/
  | snoopHoldExpire (p agent line : Nat)
  /-- SNOOP_TIMEOUT (R388): An agent has not answered a snoop or invalidation within 50 µs, so the coherent domain goes down. -/
  | snoopTimeout (p agent : Nat)
  /-- DIRECTORY_ECC_ERROR (R388): The directory meets an uncorrectable error in its SRAM and the domain goes down. -/
  | directoryEccError (p : Nat) (corrected : Bool)
  /-- IMSIC_SETIPNUM (R382): A 32-bit write of an identity to an IMSIC interrupt file raises that interrupt. -/
  | imsicSetipnum (via : Via) (hart : Nat) (file : ImsicFile) (ident : W32)
  /-- PART_CORE_RUN (R381): Setting PART_CORE_CTRL.RUN releases a hart at PART_BOOT_ADDR, or holds it until its partition is trained. -/
  | partCoreRun (via : Via) (p idx : Nat)
  /-- PART_CORE_HOLD (R381): Clearing PART_CORE_CTRL.RUN writes back and invalidates the hart's caches and holds it in reset. -/
  | partCoreHold (via : Via) (p idx : Nat)
  /-- STRUCT_GO (R67): Setting STRUCT_CTRL.GO latches the source registers and starts a structure load, or sets OVERRUN when the loader is busy. -/
  | structGo (via : Via) (mask : Nat)
  /-- STRUCT_ABORT (R68): Setting STRUCT_CTRL.ABORT ends a load before INSTALL with cause ABORTED, and has no effect otherwise. -/
  | structAbort (via : Via)
  /-- STRUCT_MODULE_NUMBER_WRITE (R464): A write of STRUCT_MODULE_NUMBER sets MODNUM unless an image is installed or a load is running. -/
  | structModuleNumberWrite (via : Via) (value : W32)
  /-- STRUCT_FETCH_START (R461): A waiting load begins fetching once MEM_READY is reached and no anchor operation runs. -/
  | structFetchStart
  /-- STRUCT_FETCH_DONE (R75): The whole image is staged and its digest computed, or the fetch fails with SOURCE_FAULT. -/
  | structFetchDone (image : List Byte) (error : Bool)
  /-- STRUCT_VERIFY_DONE (R63): Falcon-1024 verification of the image signature ends, with failure causes reported under R63. -/
  | structVerifyDone
  /-- STRUCT_VALIDATE_DONE (R63): Section and cross-section validation ends, reporting the first failure in the fixed order. -/
  | structValidateDone
  /-- STRUCT_CHECK_DONE (R70): The device-state and open-context check ends and install begins unless ABORT is set or the check fails. -/
  | structCheckDone
  /-- STRUCT_INSTALL_DONE (R71): Install of one target partition completes, putting its tables in force, forwarding held accesses and moving on to the next partition or ending the load. -/
  | structInstallDone (error : Bool)
  /-- GATE_EPOCH_WRITE (R88): A write of GATE_EPOCH broadcasts an epoch marker, or is held while PENDING is set. -/
  | gateEpochWrite (via : Via) (value : W32)
  /-- EPOCH_MARKER_ARRIVE (R88): An epoch marker reaches a die, which latches the epoch and zeroes its event count. -/
  | epochMarkerArrive (die : Nat)
  /-- EPOCH_MARKER_DONE (R88): Every die has acknowledged the marker, PENDING clears and any held write is broadcast. -/
  | epochMarkerDone
  /-- DOORBELL (R111): A 64-bit doorbell write through BAR0 or MBX_DOORBELL updates the mailbox's target TAIL and postmark, or is dropped. -/
  | doorbell (src : BellSrc) (size : Nat) (value : W64)
  /-- LETTER_FETCH (R114): The mailbox reader fetches a letter and applies the postmark check. -/
  | letterFetch (n : Nat) (slots : List (List Byte)) (error : Option FetchError)
  /-- LETTER_FETCH_RETRY (R115): The retry delay of a failed postmark check expires and the reader fetches the letter again. -/
  | letterFetchRetry (n : Nat) (slots : List (List Byte)) (error : Option FetchError)
  /-- MBX_ENABLE (R117): Setting MBX_CTRL.ENABLE enables the mailbox, which stays ENABLING until training completes, or is refused with BADCFG. -/
  | mbxEnable (via : Via) (n : Nat)
  /-- MBX_DISABLE (R117): Clearing MBX_CTRL.ENABLE moves the mailbox to DISABLING. -/
  | mbxDisable (via : Via) (n : Nat)
  /-- MBX_ARM (R116): Setting MBX_CTRL.ARM returns a LATE mailbox to ENABLED with a fresh series of attempts. -/
  | mbxArm (via : Via) (n : Nat)
  /-- RUN_ROUTE (R107): A RUN_ROUTE letter runs its route once with its operand words. -/
  | runRoute (l : LetterId)
  /-- LODGE (R150): LODGE registers an object in every directory after its operand checks. -/
  | lodge (l : LetterId)
  /-- UNLODGE (R151): UNLODGE removes an absent, unpinned or SRAM-tier object, or a stash handle. -/
  | unlodge (l : LetterId)
  /-- PROMOTE (R153): PROMOTE adds a pin and starts or joins the copy of an object to SRAM. -/
  | promote (l : LetterId)
  /-- EVICT (R154): EVICT clears a context's pin and starts eviction when no pin remains. -/
  | evict (l : LetterId)
  /-- PROMOTE_COPY_DONE (R153): The copy to SRAM completes, the object becomes RESIDENT, held stores are released and any pending eviction proceeds. -/
  | promoteCopyDone (obj : Nat)
  /-- EVICT_WRITEBACK_DONE (R154): Write-back and free of an SRAM copy complete, the object becomes ABSENT, and waiting PROMOTEs act. -/
  | evictWritebackDone (obj : Nat)
  /-- COPY (R107): COPY makes the update engine of partition PART copy LENGTH bytes by loads and stores. -/
  | copy (l : LetterId)
  /-- FENCE (R120): A FENCE starts once earlier letters have receipts, optionally discards cached translations, and holds later letters. -/
  | fence (l : LetterId)
  /-- SEAL (R124): A SEAL completes every store of the context's receipted letters on every path. -/
  | seal (l : LetterId)
  /-- STEP_BEGIN (R304): STEP_BEGIN opens a step and may set a new epoch. -/
  | stepBegin (l : LetterId)
  /-- STEP_UPDATE (R320): STEP_UPDATE checks parameter sets, runs the norm pass and clipping, and updates dense weights into the alternate version. -/
  | stepUpdate (l : LetterId)
  /-- STEP_COMMIT (R331): STEP_COMMIT sends UPDATE_DONE to the postmaster and enters DECIDING. -/
  | stepCommit (l : LetterId)
  /-- STEP_ABORT (R335): STEP_ABORT sends ABORT_REQ to the postmaster. -/
  | stepAbort (l : LetterId)
  /-- EVAL_BEGIN (R337): EVAL_BEGIN opens an evaluation bracket on the committed version. -/
  | evalBegin (l : LetterId)
  /-- EVAL_END (R337): EVAL_END closes the evaluation bracket after its letters have receipts. -/
  | evalEnd (l : LetterId)
  /-- CTX_OPEN (R97): CTX_OPEN opens a CLOSED context with its seed, root and routes and zeroes its step state and counters. -/
  | ctxOpen (l : LetterId)
  /-- CTX_TEAR (R404): CTX_TEAR advances the generation, stops the context's letters, clears pins, releases pools and rolls back journals. -/
  | ctxTear (l : LetterId)
  /-- FN_ENABLE (R408): FN_ENABLE queues an enable of a mailbox, engine, partition or port. -/
  | fnEnable (l : LetterId)
  /-- FN_DISABLE (R408): FN_DISABLE queues a disable of a mailbox, engine, partition or port. -/
  | fnDisable (l : LetterId)
  /-- CRR_PORT_ENABLE_WRITE (R408): A write of CRR_PORT_CTRL.ENABLE queues a port enable or disable as FN_ENABLE or FN_DISABLE does. -/
  | crrPortEnableWrite (via : Via) (port : Nat) (enable : Bool)
  /-- FN_TRANSITION_DONE (R409): A function's queued transition completes, its receipt is written and the next queued request proceeds. -/
  | fnTransitionDone (fn : FnId)
  /-- NOTE (R107): NOTE writes a SUCCESS receipt only. -/
  | note (l : LetterId)
  /-- LETTER_COMPLETE (R122): Every store of a letter is complete on its paths, so the receipt is written and the letter ends. -/
  | letterComplete (l : LetterId)
  /-- MEM_SEG_ISET_WRITE (R135): A write of MEM_SEG_ISET changes the interleave set only of segments with no lodged stacked bytes. -/
  | memSegIsetWrite (via : Via) (p : Nat) (value : W32)
  /-- STACK_TEMP_CHANGE (R141): A stack's temperature crosses a refresh boundary, so its base die changes the refresh interval. -/
  | stackTempChange (p k temp : Nat)
  /-- PC_RETRAIN_START (R144): A pseudo-channel's error monitor crosses its threshold, or the Clerk schedules it, and retraining starts with accesses held. -/
  | pcRetrainStart (p k ch pc : Nat)
  /-- PC_RETRAIN_DONE (R144): Retraining succeeds, lane repairs are applied and held accesses complete. -/
  | pcRetrainDone (p k lanes : Nat)
  /-- CHANNEL_LOST (R145): Retraining fails within 40 µs, so the channel is lost and the partition degraded. -/
  | channelLost (p k : Nat)
  /-- DELIVERY_ISSUE (R158): A delivery of streamed weight parcels is issued once its layer is within LOOKAHEAD and its slots are free. -/
  | deliveryIssue (l : LetterId) (p record n : Nat)
  /-- DELIVERY_PARCEL_LANDED (R157): A delivered parcel lands in its slot and the franker computes its block sums. -/
  | deliveryParcelLanded (l : LetterId) (p record idx : Nat)
  /-- WINDOW_STAGE_READY (R159): A window stage becomes ready and starts, awaiting issued parcels and reading through unissued ones. -/
  | windowStageReady (l : LetterId) (stage : Nat)
  /-- HALL_RT_CLEAR (R160): Setting HALL_RT_CTRL.CLEAR empties HALL_RT and HALL_RT_OTHER. -/
  | hallRtClear (via : Via) (p : Nat)
  /-- ARRAY_STAGE_START (R182): An array stage starts computing its output tiles in ascending tile order. -/
  | arrayStageStart (l : LetterId) (stage : Nat)
  /-- ARRAY_BLOCK (R172): A 32-element K-block is accumulated into every cell's live bank with one rounding. -/
  | arrayBlock (p t a : Nat)
  /-- ARRAY_PASS_END (R166): A tile's K pass ends and the banks swap, or the array waits for the other bank to drain. -/
  | arrayPassEnd (p t a : Nat)
  /-- ARRAY_DRAIN_DONE (R184): A finished bank completes its drain to the DRAIN hook, applying the drain mask and counting non-finites. -/
  | arrayDrainDone (p t a : Nat)
  /-- DRAIN_TOKEN_ARRIVE (R183): A drain token arrives on IN_B and an ACCUMULATE tile starts from the earlier stage's values. -/
  | drainTokenArrive (p t a : Nat)
  /-- PREEMPT (R193): Setting ARR_CTRL.PREEMPT requests preemption on behalf of the highest-priority waiting stage. -/
  | preempt (via : Via) (p t a row : Nat)
  /-- ARRAY_PREEMPTION (R194): A preemption is accepted at a block boundary, the banks are unloaded to pigeonholes and the preempting stage starts. -/
  | arrayPreemption (p t a : Nat) (l : LetterId) (stage row : Nat)
  /-- ARRAY_RESUME (R194): The preempting stage finishes, the pigeonholes are reloaded and the parked stage resumes. -/
  | arrayResume (p t a : Nat)
  /-- ARRAY_PARITY_ERROR (R196): A parity error discards a tile for recomputation, or on a repeat raises ARRAY_FAULT and halts the stage. -/
  | arrayParityError (p t a : Nat) (draining : Bool)
  /-- FRANKER_PARCEL (R222): The franker runs the amax and conversion passes for one destination parcel and writes its payload and side record. -/
  | frankerParcel (l : LetterId) (stage : Nat)
  /-- FRANKER_ECC_ERROR (R224): An uncorrectable error in a franker staging bank raises FRANKER_FAULT and halts the stage. -/
  | frankerEccError (p t : Nat) (corrected : Bool)
  /-- FRK_CLEAR_COUNTS (R225): Setting FRK_CTRL.CLEAR_COUNTS zeroes every FRK_SAT and FRK_NONFINITE. -/
  | frkClearCounts (via : Via) (p t : Nat)
  /-- VECTOR_STAGE_START (R238): A vector stage loads and checks its route card at the first element of a letter. -/
  | vectorStageStart (l : LetterId) (stage : Nat)
  /-- VECTOR_ELEMENT_GROUP (R241): The vector engine runs the card over one group of 1,024 elements and converts its outputs. -/
  | vectorElementGroup (l : LetterId) (stage : Nat)
  /-- VECTOR_ECC_ERROR (R242): An uncorrectable error in lane registers or staging raises VECTOR_FAULT and halts the stage. -/
  | vectorEccError (p t : Nat) (corrected : Bool)
  /-- VEC_CLEAR_COUNTS (R243): Setting VEC_CTRL.CLEAR_COUNTS zeroes every VEC_SAT and VEC_NONFINITE. -/
  | vecClearCounts (via : Via) (p t : Nat)
  /-- ATT_FORWARD (R261): A FORWARD stage latches its sequences and computes online-softmax attention and the row statistics. -/
  | attForward (l : LetterId) (stage : Nat)
  /-- ATT_BACKWARD (R265): A BACKWARD stage recomputes the scores and produces dQ, dK and dV. -/
  | attBackward (l : LetterId) (stage : Nat)
  /-- ATT_APPEND (R255): An APPEND stage writes new tokens to sequences, copying shared pages first. -/
  | attAppend (l : LetterId) (stage : Nat)
  /-- ATT_FORK (R254): A FORK stage makes new sequences that share a source's pages. -/
  | attFork (l : LetterId) (stage : Nat)
  /-- ATT_RELEASE (R256): A RELEASE stage invalidates sequences and drops page references. -/
  | attRelease (l : LetterId) (stage : Nat)
  /-- ATT_POOL_INIT (R257): A POOL_INIT stage sets up or invalidates a history pool. -/
  | attPoolInit (l : LetterId) (stage : Nat)
  /-- ATTENTION_ECC_ERROR (R269): An uncorrectable error in the attention state store raises ATTENTION_FAULT and halts the stage. -/
  | attentionEccError (p t : Nat) (corrected : Bool)
  /-- ATT_CLEAR_COUNTS (R271): Setting ATT_CTRL.CLEAR_COUNTS zeroes every ATT_SAT and ATT_NONFINITE. -/
  | attClearCounts (via : Via) (p t : Nat)
  /-- SPLIT (R284): A SPLIT stage sorts a batch list into owner segments of an outbound list. -/
  | split (l : LetterId) (stage : Nat)
  /-- SORT (R285): A SORT stage stably sorts and deduplicates inbound entries into a runs object. -/
  | sort (l : LetterId) (stage : Nat)
  /-- GATHER_POOL (R287): A GATHER_POOL stage fetches unique rows and pools each bag into records. -/
  | gatherPool (l : LetterId) (stage : Nat)
  /-- COMBINE (R291): A COMBINE stage sums records per bag in owner order into the pooled output. -/
  | combine (l : LetterId) (stage : Nat)
  /-- SCATTER (R292): A SCATTER stage produces bag-gradient records for each owner segment. -/
  | scatter (l : LetterId) (stage : Nat)
  /-- ADAGRAD (R294): A row-update stage journals rows, sums their gradients and applies Adagrad in place. -/
  | adagrad (l : LetterId) (stage : Nat)
  /-- ADAM (R294): A row-update stage journals rows, sums their gradients and applies Adam in place. -/
  | adam (l : LetterId) (stage : Nat)
  /-- RECOVER (R299): A RECOVER stage commits or rolls back a journal after a chip reset. -/
  | recover (l : LetterId) (stage : Nat)
  /-- CACHE_INVAL (R289): Setting EMB_CTRL.CACHE_INVAL requests invalidation of the row cache. -/
  | cacheInval (via : Via) (p t : Nat)
  /-- CACHE_INVAL_APPLY (R289): The row cache is invalidated once no gather/pool stage runs, and INVAL_BUSY clears. -/
  | cacheInvalApply (p t : Nat)
  /-- EMB_CLEAR_COUNTS (R302): Setting EMB_CTRL.CLEAR_COUNTS zeroes every EMB_SAT and EMB_NONFINITE. -/
  | embClearCounts (via : Via) (p t : Nat)
  /-- EMBEDDING_ECC_ERROR (R301): An uncorrectable error in the sort store raises EMBEDDING_FAULT and halts the stage. -/
  | embeddingEccError (p t : Nat) (corrected : Bool)
  /-- TIE_SUM (R311): A TIE_SUM stage adds the tied slots in layer order on its token and sends a token. -/
  | tieSum (l : LetterId) (stage : Nat)
  /-- UPDATE_LOCAL_DONE (R329): Every partition's update has written its last entry, so the state becomes UPDATED and STEP_UPDATE completes. -/
  | updateLocalDone (ctx : Nat)
  /-- NORM_PARTIAL_RECEIVE (R366): An OP 2 norm postcard arrives, and once all partials are held S is formed and returned. -/
  | normPartialReceive (ctx gen step m : Nat) (value : W64)
  /-- UPDATE_DONE_RECEIVE (R332): The postmaster receives UPDATE_DONE and decides COMMIT when all members agree, or ABORT when they differ. -/
  | updateDoneReceive (m ctx step : Nat) (skipped : Bool) (norm : W64)
  /-- ABORT_REQ_RECEIVE (R332): The postmaster receives ABORT_REQ and decides ABORT for an undecided step. -/
  | abortReqReceive (m ctx step : Nat)
  /-- COMMIT_RECEIVE (R333): A module receives COMMIT, floods it on and starts the commit actions. -/
  | commitReceive (port ctx step : Nat)
  /-- ABORT_RECEIVE (R334): A module receives ABORT, floods it on and starts the abort actions. -/
  | abortReceive (port ctx step : Nat)
  /-- COMMIT_ACTIONS_DONE (R333): The commit actions complete, VER flips and the step returns to IDLE. -/
  | commitActionsDone (ctx : Nat)
  /-- ABORT_ACTIONS_DONE (R334): Journal rollback and stash release complete and the step returns to IDLE. -/
  | abortActionsDone (ctx : Nat)
  /-- MAILBAG_GRAD (R355): A GRAD stage stores or adds a microbatch's drained tiles into the accumulation object. -/
  | mailbagGrad (l : LetterId) (stage : Nat)
  /-- MAILBAG_SEND (R354): A SEND stage makes every group of an accumulated object ready to send. -/
  | mailbagSend (l : LetterId) (stage : Nat)
  /-- PHASE_ONE_START (R360): A ready group of the mailbag at its channel's head starts the exponent and mask all-reduce. -/
  | phaseOneStart (p ch : Nat)
  /-- PHASE_ONE_SUMMARY_RECEIVE (R360): A phase-one summary postcard arrives and is folded into G and the group mask. -/
  | phaseOneSummaryReceive (p ctx gen src : Nat) (body : List Byte)
  /-- GROUP_FRAME_RECEIVE (R362): A GROUP frame arrives, is checked against residues and EXP, and is added, forwarded or written as a result. -/
  | groupFrameReceive (p ctx gen src : Nat) (body : List Byte)
  /-- GROUP_NAK_RECEIVE (R362): A group NAK arrives and the sender resends the held GROUP frame. -/
  | groupNakReceive (p ctx mailbag group pass dim : Nat)
  /-- MAILBAG_FAILED_RECEIVE (R359): MAILBAG_FAILED arrives and the mailbag ends with REDUCE_FAILED. -/
  | mailbagFailedReceive (p ctx mailbag : Nat)
  /-- EXCHANGE (R367): An EXCHANGE stage starts, sending count postcards and READY for its run. -/
  | exchange (l : LetterId) (stage : Nat)
  /-- COUNT_POSTCARD_RECEIVE (R367): An exchange count postcard arrives, and segment placement follows once all counts are held. -/
  | countPostcardReceive (ctx route xkind run source : Nat) (counts : List (Nat × Nat))
  /-- READY_RECEIVE (R367): An owner's READY arrives and the source sends that owner's data. -/
  | readyReceive (ctx route xkind run owner source : Nat)
  /-- EXCHANGE_FRAME_RECEIVE (R367): An exchange PARCEL frame is written into the inbound list. -/
  | exchangeFrameReceive (body : List Byte)
  /-- MAILBAG_ECC_ERROR (R368): An uncorrectable error in the mailbag store raises MAILBAG_FAULT and halts the engine. -/
  | mailbagEccError (p : Nat) (corrected : Bool)
  /-- RED_CLEAR_COUNTS (R370): Setting RED_CTRL.CLEAR_COUNTS zeroes every RED_SAT and RED_NONFINITE. -/
  | redClearCounts (via : Via) (p : Nat)
  /-- FRAME_RECEIVE (R344): A non-CONTROL courier frame is accepted in LSEQ order, or is discarded with a NAK. -/
  | frameReceive (port : Nat) (frame : RxFrame)
  /-- ACK_RECEIVE (R344): An ACK frees acknowledged frames from the replay buffer. -/
  | ackReceive (port lseq : Nat)
  /-- NAK_RECEIVE (R344): A NAK makes the sender resend from the named frame. -/
  | nakReceive (port lseq : Nat)
  /-- CREDIT_RECEIVE (R345): A CREDIT frame returns buffer credits of a class. -/
  | creditReceive (ctl : CtlFrame) (cls count : Nat)
  /-- KEEPALIVE_RECEIVE (R346): A KEEPALIVE frame is received on an open port. -/
  | keepaliveReceive (ctl : CtlFrame)
  /-- CLOSED_RECEIVE (R465): A CLOSED frame arrives at an opening port and starts a HELLO back-off. -/
  | closedReceive (port : Nat)
  /-- HELLO_RECEIVE (R466): A HELLO is checked under R347, then answered with HELLO_ACK and the port's own HELLO, or treated as a mismatch. -/
  | helloReceive (port m peerPort role : Nat) (digest : List Byte)
  /-- HELLO_ACK_RECEIVE (R348): A HELLO_ACK arrives and the port becomes OPEN. -/
  | helloAckReceive (port : Nat)
  /-- HELLO_BACKOFF_EXPIRE (R465): The back-off wait ends and the port sends HELLO again. -/
  | helloBackoffExpire (port : Nat)
  /-- MISMATCH_RETRY (R348): The 10 ms wait after a mismatch ends and the port sends HELLO again. -/
  | mismatchRetry (port : Nat)
  /-- REPLAY_TIMEOUT (R344): 4 µs pass without acknowledgement progress and the sender resends from the oldest unacknowledged frame. -/
  | replayTimeout (port : Nat)
  /-- KEEPALIVE_TIMER (R346): 5 µs pass with nothing sent and the port sends a KEEPALIVE. -/
  | keepaliveTimer (port : Nat)
  /-- RECEIVE_TIMEOUT (R346): Nothing is received for 50 µs and the port retrains. -/
  | receiveTimeout (port : Nat)
  /-- RETRAIN (R346): Setting CRR_PORT_CTRL.RETRAIN takes an open port to TRAINING. -/
  | retrain (via : Via) (port : Nat)
  /-- PORT_RETRAIN_DONE (R346): Retraining succeeds, the port returns to OPEN and resends unacknowledged frames. -/
  | portRetrainDone (port : Nat)
  /-- PORT_DOWN (R346): A retrain fails within 300 µs, so the port goes DOWN, its frames are rerouted and an incident is raised. -/
  | portDown (port : Nat)
  /-- CABLE_INSERT (R473): A courier cable is inserted and training and opening start. -/
  | cableInsert (port : Nat)
  /-- CABLE_REMOVE (R473): A courier cable is removed, acting on the port as a loss of signal. -/
  | cableRemove (port : Nat)
  /-- PORT_DOWN_RECEIVE (R352): The postmaster records a PORT_DOWN report and declares a member lost when all its facing ports are down. -/
  | portDownReceive (m port : Nat)
  /-- PORT_UP_RECEIVE (R352): The postmaster records a PORT_UP report. -/
  | portUpReceive (m port : Nat)
  /-- JOIN_RECEIVE (R468): The postmaster admits or refuses a JOIN and sends CASCADE_OPEN once every member is admitted. -/
  | joinReceive (m serial : Nat) (digest : List Byte)
  /-- JOIN_RESEND (R468): 1 ms passes without an answer and the member resends JOIN. -/
  | joinResend
  /-- ADMIT_RECEIVE (R468): A member receives ADMIT. -/
  | admitReceive (m : Nat)
  /-- REFUSE_RECEIVE (R468): A REFUSE matching the module's own number and serial sets REFUSED and returns it to JOINING. -/
  | refuseReceive (port m serial cause : Nat)
  /-- CASCADE_OPEN_RECEIVE (R468): CASCADE_OPEN arrives, GATE_CASCADE becomes OPEN and the message is flooded on. -/
  | cascadeOpenReceive (port bitmap : Nat)
  /-- ENGINE_RESET (R396): FLT_ENG_RESET.GO advances the suspects' generations and quiesces the engine. -/
  | engineReset (via : Via) (p node slot : Nat)
  /-- ENGINE_RESET_DONE (R396): Quiesce and reinitialise complete, ENG_RESET_BUSY clears and ENGINE_RESET names the suspects. -/
  | engineResetDone (p : Nat)
  /-- ENGINE_RESET_TIMEOUT (R396): Quiesce is unfinished after 100 µs, so the engine reset is abandoned. -/
  | engineResetTimeout (p : Nat)
  /-- PARTITION_RESET (R397): A partition reset fences the partition, advances generations, halts cores and resets its dies. -/
  | partitionReset (via : Via) (p : Nat) (cause : ResetCause)
  /-- PARTITION_FENCE_LIFTED (R397): Die reset completes, the fence lifts, functions return to their states and NAMED is set. -/
  | partitionFenceLifted (p : Nat) (recovered : List Nat)
  /-- PARTITION_RESET_COMPLETE (R397): The partition's ports reopen, PARTITION_RESET (complete) is raised and PART_RESET_DONE is set. -/
  | partitionResetComplete (p : Nat)
  /-- CONTEXT_RESET (R403): GATE_CTX_RESET.GO advances the context's generation and stops its running letters. -/
  | contextReset (via : Via) (ctx : Nat)
  /-- CONTEXT_RESET_DONE (R403): Every edge has latched and drains have returned, so BUSY clears and CONTEXT_RESET is raised. -/
  | contextResetDone (ctx : Nat)
  /-- GENERATION_ADVANCE (R402): A generation advance that waited for requests with the matching old generation takes effect. -/
  | generationAdvance (ctx : Nat)
  /-- GENERATION_MARKER_ARRIVE (R400): A generation marker reaches a domain edge, which latches the new context table entry. -/
  | generationMarkerArrive (ctx edge : Nat)
  /-- DRAIN_MARKER_RETURN (R404): A teardown drain marker returns, and the context's memory is released once all have returned. -/
  | drainMarkerReturn (ctx : Nat) (path : DrainPath)
  /-- TEARDOWN_BOUND (R405): 200 µs pass with markers outstanding, so teardown releases memory and raises TEARDOWN_BOUND. -/
  | teardownBound (ctx : Nat)
  /-- CHIP_RESET (R399): A write of GATE_RESET with 0x0000_C41F resets every register, restarts the Clerk and returns partitions to the boot table. -/
  | chipReset (via : Via) (value : W32)
  /-- INCIDENT_RING_ENABLE (R411): Setting ENABLE in an incident ring's CFG register enables the ring, or is refused with BADCFG. -/
  | incidentRingEnable (via : Via) (ring : Option Nat) (value : W32)
  /-- POWER_SAMPLE (R421): A 10 µs sample of input power and voltage updates the fast and window power. -/
  | powerSample (watts millivolts : Nat) (parts : List Nat)
  /-- POWER_DECISION (R422): Every 20 µs the Clerk lowers or raises partition voltages and MEM_THROTTLE against the cap. -/
  | powerDecision
  /-- THERMAL_LOOP (R424): Every 100 µs the Clerk applies junction, stack and coolant limits, including stack throttling. -/
  | thermalLoop (dieTemps stackTemps : List Nat) (inlet outlet : Nat)
  /-- ACTIVITY_LOOP (R419): Every 100 µs the Clerk moves partitions idle for 1 ms to N0. -/
  | activityLoop
  /-- IDLE_PARTITION_WAKE (R419): A stage becoming ready in an idle partition returns its supply to the R418 voltage. -/
  | idlePartitionWake (p : Nat)
  /-- CHANNEL_UPKEEP (R417): Every 1 ms the Clerk schedules pseudo-channel retraining for stacks that have drifted 20 °C. -/
  | channelUpkeep
  /-- LINK_UPKEEP (R417): Every 1 ms the Clerk schedules a retrain of ports with excessive FEC errors. -/
  | linkUpkeep
  /-- DEADLINE_STATISTICS (R417): Every 1 ms the Clerk updates CLERK_RT and its sensors from the read-through counts. -/
  | deadlineStatistics
  /-- CLERK_HEARTBEAT (R433): Every 10 µs the Clerk increments CLERK_HEARTBEAT. -/
  | clerkHeartbeat
  /-- THERMAL_TRIP (R425): A die or stack comparator trips, removing the rails, latching THERM_TRIP and going OFF. -/
  | thermalTrip (source temp : Nat)
  /-- PWR_CAP_WRITE (R421): A write of PWR_CAP sets the cap, clamped to 1,000–4,000 W. -/
  | pwrCapWrite (via : Via) (value : W32)
  /-- THERM_CTRL_WRITE (R424): A write of THERM_CTRL sets the junction target, clamped to 70–95 °C. -/
  | thermCtrlWrite (via : Via) (value : W32)
  /-- PWR_REQUEST_ACTIVE (R428): PWR_STATE_REQ GO with TARGET ACTIVE requests a return to ACTIVE. -/
  | pwrRequestActive (via : Via)
  /-- PWR_REQUEST_IDLE (R427): PWR_STATE_REQ GO with TARGET IDLE requests IDLE, refused unless every engine is idle. -/
  | pwrRequestIdle (via : Via)
  /-- PWR_REQUEST_DROWSE (R427): PWR_STATE_REQ GO with TARGET DROWSE requests DROWSE under its entry conditions. -/
  | pwrRequestDrowse (via : Via)
  /-- PWR_REQUEST_OFF (R427): PWR_STATE_REQ GO with TARGET OFF requests OFF. -/
  | pwrRequestOff (via : Via)
  /-- PWR_TRANSITION_DONE (R428): A power-state transition completes and any held request is applied. -/
  | pwrTransitionDone
  /-- CYCLE_REQUEST (R430): A write of 0x0000_C7C1 to CLERK_CYCLE_REQ sends CYCLE_REQUEST to the tray controller. -/
  | cycleRequest (via : Via) (value : W32)
  /-- MCTP_CONTROL_MESSAGE (R429): An MCTP control message over I3C is answered. -/
  | mctpControlMessage (msg : List Byte)
  /-- PLDM_BASE_DISCOVERY (R429): A PLDM Type 0 discovery request is answered. -/
  | pldmBaseDiscovery (msg : List Byte)
  /-- PLDM_SENSOR_READ (R429): A PLDM Type 2 request returns sensor or state readings. -/
  | pldmSensorRead (sensor : Nat)
  /-- PLDM_FIRMWARE_UPDATE (R429): A PLDM Type 5 update writes a new Clerk image through FW_WRITE. -/
  | pldmFirmwareUpdate (image : List Byte)
  /-- GET_VERSION (R449): The SPDM responder answers GET_VERSION with version 1.3. -/
  | getVersion (tr : Transport) (msg : List Byte)
  /-- GET_CAPABILITIES (R449): The SPDM responder returns its capabilities. -/
  | getCapabilities (tr : Transport) (msg : List Byte)
  /-- NEGOTIATE_ALGORITHMS (R450): The responder selects the Falcon-1024 and SHAKE256 extended algorithms, or answers InvalidRequest. -/
  | negotiateAlgorithms (tr : Transport) (msg : List Byte) (extAsym extHash : List (Nat × Nat × Nat))
  /-- GET_DIGESTS (R449): The responder returns the certificate chain digest. -/
  | getDigests (tr : Transport) (msg : List Byte)
  /-- GET_CERTIFICATE (R449): The responder returns the certificate chain of slot 0. -/
  | getCertificate (tr : Transport) (msg : List Byte) (slot offset len : Nat)
  /-- CHALLENGE (R449): The responder signs a challenge, or answers ResponseNotReady while the signing unit is busy. -/
  | challenge (tr : Transport) (msg : List Byte) (slot : Nat)
  /-- GET_MEASUREMENTS (R447): The responder returns a signed snapshot of the measurements. -/
  | getMeasurements (tr : Transport) (msg : List Byte) (index : Nat) (sign : Bool)
  /-- RESPOND_IF_READY (R451): The responder returns a deferred signed response once it is ready. -/
  | respondIfReady (tr : Transport) (msg : List Byte) (ready : Bool)
  /-- SPDM_UNSUPPORTED_REQUEST (R449): Any other SPDM request receives ERROR UnsupportedRequest. -/
  | spdmUnsupportedRequest (tr : Transport) (msg : List Byte)
  /-- ANCHOR_ADD (R445): SEC_OP ANCHOR with an add record fills an anchor slot after verification. -/
  | anchorAdd (via : Via) (record : List Byte)
  /-- ANCHOR_REVOKE (R445): SEC_OP ANCHOR with a revoke record empties a slot and blows its fuse. -/
  | anchorRevoke (via : Via) (record : List Byte)
  /-- FW_WRITE (R442): SEC_OP FW_WRITE verifies a firmware image and writes it to flash. -/
  | fwWrite (via : Via) (image : List Byte)
  /-- SVN_COMMIT (R443): SEC_OP SVN_COMMIT blows fuses to raise FUSED_MIN to the running SVN. -/
  | svnCommit (via : Via)
  /-- STRUCTURE_TABLE_ERROR (R73): An uncorrectable error in a partition's installed structure tables returns that partition to the boot table, so it needs a new load. -/
  | structureTableError (p : Nat)
  /-- CLERK_STOP (R426): The Clerk stops; CLERK_HEARTBEAT stops, supplies hold their last values and the cap, thermal and retraining loops no longer act. -/
  | clerkStop
  /-- HELLO_TIMEOUT (R465): 20 µs pass after a HELLO with no HELLO or HELLO_ACK received, so the port starts its back-off wait b and increases its try count. -/
  | helloTimeout (port : Nat)
  /-- CLOSED_FRAME_TIMER (R348): While no structure is installed, an enabled port sends a CLOSED frame every 1 µs. -/
  | closedFrameTimer (port : Nat)
  /-- MEMBER_LOST_RECEIVE (R352): A member receives the postmaster's flooded MEMBER_LOST postcard and floods it on. -/
  | memberLostReceive (port m : Nat)
  /-- STANDBY_ISLAND_POWER_UP (R474): The input rises to 30 V and the K-die standby island is powered, with THERM_TRIP and TRIP_N and the I3C target answering, whether or not PWR_EN is asserted. -/
  | standbyIslandPowerUp
  /-- DYNAMIC_ADDRESS_ASSIGNMENT (R429): An I3C dynamic address assignment from the tray controller gives the K-die target its dynamic address. -/
  | dynamicAddressAssignment (addr : Nat)
  deriving DecidableEq, Repr

end Sys2Proof
end

