-- ==== Sys2Proof/Decode.lean ====
section
/-! DEFINITION. The table's words: spec/opcode_table.json gives no row of the block any bits (log entry 1). -/

namespace Sys2Proof

/-- The command that a word spells by the table's bits: none, since no row gives bits. -/
def decodeTableWord (_nbits _w : Nat) : Option Instr := none

end Sys2Proof
end

