-- ==== Sys2Proof/Machine/Float.lean ====
section
/-! DEFINITION. Exact binary arithmetic with one rounding (R199, R200, R213, R227): every floating-point
value is decoded to an exact integer times a power of two, computed with exactly, and rounded once. -/

namespace Sys2Proof.Machine

/-- A decoded floating-point value: `fin neg m e` is (-1)^neg * m * 2^e. -/
inductive FV where
  | nan
  | inf (neg : Bool)
  | fin (neg : Bool) (m : Nat) (e : Int)
  deriving DecidableEq, Repr

/-- A binary format by its exponent and mantissa widths and its bias (R199). -/
structure FpFmt where
  ebits : Nat
  mbits : Nat
  bias : Int
  deriving DecidableEq, Repr

def fp4 : FpFmt := ⟨2, 1, 1⟩
def fp8e4 : FpFmt := ⟨4, 3, 7⟩
def fp8e5 : FpFmt := ⟨5, 2, 15⟩
def bf16 : FpFmt := ⟨8, 7, 127⟩
def fp32 : FpFmt := ⟨8, 23, 127⟩
def fp64 : FpFmt := ⟨11, 52, 1023⟩
/-- The UE5M3 stamp of R203: no sign, every code finite. -/
def ue5m3 : FpFmt := ⟨5, 3, 15⟩

/-- The exponent of the last bit of a subnormal: 1 - bias - mbits. -/
def FpFmt.lsb (f : FpFmt) : Int := 1 - f.bias - f.mbits

/-- The finite value of a magnitude code (exponent and mantissa field together), R200. -/
def finMag (f : FpFmt) (c : Nat) : Nat × Int :=
  let e := c / 2 ^ f.mbits
  let m := c % 2 ^ f.mbits
  if e = 0 then (m, f.lsb) else (2 ^ f.mbits + m, f.lsb + (e - 1 : Nat))

/-- Decode a code whose all-ones exponent means Inf or NaN (FP8E5, BF16, FP32, FP64; R200). -/
def decodeIeee (f : FpFmt) (c : Nat) : FV :=
  let mag := c % 2 ^ (f.ebits + f.mbits)
  let neg := (c / 2 ^ (f.ebits + f.mbits)) % 2 = 1
  let infMag := (2 ^ f.ebits - 1) * 2 ^ f.mbits
  if mag = infMag then .inf neg else if infMag < mag then .nan
  else let (m, e) := finMag f mag; .fin neg m e

/-- floor(log2(n / d)) for positive n and d. -/
def ilog2 (n d : Nat) : Int :=
  let k : Int := (Nat.log2 n : Int) - (Nat.log2 d : Int)
  let le : Bool := if 0 ≤ k then d * 2 ^ k.toNat ≤ n else d ≤ n * 2 ^ (-k).toNat
  if le then k else k - 1

/-- n / d * 2^e as a quotient, a remainder and a divisor in units of 2^x. -/
def quoAt (n d : Nat) (e x : Int) : Nat × Nat × Nat :=
  let num := if x ≤ e then n * 2 ^ (e - x).toNat else n
  let den := if x ≤ e then d else d * 2 ^ (x - e).toNat
  (num / den, num % den, den)

/-- The unit in which a value of a format is rounded. -/
def unitExp (f : FpFmt) (n d : Nat) (e : Int) : Int :=
  max (ilog2 n d + e - f.mbits) f.lsb

/-- The magnitude code of q * 2^x. -/
def magCode (f : FpFmt) (q : Nat) (x : Int) : Nat := (x - f.lsb).toNat * 2 ^ f.mbits + q

/-- Round the positive quotient n / d * 2^e to the nearest magnitude code, ties to even (R213). -/
def rneMag (f : FpFmt) (n d : Nat) (e : Int) : Nat :=
  if n = 0 then 0 else
  let x := unitExp f n d e
  let (q, r, den) := quoAt n d e x
  magCode f (if den < 2 * r ∨ (2 * r = den ∧ q % 2 = 1) then q + 1 else q) x

/-- The magnitude code at or below n / d * 2^e, and floor(2^24 * the fraction above it). -/
def floorMag (f : FpFmt) (n d : Nat) (e : Int) : Nat × Nat × Bool :=
  if n = 0 then (0, 0, true) else
  let x := unitExp f n d e
  let (q, r, den) := quoAt n d e x
  (magCode f q x, r * 2 ^ 24 / den, r = 0)

/-- The smallest magnitude code at or above n / d * 2^e. -/
def ceilMag (f : FpFmt) (n d : Nat) (e : Int) : Nat :=
  let (c, _, ex) := floorMag f n d e
  if ex then c else c + 1

/-- Stochastic rounding of R213 on magnitudes: draw u of 24 bits, for the given sign. For a negative value the
lower neighbour is the one of larger magnitude. -/
def stochMag (f : FpFmt) (neg : Bool) (n d : Nat) (e : Int) (u : Nat) : Nat :=
  if n = 0 then 0 else
  let x := unitExp f n d e
  let (q, r, den) := quoAt n d e x
  if r = 0 then magCode f q x else
  let t := if neg then (den - r) * 2 ^ 24 / den else r * 2 ^ 24 / den
  let up := if neg then ¬ (u < t) else u < t
  magCode f (if up then q + 1 else q) x

/-- Encode a rounded value in an IEEE-like format: overflow gives Inf, NaN is canonical (quiet, payload zero). -/
def encodeIeee (f : FpFmt) : FV → Nat
  | .nan => (2 ^ f.ebits - 1) * 2 ^ f.mbits + 2 ^ (f.mbits - 1)
  | .inf neg => (if neg then 2 ^ (f.ebits + f.mbits) else 0) + (2 ^ f.ebits - 1) * 2 ^ f.mbits
  | .fin neg m e =>
    let c := min (rneMag f m 1 e) ((2 ^ f.ebits - 1) * 2 ^ f.mbits)
    (if neg then 2 ^ (f.ebits + f.mbits) else 0) + c

def f32 (w : W32) : FV := decodeIeee fp32 w.toNat
def toF32 (v : FV) : W32 := BitVec.ofNat 32 (encodeIeee fp32 v)
def f64 (w : W64) : FV := decodeIeee fp64 w.toNat
def toF64 (v : FV) : W64 := BitVec.ofNat 64 (encodeIeee fp64 v)

/-- The canonical NaN of R227. -/
def nan32 : W32 := 0x7FC00000#32

/-- Signed mantissa of a finite value in units of 2^x, for x at most its exponent. -/
def signedAt (neg : Bool) (m : Nat) (e x : Int) : Int :=
  let k : Int := (m * 2 ^ (e - x).toNat : Nat)
  if neg then -k else k

/-- Exact addition; an exact zero of two values is +0 unless both are -0 (round to nearest). -/
def FV.add : FV → FV → FV
  | .nan, _ => .nan
  | _, .nan => .nan
  | .inf a, .inf b => if a = b then .inf a else .nan
  | .inf a, _ => .inf a
  | _, .inf b => .inf b
  | .fin a m e, .fin b n g =>
    let x := min e g
    let s := signedAt a m e x + signedAt b n g x
    if s = 0 then .fin (if m = 0 ∧ n = 0 then a && b else false) 0 x
    else .fin (s < 0) s.natAbs x

/-- Exact product. -/
def FV.mul : FV → FV → FV
  | .nan, _ => .nan
  | _, .nan => .nan
  | .inf a, .inf b => .inf (a != b)
  | .inf a, .fin b n _ => if n = 0 then .nan else .inf (a != b)
  | .fin a m _, .inf b => if m = 0 then .nan else .inf (a != b)
  | .fin a m e, .fin b n g => .fin (a != b) (m * n) (e + g)

def FV.neg : FV → FV
  | .nan => .nan
  | .inf a => .inf (!a)
  | .fin a m e => .fin (!a) m e

def FV.isFin : FV → Bool
  | .fin _ _ _ => true
  | _ => false

def FV.isZero : FV → Bool
  | .fin _ m _ => m = 0
  | _ => false

/-- a < b for values that are not NaN; false when either is NaN. -/
def FV.lt : FV → FV → Bool
  | .nan, _ => false
  | _, .nan => false
  | .inf a, .inf b => a && !b
  | .inf a, .fin _ _ _ => a
  | .fin _ _ _, .inf b => !b
  | .fin a m e, .fin b n g => let x := min e g; signedAt a m e x < signedAt b n g x

/-- a = b in value (-0 equals +0); false when either is NaN. -/
def FV.eqv (a b : FV) : Bool :=
  match a, b with
  | .nan, _ => false
  | _, .nan => false
  | _, _ => !(a.lt b) && !(b.lt a)

def fadd (a b : W32) : W32 := toF32 ((f32 a).add (f32 b))
def fneg (a : W32) : W32 := a ^^^ 0x80000000#32
def fsub (a b : W32) : W32 := toF32 ((f32 a).add (f32 b).neg)
def fmul (a b : W32) : W32 := toF32 ((f32 a).mul (f32 b))
/-- One rounding of a * b + c. -/
def fma (a b c : W32) : W32 := toF32 (((f32 a).mul (f32 b)).add (f32 c))
def dadd (a b : W64) : W64 := toF64 ((f64 a).add (f64 b))
/-- The exact square of an FP32 value, as FP64 (R320: 24 + 24 bits fit). -/
def dsquare (a : W32) : W64 := toF64 ((f32 a).mul (f32 a))

/-- IEEE binary32 division, correctly rounded (R499, R322). -/
def FV.divTo (f : FpFmt) (a b : FV) : Nat :=
  match a, b with
  | .nan, _ => encodeIeee f .nan
  | _, .nan => encodeIeee f .nan
  | .inf _, .inf _ => encodeIeee f .nan
  | .inf s, .fin t _ _ => encodeIeee f (.inf (s != t))
  | .fin s _ _, .inf t => encodeIeee f (.fin (s != t) 0 0)
  | .fin s m e, .fin t n g =>
    if n = 0 then (if m = 0 then encodeIeee f .nan else encodeIeee f (.inf (s != t)))
    else
      let c := min (rneMag f m n (e - g)) ((2 ^ f.ebits - 1) * 2 ^ f.mbits)
      (if s != t then 2 ^ (f.ebits + f.mbits) else 0) + c

def fdiv (a b : W32) : W32 := BitVec.ofNat 32 ((f32 a).divTo fp32 (f32 b))

/-- FP32 of a natural number (exact up to 2^24). -/
def f32OfNat (n : Nat) : W32 := toF32 (.fin false n 0)

/-- The integer square root of n, one bit at a time below 2^k. -/
def isqrtFrom (n : Nat) : Nat → Nat → Nat
  | 0, r => r
  | k + 1, r => let r' := r + 2 ^ k; isqrtFrom n k (if r' * r' ≤ n then r' else r)

def isqrt (n : Nat) : Nat := isqrtFrom n (Nat.log2 n / 2 + 1) 0

/-- Square root of m * 2^e rounded once to nearest even: the integer root keeps a sticky bit. -/
def sqrtTo (f : FpFmt) : FV → Nat
  | .nan => encodeIeee f .nan
  | .inf neg => if neg then encodeIeee f .nan else encodeIeee f (.inf false)
  | .fin neg m e =>
    if m = 0 then encodeIeee f (.fin neg 0 0)
    else if neg then encodeIeee f .nan
    else
      let k : Nat := 2 * (f.mbits + 4) + (if (e % 2) = 0 then 0 else 1)
      let n := m * 2 ^ k
      let r := isqrt n
      let sticky := if r * r = n then 0 else 1
      encodeIeee f (.fin false (2 * r + sticky) ((e - k) / 2 - 1))

/-- √S in FP64, rounded once (R320). -/
def dsqrt (a : W64) : W64 := BitVec.ofNat 64 (sqrtTo fp64 (f64 a))

/-- Neither infinite nor NaN. -/
def finite32 (w : W32) : Bool := (f32 w).isFin
def finite64 (w : W64) : Bool := (f64 w).isFin

end Sys2Proof.Machine
end

