-- ==== Sys2Proof/Machine/Bytes.lean ====
section
/-! DEFINITION. Byte order, bit fields and record fields: everything is little-endian (R4). -/

namespace Sys2Proof.Machine

/-- The number that bytes spell, lowest-addressed byte first (R4). -/
def leNat : List Byte → Nat
  | [] => 0
  | b :: bs => b.toNat + 256 * leNat bs

/-- A number as k bytes, lowest-addressed byte first (R4). -/
def natLe : Nat → Nat → List Byte
  | 0, _ => []
  | k + 1, n => BitVec.ofNat 8 n :: natLe k (n / 256)

/-- `len` bytes from offset `off` of a record; bytes beyond its end read as zero. -/
def slice (bs : List Byte) (off len : Nat) : List Byte :=
  let t := (bs.drop off).take len
  t ++ List.replicate (len - t.length) 0#8

/-- The little-endian number in `len` bytes at `off`. -/
def field (bs : List Byte) (off len : Nat) : Nat := leNat (slice bs off len)

/-- Bits [hi:lo] of a number. -/
def bitsN (n hi lo : Nat) : Nat := n / 2 ^ lo % 2 ^ (hi + 1 - lo)

/-- Bit i of a number. -/
def bitN (n i : Nat) : Bool := n.testBit i

/-- All bytes of a range are zero. -/
def zeroRange (bs : List Byte) (off len : Nat) : Bool := (slice bs off len).all (· = 0#8)

/-- Replace the bytes of a record from offset `off`; the record keeps its length. -/
def patch (bs : List Byte) (off : Nat) (new : List Byte) : List Byte :=
  (bs.take off ++ new ++ bs.drop (off + new.length)).take bs.length

/-- Round a down to a multiple of k. -/
def alignDown (a k : Nat) : Nat := a / k * k

/-- Ceiling division. -/
def ceilDiv (a k : Nat) : Nat := (a + k - 1) / k

/-- Saturating increment of a counter of w bits. -/
def satAdd (w : Nat) (a k : Nat) : Nat := min (a + k) (2 ^ w - 1)

/-- Field [hi:lo] of a register value. -/
def fget (v : W64) (hi lo : Nat) : Nat := bitsN v.toNat hi lo

/-- The mask of bits [hi:lo]. -/
def fmask (hi lo : Nat) : W64 := BitVec.ofNat 64 ((2 ^ (hi + 1 - lo) - 1) * 2 ^ lo)

/-- Set field [hi:lo] of a register value. -/
def fset (v : W64) (hi lo n : Nat) : W64 :=
  (v &&& ~~~ fmask hi lo) ||| (BitVec.ofNat 64 (n % 2 ^ (hi + 1 - lo) * 2 ^ lo))

/-- Set or clear one bit of a register value. -/
def bset (v : W64) (i : Nat) (b : Bool) : W64 := fset v i i (if b then 1 else 0)

end Sys2Proof.Machine
end

