-- ==== Sys2Proof/Machine/Hash.lean ====
section
/-! DEFINITION. The check values and generators the spec names: CRC-16 of R113, CRC-32C of R343, SHAKE256 with a
512-bit output (R48, R59, R61, R447), Falcon-1024 verification (R61) and Philox4x32-10 (R214). The last three are published
standards that the spec names without giving their steps: PRESUMED (log entry 3). -/

namespace Sys2Proof.Machine

/-- One bit of the CRC of R113: polynomial 0x1021, not reflected. -/
def crc16Bit (c : BitVec 16) : BitVec 16 := if c.msb then (c <<< 1) ^^^ 0x1021#16 else c <<< 1

def crc16Byte (c : BitVec 16) (b : Byte) : BitVec 16 :=
  let c := c ^^^ (b.zeroExtend 16 <<< 8)
  crc16Bit (crc16Bit (crc16Bit (crc16Bit (crc16Bit (crc16Bit (crc16Bit (crc16Bit c)))))))

/-- CHECK of R113: initial value 0xFFFF, no final xor. -/
def crc16 (bs : List Byte) : BitVec 16 := bs.foldl crc16Byte 0xFFFF#16

/-- One bit of the reflected CRC-32C of R343. -/
def crc32cBit (c : W32) : W32 := if c.getLsbD 0 then (c >>> 1) ^^^ 0x82F63B78#32 else c >>> 1

def crc32cByte (c : W32) (b : Byte) : W32 :=
  let c := c ^^^ b.zeroExtend 32
  crc32cBit (crc32cBit (crc32cBit (crc32cBit (crc32cBit (crc32cBit (crc32cBit (crc32cBit c)))))))

/-- CRC-32C (polynomial 0x1EDC6F41, reflected, initial value and final xor all ones), R343. -/
def crc32c (bs : List Byte) : W32 := (bs.foldl crc32cByte 0xFFFFFFFF#32) ^^^ 0xFFFFFFFF#32

/-- Rotation offsets of Keccak, lane x + 5y. -/
def keccakRot : List Nat :=
  [0, 1, 62, 28, 27, 36, 44, 6, 55, 20, 3, 10, 43, 25, 39, 41, 45, 15, 21, 8, 18, 2, 61, 56, 14]

/-- Round constants of Keccak-f[1600]. -/
def keccakRc : List W64 :=
  [0x0000000000000001#64, 0x0000000000008082#64, 0x800000000000808A#64, 0x8000000080008000#64,
   0x000000000000808B#64, 0x0000000080000001#64, 0x8000000080008081#64, 0x8000000000008009#64] ++
  [0x000000000000008A#64, 0x0000000000000088#64, 0x0000000080008009#64, 0x000000008000000A#64,
   0x000000008000808B#64, 0x800000000000008B#64, 0x8000000000008089#64, 0x8000000000008003#64] ++
  [0x8000000000008002#64, 0x8000000000000080#64, 0x000000000000800A#64, 0x800000008000000A#64,
   0x8000000080008081#64, 0x8000000000008080#64, 0x0000000080000001#64, 0x8000000080008008#64]

def lane (a : List W64) (i : Nat) : W64 := a.getD i 0#64

/-- One round: theta, rho, pi, chi, iota. -/
def keccakRound (a : List W64) (rc : W64) : List W64 :=
  let c := (List.range 5).map fun x =>
    lane a x ^^^ lane a (x + 5) ^^^ lane a (x + 10) ^^^ lane a (x + 15) ^^^ lane a (x + 20)
  let d := (List.range 5).map fun x => lane c ((x + 4) % 5) ^^^ (lane c ((x + 1) % 5)).rotateLeft 1
  let r := (List.range 25).map fun i => (lane a i ^^^ lane d (i % 5)).rotateLeft (keccakRot.getD i 0)
  -- pi moves lane (x, y) to (y, 2x + 3y)
  let b := (List.range 25).map fun i =>
    let x := i % 5; let y := i / 5
    lane r ((x + 3 * y) % 5 + 5 * x)
  let e := (List.range 25).map fun i =>
    let x := i % 5; let y := i / 5
    lane b i ^^^ (~~~ lane b ((x + 1) % 5 + 5 * y) &&& lane b ((x + 2) % 5 + 5 * y))
  e.set 0 (lane e 0 ^^^ rc)

def keccakF (a : List W64) : List W64 := keccakRc.foldl keccakRound a

/-- Absorb one 136-byte block. -/
def absorb (a : List W64) (blk : List Byte) : List W64 :=
  keccakF ((List.range 25).map fun i =>
    if i < 17 then lane a i ^^^ BitVec.ofNat 64 (field blk (8 * i) 8) else lane a i)

/-- Absorb `k` whole blocks of a padded message. -/
def absorbAll : Nat → List W64 → List Byte → List W64
  | 0, a, _ => a
  | k + 1, a, m => absorbAll k (absorb a (m.take 136)) (m.drop 136)

/-- The state of SHAKE256 after a message. -/
def shakeState (m : List Byte) : List W64 :=
  let n := m.length
  let padLen := 136 - n % 136
  let pad := if padLen = 1 then [0x9F#8] else [0x1F#8] ++ List.replicate (padLen - 2) 0#8 ++ [0x80#8]
  absorbAll ((n + padLen) / 136) (List.replicate 25 0#64) (m ++ pad)

/-- SHAKE256 with a 64-byte output. -/
def shake256 (m : List Byte) : List Byte :=
  let a := shakeState m
  (List.range 8).flatMap fun i => natLe 8 (lane a i).toNat

/-- `k` blocks of SHAKE256 output. -/
def squeeze : Nat → List W64 → List Byte
  | 0, _ => []
  | k + 1, a => ((List.range 17).flatMap fun i => natLe 8 (lane a i).toNat) ++ squeeze k (keccakF a)

/-! ### Falcon-1024 verification (R61, R438, R442, R445), as its publication defines it (PRESUMED, log entry 3) -/

/-- Falcon's modulus. -/
def falconQ : Nat := 12289

/-- A byte's bits, the most significant first. -/
def byteBits (b : Byte) : List Bool := (List.range 8).map fun i => b.getMsbD i
def bitsNat (bs : List Bool) : Nat := bs.foldl (fun n b => 2 * n + if b then 1 else 0) 0

/-- A point of the ring: 1,024 residues from big-endian 16-bit samples, those of 61,445 and above left out. -/
def hashToPoint (m : List Byte) : List Int :=
  let bs := squeeze 64 (shakeState m)
  ((((List.range (bs.length / 2)).map fun i => field bs (2 * i) 1 * 256 + field bs (2 * i + 1) 1).filter (· < 61445)).take 1024).map
    fun v => (v % falconQ : Nat)

/-- Coefficients of a compressed polynomial: sign, seven low bits, and the rest in unary; minus zero is none. -/
def falconCoefs : Nat → List Bool → Option (List Int × List Bool)
  | 0, bs => some ([], bs)
  | k + 1, bs =>
    let high := (bs.drop 8).takeWhile (!·)
    let rest := bs.drop (9 + high.length)
    let v := bitsNat ((bs.drop 1).take 7) + 128 * high.length
    if bs.length < 9 + high.length ∨ 2047 < v ∨ (bs.headD false = true ∧ v = 0) then none
    else (falconCoefs k rest).map fun r => ((if bs.headD false then -(v : Int) else v) :: r.1, r.2)

/-- The second half of a signature; what is left over is less than a byte of zeros. -/
def falconDecode (bs : List Byte) : Option (List Int) :=
  match falconCoefs 1024 (bs.flatMap byteBits) with
  | some (c, rest) => if rest.length < 8 ∧ rest.all (!·) then some c else none
  | none => none

/-- A public key: 1,024 residues of 14 bits. -/
def falconKey (key : List Byte) : Option (List Int) :=
  if key.length ≠ 1793 ∨ field key 0 1 ≠ 0x0A then none else
  let bits := (key.drop 1).flatMap byteBits
  let h := (List.range 1024).map fun i => bitsNat ((bits.drop (14 * i)).take 14)
  if h.all (· < falconQ) then some (h.map fun (v : Nat) => (v : Int)) else none

/-- The product of two polynomials modulo x^1024 + 1. -/
def negacyclic (a b : List Int) : List Int :=
  (a.foldl (fun (e : List Int × List Int) c =>
    (List.zipWith (fun x y => x + c * y) e.1 e.2, -(e.2.getLastD 0) :: e.2.dropLast)) (List.replicate 1024 0, b)).1

/-- A residue nearest to zero. -/
def centred (v : Int) : Int :=
  let r := v % falconQ
  if r ≤ falconQ / 2 then r else r - falconQ

/-- Verification: the signature is a header byte, a nonce of 40 bytes and the compressed second half; the pair is short. -/
def falconVerify (key msg sig : List Byte) : Bool :=
  match falconKey key, falconDecode (sig.drop 41) with
  | some h, some s2 =>
    let s1 := (List.zipWith (· - ·) (hashToPoint (slice sig 1 40 ++ msg)) (negacyclic s2 h)).map centred
    41 < sig.length && field sig 0 1 = 0x3A && ((s1 ++ s2).map fun v => v * v).sum ≤ 70265242
  | _, _ => false

/-- One round of Philox4x32. -/
def philoxRound (k0 k1 c0 c1 c2 c3 : Nat) : Nat × Nat × Nat × Nat :=
  let p0 := 0xD2511F53 * c0
  let p1 := 0xCD9E8D57 * c2
  ((p1 / 2 ^ 32) ^^^ c1 ^^^ k0, p1 % 2 ^ 32, (p0 / 2 ^ 32) ^^^ c3 ^^^ k1, p0 % 2 ^ 32)

def philoxRounds : Nat → Nat → Nat → Nat × Nat × Nat × Nat → Nat × Nat × Nat × Nat
  | 0, _, _, c => c
  | n + 1, k0, k1, (c0, c1, c2, c3) =>
    philoxRounds n ((k0 + 0x9E3779B9) % 2 ^ 32) ((k1 + 0xBB67AE85) % 2 ^ 32) (philoxRound k0 k1 c0 c1 c2 c3)

/-- The 24-bit draw of R214 for element e of object o with purpose p under a 64-bit key. -/
def draw (key e o p : Nat) : Nat :=
  let c := (e / 4 % 2 ^ 32, e / 4 / 2 ^ 32 % 2 ^ 32, o % 2 ^ 24 + (p % 256) * 2 ^ 24, 0)
  let (w0, w1, w2, w3) := philoxRounds 10 (key % 2 ^ 32) (key / 2 ^ 32 % 2 ^ 32) c
  (if e % 4 = 0 then w0 else if e % 4 = 1 then w1 else if e % 4 = 2 then w2 else w3) / 256

end Sys2Proof.Machine
end

