-- ==== Sys2Proof/Machine/Formats.lean ====
section
/-! DEFINITION. Element formats, stamps, franks, side records and every conversion (R138-R140, R168, R199-R219). -/

namespace Sys2Proof.Machine

/-- The element formats of R140, by code. -/
inductive EFmt where
  | fp4 | fp8e4 | fp8e5 | int4 | int8 | int4w | int8w | bf16 | fp32
  deriving DecidableEq, Repr

/-- R140: codes 0x01-0x09; any other code is reserved. -/
def EFmt.ofCode : Nat → Option EFmt
  | 1 => some .fp4 | 2 => some .fp8e4 | 3 => some .fp8e5 | 4 => some .int4 | 5 => some .int8
  | 6 => some .int4w | 7 => some .int8w | 8 => some .bf16 | 9 => some .fp32 | _ => none

def EFmt.code : EFmt → Nat
  | .fp4 => 1 | .fp8e4 => 2 | .fp8e5 => 3 | .int4 => 4 | .int8 => 5 | .int4w => 6 | .int8w => 7
  | .bf16 => 8 | .fp32 => 9

/-- Bits per element (R199). -/
def EFmt.bits : EFmt → Nat
  | .fp4 | .int4 | .int4w => 4
  | .fp8e4 | .fp8e5 | .int8 | .int8w => 8
  | .bf16 => 16
  | .fp32 => 32

/-- Elements in a 4,096-byte payload (R140). -/
def EFmt.perParcel (f : EFmt) : Nat := 32768 / f.bits

/-- Elements of a lane in a parcel of 128 lanes (R168, R170). -/
def EFmt.width (f : EFmt) : Nat := f.perParcel / 128

/-- Formats with stamps and a frank (R203, R210). -/
def EFmt.narrow : EFmt → Bool
  | .bf16 | .fp32 => false
  | _ => true

/-- Formats with a zero point (R201). -/
def EFmt.hasZp : EFmt → Bool
  | .int4 | .int8 => true
  | _ => false

def EFmt.isInt : EFmt → Bool
  | .int4 | .int8 | .int4w | .int8w => true
  | _ => false

/-- Qmax of R208, Qr of R209. -/
def EFmt.qmax : EFmt → Nat
  | .fp4 => 6 | .fp8e4 => 448 | .fp8e5 => 57344 | .int4 => 15 | .int8 => 255 | .int4w => 7 | .int8w => 127
  | .bf16 | .fp32 => 1

/-- The value of an element code, without scales; INT4 and INT8 give the code itself (R200, R201, R216). -/
def EFmt.raw (f : EFmt) (c : Nat) : FV :=
  match f with
  | .fp4 => let (m, e) := finMag Machine.fp4 (c % 8); .fin (c / 8 % 2 = 1) m e
  | .fp8e4 => if c % 128 = 127 then .nan else
      let (m, e) := finMag Machine.fp8e4 (c % 128); .fin (c / 128 % 2 = 1) m e
  | .fp8e5 => decodeIeee Machine.fp8e5 (c % 256)
  | .int4 => .fin false (c % 16) 0
  | .int8 => .fin false (c % 256) 0
  | .int4w => let c := c % 16; if c < 8 then .fin false c 0 else .fin true (16 - c) 0
  | .int8w => let c := c % 256; if c < 128 then .fin false c 0 else .fin true (256 - c) 0
  | .bf16 => decodeIeee Machine.bf16 (c % 65536)
  | .fp32 => decodeIeee Machine.fp32 (c % 2 ^ 32)

/-- The code of element i of a payload; element 2j lies in bits [3:0] of byte j for 4-bit formats (R140). -/
def EFmt.elemCode (f : EFmt) (payload : List Byte) (i : Nat) : Nat :=
  if f.bits = 4 then bitsN (field payload (i / 2) 1) (4 * (i % 2) + 3) (4 * (i % 2))
  else field payload (i * (f.bits / 8)) (f.bits / 8)

/-- The value of a stamp (R203). -/
def stampVal (c : Nat) : Nat × Int := finMag ue5m3 (c % 256)

/-- The value of a positive normal BF16 frank (R204). -/
def frankVal (c : Nat) : Nat × Int := finMag Machine.bf16 (c % 32768)

/-- A reader accepts any positive normal BF16 frank (R204). -/
def frankOk (c : Nat) : Bool := c < 0x7F80 ∧ 0x80 ≤ c

/-- The largest finite FP32 value. -/
def maxF32 : W32 := 0x7F7FFFFF#32

/-- The decoded FP32 value of R205 from an unscaled value, a stamp and a frank; true when it saturated. -/
def scaleTo32 (v : FV) (s fr : Nat × Int) : W32 × Bool :=
  let w := toF32 (v.mul (.fin false (s.1 * fr.1) (s.2 + fr.2)))
  if v.isFin ∧ w.toNat % 2 ^ 31 = 0x7F800000 then
    (if w.toNat / 2 ^ 31 = 1 then 0xFF7FFFFF#32 else maxF32, true)
  else (w, false)

/-! ### Side records (R139) -/

/-- The fields of a side record. -/
structure Side where
  format : Nat
  sflags : Nat
  frank : Nat
  zp : Nat
  elements : Nat
  obj : Nat
  parcel : Nat
  amax : W32
  stamps : List Byte
  deriving DecidableEq, Repr

def Side.ofBytes (b : List Byte) : Side :=
  { format := field b 0 1, sflags := field b 1 1, frank := field b 2 2, zp := field b 4 1,
    elements := field b 6 2, obj := bitsN (field b 8 4) 23 0, parcel := field b 0xC 4,
    amax := BitVec.ofNat 32 (field b 0x10 4), stamps := slice b 0x40 256 }

/-- The 512 bytes of a side record; reserved bytes are zero (R6). -/
def Side.toBytes (s : Side) : List Byte :=
  natLe 1 s.format ++ natLe 1 s.sflags ++ natLe 2 s.frank ++ natLe 1 s.zp ++ natLe 1 0 ++ natLe 2 s.elements ++
  natLe 4 s.obj ++ natLe 4 s.parcel ++ natLe 4 s.amax.toNat ++ List.replicate 44 0#8 ++
  slice s.stamps 0 256 ++ List.replicate 192 0#8

def Side.stamped (s : Side) : Bool := bitN s.sflags 0
def Side.zpSet (s : Side) : Bool := bitN s.sflags 1

/-- The checks that every reader of a parcel makes: format, identity (R140), R201, R202 and R204. -/
def Side.ok (s : Side) (obj parcel : Nat) : Option EFmt :=
  match EFmt.ofCode s.format with
  | none => none
  | some f =>
    if s.obj = obj ∧ s.parcel = parcel ∧ s.zpSet = f.hasZp ∧ (f = .int4 → s.zp ≤ 15) ∧ frankOk s.frank ∧
       (f.narrow = false → s.stamped = false ∧ s.frank = 0x3F80)
    then some f else none

/-- The side record has a format, and is that of the parcel addressed (R140). -/
def Side.named (s : Side) (obj parcel : Nat) : Bool := (EFmt.ofCode s.format).isSome && s.obj = obj && s.parcel = parcel

/-- The stamp of block b; a narrow parcel without stamps has factor 1 (R202). -/
def Side.stamp (s : Side) (b : Nat) : Nat × Int :=
  if s.stamped then stampVal (field s.stamps b 1) else (1, 0)

/-- The decoded FP32 value of element i of a parcel (R205); elements beyond ELEMENTS read +0 (R169). -/
def decodeElem (f : EFmt) (s : Side) (payload : List Byte) (i : Nat) : W32 × Bool :=
  if s.elements ≤ i then (0#32, false) else
  let c := f.elemCode payload i
  match f with
  | .fp32 => (BitVec.ofNat 32 c, false)
  | .bf16 => (BitVec.ofNat 32 (c * 65536), false)
  | .int4 | .int8 =>
    let k : Int := (c : Int) - s.zp
    scaleTo32 (.fin (k < 0) k.natAbs 0) (s.stamp (i / 32)) (frankVal s.frank)
  | _ => scaleTo32 (f.raw c) (s.stamp (i / 32)) (frankVal s.frank)

/-! ### Classes (R206) -/

/-- Stochastic classes: ACT_GRAD, GRADIENT, MOMENT. -/
def classStoch (c : Nat) : Bool := c = 2 ∨ c = 3 ∨ c = 4

/-- The permitted targets of each class. -/
def classTargets : Nat → List EFmt
  | 0 => [.fp4, .fp8e4, .int4, .int8, .bf16, .fp32]
  | 1 => [.fp4, .fp8e4, .int4w, .int8w, .bf16, .fp32]
  | 2 => [.fp8e5, .bf16, .fp32]
  | 3 => [.bf16, .fp32]
  | 4 => [.fp8e4, .int8w, .bf16, .fp32]
  | _ => []

/-- PURPOSE must match CLASS (R220). -/
def purposeOk (cls pur : Nat) : Bool :=
  match cls with
  | 2 => pur = 1
  | 3 => pur = 2
  | 4 => pur = 3 ∨ pur = 4
  | _ => pur = 0

/-! ### Choosing scales (R207-R210) -/

/-- The larger of two magnitudes m * 2^e. -/
def magMax (a b : Nat × Int) : Nat × Int :=
  let x := min a.2 b.2
  if a.1 * 2 ^ (a.2 - x).toNat < b.1 * 2 ^ (b.2 - x).toNat then b else a

/-- amax of R207: the largest finite magnitude, 0 when there is none. -/
def amaxOf (vs : List FV) : Nat × Int :=
  vs.foldl (fun a v => match v with | .fin _ m e => magMax a (m, e) | _ => a) (0, 0)

/-- ceiling(log2(m * 2^e / q)) for positive m. -/
def ceilLog2 (m : Nat) (e : Int) (q : Nat) : Int :=
  let k := ilog2 m q
  let exact : Bool := if 0 ≤ k then q * 2 ^ k.toNat = m else q = m * 2 ^ (-k).toNat
  e + (if exact then k else k + 1)

/-- Clamp a frank exponent to -126 .. 127 (R208). -/
def clampF (f : Int) : Int := min (max f (-126)) 127

/-- The frank exponent of R208 for an amax and a Qmax. -/
def frankExp (a : Nat × Int) (q : Nat) : Int := if a.1 = 0 then 0 else clampF (ceilLog2 a.1 a.2 q)

/-- The BF16 code of 2^F. -/
def frankCode (f : Int) : Nat := ((f + 127).toNat) * 128

/-- The smallest stamp at or above n / d * 2^e, at most 0xFF (R208). -/
def stampFor (n d : Nat) (e : Int) : Nat := if n = 0 then 0x78 else min (ceilMag ue5m3 n d e) 0xFF

/-- A chosen set of scales for one destination parcel. -/
structure Scales where
  frankE : Int
  stamps : List Nat
  zp : Nat
  deriving DecidableEq, Repr

/-- R208 for the floating-point targets and the weight formats. -/
def scales208 (q : Nat) (blocks : List (List FV)) : Scales :=
  let a := amaxOf (blocks.map fun b => let (m, e) := amaxOf b; .fin false m e)
  let f := frankExp a q
  { frankE := f, zp := 0,
    stamps := blocks.map fun b => let (m, e) := amaxOf b; stampFor m q (e - f) }

/-- The larger of 0 and the largest finite element, as a magnitude (R209). -/
def mxOf (vs : List FV) : Nat × Int :=
  vs.foldl (fun a v => match v with | .fin false m e => magMax a (m, e) | _ => a) (0, 0)
/-- The magnitude of the smaller of 0 and the smallest finite element (R209). -/
def mnOf (vs : List FV) : Nat × Int :=
  vs.foldl (fun a v => match v with | .fin true m e => magMax a (m, e) | _ => a) (0, 0)

/-- Round n / d to the nearest integer, ties to even. -/
def rneNat (n d : Nat) : Nat :=
  let q := n / d; let r := n % d
  if d < 2 * r ∨ (2 * r = d ∧ q % 2 = 1) then q + 1 else q

/-- The larger of two magnitudes each divided by its divisor: a fraction n / d * 2^e. -/
def fracMax (a b : Nat × Nat × Int) : Nat × Nat × Int :=
  let x := min a.2.2 b.2.2
  if a.1 * b.2.1 * 2 ^ (a.2.2 - x).toNat < b.1 * a.2.1 * 2 ^ (b.2.2 - x).toNat then b else a

/-- R209 for the INT4 and INT8 targets. -/
def scales209 (qr : Nat) (blocks : List (List FV)) : Scales :=
  let all := blocks.flatten
  let mx := mxOf all
  let mn := mnOf all
  let x := min mx.2 mn.2
  let mxi := mx.1 * 2 ^ (mx.2 - x).toNat
  let mni := mn.1 * 2 ^ (mn.2 - x).toNat
  let z := if mxi + mni = 0 then 0 else min (rneNat (qr * mni) (mxi + mni)) qr
  let rOf := fun (b : List FV) =>
    let r0 : Nat × Nat × Int := (0, 1, 0)
    let r1 := if z < qr then fracMax r0 ((mxOf b).1, qr - z, (mxOf b).2) else r0
    if 0 < z then fracMax r1 ((mnOf b).1, z, (mnOf b).2) else r1
  let rs := blocks.map rOf
  let r := rs.foldl fracMax (0, 1, 0)
  let f := if r.1 = 0 then 0 else clampF (ceilLog2 r.1 r.2.2 r.2.1)
  { frankE := f, zp := z, stamps := rs.map fun t => stampFor t.1 t.2.1 (t.2.2 - f) }

/-- The scales of a destination parcel (R208-R210). -/
def chooseScales (f : EFmt) (blocks : List (List FV)) : Scales :=
  if f.hasZp then scales209 f.qmax blocks
  else if f.narrow then scales208 f.qmax blocks
  else { frankE := 0, stamps := [], zp := 0 }

/-! ### Conversion and rounding (R212-R219) -/

/-- How a class rounds: to nearest even, or with a 24-bit draw. -/
inductive Rnd where
  | rne
  | stoch (u : Nat)
  deriving DecidableEq, Repr

/-- Round a positive quotient n / d * 2^e to an integer. -/
def roundInt (neg : Bool) (n d : Nat) (e : Int) : Rnd → Nat
  | .rne => let (q, r, den) := quoAt n d e 0; rneNat (q * den + r) den
  | .stoch u =>
    let (q, r, den) := quoAt n d e 0
    if r = 0 then q else
    let t := if neg then (den - r) * 2 ^ 24 / den else r * 2 ^ 24 / den
    let up := if neg then ¬ (u < t) else u < t
    if up then q + 1 else q

/-- Round to the magnitude codes of a floating-point format. -/
def roundMag (f : FpFmt) (neg : Bool) (n d : Nat) (e : Int) : Rnd → Nat
  | .rne => rneMag f n d e
  | .stoch u => stochMag f neg n d e u

/-- n / d * 2^e > k * 2^g. -/
def fracGt (n d : Nat) (e : Int) (k : Nat) (g : Int) : Bool :=
  let x := min e g
  d * k * 2 ^ (g - x).toNat < n * 2 ^ (e - x).toNat

/-- A converted element: its code, whether it saturated, whether its source was NaN or Inf. -/
structure Conv where
  code : Nat
  sat : Bool
  nonfin : Bool
  deriving DecidableEq, Repr

/-- The floating-point parameters and the largest finite magnitude code of a target. -/
def EFmt.fp : EFmt → FpFmt × Nat
  | .fp4 => (Machine.fp4, 7)
  | .fp8e4 => (Machine.fp8e4, 0x7E)
  | .fp8e5 => (Machine.fp8e5, 0x7B)
  | .bf16 => (Machine.bf16, 0x7F7F)
  | _ => (Machine.fp32, 0x7F7FFFFF)

/-- Give a magnitude code its sign. -/
def signCode (f : EFmt) (neg : Bool) (c : Nat) : Nat := if neg then 2 ^ (f.bits - 1) + c else c

/-- Two's-complement code of a weight integer. -/
def weightCode (f : EFmt) (neg : Bool) (q : Nat) : Nat := if neg ∧ q ≠ 0 then 2 ^ f.bits - q else q

/-- Convert one value x to a target with scale s = sm * 2^se and zero point z (R212, R213, R217, R218). -/
def convert (f : EFmt) (s : Nat × Int) (z : Nat) (rnd : Rnd) (x : FV) : Conv :=
  match f with
  | .int4 | .int8 =>
    match x with
    | .nan => ⟨z, false, true⟩
    | .inf neg => ⟨if neg then 0 else f.qmax, true, true⟩
    | .fin neg m e =>
      -- y + z as a fraction over s.1 at exponent min(e - s.2, 0)
      let x0 := min (e - s.2) 0
      let ym : Int := (m * 2 ^ (e - s.2 - x0).toNat : Nat)
      let zm : Int := (z * s.1 * 2 ^ (-x0).toNat : Nat)
      let t := (if neg then -ym else ym) + zm
      if t < 0 then ⟨0, true, false⟩
      else if fracGt t.toNat s.1 x0 f.qmax 0 then ⟨f.qmax, true, false⟩
      else ⟨roundInt false t.toNat s.1 x0 rnd, false, false⟩
  | .int4w | .int8w =>
    match x with
    | .nan => ⟨0, false, true⟩
    | .inf neg => ⟨weightCode f neg f.qmax, true, true⟩
    | .fin neg m e =>
      if fracGt m s.1 (e - s.2) f.qmax 0 then ⟨weightCode f neg f.qmax, true, false⟩
      else ⟨weightCode f neg (roundInt neg m s.1 (e - s.2) rnd), false, false⟩
  | _ =>
    let (ff, maxc) := f.fp
    match x with
    | .nan => ⟨match f with | .fp4 => 0x8 | .fp8e4 => 0x7F | .fp8e5 => 0x7E | .bf16 => 0x7FC0 | _ => 0x7FC00000,
               false, true⟩
    | .inf neg =>
      match f with
      | .fp4 | .fp8e4 => ⟨signCode f neg maxc, true, true⟩
      | _ => ⟨signCode f neg (maxc + 1), false, true⟩
    | .fin neg m e =>
      let (mm, me) := finMag ff maxc
      if fracGt m s.1 (e - s.2) mm me then ⟨signCode f neg maxc, true, false⟩
      else ⟨signCode f neg (roundMag ff neg m s.1 (e - s.2) rnd), false, false⟩

/-- Pack 4-bit codes, the first in bits [3:0] of its byte (R140). -/
def packNibbles : List Nat → List Byte
  | [] => []
  | [c] => [BitVec.ofNat 8 (c % 16)]
  | c :: d :: ds => BitVec.ofNat 8 (c % 16 + 16 * (d % 16)) :: packNibbles ds

/-- Pack element codes into payload bytes (R140). -/
def packCodes (f : EFmt) (cs : List Nat) : List Byte :=
  if f.bits = 4 then packNibbles cs else cs.flatMap (natLe (f.bits / 8))

/-- Split a list into blocks of 32. -/
def blocks32 {α : Type} : Nat → List α → List (List α)
  | 0, _ => []
  | k + 1, l => l.take 32 :: blocks32 k (l.drop 32)

/-- One source value of a destination parcel: its FP32 bits, and whether it is a valid element (R169). -/
structure SrcElem where
  bits : W32
  valid : Bool
  deriving DecidableEq, Repr

/-- What a converter is told: target, class, draw key and purpose, destination object and parcel, and whether
non-finite sources are counted here (R219). -/
structure ConvSpec where
  fmt : EFmt
  cls : Nat
  purpose : Nat
  key : Nat
  obj : Nat
  parcel : Nat
  count : Bool
  deriving DecidableEq, Repr

/-- A converted parcel: payload, side record, saturations and non-finite source elements. -/
structure ParcelOut where
  payload : List Byte
  side : Side
  sat : Nat
  nonfin : Nat
  deriving DecidableEq, Repr

/-- The rounding of element i of a parcel (R206, R213, R214). -/
def ConvSpec.rnd (c : ConvSpec) (i : Nat) : Rnd :=
  if classStoch c.cls then .stoch (draw c.key (c.parcel * c.fmt.perParcel + i) c.obj c.purpose) else .rne

/-- Convert the elements of one block, from element index i on. -/
def convBlock (c : ConvSpec) (s : Nat × Int) (z : Nat) : Nat → List SrcElem → List Conv
  | _, [] => []
  | i, x :: xs =>
    (if x.valid then
       (if c.fmt = .fp32 then ⟨x.bits.toNat, false, !finite32 x.bits⟩
        else convert c.fmt s z (c.rnd i) (f32 x.bits))
     else ⟨if c.fmt.hasZp then z else 0, false, false⟩) :: convBlock c s z (i + 1) xs

/-- Convert blocks with their stamps. -/
def convBlocks (c : ConvSpec) (sc : Scales) : Nat → List (List SrcElem) → List Conv
  | _, [] => []
  | b, blk :: bs =>
    let fr : Nat × Int := (1, sc.frankE)
    let st := if c.fmt.narrow then stampVal (sc.stamps.getD b 0x78) else (1, 0)
    convBlock c (st.1 * fr.1, st.2 + fr.2) sc.zp (32 * b) blk ++ convBlocks c sc (b + 1) bs

/-- Convert one destination parcel with given scales: R212-R219 and the side record of R221. `elements` is the
number of valid lanes times the width. -/
def convertWith (c : ConvSpec) (sc : Scales) (elements : Nat) (src : List SrcElem) : ParcelOut :=
  let cv := convBlocks c sc 0 (blocks32 (ceilDiv src.length 32) src)
  let payload := slice (packCodes c.fmt (cv.map (·.code))) 0 4096
  let lastBlk := ceilDiv elements 32
  let stamps := if c.fmt.narrow then
      (List.range 256).map fun b => if b < lastBlk then BitVec.ofNat 8 (sc.stamps.getD b 0) else 0#8
    else List.replicate 256 0#8
  let srcNonfin := (src.filter fun x => x.valid && !finite32 x.bits).length
  let side0 : Side :=
    { format := c.fmt.code,
      sflags := (if c.fmt.narrow then 1 else 0) + (if c.fmt.hasZp then 2 else 0) + (if srcNonfin = 0 then 0 else 4),
      frank := if c.fmt.narrow then frankCode sc.frankE else 0x3F80,
      zp := if c.fmt.hasZp then sc.zp else 0, elements := elements, obj := c.obj, parcel := c.parcel,
      amax := 0#32, stamps := stamps }
  let dec := (List.range elements).map fun i => f32 (decodeElem c.fmt side0 payload i).1
  let (am, ae) := amaxOf dec
  { payload := payload, side := { side0 with amax := toF32 (.fin false am ae) },
    sat := (cv.filter (·.sat)).length,
    nonfin := if c.count ∧ c.fmt ≠ .fp32 then srcNonfin else 0 }

/-- The valid decoded values of a block, for the amax pass. -/
def validVals (b : List SrcElem) : List FV := (b.filter (·.valid)).map fun x => f32 x.bits

/-- The amax pass and the conversion pass over one destination parcel (R207-R213, R222). -/
def convertParcel (c : ConvSpec) (elements : Nat) (src : List SrcElem) : ParcelOut :=
  convertWith c (chooseScales c.fmt ((blocks32 (ceilDiv src.length 32) src).map validVals)) elements src

end Sys2Proof.Machine
end

