-- ==== Sys2Proof/Config.lean ====
section
/-! DEFINITION. What an implementation or a part fixes, and the values that the spec leaves open. A constant without
a body is free: no proof can see what it is. -/

namespace Sys2Proof.Config

/-- A byte that the spec calls undefined: drawn for the counter value at which it became so, and its address. -/
opaque freeByte : Nat → Nat → Byte

/-- Whether a cached translation is used although the page tables may have changed (R101: engines may cache). -/
opaque useCached : Nat → Bool

/-- The free word of an answer whose value the spec leaves open, drawn for a counter value. -/
opaque freeWord : Nat → W64

/-- The doublewords left free before each capability in configuration space (R372 fixes no offset): at most 8 before a standard
one, 15 before an extended one. -/
opaque capGap : Nat → Nat

/-- The configuration words that the spec does not give: the interrupt line, bytes outside every capability. They do not
change. -/
opaque cfgWord : (off : Nat) → W32

/-- The key pairs of the 100 dies, numbered as SRC_DIE (R436): the public key, and the signing unit, which alone reads the private
one; the nonce of a Falcon-1024 signature is drawn for a counter value. -/
opaque dieKey : (die : Nat) → List Byte
opaque falconSign : (die : Nat) → Nat → (msg : List Byte) → List Byte

/-- The fuse record of a die (R438). -/
opaque fuseRecord : (die : Nat) → List Byte

/-- How a write of the module flash ends, drawn for a counter value (R454): well, or with a flash that cannot be erased (true:
it holds what it held) or written (false: it holds no image). -/
opaque flashWrite : Nat → Option Bool

/-- Whether the signature in progress has ended, drawn for a counter value (R451: within 4 ms). -/
opaque signed : Nat → Bool

/-- The module's serial number (R371, R467). -/
opaque serial : Nat

/-- The firmware verification key in the boot ROMs and Garzal's structure-signing key of slot 0 (R438, R444). -/
opaque firmwareKey : List Byte
opaque garzalKey : List Byte

/-- The digest of the boot ROMs of the K-die and the G-die (R440). -/
opaque romDigest : List Byte

/-- The certificates of R437 in DER: Garzal's root, Wairix's product, and the module's over the serial number in its subject, its
public key and its critical extension. -/
opaque rootCert : List Byte
opaque productCert : List Byte
opaque moduleCert : (serial : Nat) → (key extension : List Byte) → List Byte

/-- Whether a cached row has been replaced by the time of a lookup (R288 gives no geometry and no hit rate). -/
opaque rowReplaced : Nat → Bool

/-- The sorting office that carries a partial norm from one partition's C-tile to another's (R366 names none). -/
opaque normOffice : (src tgt : Nat) → Nat

/-- The ring position at which a group's sum is complete in a dimension (R358 leaves it open): dimension, group. -/
opaque ringHome : Nat → Nat → Nat

/-- Which of the free entries of an object directory a LODGE takes (the spec gives no order). -/
opaque freeSlot : Nat → Nat

/-- Whether CBO.INVAL writes a modified line back first (RISC-V allows both; the spec names Zicbom only). -/
opaque cboInvalFlushes : Bool

/-- The directory set that a line maps to (R385 gives 16 ways and no index function). -/
opaque dirSet : Nat → Nat

/-- The cause that CYCLE_REQUEST carries to the tray controller (R430 gives it no coding). -/
opaque cycleCause : Nat → Nat

/-- The supply in mV at which a partition of this part meets a point's target rate, and the rate in M/s that it reaches at
a supply, at a junction temperature (R79: parts and partitions differ). -/
opaque trimVolt (p point temp : Nat) : Nat
opaque partRate (p mv temp : Nat) : Nat

end Sys2Proof.Config
end

