-- ==== Sys2Proof/Machine/Map.lean ====
section
/-! DEFINITION. Association lists: the plain-data form of every table of the block. -/

namespace Sys2Proof.Machine

/-- A table from keys to values; the first pair of a key counts. -/
abbrev Map (κ α : Type) := List (κ × α)

/-- The value of a key, if the table holds one. -/
def mapGet? {κ α : Type} [DecidableEq κ] : Map κ α → κ → Option α
  | [], _ => none
  | (k', v) :: l, k => if k' = k then some v else mapGet? l k

/-- The value of a key, or a default. -/
def mapGet {κ α : Type} [DecidableEq κ] (m : Map κ α) (k : κ) (d : α) : α := (mapGet? m k).getD d

/-- Remove a key. -/
def mapErase {κ α : Type} [DecidableEq κ] : Map κ α → κ → Map κ α
  | [], _ => []
  | (k', v) :: l, k => if k' = k then mapErase l k else (k', v) :: mapErase l k

/-- Give a key a value. -/
def mapSet {κ α : Type} [DecidableEq κ] : Map κ α → κ → α → Map κ α
  | [], k, v => [(k, v)]
  | (k', v') :: l, k, v => if k' = k then (k, v) :: l else (k', v') :: mapSet l k v

end Sys2Proof.Machine
end

