-- ==== Sys2Proof/Machine/Regs.lean ====
section
/-! DEFINITION. The register map (R488-R497): every register of the module, its MMIO offset, width, write masks by
access type (R7) and reset value. Written from the register tables of spec/. -/

namespace Sys2Proof.Machine

/-- Every register the spec names. `n` is a mailbox (0-255) or a courier port (0-15), `p` a partition, `t` a tile,
`i` the index of the register's own table. -/
inductive Reg where
  /-- GATE_APERTURE_BASE, R40. -/
  | gateApertureBase
  /-- GATE_MMIO_WINDOW, R40. -/
  | gateMmioWindow
  /-- STRUCT_CTRL, R76. -/
  | structCtrl
  /-- STRUCT_SRC_ADDR, R76. -/
  | structSrcAddr
  /-- STRUCT_SRC_LEN, R76. -/
  | structSrcLen
  /-- STRUCT_MODULE_NUMBER, R76. -/
  | structModuleNumber
  /-- STRUCT_STATUS, R76. -/
  | structStatus
  /-- STRUCT_CAUSE, R76. -/
  | structCause
  /-- STRUCT_VERSION, R76. -/
  | structVersion
  /-- STRUCT_PART_STATE, R76. -/
  | structPartState
  /-- STRUCT_IMAGE_ID, R76. -/
  | structImageId (i : Nat)
  /-- STRUCT_CASCADE_DIGEST, R76. -/
  | structCascadeDigest (i : Nat)
  /-- GATE_EPOCH, R90. -/
  | gateEpoch
  /-- GATE_CTX, R102. -/
  | gateCtx (i : Nat)
  /-- MBX_DOORBELL, R130. -/
  | mbxDoorbell (n : Nat)
  /-- MBX_BASE, R130. -/
  | mbxBase (n : Nat)
  /-- MBX_CFG, R130. -/
  | mbxCfg (n : Nat)
  /-- MBX_CTRL, R130. -/
  | mbxCtrl (n : Nat)
  /-- MBX_HEAD, R130. -/
  | mbxHead (n : Nat)
  /-- MBX_TAIL, R130. -/
  | mbxTail (n : Nat)
  /-- MBX_SEQ, R130. -/
  | mbxSeq (n : Nat)
  /-- MBX_STATUS, R130. -/
  | mbxStatus (n : Nat)
  /-- MBX_NOTIFY, R130. -/
  | mbxNotify (n : Nat)
  /-- MEM_STATUS, R162. -/
  | memStatus (p : Nat)
  /-- MEM_SEG_ISET, R162. -/
  | memSegIset (p : Nat)
  /-- MEM_SEG_USED, R162. -/
  | memSegUsed (p : Nat)
  /-- MEM_THROTTLE, R162. -/
  | memThrottle (p : Nat)
  /-- MEM_STACK_TEMP, R162. -/
  | memStackTemp (p i : Nat)
  /-- MEM_CHAN_LOST, R162. -/
  | memChanLost (p i : Nat)
  /-- MEM_ECC_CORR, R162. -/
  | memEccCorr (p i : Nat)
  /-- MEM_RETRAIN, R162. -/
  | memRetrain (p i : Nat)
  /-- HALL_OBJ_STATUS, R163. -/
  | hallObjStatus (p : Nat)
  /-- HALL_OBJ_CAPACITY, R163. -/
  | hallObjCapacity (p : Nat)
  /-- HALL_RT_CTRL, R163. -/
  | hallRtCtrl (p : Nat)
  /-- HALL_RT_OTHER, R163. -/
  | hallRtOther (p : Nat)
  /-- HALL_RT, R163. -/
  | hallRt (p i : Nat)
  /-- ARR_CTRL, R198. -/
  | arrCtrl (p t i : Nat)
  /-- ARR_STATUS, R198. -/
  | arrStatus (p t i : Nat)
  /-- ARR_PARK, R198. -/
  | arrPark (p t i : Nat)
  /-- ARR_PARK_POS, R198. -/
  | arrParkPos (p t i : Nat)
  /-- ARR_PROGRESS, R198. -/
  | arrProgress (p t i : Nat)
  /-- ARR_RECOMPUTE, R198. -/
  | arrRecompute (p t i : Nat)
  /-- ARR_PREEMPTS, R198. -/
  | arrPreempts (p t i : Nat)
  /-- ARR_SPARE, R198. -/
  | arrSpare (p t i : Nat)
  /-- FRK_CTRL, R225. -/
  | frkCtrl (p t : Nat)
  /-- FRK_STATUS, R225. -/
  | frkStatus (p t : Nat)
  /-- FRK_PROGRESS, R225. -/
  | frkProgress (p t : Nat)
  /-- FRK_ECC_CORR, R225. -/
  | frkEccCorr (p t : Nat)
  /-- FRK_SAT, R225. -/
  | frkSat (p t i : Nat)
  /-- FRK_NONFINITE, R225. -/
  | frkNonfinite (p t i : Nat)
  /-- VEC_CTRL, R243. -/
  | vecCtrl (p t : Nat)
  /-- VEC_STATUS, R243. -/
  | vecStatus (p t : Nat)
  /-- VEC_PROGRESS, R243. -/
  | vecProgress (p t : Nat)
  /-- VEC_CARD_CAUSE, R243. -/
  | vecCardCause (p t : Nat)
  /-- VEC_ECC_CORR, R243. -/
  | vecEccCorr (p t : Nat)
  /-- VEC_SAT, R243. -/
  | vecSat (p t i : Nat)
  /-- VEC_NONFINITE, R243. -/
  | vecNonfinite (p t i : Nat)
  /-- ATT_CTRL, R271. -/
  | attCtrl (p t : Nat)
  /-- ATT_STATUS, R271. -/
  | attStatus (p t : Nat)
  /-- ATT_PROGRESS, R271. -/
  | attProgress (p t : Nat)
  /-- ATT_ECC_CORR, R271. -/
  | attEccCorr (p t : Nat)
  /-- ATT_SAT, R271. -/
  | attSat (p t i : Nat)
  /-- ATT_NONFINITE, R271. -/
  | attNonfinite (p t i : Nat)
  /-- HALL_HIST_POOL, R272. -/
  | hallHistPool (p i : Nat)
  /-- EMB_CTRL, R302. -/
  | embCtrl (p t : Nat)
  /-- EMB_STATUS, R302. -/
  | embStatus (p t : Nat)
  /-- EMB_SORT_PROGRESS, R302. -/
  | embSortProgress (p t : Nat)
  /-- EMB_GATHER_PROGRESS, R302. -/
  | embGatherProgress (p t : Nat)
  /-- EMB_UPDATE_PROGRESS, R302. -/
  | embUpdateProgress (p t : Nat)
  /-- EMB_CACHE_HITS, R302. -/
  | embCacheHits (p t : Nat)
  /-- EMB_CACHE_MISSES, R302. -/
  | embCacheMisses (p t : Nat)
  /-- EMB_GRANULE_READS, R302. -/
  | embGranuleReads (p t : Nat)
  /-- EMB_ROW_READS, R302. -/
  | embRowReads (p t : Nat)
  /-- EMB_STAMP_READS, R302. -/
  | embStampReads (p t : Nat)
  /-- EMB_ROLLBACKS, R302. -/
  | embRollbacks (p t : Nat)
  /-- EMB_ECC_CORR, R302. -/
  | embEccCorr (p t : Nat)
  /-- EMB_SAT, R302. -/
  | embSat (p t i : Nat)
  /-- EMB_NONFINITE, R302. -/
  | embNonfinite (p t i : Nat)
  /-- EMB_JOURNAL, R302. -/
  | embJournal (p t i : Nat)
  /-- GATE_STEP, R338. -/
  | gateStep (i : Nat)
  /-- GATE_STEP_OPEN, R338. -/
  | gateStepOpen (i : Nat)
  /-- GATE_STEP_COMMITTED, R338. -/
  | gateStepCommitted (i : Nat)
  /-- GATE_NORM, R338. -/
  | gateNorm (i : Nat)
  /-- HALL_STASH_OVF, R339. -/
  | hallStashOvf (p : Nat)
  /-- HALL_STASH_STATUS, R339. -/
  | hallStashStatus (p : Nat)
  /-- HALL_STASH_DROPS, R339. -/
  | hallStashDrops (p i : Nat)
  /-- CRR_PORT_CTRL, R369. -/
  | crrPortCtrl (n : Nat)
  /-- CRR_PORT_STATUS, R369. -/
  | crrPortStatus (n : Nat)
  /-- CRR_PORT_ROLE, R369. -/
  | crrPortRole (n : Nat)
  /-- CRR_PORT_RETRY, R369. -/
  | crrPortRetry (n : Nat)
  /-- CRR_PORT_FEC_CORR, R369. -/
  | crrPortFecCorr (n : Nat)
  /-- CRR_PORT_FEC_UNCORR, R369. -/
  | crrPortFecUncorr (n : Nat)
  /-- CRR_PORT_RETRAIN, R369. -/
  | crrPortRetrain (n : Nat)
  /-- RED_CTRL, R370. -/
  | redCtrl (p : Nat)
  /-- RED_STATUS, R370. -/
  | redStatus (p : Nat)
  /-- RED_PROGRESS, R370. -/
  | redProgress (p : Nat)
  /-- RED_UPD_PROGRESS, R370. -/
  | redUpdProgress (p : Nat)
  /-- RED_RESIDUE_ERR, R370. -/
  | redResidueErr (p : Nat)
  /-- RED_REPLAYS, R370. -/
  | redReplays (p : Nat)
  /-- RED_STALE, R370. -/
  | redStale (p : Nat)
  /-- RED_ECC_CORR, R370. -/
  | redEccCorr (p : Nat)
  /-- RED_CHAN, R370. -/
  | redChan (p i : Nat)
  /-- RED_SAT, R370. -/
  | redSat (p i : Nat)
  /-- RED_NONFINITE, R370. -/
  | redNonfinite (p i : Nat)
  /-- PART_BOOT_ADDR, R381. -/
  | partBootAddr (p : Nat)
  /-- PART_CORE_CTRL, R381. -/
  | partCoreCtrl (p i : Nat)
  /-- PART_CORE_STATUS, R381. -/
  | partCoreStatus (p i : Nat)
  /-- COH_STATUS, R390. -/
  | cohStatus (p : Nat)
  /-- COH_AGENTS, R390. -/
  | cohAgents (p : Nat)
  /-- COH_DIR_ECC_CORR, R390. -/
  | cohDirEccCorr (p : Nat)
  /-- COH_DOWNS, R390. -/
  | cohDowns (p : Nat)
  /-- COH_BACK_INVAL, R390. -/
  | cohBackInval (p : Nat)
  /-- COH_HOLD_DEFERS, R390. -/
  | cohHoldDefers (p : Nat)
  /-- FLT_CTRL, R415. -/
  | fltCtrl (p : Nat)
  /-- FLT_STATUS, R415. -/
  | fltStatus (p : Nat)
  /-- FLT_ENG_RESET, R415. -/
  | fltEngReset (p : Nat)
  /-- FLT_SOLO, R415. -/
  | fltSolo (p : Nat)
  /-- FLT_HOLD, R415. -/
  | fltHold (p : Nat)
  /-- FLT_HEARTBEAT, R415. -/
  | fltHeartbeat (p : Nat)
  /-- FLT_RESETS, R415. -/
  | fltResets (p : Nat)
  /-- FLT_RING_BASE, R415. -/
  | fltRingBase (p : Nat)
  /-- FLT_RING_NOTIFY, R415. -/
  | fltRingNotify (p : Nat)
  /-- FLT_RING_CFG, R415. -/
  | fltRingCfg (p : Nat)
  /-- FLT_RING_HEAD, R415. -/
  | fltRingHead (p : Nat)
  /-- FLT_RING_TAIL, R415. -/
  | fltRingTail (p : Nat)
  /-- FLT_RING_LOST, R415. -/
  | fltRingLost (p : Nat)
  /-- FLT_DEAD, R415. -/
  | fltDead (p i : Nat)
  /-- FLT_FN_ENGINE, R415. -/
  | fltFnEngine (p i : Nat)
  /-- FLT_WAIT, R415. -/
  | fltWait (p i : Nat)
  /-- GATE_CTX_RESET, R416. -/
  | gateCtxReset
  /-- GATE_RESET, R416. -/
  | gateReset
  /-- GATE_INC_RING_BASE, R416. -/
  | gateIncRingBase
  /-- GATE_INC_RING_NOTIFY, R416. -/
  | gateIncRingNotify
  /-- GATE_INC_RING_CFG, R416. -/
  | gateIncRingCfg
  /-- GATE_INC_RING_HEAD, R416. -/
  | gateIncRingHead
  /-- GATE_INC_RING_TAIL, R416. -/
  | gateIncRingTail
  /-- GATE_INC_LOST, R416. -/
  | gateIncLost
  /-- GATE_DEAD, R416. -/
  | gateDead (i : Nat)
  /-- CLERK_HEARTBEAT, R433. -/
  | clerkHeartbeat
  /-- CLERK_FW_VERSION, R433. -/
  | clerkFwVersion
  /-- CLERK_CYCLE_REQ, R433. -/
  | clerkCycleReq
  /-- CLERK_RT, R433. -/
  | clerkRt (i : Nat)
  /-- PWR_CAP, R434. -/
  | pwrCap
  /-- PWR_INPUT, R434. -/
  | pwrInput
  /-- PWR_PEAK, R434. -/
  | pwrPeak
  /-- PWR_STATE, R434. -/
  | pwrState
  /-- PWR_STATE_REQ, R434. -/
  | pwrStateReq
  /-- PWR_PART_CTRL, R434. -/
  | pwrPartCtrl (i : Nat)
  /-- PWR_PART_STATUS, R434. -/
  | pwrPartStatus (i : Nat)
  /-- PWR_PART_POWER, R434. -/
  | pwrPartPower (i : Nat)
  /-- THERM_DIE, R435. -/
  | thermDie (i : Nat)
  /-- THERM_LIMITS, R435. -/
  | thermLimits
  /-- THERM_CTRL, R435. -/
  | thermCtrl
  /-- THERM_TRIP, R435. -/
  | thermTrip
  /-- THERM_COOLANT, R435. -/
  | thermCoolant
  /-- SEC_STATUS, R453. -/
  | secStatus
  /-- SEC_MEAS, R453. -/
  | secMeas (n w : Nat)
  /-- SEC_MEAS_COUNT, R453. -/
  | secMeasCount (i : Nat)
  /-- SEC_DIE_AUTH, R453. -/
  | secDieAuth (i : Nat)
  /-- SEC_SVN, R453. -/
  | secSvn
  /-- SEC_ANCHOR_STATE, R453. -/
  | secAnchorState
  /-- SEC_OP_SRC, R453. -/
  | secOpSrc
  /-- SEC_OP_LEN, R453. -/
  | secOpLen
  /-- SEC_OP_CTRL, R453. -/
  | secOpCtrl
  /-- SEC_OP_STATUS, R453. -/
  | secOpStatus
  /-- GATE_BOOT, R471. -/
  | gateBoot
  /-- GATE_CASCADE, R471. -/
  | gateCascade
  /-- GATE_MEMBERS, R471. -/
  | gateMembers (i : Nat)
  /-- SORT_STATUS, R495. -/
  | sortStatus (i : Nat)
  /-- SORT_DOWN_ANSWERS, R495. -/
  | sortDownAnswers (i : Nat)
  /-- SORT_ECC_CORR, R495. -/
  | sortEccCorr (i : Nat)
  /-- SORT_PORT_BYTES, R495. -/
  | sortPortBytes (i : Nat)
  /-- MSI-X table, dword i, R373. -/
  | msixEntry (i : Nat)
  /-- MSI-X PBA, qword i, R373. -/
  | msixPba (i : Nat)
  deriving DecidableEq, Repr

/-- A register's MMIO offset (from 0x3F00_0000_0000), width in bytes, RW, W1C and W1S masks, and reset value. -/
structure RegInfo where
  offset : Nat
  width : Nat
  rw : Nat
  w1c : Nat
  w1s : Nat
  reset : Nat
  deriving DecidableEq, Repr

/-- The register tables of the chapters, and R492-R497. -/
def Reg.info : Reg → RegInfo
  | .gateApertureBase => ⟨0x100, 4, 0xfff, 0x0, 0x0, 0x0⟩
  | .gateMmioWindow => ⟨0x108, 4, 0xff800000, 0x0, 0x0, 0x10000000⟩
  | .structCtrl => ⟨0x1000, 4, 0xf, 0x0, 0x30, 0x0⟩
  | .structSrcAddr => ⟨0x1008, 8, 0xffffffffffffffff, 0x0, 0x0, 0x0⟩
  | .structSrcLen => ⟨0x1010, 4, 0xffffffff, 0x0, 0x0, 0x0⟩
  | .structModuleNumber => ⟨0x1018, 4, 0xff, 0x0, 0x0, 0x0⟩
  | .structStatus => ⟨0x1020, 4, 0x0, 0x700, 0x0, 0x0⟩
  | .structCause => ⟨0x1028, 4, 0x0, 0x0, 0x0, 0x0⟩
  | .structVersion => ⟨0x1030, 4, 0x0, 0x0, 0x0, 0x201⟩
  | .structPartState => ⟨0x1034, 4, 0x0, 0x0, 0x0, 0x0⟩
  | .structImageId i => ⟨0x1040 + 4 * i, 4, 0x0, 0x0, 0x0, 0x0⟩
  | .structCascadeDigest i => ⟨0x1080 + 4 * i, 4, 0x0, 0x0, 0x0, 0x0⟩
  | .gateEpoch => ⟨0x110, 4, 0xffffff, 0x0, 0x0, 0x0⟩
  | .gateCtx i => ⟨0x2000 + 4 * i, 4, 0x0, 0x0, 0x0, 0x0⟩
  | .mbxDoorbell n => ⟨0x10000000 + 0x1000000 * (n / 64) + 0x100000 + 4096 * (n % 64), 8, 0x0, 0x0, 0x0, 0x0⟩
  | .mbxBase n => ⟨0x10000000 + 0x1000000 * (n / 64) + 0x140000 + 64 * (n % 64), 8, 0xffffffffffffffff, 0x0, 0x0, 0x0⟩
  | .mbxCfg n => ⟨0x10000000 + 0x1000000 * (n / 64) + 0x140008 + 64 * (n % 64), 4, 0x7ff0fff, 0x0, 0x0, 0x4⟩
  | .mbxCtrl n => ⟨0x10000000 + 0x1000000 * (n / 64) + 0x14000c + 64 * (n % 64), 4, 0x1, 0x0, 0x2, 0x0⟩
  | .mbxHead n => ⟨0x10000000 + 0x1000000 * (n / 64) + 0x140010 + 64 * (n % 64), 4, 0xffff, 0x0, 0x0, 0x0⟩
  | .mbxTail n => ⟨0x10000000 + 0x1000000 * (n / 64) + 0x140014 + 64 * (n % 64), 4, 0x0, 0x0, 0x0, 0x0⟩
  | .mbxSeq n => ⟨0x10000000 + 0x1000000 * (n / 64) + 0x140018 + 64 * (n % 64), 4, 0xffffffff, 0x0, 0x0, 0x0⟩
  | .mbxStatus n => ⟨0x10000000 + 0x1000000 * (n / 64) + 0x14001c + 64 * (n % 64), 4, 0x0, 0xf00, 0x0, 0x0⟩
  | .mbxNotify n => ⟨0x10000000 + 0x1000000 * (n / 64) + 0x140020 + 64 * (n % 64), 8, 0xffffffffffffffff, 0x0, 0x0, 0x0⟩
  | .memStatus p => ⟨0x10000000 + 0x1000000 * p + 0x200000, 4, 0x0, 0x0, 0x0, 0x0⟩
  | .memSegIset p => ⟨0x10000000 + 0x1000000 * p + 0x200004, 4, 0xffff, 0x0, 0x0, 0xffff⟩
  | .memSegUsed p => ⟨0x10000000 + 0x1000000 * p + 0x200008, 4, 0x0, 0x0, 0x0, 0x0⟩
  | .memThrottle p => ⟨0x10000000 + 0x1000000 * p + 0x20000c, 4, 0x0, 0x0, 0x0, 0x8⟩
  | .memStackTemp p i => ⟨0x10000000 + 0x1000000 * p + 0x200100 + 32 * i, 4, 0x0, 0x0, 0x0, 0x0⟩
  | .memChanLost p i => ⟨0x10000000 + 0x1000000 * p + 0x200104 + 32 * i, 4, 0x0, 0x0, 0x0, 0x0⟩
  | .memEccCorr p i => ⟨0x10000000 + 0x1000000 * p + 0x200108 + 32 * i, 4, 0xffffffff, 0x0, 0x0, 0x0⟩
  | .memRetrain p i => ⟨0x10000000 + 0x1000000 * p + 0x20010c + 32 * i, 4, 0x0, 0x0, 0x0, 0x0⟩
  | .hallObjStatus p => ⟨0x10000000 + 0x1000000 * p + 0x300000, 4, 0x0, 0x0, 0x0, 0x0⟩
  | .hallObjCapacity p => ⟨0x10000000 + 0x1000000 * p + 0x300004, 4, 0x0, 0x0, 0x0, 0x0⟩
  | .hallRtCtrl p => ⟨0x10000000 + 0x1000000 * p + 0x300010, 4, 0x0, 0x0, 0x1, 0x0⟩
  | .hallRtOther p => ⟨0x10000000 + 0x1000000 * p + 0x300018, 4, 0x0, 0x0, 0x0, 0x0⟩
  | .hallRt p i => ⟨0x10000000 + 0x1000000 * p + 0x300100 + 8 * i, 8, 0x0, 0x0, 0x0, 0x0⟩
  | .arrCtrl p t i => ⟨0x10800000 + 0x1000000 * p + 0x10000 * t + 0x0 + 256 * i, 4, 0x0, 0x0, 0x1, 0x0⟩
  | .arrStatus p t i => ⟨0x10800000 + 0x1000000 * p + 0x10000 * t + 0x4 + 256 * i, 4, 0x0, 0x40, 0x0, 0x0⟩
  | .arrPark p t i => ⟨0x10800000 + 0x1000000 * p + 0x10000 * t + 0x8 + 256 * i, 4, 0x0, 0x0, 0x0, 0x0⟩
  | .arrParkPos p t i => ⟨0x10800000 + 0x1000000 * p + 0x10000 * t + 0x10 + 256 * i, 8, 0x0, 0x0, 0x0, 0x0⟩
  | .arrProgress p t i => ⟨0x10800000 + 0x1000000 * p + 0x10000 * t + 0x18 + 256 * i, 8, 0x0, 0x0, 0x0, 0x0⟩
  | .arrRecompute p t i => ⟨0x10800000 + 0x1000000 * p + 0x10000 * t + 0x20 + 256 * i, 4, 0xffffffff, 0x0, 0x0, 0x0⟩
  | .arrPreempts p t i => ⟨0x10800000 + 0x1000000 * p + 0x10000 * t + 0x24 + 256 * i, 4, 0xffffffff, 0x0, 0x0, 0x0⟩
  | .arrSpare p t i => ⟨0x10800000 + 0x1000000 * p + 0x10000 * t + 0x28 + 256 * i, 8, 0x0, 0x0, 0x0, 0xFFFFFFFFFFFFFFFF⟩
  | .frkCtrl p t => ⟨0x10800000 + 0x1000000 * p + 0x10000 * t + 0x8000, 4, 0x0, 0x0, 0x1, 0x0⟩
  | .frkStatus p t => ⟨0x10800000 + 0x1000000 * p + 0x10000 * t + 0x8004, 4, 0x0, 0x10, 0x0, 0x0⟩
  | .frkProgress p t => ⟨0x10800000 + 0x1000000 * p + 0x10000 * t + 0x8008, 8, 0x0, 0x0, 0x0, 0x0⟩
  | .frkEccCorr p t => ⟨0x10800000 + 0x1000000 * p + 0x10000 * t + 0x8010, 4, 0xffffffff, 0x0, 0x0, 0x0⟩
  | .frkSat p t i => ⟨0x10800000 + 0x1000000 * p + 0x10000 * t + 0x8100 + 4 * i, 4, 0xffffffff, 0x0, 0x0, 0x0⟩
  | .frkNonfinite p t i => ⟨0x10800000 + 0x1000000 * p + 0x10000 * t + 0x8200 + 4 * i, 4, 0xffffffff, 0x0, 0x0, 0x0⟩
  | .vecCtrl p t => ⟨0x10800000 + 0x1000000 * p + 0x10000 * t + 0x0, 4, 0x0, 0x0, 0x1, 0x0⟩
  | .vecStatus p t => ⟨0x10800000 + 0x1000000 * p + 0x10000 * t + 0x4, 4, 0x0, 0x8, 0x0, 0x0⟩
  | .vecProgress p t => ⟨0x10800000 + 0x1000000 * p + 0x10000 * t + 0x8, 8, 0x0, 0x0, 0x0, 0x0⟩
  | .vecCardCause p t => ⟨0x10800000 + 0x1000000 * p + 0x10000 * t + 0x10, 4, 0x0, 0x0, 0x0, 0x0⟩
  | .vecEccCorr p t => ⟨0x10800000 + 0x1000000 * p + 0x10000 * t + 0x14, 4, 0xffffffff, 0x0, 0x0, 0x0⟩
  | .vecSat p t i => ⟨0x10800000 + 0x1000000 * p + 0x10000 * t + 0x100 + 4 * i, 4, 0xffffffff, 0x0, 0x0, 0x0⟩
  | .vecNonfinite p t i => ⟨0x10800000 + 0x1000000 * p + 0x10000 * t + 0x200 + 4 * i, 4, 0xffffffff, 0x0, 0x0, 0x0⟩
  | .attCtrl p t => ⟨0x10800000 + 0x1000000 * p + 0x10000 * t + 0x8000, 4, 0x0, 0x0, 0x1, 0x0⟩
  | .attStatus p t => ⟨0x10800000 + 0x1000000 * p + 0x10000 * t + 0x8004, 4, 0x0, 0x8, 0x0, 0x0⟩
  | .attProgress p t => ⟨0x10800000 + 0x1000000 * p + 0x10000 * t + 0x8008, 8, 0x0, 0x0, 0x0, 0x0⟩
  | .attEccCorr p t => ⟨0x10800000 + 0x1000000 * p + 0x10000 * t + 0x8010, 4, 0xffffffff, 0x0, 0x0, 0x0⟩
  | .attSat p t i => ⟨0x10800000 + 0x1000000 * p + 0x10000 * t + 0x8100 + 4 * i, 4, 0xffffffff, 0x0, 0x0, 0x0⟩
  | .attNonfinite p t i => ⟨0x10800000 + 0x1000000 * p + 0x10000 * t + 0x8200 + 4 * i, 4, 0xffffffff, 0x0, 0x0, 0x0⟩
  | .hallHistPool p i => ⟨0x10000000 + 0x1000000 * p + 0x300400 + 8 * i, 8, 0x0, 0x0, 0x0, 0x0⟩
  | .embCtrl p t => ⟨0x10800000 + 0x1000000 * p + 0x10000 * t + 0x0, 4, 0x0, 0x0, 0x3, 0x0⟩
  | .embStatus p t => ⟨0x10800000 + 0x1000000 * p + 0x10000 * t + 0x4, 4, 0x0, 0x80, 0x0, 0x0⟩
  | .embSortProgress p t => ⟨0x10800000 + 0x1000000 * p + 0x10000 * t + 0x8, 8, 0x0, 0x0, 0x0, 0x0⟩
  | .embGatherProgress p t => ⟨0x10800000 + 0x1000000 * p + 0x10000 * t + 0x10, 8, 0x0, 0x0, 0x0, 0x0⟩
  | .embUpdateProgress p t => ⟨0x10800000 + 0x1000000 * p + 0x10000 * t + 0x18, 8, 0x0, 0x0, 0x0, 0x0⟩
  | .embCacheHits p t => ⟨0x10800000 + 0x1000000 * p + 0x10000 * t + 0x20, 8, 0xffffffffffffffff, 0x0, 0x0, 0x0⟩
  | .embCacheMisses p t => ⟨0x10800000 + 0x1000000 * p + 0x10000 * t + 0x28, 8, 0xffffffffffffffff, 0x0, 0x0, 0x0⟩
  | .embGranuleReads p t => ⟨0x10800000 + 0x1000000 * p + 0x10000 * t + 0x30, 8, 0xffffffffffffffff, 0x0, 0x0, 0x0⟩
  | .embRowReads p t => ⟨0x10800000 + 0x1000000 * p + 0x10000 * t + 0x38, 8, 0xffffffffffffffff, 0x0, 0x0, 0x0⟩
  | .embStampReads p t => ⟨0x10800000 + 0x1000000 * p + 0x10000 * t + 0x40, 8, 0xffffffffffffffff, 0x0, 0x0, 0x0⟩
  | .embRollbacks p t => ⟨0x10800000 + 0x1000000 * p + 0x10000 * t + 0x48, 4, 0xffffffff, 0x0, 0x0, 0x0⟩
  | .embEccCorr p t => ⟨0x10800000 + 0x1000000 * p + 0x10000 * t + 0x4c, 4, 0xffffffff, 0x0, 0x0, 0x0⟩
  | .embSat p t i => ⟨0x10800000 + 0x1000000 * p + 0x10000 * t + 0x100 + 4 * i, 4, 0xffffffff, 0x0, 0x0, 0x0⟩
  | .embNonfinite p t i => ⟨0x10800000 + 0x1000000 * p + 0x10000 * t + 0x200 + 4 * i, 4, 0xffffffff, 0x0, 0x0, 0x0⟩
  | .embJournal p t i => ⟨0x10800000 + 0x1000000 * p + 0x10000 * t + 0x300 + 8 * i, 8, 0x0, 0x0, 0x0, 0x0⟩
  | .gateStep i => ⟨0x2400 + 8 * i, 8, 0x0, 0x0, 0x0, 0x0⟩
  | .gateStepOpen i => ⟨0x2600 + 8 * i, 8, 0x0, 0x0, 0x0, 0x0⟩
  | .gateStepCommitted i => ⟨0x2800 + 8 * i, 8, 0x0, 0x0, 0x0, 0x0⟩
  | .gateNorm i => ⟨0x2a00 + 8 * i, 8, 0x0, 0x0, 0x0, 0x0⟩
  | .hallStashOvf p => ⟨0x10000000 + 0x1000000 * p + 0x300500, 4, 0x1ffffff, 0x0, 0x0, 0x0⟩
  | .hallStashStatus p => ⟨0x10000000 + 0x1000000 * p + 0x300508, 8, 0x0, 0x0, 0x0, 0x0⟩
  | .hallStashDrops p i => ⟨0x10000000 + 0x1000000 * p + 0x300600 + 4 * i, 4, 0xffffffff, 0x0, 0x0, 0x0⟩
  | .crrPortCtrl n => ⟨0x10000000 + 0x1000000 * (n / 4) + 0x500000 + 64 * (n % 4), 4, 0x1, 0x0, 0x2, 0x0⟩
  | .crrPortStatus n => ⟨0x10000000 + 0x1000000 * (n / 4) + 0x500004 + 64 * (n % 4), 4, 0x0, 0x18, 0x0, 0x0⟩
  | .crrPortRole n => ⟨0x10000000 + 0x1000000 * (n / 4) + 0x500008 + 64 * (n % 4), 4, 0x0, 0x0, 0x0, 0x3⟩
  | .crrPortRetry n => ⟨0x10000000 + 0x1000000 * (n / 4) + 0x50000c + 64 * (n % 4), 4, 0xffffffff, 0x0, 0x0, 0x0⟩
  | .crrPortFecCorr n => ⟨0x10000000 + 0x1000000 * (n / 4) + 0x500010 + 64 * (n % 4), 8, 0xffffffffffffffff, 0x0, 0x0, 0x0⟩
  | .crrPortFecUncorr n => ⟨0x10000000 + 0x1000000 * (n / 4) + 0x500018 + 64 * (n % 4), 4, 0xffffffff, 0x0, 0x0, 0x0⟩
  | .crrPortRetrain n => ⟨0x10000000 + 0x1000000 * (n / 4) + 0x50001c + 64 * (n % 4), 4, 0xffffffff, 0x0, 0x0, 0x0⟩
  | .redCtrl p => ⟨0x10000000 + 0x1000000 * p + 0x400000, 4, 0x0, 0x0, 0x1, 0x0⟩
  | .redStatus p => ⟨0x10000000 + 0x1000000 * p + 0x400004, 4, 0x0, 0x10, 0x0, 0x0⟩
  | .redProgress p => ⟨0x10000000 + 0x1000000 * p + 0x400008, 8, 0x0, 0x0, 0x0, 0x0⟩
  | .redUpdProgress p => ⟨0x10000000 + 0x1000000 * p + 0x400010, 8, 0x0, 0x0, 0x0, 0x0⟩
  | .redResidueErr p => ⟨0x10000000 + 0x1000000 * p + 0x400018, 4, 0xffffffff, 0x0, 0x0, 0x0⟩
  | .redReplays p => ⟨0x10000000 + 0x1000000 * p + 0x40001c, 4, 0xffffffff, 0x0, 0x0, 0x0⟩
  | .redStale p => ⟨0x10000000 + 0x1000000 * p + 0x400020, 4, 0xffffffff, 0x0, 0x0, 0x0⟩
  | .redEccCorr p => ⟨0x10000000 + 0x1000000 * p + 0x400024, 4, 0xffffffff, 0x0, 0x0, 0x0⟩
  | .redChan p i => ⟨0x10000000 + 0x1000000 * p + 0x400040 + 8 * i, 8, 0x0, 0x0, 0x0, 0x0⟩
  | .redSat p i => ⟨0x10000000 + 0x1000000 * p + 0x400100 + 4 * i, 4, 0xffffffff, 0x0, 0x0, 0x0⟩
  | .redNonfinite p i => ⟨0x10000000 + 0x1000000 * p + 0x400200 + 4 * i, 4, 0xffffffff, 0x0, 0x0, 0x0⟩
  | .partBootAddr p => ⟨0x10000000 + 0x1000000 * p + 0x0, 8, 0xffffffffffffffff, 0x0, 0x0, 0x0⟩
  | .partCoreCtrl p i => ⟨0x10000000 + 0x1000000 * p + 0x100 + 4 * i, 4, 0x1, 0x0, 0x0, 0x0⟩
  | .partCoreStatus p i => ⟨0x10000000 + 0x1000000 * p + 0x200 + 4 * i, 4, 0x0, 0x0, 0x0, 0x0⟩
  | .cohStatus p => ⟨0x10000000 + 0x1000000 * p + 0x310000, 4, 0x0, 0x6, 0x0, 0x0⟩
  | .cohAgents p => ⟨0x10000000 + 0x1000000 * p + 0x310008, 8, 0x0, 0x0, 0x0, 0x0⟩
  | .cohDirEccCorr p => ⟨0x10000000 + 0x1000000 * p + 0x310010, 4, 0xffffffff, 0x0, 0x0, 0x0⟩
  | .cohDowns p => ⟨0x10000000 + 0x1000000 * p + 0x310014, 4, 0xffffffff, 0x0, 0x0, 0x0⟩
  | .cohBackInval p => ⟨0x10000000 + 0x1000000 * p + 0x310018, 8, 0xffffffffffffffff, 0x0, 0x0, 0x0⟩
  | .cohHoldDefers p => ⟨0x10000000 + 0x1000000 * p + 0x310020, 8, 0xffffffffffffffff, 0x0, 0x0, 0x0⟩
  | .fltCtrl p => ⟨0x10000000 + 0x1000000 * p + 0x600000, 4, 0x5, 0x0, 0x2, 0x1⟩
  | .fltStatus p => ⟨0x10000000 + 0x1000000 * p + 0x600004, 4, 0x0, 0x60, 0x0, 0x8⟩
  | .fltEngReset p => ⟨0x10000000 + 0x1000000 * p + 0x600008, 4, 0xff, 0x0, 0x80000000, 0x0⟩
  | .fltSolo p => ⟨0x10000000 + 0x1000000 * p + 0x60000c, 4, 0x80003fff, 0x0, 0x0, 0x0⟩
  | .fltHold p => ⟨0x10000000 + 0x1000000 * p + 0x600010, 8, 0xffffffffffffffff, 0x0, 0x0, 0x0⟩
  | .fltHeartbeat p => ⟨0x10000000 + 0x1000000 * p + 0x600018, 8, 0xffffffffffffffff, 0x0, 0x0, 0x0⟩
  | .fltResets p => ⟨0x10000000 + 0x1000000 * p + 0x600020, 4, 0xffffffff, 0x0, 0x0, 0x0⟩
  | .fltRingBase p => ⟨0x10000000 + 0x1000000 * p + 0x600100, 8, 0xffffffffffffffff, 0x0, 0x0, 0x0⟩
  | .fltRingNotify p => ⟨0x10000000 + 0x1000000 * p + 0x600108, 8, 0xffffffffffffffff, 0x0, 0x0, 0x0⟩
  | .fltRingCfg p => ⟨0x10000000 + 0x1000000 * p + 0x600110, 4, 0x1ffff, 0x20000, 0x0, 0x6⟩
  | .fltRingHead p => ⟨0x10000000 + 0x1000000 * p + 0x600114, 4, 0xffff, 0x0, 0x0, 0x0⟩
  | .fltRingTail p => ⟨0x10000000 + 0x1000000 * p + 0x600118, 4, 0x0, 0x0, 0x0, 0x0⟩
  | .fltRingLost p => ⟨0x10000000 + 0x1000000 * p + 0x60011c, 4, 0xffffffff, 0x0, 0x0, 0x0⟩
  | .fltDead p i => ⟨0x10000000 + 0x1000000 * p + 0x600200 + 4 * i, 4, 0xffffffff, 0x0, 0x0, 0x0⟩
  | .fltFnEngine p i => ⟨0x10000000 + 0x1000000 * p + 0x600400 + 4 * i, 4, 0x0, 0x0, 0x0, (if i < 12 then 0x12492 else if i < 16 then 0x92 else 0x12)⟩
  | .fltWait p i => ⟨0x10000000 + 0x1000000 * p + 0x600480 + 4 * i, 4, 0x0, 0x0, 0x0, 0x0⟩
  | .gateCtxReset => ⟨0x3000, 4, 0x3f, 0x0, 0x80000000, 0x0⟩
  | .gateReset => ⟨0x3004, 4, 0x0, 0x0, 0x0, 0x0⟩
  | .gateIncRingBase => ⟨0x3100, 8, 0xffffffffffffffff, 0x0, 0x0, 0x0⟩
  | .gateIncRingNotify => ⟨0x3108, 8, 0xffffffffffffffff, 0x0, 0x0, 0x0⟩
  | .gateIncRingCfg => ⟨0x3110, 4, 0x1ffff, 0x20000, 0x0, 0x6⟩
  | .gateIncRingHead => ⟨0x3114, 4, 0xffff, 0x0, 0x0, 0x0⟩
  | .gateIncRingTail => ⟨0x3118, 4, 0x0, 0x0, 0x0, 0x0⟩
  | .gateIncLost => ⟨0x311c, 4, 0xffffffff, 0x0, 0x0, 0x0⟩
  | .gateDead i => ⟨0x3200 + 4 * i, 4, 0xffffffff, 0x0, 0x0, 0x0⟩
  | .clerkHeartbeat => ⟨0x100000, 8, 0x0, 0x0, 0x0, 0x0⟩
  | .clerkFwVersion => ⟨0x100008, 4, 0x0, 0x0, 0x0, 0x0⟩
  | .clerkCycleReq => ⟨0x10000c, 4, 0x0, 0x0, 0x0, 0x0⟩
  | .clerkRt i => ⟨0x100100 + 8 * i, 8, 0x0, 0x0, 0x0, 0x0⟩
  | .pwrCap => ⟨0x101000, 4, 0xffff, 0x0, 0x0, 0xfa0⟩
  | .pwrInput => ⟨0x101004, 4, 0x0, 0x0, 0x0, 0x0⟩
  | .pwrPeak => ⟨0x101008, 4, 0xffff, 0x0, 0x0, 0x0⟩
  | .pwrState => ⟨0x101010, 4, 0x0, 0x0, 0x0, 0x0⟩
  | .pwrStateReq => ⟨0x101014, 4, 0x3, 0x0, 0x80000000, 0x0⟩
  | .pwrPartCtrl i => ⟨0x101100 + 32 * i, 4, 0xf, 0x0, 0x0, 0x3⟩
  | .pwrPartStatus i => ⟨0x101104 + 32 * i, 4, 0x0, 0x0, 0x0, 0x0⟩
  | .pwrPartPower i => ⟨0x101108 + 32 * i, 4, 0x0, 0x0, 0x0, 0x0⟩
  | .thermDie i => ⟨0x102000 + 4 * i, 4, 0x0, 0x0, 0x0, 0x0⟩
  | .thermLimits => ⟨0x102200, 4, 0x0, 0x0, 0x0, 0x6e73695f⟩
  | .thermCtrl => ⟨0x102204, 4, 0xff, 0x0, 0x0, 0x5f⟩
  | .thermTrip => ⟨0x102208, 4, 0x0, 0x100, 0x0, 0x0⟩
  | .thermCoolant => ⟨0x10220c, 4, 0x0, 0x0, 0x0, 0x0⟩
  | .secStatus => ⟨0x200000, 4, 0x0, 0x0, 0x0, 0x0⟩
  | .secMeas n w => ⟨0x200100 + 0x40 * n + 8 * w, 8, 0, 0, 0, 0⟩
  | .secMeasCount i => ⟨0x200300 + 4 * i, 4, 0x0, 0x0, 0x0, 0x0⟩
  | .secDieAuth i => ⟨0x200400 + 4 * i, 4, 0x0, 0x0, 0x0, 0x0⟩
  | .secSvn => ⟨0x200410, 4, 0x0, 0x0, 0x0, 0x0⟩
  | .secAnchorState => ⟨0x200414, 4, 0x0, 0x0, 0x0, 0x1⟩
  | .secOpSrc => ⟨0x200500, 8, 0xffffffffffffffff, 0x0, 0x0, 0x0⟩
  | .secOpLen => ⟨0x200508, 4, 0xffffffff, 0x0, 0x0, 0x0⟩
  | .secOpCtrl => ⟨0x20050c, 4, 0x7, 0x0, 0x80000000, 0x0⟩
  | .secOpStatus => ⟨0x200510, 4, 0x0, 0x6, 0x0, 0x0⟩
  | .gateBoot => ⟨0x0, 4, 0x0, 0x0, 0x0, 0x0⟩
  | .gateCascade => ⟨0x3400, 4, 0x0, 0x0, 0x0, 0x0⟩
  | .gateMembers i => ⟨0x3440 + 4 * i, 4, 0x0, 0x0, 0x0, 0x0⟩
  | .sortStatus i => ⟨0x300000 + 256 * i, 4, 0x0, 0x0, 0x0, 0xf⟩
  | .sortDownAnswers i => ⟨0x300008 + 256 * i, 4, 0xffffffff, 0x0, 0x0, 0x0⟩
  | .sortEccCorr i => ⟨0x30000c + 256 * i, 4, 0xffffffff, 0x0, 0x0, 0x0⟩
  | .sortPortBytes i => ⟨0x300200 + 8 * i, 8, 0x0, 0x0, 0x0, 0x0⟩
  | .msixEntry i => ⟨0x40000 + 4 * i, 4, 0xFFFFFFFF, 0, 0, (if i % 4 = 3 then 1 else 0)⟩
  | .msixPba i => ⟨0x48000 + 8 * i, 8, 0, 0, 0, 0⟩

/-- The value after chip reset (R7); fuse and image values come from Config (log entry 5). -/
def Reg.reset (r : Reg) : W64 := BitVec.ofNat 64 r.info.reset

/-- One row of a block's map: base offset, stride, count, width, and the register of an index. -/
structure RegRow where
  base : Nat
  stride : Nat
  count : Nat
  width : Nat
  reg : Nat → Reg

/-- The register of a row that an offset falls in, with the byte offset inside it. -/
def RegRow.hit (r : RegRow) (o : Nat) : Option (Reg × Nat) :=
  if o < r.base then none
  else
    let i := (o - r.base) / r.stride
    let b := (o - r.base) % r.stride
    if i < r.count ∧ b < r.width then some (r.reg i, b) else none

/-- Module blocks: gate, Clerk, security and sorting offices (R492-R495). -/
def moduleRows : List RegRow :=
  [⟨0x100, 4, 1, 4, fun _ => .gateApertureBase⟩,
   ⟨0x108, 4, 1, 4, fun _ => .gateMmioWindow⟩,
   ⟨0x1000, 4, 1, 4, fun _ => .structCtrl⟩,
   ⟨0x1008, 8, 1, 8, fun _ => .structSrcAddr⟩,
   ⟨0x1010, 4, 1, 4, fun _ => .structSrcLen⟩,
   ⟨0x1018, 4, 1, 4, fun _ => .structModuleNumber⟩,
   ⟨0x1020, 4, 1, 4, fun _ => .structStatus⟩,
   ⟨0x1028, 4, 1, 4, fun _ => .structCause⟩,
   ⟨0x1030, 4, 1, 4, fun _ => .structVersion⟩,
   ⟨0x1034, 4, 1, 4, fun _ => .structPartState⟩,
   ⟨0x1040, 4, 16, 4, fun i => .structImageId i⟩,
   ⟨0x1080, 4, 16, 4, fun i => .structCascadeDigest i⟩,
   ⟨0x110, 4, 1, 4, fun _ => .gateEpoch⟩,
   ⟨0x2000, 4, 64, 4, fun i => .gateCtx i⟩,
   ⟨0x2400, 8, 64, 8, fun i => .gateStep i⟩,
   ⟨0x2600, 8, 64, 8, fun i => .gateStepOpen i⟩,
   ⟨0x2800, 8, 64, 8, fun i => .gateStepCommitted i⟩,
   ⟨0x2a00, 8, 64, 8, fun i => .gateNorm i⟩,
   ⟨0x3000, 4, 1, 4, fun _ => .gateCtxReset⟩,
   ⟨0x3004, 4, 1, 4, fun _ => .gateReset⟩,
   ⟨0x3100, 8, 1, 8, fun _ => .gateIncRingBase⟩,
   ⟨0x3108, 8, 1, 8, fun _ => .gateIncRingNotify⟩,
   ⟨0x3110, 4, 1, 4, fun _ => .gateIncRingCfg⟩,
   ⟨0x3114, 4, 1, 4, fun _ => .gateIncRingHead⟩] ++
  [⟨0x3118, 4, 1, 4, fun _ => .gateIncRingTail⟩,
   ⟨0x311c, 4, 1, 4, fun _ => .gateIncLost⟩,
   ⟨0x3200, 4, 64, 4, fun i => .gateDead i⟩,
   ⟨0x100000, 8, 1, 8, fun _ => .clerkHeartbeat⟩,
   ⟨0x100008, 4, 1, 4, fun _ => .clerkFwVersion⟩,
   ⟨0x10000c, 4, 1, 4, fun _ => .clerkCycleReq⟩,
   ⟨0x100100, 8, 4, 8, fun i => .clerkRt i⟩,
   ⟨0x101000, 4, 1, 4, fun _ => .pwrCap⟩,
   ⟨0x101004, 4, 1, 4, fun _ => .pwrInput⟩,
   ⟨0x101008, 4, 1, 4, fun _ => .pwrPeak⟩,
   ⟨0x101010, 4, 1, 4, fun _ => .pwrState⟩,
   ⟨0x101014, 4, 1, 4, fun _ => .pwrStateReq⟩,
   ⟨0x101100, 32, 4, 4, fun i => .pwrPartCtrl i⟩,
   ⟨0x101104, 32, 4, 4, fun i => .pwrPartStatus i⟩,
   ⟨0x101108, 32, 4, 4, fun i => .pwrPartPower i⟩,
   ⟨0x102000, 4, 100, 4, fun i => .thermDie i⟩,
   ⟨0x102200, 4, 1, 4, fun _ => .thermLimits⟩,
   ⟨0x102204, 4, 1, 4, fun _ => .thermCtrl⟩,
   ⟨0x102208, 4, 1, 4, fun _ => .thermTrip⟩,
   ⟨0x10220c, 4, 1, 4, fun _ => .thermCoolant⟩,
   ⟨0x200000, 4, 1, 4, fun _ => .secStatus⟩,
   ⟨0x200100, 8, 64, 8, fun i => .secMeas (i / 8) (i % 8)⟩,
   ⟨0x200300, 4, 8, 4, fun i => .secMeasCount i⟩,
   ⟨0x200400, 4, 4, 4, fun i => .secDieAuth i⟩] ++
  [⟨0x200410, 4, 1, 4, fun _ => .secSvn⟩,
   ⟨0x200414, 4, 1, 4, fun _ => .secAnchorState⟩,
   ⟨0x200500, 8, 1, 8, fun _ => .secOpSrc⟩,
   ⟨0x200508, 4, 1, 4, fun _ => .secOpLen⟩,
   ⟨0x20050c, 4, 1, 4, fun _ => .secOpCtrl⟩,
   ⟨0x200510, 4, 1, 4, fun _ => .secOpStatus⟩,
   ⟨0x0, 4, 1, 4, fun _ => .gateBoot⟩,
   ⟨0x3400, 4, 1, 4, fun _ => .gateCascade⟩,
   ⟨0x3440, 4, 8, 4, fun i => .gateMembers i⟩,
   ⟨0x300000, 256, 2, 4, fun i => .sortStatus i⟩,
   ⟨0x300008, 256, 2, 4, fun i => .sortDownAnswers i⟩,
   ⟨0x30000c, 256, 2, 4, fun i => .sortEccCorr i⟩,
   ⟨0x300200, 8, 10, 8, fun i => .sortPortBytes i⟩,
   ⟨0x40000, 4, 8192, 4, fun i => .msixEntry i⟩,
   ⟨0x48000, 8, 32, 8, fun i => .msixPba i⟩]

/-- A partition block below its tiles (R496). -/
def partRows (p : Nat) : List RegRow :=
  [⟨0x100000, 4096, 64, 8, fun i => .mbxDoorbell (64 * p + i)⟩,
   ⟨0x140000, 64, 64, 8, fun i => .mbxBase (64 * p + i)⟩,
   ⟨0x140008, 64, 64, 4, fun i => .mbxCfg (64 * p + i)⟩,
   ⟨0x14000c, 64, 64, 4, fun i => .mbxCtrl (64 * p + i)⟩,
   ⟨0x140010, 64, 64, 4, fun i => .mbxHead (64 * p + i)⟩,
   ⟨0x140014, 64, 64, 4, fun i => .mbxTail (64 * p + i)⟩,
   ⟨0x140018, 64, 64, 4, fun i => .mbxSeq (64 * p + i)⟩,
   ⟨0x14001c, 64, 64, 4, fun i => .mbxStatus (64 * p + i)⟩,
   ⟨0x140020, 64, 64, 8, fun i => .mbxNotify (64 * p + i)⟩,
   ⟨0x200000, 4, 1, 4, fun _ => .memStatus p⟩,
   ⟨0x200004, 4, 1, 4, fun _ => .memSegIset p⟩,
   ⟨0x200008, 4, 1, 4, fun _ => .memSegUsed p⟩,
   ⟨0x20000c, 4, 1, 4, fun _ => .memThrottle p⟩,
   ⟨0x200100, 32, 8, 4, fun i => .memStackTemp p i⟩,
   ⟨0x200104, 32, 8, 4, fun i => .memChanLost p i⟩,
   ⟨0x200108, 32, 8, 4, fun i => .memEccCorr p i⟩,
   ⟨0x20010c, 32, 8, 4, fun i => .memRetrain p i⟩,
   ⟨0x300000, 4, 1, 4, fun _ => .hallObjStatus p⟩,
   ⟨0x300004, 4, 1, 4, fun _ => .hallObjCapacity p⟩,
   ⟨0x300010, 4, 1, 4, fun _ => .hallRtCtrl p⟩,
   ⟨0x300018, 4, 1, 4, fun _ => .hallRtOther p⟩,
   ⟨0x300100, 8, 64, 8, fun i => .hallRt p i⟩,
   ⟨0x300400, 8, 8, 8, fun i => .hallHistPool p i⟩,
   ⟨0x300500, 4, 1, 4, fun _ => .hallStashOvf p⟩] ++
  [⟨0x300508, 8, 1, 8, fun _ => .hallStashStatus p⟩,
   ⟨0x300600, 4, 64, 4, fun i => .hallStashDrops p i⟩,
   ⟨0x500000, 64, 4, 4, fun i => .crrPortCtrl (4 * p + i)⟩,
   ⟨0x500004, 64, 4, 4, fun i => .crrPortStatus (4 * p + i)⟩,
   ⟨0x500008, 64, 4, 4, fun i => .crrPortRole (4 * p + i)⟩,
   ⟨0x50000c, 64, 4, 4, fun i => .crrPortRetry (4 * p + i)⟩,
   ⟨0x500010, 64, 4, 8, fun i => .crrPortFecCorr (4 * p + i)⟩,
   ⟨0x500018, 64, 4, 4, fun i => .crrPortFecUncorr (4 * p + i)⟩,
   ⟨0x50001c, 64, 4, 4, fun i => .crrPortRetrain (4 * p + i)⟩,
   ⟨0x400000, 4, 1, 4, fun _ => .redCtrl p⟩,
   ⟨0x400004, 4, 1, 4, fun _ => .redStatus p⟩,
   ⟨0x400008, 8, 1, 8, fun _ => .redProgress p⟩,
   ⟨0x400010, 8, 1, 8, fun _ => .redUpdProgress p⟩,
   ⟨0x400018, 4, 1, 4, fun _ => .redResidueErr p⟩,
   ⟨0x40001c, 4, 1, 4, fun _ => .redReplays p⟩,
   ⟨0x400020, 4, 1, 4, fun _ => .redStale p⟩,
   ⟨0x400024, 4, 1, 4, fun _ => .redEccCorr p⟩,
   ⟨0x400040, 8, 8, 8, fun i => .redChan p i⟩,
   ⟨0x400100, 4, 64, 4, fun i => .redSat p i⟩,
   ⟨0x400200, 4, 64, 4, fun i => .redNonfinite p i⟩,
   ⟨0x0, 8, 1, 8, fun _ => .partBootAddr p⟩,
   ⟨0x100, 4, 48, 4, fun i => .partCoreCtrl p i⟩,
   ⟨0x200, 4, 48, 4, fun i => .partCoreStatus p i⟩,
   ⟨0x310000, 4, 1, 4, fun _ => .cohStatus p⟩] ++
  [⟨0x310008, 8, 1, 8, fun _ => .cohAgents p⟩,
   ⟨0x310010, 4, 1, 4, fun _ => .cohDirEccCorr p⟩,
   ⟨0x310014, 4, 1, 4, fun _ => .cohDowns p⟩,
   ⟨0x310018, 8, 1, 8, fun _ => .cohBackInval p⟩,
   ⟨0x310020, 8, 1, 8, fun _ => .cohHoldDefers p⟩,
   ⟨0x600000, 4, 1, 4, fun _ => .fltCtrl p⟩,
   ⟨0x600004, 4, 1, 4, fun _ => .fltStatus p⟩,
   ⟨0x600008, 4, 1, 4, fun _ => .fltEngReset p⟩,
   ⟨0x60000c, 4, 1, 4, fun _ => .fltSolo p⟩,
   ⟨0x600010, 8, 1, 8, fun _ => .fltHold p⟩,
   ⟨0x600018, 8, 1, 8, fun _ => .fltHeartbeat p⟩,
   ⟨0x600020, 4, 1, 4, fun _ => .fltResets p⟩,
   ⟨0x600100, 8, 1, 8, fun _ => .fltRingBase p⟩,
   ⟨0x600108, 8, 1, 8, fun _ => .fltRingNotify p⟩,
   ⟨0x600110, 4, 1, 4, fun _ => .fltRingCfg p⟩,
   ⟨0x600114, 4, 1, 4, fun _ => .fltRingHead p⟩,
   ⟨0x600118, 4, 1, 4, fun _ => .fltRingTail p⟩,
   ⟨0x60011c, 4, 1, 4, fun _ => .fltRingLost p⟩,
   ⟨0x600200, 4, 64, 4, fun i => .fltDead p i⟩,
   ⟨0x600400, 4, 19, 4, fun i => .fltFnEngine p i⟩,
   ⟨0x600480, 4, 19, 4, fun i => .fltWait p i⟩]

/-- The ARR_ registers of a tile (R497). -/
def rowsArr (p t : Nat) : List RegRow :=
  [⟨0x0, 256, 4, 4, fun i => .arrCtrl p t i⟩,
   ⟨0x4, 256, 4, 4, fun i => .arrStatus p t i⟩,
   ⟨0x8, 256, 4, 4, fun i => .arrPark p t i⟩,
   ⟨0x10, 256, 4, 8, fun i => .arrParkPos p t i⟩,
   ⟨0x18, 256, 4, 8, fun i => .arrProgress p t i⟩,
   ⟨0x20, 256, 4, 4, fun i => .arrRecompute p t i⟩,
   ⟨0x24, 256, 4, 4, fun i => .arrPreempts p t i⟩,
   ⟨0x28, 256, 4, 8, fun i => .arrSpare p t i⟩]

/-- The FRK_ registers of a tile (R497). -/
def rowsFrk (p t : Nat) : List RegRow :=
  [⟨0x8000, 4, 1, 4, fun _ => .frkCtrl p t⟩,
   ⟨0x8004, 4, 1, 4, fun _ => .frkStatus p t⟩,
   ⟨0x8008, 8, 1, 8, fun _ => .frkProgress p t⟩,
   ⟨0x8010, 4, 1, 4, fun _ => .frkEccCorr p t⟩,
   ⟨0x8100, 4, 64, 4, fun i => .frkSat p t i⟩,
   ⟨0x8200, 4, 64, 4, fun i => .frkNonfinite p t i⟩]

/-- The EMB_ registers of a tile (R497). -/
def rowsEmb (p t : Nat) : List RegRow :=
  [⟨0x0, 4, 1, 4, fun _ => .embCtrl p t⟩,
   ⟨0x4, 4, 1, 4, fun _ => .embStatus p t⟩,
   ⟨0x8, 8, 1, 8, fun _ => .embSortProgress p t⟩,
   ⟨0x10, 8, 1, 8, fun _ => .embGatherProgress p t⟩,
   ⟨0x18, 8, 1, 8, fun _ => .embUpdateProgress p t⟩,
   ⟨0x20, 8, 1, 8, fun _ => .embCacheHits p t⟩,
   ⟨0x28, 8, 1, 8, fun _ => .embCacheMisses p t⟩,
   ⟨0x30, 8, 1, 8, fun _ => .embGranuleReads p t⟩,
   ⟨0x38, 8, 1, 8, fun _ => .embRowReads p t⟩,
   ⟨0x40, 8, 1, 8, fun _ => .embStampReads p t⟩,
   ⟨0x48, 4, 1, 4, fun _ => .embRollbacks p t⟩,
   ⟨0x4c, 4, 1, 4, fun _ => .embEccCorr p t⟩,
   ⟨0x100, 4, 64, 4, fun i => .embSat p t i⟩,
   ⟨0x200, 4, 64, 4, fun i => .embNonfinite p t i⟩,
   ⟨0x300, 8, 64, 8, fun i => .embJournal p t i⟩]

/-- The VEC_ registers of a tile (R497). -/
def rowsVec (p t : Nat) : List RegRow :=
  [⟨0x0, 4, 1, 4, fun _ => .vecCtrl p t⟩,
   ⟨0x4, 4, 1, 4, fun _ => .vecStatus p t⟩,
   ⟨0x8, 8, 1, 8, fun _ => .vecProgress p t⟩,
   ⟨0x10, 4, 1, 4, fun _ => .vecCardCause p t⟩,
   ⟨0x14, 4, 1, 4, fun _ => .vecEccCorr p t⟩,
   ⟨0x100, 4, 64, 4, fun i => .vecSat p t i⟩,
   ⟨0x200, 4, 64, 4, fun i => .vecNonfinite p t i⟩]

/-- The ATT_ registers of a tile (R497). -/
def rowsAtt (p t : Nat) : List RegRow :=
  [⟨0x8000, 4, 1, 4, fun _ => .attCtrl p t⟩,
   ⟨0x8004, 4, 1, 4, fun _ => .attStatus p t⟩,
   ⟨0x8008, 8, 1, 8, fun _ => .attProgress p t⟩,
   ⟨0x8010, 4, 1, 4, fun _ => .attEccCorr p t⟩,
   ⟨0x8100, 4, 64, 4, fun i => .attSat p t i⟩,
   ⟨0x8200, 4, 64, 4, fun i => .attNonfinite p t i⟩]

/-- The registers of tile t (R30, R497). -/
def tileRows (p t : Nat) : List RegRow :=
  if t < 12 then rowsArr p t ++ rowsFrk p t
  else if t < 16 then rowsEmb p t
  else if t < 18 then rowsVec p t ++ rowsAtt p t
  else []

/-- The first row that an offset hits. -/
def hitRows (o : Nat) : List RegRow → Option (Reg × Nat)
  | [] => none
  | r :: rs => match r.hit o with
    | some x => some x
    | none => hitRows o rs

/-- The register at an MMIO offset, with the byte offset inside it; none where R31 says no register lies. -/
def Reg.ofOffset (o : Nat) : Option (Reg × Nat) :=
  if o < 0x400000 then hitRows o moduleRows
  else if 0x10000000 ≤ o ∧ o < 0x14000000 then
    let p := (o - 0x10000000) / 0x1000000
    let q := o % 0x1000000
    if 0x800000 ≤ q then hitRows (q % 0x10000) (tileRows p ((q - 0x800000) / 0x10000))
    else hitRows q (partRows p)
  else none

end Sys2Proof.Machine
end

