-- ==== Sys2Proof/Machine/State.lean ====
section
/-! DEFINITION. The state of the block as plain data, its reset value, and the reasons a step can stop. -/

namespace Sys2Proof.Machine

/-! ### Memory (R25-R27) -/

/-- A range [lo, hi) of undefined bytes, drawn for a counter value (R93, R135, R145, R156, R397). -/
structure Hole where
  lo : Nat
  hi : Nat
  draw : Nat
  deriving DecidableEq, Repr

/-- Stacked memory and the SRAM windows under module-local addresses. An address that neither list names reads 0
(log entry 6). `bad` names the 64-byte bursts that hold an uncorrectable error (R143, log entry 7). -/
structure Mem where
  cells : List Host.Cell
  holes : List Hole
  bad : List Nat
  deriving DecidableEq, Repr

/-! ### Contexts and letters -/

/-- An entry of the gate's context table (R97); `state` is 0 CLOSED, 1 OPEN, 2 TEARING. -/
structure Ctx where
  gen : Nat
  state : Nat
  seed : W64
  root : Nat
  routes : List Nat
  deriving DecidableEq, Repr

/-- A mailbox reader's own state beside the MBX_ registers (R111-R116). -/
structure Mbx where
  /-- Postmark of the last accepted doorbell. -/
  bell : W32
  /-- Failed attempts of the present series (R115). -/
  attempts : Nat
  deriving DecidableEq, Repr

/-- A store path that a letter has used and that its receipt waits for (R122, R377). -/
structure Region where
  stage : Nat
  chan : Nat
  base : Nat
  last : Nat
  deriving DecidableEq, Repr

/-- A letter that the reader has accepted (R112). `result` is set when it has ended and its receipt is due. -/
structure Letter where
  id : LetterId
  opcode : Nat
  flags : Nat
  ctx : Nat
  gen : Nat
  route : Nat
  postmark : W32
  rcpt : Nat
  encLen : Nat
  body : List Byte
  started : Bool
  result : Option (Nat × Nat)
  sat : Nat
  nonfin : Nat
  dead : Nat
  skipped : Bool
  readThrough : Bool
  stages : List Nat
  pcieLast : Option Nat
  pcieStage : Nat
  regions : List Region
  zeroReads : Nat
  /-- The stage of a region whose flush failed while the letter ran (R377). -/
  flushErr : Option Nat
  podAcks : Nat
  /-- The edges of the letter's path beyond the fabric (R401): it has used commander memory, or another module's. -/
  usesHost : Bool
  usesPod : Bool
  /-- 1: a letter of the context's open step (R304); 2: begun in an evaluation bracket (R337); else 0. -/
  bracket : Nat
  deriving DecidableEq, Repr

/-! ### Structure images (R43-R60) -/

/-- A record or section, byte by byte. -/
abbrev Rec := List Byte

/-- The sections of one partition, each a list of records. -/
structure PartImage where
  id : List Byte
  carve : List Rec
  fabric : Rec
  stages : List Rec
  channels : List Rec
  reduction : List Rec
  delivery : List Rec
  deriving DecidableEq, Repr

/-- The module sections. -/
structure ModImage where
  cascade : Rec
  members : List Rec
  routes : List Rec
  layers : List Rec
  intake : List Rec
  plan : Rec
  deriving DecidableEq, Repr

/-- The structure loader (R67, R75). `busy` is the state of STRUCT_STATUS.STATE. -/
structure Loader where
  src : Nat
  len : Nat
  mask : Nat
  fetching : Bool
  image : List Byte
  /-- Targets still to be installed, the one being installed first. -/
  todo : List Nat
  deriving DecidableEq, Repr

/-- A stage that is running or parked on an engine. `pos` counts what it has done in its own unit (destination
parcels, element groups), `buf` holds the values of the destination parcel that it is buffering (R222, R241). -/
structure Run where
  letter : LetterId
  stage : Nat
  part : Nat
  node : Nat
  slot : Nat
  ctx : Nat
  parked : Bool
  pos : Nat
  buf : List (W32 × W32)
  /-- The route card that a vector stage has loaded (R238). -/
  card : List Byte
  deriving DecidableEq, Repr

/-- What a handshake channel carries: a drain or completion token, a drained output tile, a parcel with its side
record (R183, R184, R220). -/
inductive Item where
  | token (tile : Nat)
  | tile (tile : Nat) (vals : List W32)
  | parcel (idx : Nat) (payload side : List Byte)
  deriving DecidableEq, Repr

/-- A product on an array (R164-R197). `live` is the live bank row by row, none until it holds the tile's initial
value; `drain` is the other bank with its tile, while that bank holds one. -/
structure ArrRun where
  letter : LetterId
  stage : Nat
  /-- Output tile of the live bank; at the tile count when every pass has ended. -/
  tile : Nat
  next : Nat
  live : Option (List W32)
  drain : Option (Nat × List W32)
  fmtA : Nat
  fmtB : Nat
  /-- Tiles that have had a parity error in this letter (R196). -/
  faulted : List Nat
  /-- Tiles whose drain token has arrived (R183). -/
  tokens : List Nat
  /-- The drain mask, read when the first tile drains (R186). -/
  mask : Option (List Byte)
  /-- Saturations that the live and the draining bank have added to the letter's count, taken back with a discarded bank (R91, R196). -/
  sat : Nat
  drainSat : Nat
  deriving DecidableEq, Repr

/-- A delivery of streamed parcels for a letter (R157-R159): parcels by their index in the record. -/
structure Deliv where
  letter : LetterId
  part : Nat
  record : Nat
  issued : Nat
  landed : List Nat
  dropped : List Nat
  deriving DecidableEq, Repr

/-- A stash entry (R314-R318): its layer, where it lies while it has space, its size in units of 64 KiB, and the letter that stored
through its handle last. -/
structure Stash where
  layer : Nat
  parcels : Nat
  units : Nat
  base : Option Nat
  ovf : Bool
  writer : Option LetterId
  deriving DecidableEq, Repr

/-- A line of an E-tile's row cache (R288): one row with its stamp. -/
structure CacheLine where
  part : Nat
  node : Nat
  shard : Nat
  row : Nat
  payload : List Byte
  stamp : Nat
  deriving DecidableEq, Repr

/-! ### Reduction and exchange (R354-R368) -/

/-- What a reduction carries for a group: exponent, non-finite mask, words, modules summed (R360, R364). -/
structure Load where
  exp : Nat
  mask : List Byte
  words : List W32
  contrib : Nat
  deriving DecidableEq, Repr

/-- A group of a mailbag on this module. `phase` is 1 or 2, and 3 once its result is stored; `lvl` counts the dimensions
reduced in the phase; `val` is this module's partial, none once it has been sent on. -/
structure Grp where
  g : Nat
  phase : Nat
  lvl : Nat
  val : Option Load
  /-- Phase-one result: G and the mask. -/
  one : Option Load
  fails : Nat
  deriving DecidableEq, Repr

/-- A frame that has arrived before this module's group is ready for it (R357). -/
structure Early where
  part : Nat
  ctx : Nat
  mailbag : Nat
  g : Nat
  phase : Nat
  pass : Nat
  dim : Nat
  src : Nat
  load : Load
  /-- The STEP that it carries (R364). -/
  step : Nat
  deriving DecidableEq, Repr

/-- A group frame that has been sent and is kept for a NAK (R362). -/
structure Sent where
  part : Nat
  ctx : Nat
  mailbag : Nat
  g : Nat
  pass : Nat
  dim : Nat
  dir : Nat
  frame : List Byte
  deriving DecidableEq, Repr

/-- A mailbag on a channel (R354-R366). -/
structure Bag where
  part : Nat
  chan : Nat
  ctx : Nat
  gen : Nat
  step : Nat
  mailbag : Nat
  letter : LetterId
  stage : Nat
  key : Nat
  active : Bool
  ready : List Nat
  grps : List Grp
  /-- The channel's head has moved on: every phase-two frame that this module sends has left (R356). -/
  gone : Bool
  /-- Completed, with every result group stored (R359). -/
  done : Bool
  deriving DecidableEq, Repr

/-- One run of an EXCHANGE stage (R367). `counts` holds, by source, items and bytes; `got` the pieces that have been
written, by source and OFFSET. -/
structure Exch where
  letter : LetterId
  stage : Nat
  part : Nat
  xslot : Nat
  kind : Nat
  route : Nat
  ctx : Nat
  gen : Nat
  run : Nat
  counts : Map Nat (Nat × Nat)
  placed : Bool
  got : List (Nat × Nat × Nat)
  /-- Pieces that wait to be written: source, OFFSET, bytes. -/
  pend : List (Nat × Nat × List Byte)
  /-- Owners that have sent READY, and those that this E-tile has sent its data to. -/
  ready : List Nat
  sent : List Nat
  deriving DecidableEq, Repr

/-- A message of an exchange that is kept for a stage that has not started: context, route, XKIND, run, the E-tile it
is for and the E-tile it is from, with items and bytes (R367). -/
structure XNote where
  ctx : Nat
  route : Nat
  kind : Nat
  run : Nat
  dst : Nat
  src : Nat
  items : Nat
  bytes : Nat
  deriving DecidableEq, Repr

/-! ### Steps (R303-R337) -/

/-- A STEP_UPDATE in progress (R320-R329). -/
structure Upd where
  letter : LetterId
  ctx : Nat
  clip : W32
  skip : Bool
  parts : List Nat
  own : W64
  partials : Map Nat W64
  norm : Option W64
  deriving DecidableEq, Repr

/-- A step that the postmaster has to decide or has decided (R332): who has sent UPDATE_DONE, with SKIPPED and √S. -/
structure Poll where
  ctx : Nat
  step : Nat
  votes : Map Nat (Bool × W64)
  decided : Option Bool
  deriving DecidableEq, Repr

/-! ### Objects (R146-R156) -/

/-- A lodged object (R147). `slots` gives the index of its entry in each present partition's OBJECT_DIR region. -/
structure Obj where
  home : Nat
  tier : Nat
  iset : Nat
  size : Nat
  base : Nat
  state : Nat
  dirty : Bool
  sram : Nat
  pins : List Nat
  slots : Map Nat Nat
  /-- Stores held at the home directory (R152): the letter that waits, object offset and bytes, oldest first. -/
  held : List (Option (LetterId × Nat) × Nat × List Byte)
  /-- PROMOTE letters that joined the copy in flight. -/
  joiners : List LetterId
  /-- PROMOTE letters that wait for ABSENT, with their context and DEST. -/
  waiting : List (LetterId × Nat × Nat)
  /-- EVICT letters whose receipt waits. -/
  evicts : List LetterId
  deriving DecidableEq, Repr

/-! ### The commander link -/

/-- PCIe configuration space as far as other rules use it (R36, R371). -/
structure Pcie where
  memSpace : Bool
  busMaster : Bool
  mps : Nat
  mrrs : Nat
  msixEnable : Bool
  funcMask : Bool
  bar0 : W64
  bar2 : W64
  bar4 : W64
  bar2Log2 : Nat
  d3hot : Bool
  perst : Bool
  /-- Uncorrectable error status of AER (R371): bit 12 poisoned, 14 completion timeout, 20 unsupported request. -/
  aer : Nat
  /-- Configuration requests receive Configuration Request Retry Status. -/
  retry : Bool
  deriving DecidableEq, Repr

/-- Who waits for an answer from outside the module. -/
inductive Waiter where
  | letter (l : LetterId) (stage : Nat)
  | core (hart : Nat)
  | reader (l : LetterId)
  | loader
  /-- The reader, for the receipt of a letter: its status and its address (R105). -/
  | receipt (l : LetterId) (status addr : Nat)
  /-- The reader, for a notification (R118). -/
  | notify (l : LetterId) (addr : Nat)
  deriving DecidableEq, Repr

/-- A read of commander or pod memory: `data` is none while it is outstanding (R374, R350). -/
structure Remote where
  tag : Nat
  /-- The 10-bit PCIe tag of a read of commander memory while it is outstanding (R371). -/
  req : Nat
  addr : Nat
  len : Nat
  zero : Bool
  ctx : Option (Nat × Nat)
  who : Waiter
  /-- The target region that a flushing read is for (R377). -/
  region : Option Region
  data : Option (List Byte)
  deriving DecidableEq, Repr

/-- A store to another module's memory that is not acknowledged (R122, R343): the tagged address and who waits. -/
structure PodStore where
  tag : Nat
  addr : Nat
  dst : Nat
  ctx : Option (Nat × Nat)
  who : Waiter
  deriving DecidableEq, Repr

/-! ### Cores and coherence (R378-R390) -/

/-- A cached line of an agent: `st` is 1 S, 2 E, 3 M. -/
structure Line where
  part : Nat
  agent : Nat
  addr : Nat
  st : Nat
  data : List Byte
  /-- Granted in E or M, and the hold of R386 has not ended. -/
  hold : Bool
  deriving DecidableEq, Repr

/-! ### Functions, resets and teardown -/

/-- A queued enable or disable (R408), with the letter that asked for it. -/
structure FnReq where
  enable : Bool
  letter : Option LetterId
  deriving DecidableEq, Repr

/-- A generation marker on its way to the edges (R400), and the edges that have not latched it. -/
structure GenMarker where
  ctx : Nat
  gen : Nat
  state : Nat
  left : List Nat
  deriving DecidableEq, Repr

/-- Outstanding drain markers of a context reset or teardown (R403, R404). -/
structure Drain where
  ctx : Nat
  tear : Option LetterId
  oldGen : Nat
  cause : Nat
  paths : List DrainPath
  /-- Objects whose eviction the teardown started (R155). -/
  objs : List Nat
  /-- Partitions in which the context had a stage running or parked: the supply floor of R394 holds for them. -/
  parts : List Nat
  deriving DecidableEq, Repr

/-- An engine reset in progress (R396). -/
structure EngReset where
  part : Nat
  node : Nat
  slot : Nat
  suspects : List Nat
  named : Bool
  /-- Quiesce failed: the engine is out until a partition reset. -/
  abandoned : Bool
  deriving DecidableEq, Repr

/-- A partition reset in progress (R397): `fence` is true until step 6. -/
structure PartReset where
  part : Nat
  cause : Nat
  train : Bool
  fence : Bool
  ctxs : List Nat
  absorbed : List EngReset
  deriving DecidableEq, Repr

/-! ### Courier links (R340-R353) -/

/-- A frame that waits or is held for replay: the header fields of R343, the routing key g of R350 and the body. -/
structure Frame where
  kind : Nat
  vc : Nat
  dl : Nat
  src : Nat
  dst : Nat
  hdr : Nat
  key : Nat
  body : List Byte
  deriving DecidableEq, Repr

/-- A courier port beside its CRR_ registers (R344-R348, R465). -/
structure Port where
  /-- Replay buffer: LSEQ, times resent, frame; oldest first. -/
  replay : List (Nat × Nat × Frame)
  nextSeq : Nat
  expect : Nat
  /-- A NAK for the present gap has been sent. -/
  nakSent : Bool
  /-- Frames that wait for a credit or for the end of training. -/
  queue : List Frame
  /-- Credits held, by class: 0 is VC 0, 2 vc + dl - 1 the class (vc, dl). -/
  credits : Map Nat Nat
  /-- Try count k of R465. -/
  tries : Nat
  /-- A wait b of R465 or the 10 ms of R348 runs. -/
  backoff : Bool
  /-- The far end's HELLO has agreed. -/
  agreed : Bool
  acked : Bool
  /-- What the last CABLING_MISMATCH reported: module, port, role. -/
  mismatch : Option (Nat × Nat × Nat)
  cabled : Bool
  /-- Link training has completed (R455 step 8). -/
  linkUp : Bool
  downReported : Bool
  deriving DecidableEq, Repr

/-- The postmaster's records (R332, R352, R468). -/
structure Postmaster where
  /-- Admitted members with their serial numbers. -/
  admitted : Map Nat Nat
  /-- Ports last reported down: module and port. -/
  down : List (Nat × Nat)
  lost : List Nat
  opened : Bool
  polls : List Poll
  deriving DecidableEq, Repr

/-! ### What the block sends (log entry 8) -/

/-- Messages to the outside, in the order they are sent. -/
inductive Output where
  | pcieWrite (addr : Nat) (data : List Byte)
  | pcieRead (tag addr len : Nat)
  | pcieZeroRead (tag addr : Nat)
  | completion (data : List Byte) (poisoned : Bool)
  | cfgCompletion (value : W32)
  | cfgRetry
  | unsupported
  | msix (vector addr : Nat) (data : W32)
  | frame (port : Nat) (bytes : List Byte)
  /-- A message of the module's gate to itself, which takes no courier hop (R305). -/
  | own (bytes : List Byte)
  | officeReply (x : Nat) (data : List Byte)
  | officeDown (x : Nat)
  | memReply (data : List Byte)
  | memError
  | coreValue (hart : Nat) (value : Nat)
  | coreDone (hart : Nat)
  | coreFault (hart : Nat) (cause : Nat)
  | coreWait (hart : Nat)
  /-- A released hart begins at this address, in M-mode (R381). -/
  | coreStart (hart addr : Nat)
  /-- A message to the tray controller; bodies that DMTF and not the spec lays out are abstract. Kinds: 1 CYCLE_REQUEST,
  2 thermal trip, 3 PLDM event, 4 MCTP control, 5 firmware update, 6 PLDM base discovery, 7 sensor reading. -/
  | tray (kind : Nat) (args : List Nat)
  /-- An SPDM response: its code and its content (log entry 13). -/
  | spdm (tr : Transport) (code : Nat) (bytes : List Byte)
  deriving DecidableEq, Repr

/-! ### Power, the Clerk, management and security -/

/-- The input stage, the standby island and the Clerk's own variables (R417-R428, R474-R481). -/
structure Power where
  /-- The standby island has power (30 V or above). -/
  standby : Bool
  pwrEn : Bool
  /-- The rails behind the input switch are up. -/
  rails : Bool
  /-- OFF: only a power cycle leads out (R425, R476). -/
  off : Bool
  /-- Sampled straps: ADDR[2:0], REFCLK_MODE, FLASH_WP (R480). -/
  straps : Nat
  /-- The Clerk runs (R426). -/
  clerk : Bool
  gateLoaded : Bool
  authDone : Bool
  /-- Input-power samples of the last 10 ms, newest first, in watts, each with the core-rail power of the four
  partitions (R417, R421). -/
  samples : List (Nat × List Nat)
  millivolts : Nat
  /-- MEM_THROTTLE levels wanted by the power loop and the thermal loop, by partition (R142, R422). -/
  powerLevel : Map Nat Nat
  heatLevel : Map Nat Nat
  /-- Decisions since capping last acted; at 500 (10 ms) a POWER_CAPPED may be raised again (R423). -/
  uncapped : Nat
  floorRaised : Bool
  /-- Activity loops in a row in which a partition was idle (R419). -/
  idle : Map Nat Nat
  /-- Partitions that a thermal step lowered below their R418 voltage, as the voltage limit in mV (R424). -/
  heatVolt : Map Nat Nat
  /-- Dies above 105 °C, stacks above 105 °C that have raised their incident. -/
  hotDies : List Nat
  hotStacks : List Nat
  coolantHold : Nat
  supplyHold : Bool
  /-- Temperature of each stack at its last training (R417). -/
  trainedAt : Map (Nat × Nat) Nat
  /-- The pseudo-channel that the sweep of a stack retrains next (R417). -/
  sweeps : Map (Nat × Nat) Nat
  /-- FEC counts at the last 100 link upkeeps, newest first: corrected and uncorrectable, by port. -/
  fecSeen : Map Nat (List (Nat × Nat))
  /-- Read-through parcels already reported, by partition (R417). -/
  rtSeen : Map Nat Nat
  transition : Option Nat
  heldReq : Option Nat
  /-- A thermal trip has been latched since before the last power-up, and its incident is still to be raised (R425). -/
  tripDue : Bool
  deriving DecidableEq, Repr

/-- What an SPDM request that needs a signature asks for: a challenge, or measurements by index (R451). -/
inductive SpdmSigned where
  | challenge
  | measurements (index : Nat)
  deriving DecidableEq, Repr

/-- An SPDM connection of one transport (R449-R451): how far negotiation has come, and a deferred request. -/
structure Spdm where
  version : Bool
  caps : Bool
  algs : Bool
  /-- Messages since GET_VERSION: the transcript that a signature covers. -/
  transcript : List Byte
  deferred : Option SpdmSigned
  deriving DecidableEq, Repr

/-- A stored anchor record and the key that signed it (R444, R445). -/
structure Anchor where
  record : List Byte
  signerKey : List Byte
  deriving DecidableEq, Repr

/-- The security block's fuses and the module flash (R439-R445): what survives every reset. -/
structure Sec where
  fusedMin : Nat
  revoked : List Nat
  anchors : Map Nat Anchor
  flash : Option (List Byte)
  deriving DecidableEq, Repr

/-- An access that is held until a partition's install, a retraining or the hold of a line ends (R71, R144, R386). -/
inductive Held where
  /-- An access through BAR2, by the module-local address that it had when it was received (R41). -/
  | bar2Read (addr len : Nat)
  | bar2Write (addr : Nat) (data : List Byte)
  /-- A register write held at a sorting office for partition p (R71): its requester, its MMIO offset and length, and the command that
  it is. -/
  | cmd (p : Nat) (v : Via) (off len : Nat) (i : Instr)
  /-- A write of an H-die's to its directory region, held with its line (R386). -/
  | hdie (addr : Nat) (data : List Byte)
  /-- A device's own store: a ring record or a notification, with the letter whose NOTIFY it is (R118, R411). -/
  | own (p : Option Nat) (addr : Nat) (data : List Byte) (note : Option LetterId)
  /-- A store by identifier that an object directory has let go to a copy of its object (R152). -/
  | obj (p addr : Nat) (data : List Byte) (letter : Option (LetterId × Nat))
  | core (hart : Nat) (mode : CoreMode) (addr : Nat) (op : CoreOp)
  | office (x : Nat) (r : SortReq)
  | burst (r : MemReq)
  | dir (p line : Nat) (r : DirReq)
  /-- A request of another module that arrived in partition p (R343). -/
  | pod (p : Nat) (f : Frame)
  deriving DecidableEq, Repr

/-- The module as far as commands other than those on the fuses change it. -/
structure Dev where
  /-- The model's own counter, from which free values are drawn. -/
  tick : Nat
  regs : Map Reg W64
  mem : Mem
  out : List Output
  /-- Each die's latched epoch and event count (R86, R87). -/
  dies : Map Nat (Nat × Nat)
  /-- The epoch marker in flight and the dies it has not reached (R88). -/
  epochMarker : Option (Nat × List Nat)
  epochHeld : Option Nat
  ctxs : Map Nat Ctx
  /-- Each edge's own copy of a context's generation and state (R400). -/
  edges : Map (Nat × Nat) (Nat × Nat)
  markers : List GenMarker
  drains : List Drain
  /-- Generation advances that wait under R402: context, and the cause of its context reset. -/
  advances : List (Nat × Nat)
  modImage : Option ModImage
  parts : Map Nat PartImage
  loader : Loader
  mbx : Map Nat Mbx
  letters : List Letter
  /-- Cached translations: (context, 2 MiB page) to the leaf entry and its level (R101). -/
  tlb : Map (Nat × Nat) (Nat × Nat)
  objs : Map Nat Obj
  pcie : Pcie
  remotes : List Remote
  nextTag : Nat
  /-- Zero-length reads that wait for a PCIe tag: letter, address and region (R371, R374). -/
  flushWait : List (LetterId × Nat × Option Region)
  lines : List Line
  /-- Load reservations of the harts, by line (R379). -/
  reservations : Map Nat Nat
  /-- Pending identities of the interrupt files, one bit each (R382). -/
  imsic : Map (Nat × ImsicFile) Nat
  fns : Map FnId (List FnReq)
  engResets : List EngReset
  partResets : List PartReset
  /-- Incidents held before any ring is enabled: the ring (a partition, or none for the module's) and the record. -/
  incHeld : List (Option Nat × List Byte)
  incSeen : Bool
  /-- Rings whose next record carries LOST_BEFORE (R411). -/
  incLost : List (Option Nat)
  ports : Map Nat Port
  post : Postmaster
  podStores : List PodStore
  /-- Requests that wait for the acknowledgements of stores sent under an old mapping of a direction, by dimension and
  direction: the stores' tags, and the request frames (R351). -/
  remap : Map (Nat × Nat) (List Nat × List Frame)
  /-- A JOIN has been answered since the structure was installed (R468). -/
  joined : Bool
  /-- Flooded REFUSE, CASCADE_OPEN and MEMBER_LOST messages that have been passed on (R332, R467). -/
  floods : List (List Byte)
  /-- Pseudo-channels that are retraining: partition, stack, channel, pseudo-channel (R144). -/
  retrains : List (Nat × Nat × Nat × Nat)
  /-- Step 4 of the power-up sequence has passed: the partitions are powered (R455, R491). -/
  stepFour : Bool
  /-- What handshake channels hold, by letter, consumer partition and channel. -/
  chans : Map (LetterId × Nat × Nat) (List Item)
  /-- Tiles that wait for a franker, in the order in which they completed: the letter, the partition and the channel (R222). -/
  tileOrder : List (LetterId × Nat × Nat)
  /-- Products on the arrays and those parked, by partition, tile and array. -/
  arrs : Map (Nat × Nat × Nat) ArrRun
  parked : Map (Nat × Nat × Nat) ArrRun
  delivs : List Deliv
  /-- Stages that wait for their engine: letter and stage. -/
  waits : List (LetterId × Nat)
  /-- The M-tiles' store of block sums, by partition, node and parcel slot (R216). -/
  sums : Map (Nat × Nat × Nat) (List FV)
  /-- Stash entries by partition, context and handle. -/
  stash : Map (Nat × Nat × Nat) Stash
  runs : List Run
  power : Power
  held : List Held
  /-- Instruction-cache lines of the harts, not snooped (R378). -/
  icache : Map (Nat × Nat) (List Byte)
  spdm : Map Transport Spdm
  /-- The transport whose signature the signing unit is making (R451). -/
  signing : Option Transport
  i3cAddr : Option Nat
  /-- A security operation that waits for the loader (R446). -/
  secWait : Option (Nat × List Byte)
  /-- The gate section of the image that the boot ROM accepted (R440 step 4). -/
  gateImage : List Byte
  /-- The counter value from which the nonces of die authentication are drawn (R438). -/
  authNonce : Nat
  /-- Partitions whose stacks train at the next step 9: all after a power-up, those with a lost channel after a chip reset (R399,
  R455, R460). -/
  trains : List Nat
  /-- Letters with a RECEIPT_EARLY receipt whose stores no SEAL has completed yet (R123, R124). -/
  early : List Letter
  /-- Open evaluation brackets: context to step (R337). -/
  evals : Map Nat Nat
  rowCache : List CacheLine
  /-- Partitions in which letters of the open step have run a stage, by context (R306). -/
  stepParts : Map Nat (List Nat)
  updates : List Upd
  /-- Decisions that this module has received for its open steps: context and STEP, true for COMMIT (R332). -/
  decisions : Map (Nat × Nat) Bool
  bags : List Bag
  /-- Records gone in the current cycle, by partition, channel and context (R356). -/
  cycles : Map (Nat × Nat × Nat) Nat
  /-- Positions whose mailbag was over before the head reached them, by partition, channel and context (R356, R359). -/
  redPast : List ((Nat × Nat × Nat) × Nat)
  redEarly : List Early
  redSent : List Sent
  /-- Group frames that wait for a group credit: channel, dimension, direction and frame (R357). -/
  redWait : List (Nat × Nat × Nat × Frame)
  /-- Check failures of groups that have no record here yet: partition, context, mailbag and group (R362). -/
  redFails : Map (Nat × Nat × Nat × Nat) Nat
  /-- The STEP in which a mailbag last failed here, by partition, context and mailbag (R362). -/
  redFailed : Map (Nat × Nat × Nat) Nat
  /-- Mailbags that another module has reported bad: partition, context, mailbag (R362). -/
  redBad : List (Nat × Nat × Nat)
  exchs : List Exch
  xcounts : List XNote
  xready : List XNote
  /-- Runs of an EXCHANGE stage so far, and at the last STEP_BEGIN, by context, route and stage (R367). -/
  xruns : Map (Nat × Nat × Nat) Nat
  xbase : Map (Nat × Nat × Nat) Nat
  /-- Register writes of cores and engines on their way to the register's own command (R7). -/
  posted : List Instr

  deriving DecidableEq, Repr

/-- The state: the queue of commands that wait, first in first out, the fuses and stores of the security block, and
everything else. -/
structure State where
  pending : List Instr
  sec : Sec
  dev : Dev

  deriving DecidableEq, Repr

/-- Why a step faults. No meaning of this block faults: the spec gives every command an effect, and an error of an
access is part of that effect. -/
inductive Fault where
  /-- Raised by no meaning. -/
  | stuck
  deriving DecidableEq, Repr

/-- Why a command is refused. -/
inductive Refusal where
  /-- Raised by the dispatcher for a command without a meaning; safe: no effect is claimed. -/
  | notModelled (mnemonic : String)
  deriving DecidableEq, Repr

/-- The context table after chip reset: every context CLOSED with generation 0 (R97). -/
def Ctx.reset : Ctx := ⟨0, 0, 0#64, 0, []⟩
def Mbx.reset : Mbx := ⟨0#32, 0⟩
def Loader.reset : Loader := ⟨0, 0, 0, false, [], []⟩

def Port.reset : Port := ⟨[], 0, 0, false, [], [], 0, false, false, false, none, false, false, false⟩

/-- The input stage before power: nothing is applied. -/
def Power.reset : Power :=
  { standby := false, pwrEn := false, rails := false, off := false, straps := 0, clerk := false, gateLoaded := false,
    authDone := false, samples := [], millivolts := 0, powerLevel := [], heatLevel := [], uncapped := 500,
    floorRaised := false, idle := [], heatVolt := [], hotDies := [], hotStacks := [], coolantHold := 0,
    supplyHold := false, trainedAt := [], sweeps := [], fecSeen := [], rtSeen := [], transition := none, heldReq := none, tripDue := false }

/-- Fuses and flash as shipped: no SVN fuse and no revocation fuse blown, no anchor but Garzal's, no image
(the fitted image is not given: log entry 5). -/
def Sec.reset : Sec := ⟨0, [], [], none⟩

/-- Configuration space after a reset of the link: BARs off, 128-byte payloads, 512-byte read requests (PCIe's own
values, PRESUMED, log entry 9). -/
def Pcie.reset : Pcie :=
  { memSpace := false, busMaster := false, mps := 128, mrrs := 512, msixEnable := false, funcMask := false,
    bar0 := 0#64, bar2 := 0#64, bar4 := 0#64, bar2Log2 := 38, d3hot := false, perst := false, aer := 0, retry := true }

/-- The module right after reset: every register at its reset value, memory with nothing listed. -/
def Dev.reset : Dev :=
  { tick := 0, regs := [], mem := ⟨[], [], []⟩, out := [], dies := [], epochMarker := none, epochHeld := none,
    ctxs := [], edges := [], markers := [], drains := [], advances := [], modImage := none, parts := [],
    loader := Loader.reset, mbx := [], letters := [], tlb := [], objs := [], pcie := Pcie.reset, remotes := [],
    nextTag := 0, flushWait := [], lines := [], reservations := [], imsic := [], fns := [], engResets := [],
    partResets := [], incHeld := [], incSeen := false, incLost := [],
    ports := [], post := ⟨[], [], [], false, []⟩, podStores := [], remap := [], joined := false, floods := [],
    retrains := [], stepFour := false, chans := [], tileOrder := [], arrs := [], parked := [], delivs := [], waits := [], sums := [],
    stash := [], runs := [], power := Power.reset, held := [], icache := [], spdm := [], signing := none, i3cAddr := none,
    secWait := none, gateImage := [], authNonce := 0, trains := [0, 1, 2, 3], early := [], evals := [], rowCache := [],
    stepParts := [], updates := [], decisions := [], bags := [], cycles := [], redPast := [], redEarly := [], redSent := [], redWait := [], redFails := [], redFailed := [],
    redBad := [], exchs := [], xcounts := [], xready := [],
    xruns := [], xbase := [], posted := [] }

/-- The machine right after reset, with an empty queue. -/
def State.reset : State := { pending := [], sec := Sec.reset, dev := Dev.reset }

/-- Apply a change of everything but the queue and the fuses. -/
def State.onDev (s : State) (f : Dev → Dev) : State := { s with dev := f s.dev }

end Sys2Proof.Machine
end

