-- ==== Sys2Proof/Machine/Ops.lean ====
section
/-! DEFINITION. Shared operations over memory, registers, event stamps, incidents and letters. -/

namespace Sys2Proof.Machine

/-! ### Sorting -/

/-- Put an element before the first that is not below it. -/
def insertBy {α : Type} (le : α → α → Bool) (a : α) : List α → List α
  | [] => [a]
  | b :: l => if le a b then a :: b :: l else b :: insertBy le a l

/-- Stable sort. -/
def sortBy {α : Type} (le : α → α → Bool) : List α → List α
  | [] => []
  | a :: l => insertBy le a (sortBy le l)

/-- Ascending numbers. -/
def sortNat : List Nat → List Nat := sortBy fun a b => decide (a ≤ b)

/-! ### Memory -/

/-- The draw of the undefined range that covers an address, if one does. -/
def holeAt (hs : List Hole) (a : Nat) : Option Nat :=
  (hs.find? fun h => h.lo ≤ a ∧ a < h.hi).map (·.draw)

/-- What an address reads as when no cell lists it: a free value inside an undefined range, else 0. -/
def Mem.unlisted (m : Mem) (a : Nat) : Byte :=
  match holeAt m.holes a with
  | some k => Config.freeByte k a
  | none => 0#8

def cellGet? : List Host.Cell → Nat → Option Byte
  | [], _ => none
  | (b, v) :: cs, a => if b = a then some v else cellGet? cs a

/-- One byte of memory. -/
def Mem.get (m : Mem) (a : Nat) : Byte := (cellGet? m.cells a).getD (m.unlisted a)

/-- A run of bytes of memory. -/
def Mem.read (m : Mem) (a len : Nat) : List Byte := (List.range len).map fun i => m.get (a + i)

/-- The cells that a run of bytes needs: zeros outside undefined ranges are left unlisted. -/
def newCells (hs : List Hole) : Nat → List Byte → List Host.Cell
  | _, [] => []
  | a, b :: bs =>
    if b = 0#8 ∧ (holeAt hs a).isNone then newCells hs (a + 1) bs else (a, b) :: newCells hs (a + 1) bs

/-- Write a run of bytes; the cells keep their canonical form. -/
def Mem.write (m : Mem) (a : Nat) (bs : List Byte) : Mem :=
  { m with
    cells := m.cells.filter (·.1 < a) ++ newCells m.holes a bs ++ m.cells.filter (a + bs.length ≤ ·.1),
    bad := m.bad.filter fun b => ¬ (a ≤ b * 64 ∧ b * 64 + 64 ≤ a + bs.length) }

/-- Take a range out of an undefined range. -/
def Hole.minus (h : Hole) (lo hi : Nat) : List Hole :=
  if h.hi ≤ lo ∨ hi ≤ h.lo then [h]
  else (if h.lo < lo then [{ h with hi := lo }] else []) ++ (if hi < h.hi then [{ h with lo := hi }] else [])

/-- Zero a range (R71, R397). -/
def Mem.zero (m : Mem) (lo hi : Nat) : Mem :=
  { cells := m.cells.filter fun c => ¬ (lo ≤ c.1 ∧ c.1 < hi),
    holes := m.holes.flatMap (·.minus lo hi),
    bad := m.bad.filter fun b => ¬ (lo ≤ b * 64 ∧ b * 64 < hi) }

/-- Make a range undefined from draw k on. -/
def Mem.undefine (m : Mem) (lo hi k : Nat) : Mem :=
  { cells := m.cells.filter fun c => ¬ (lo ≤ c.1 ∧ c.1 < hi),
    holes := ⟨lo, hi, k⟩ :: m.holes.flatMap (·.minus lo hi),
    bad := m.bad }

/-- Addresses strictly rise from a bound on. -/
def rising : Nat → List Host.Cell → Bool
  | _, [] => true
  | b, (a, _) :: cs => b ≤ a && rising (a + 1) cs

/-- The canonical form: addresses strictly rise, and outside undefined ranges no cell holds 0. -/
def Mem.wf (m : Mem) : Bool :=
  rising 0 m.cells && m.cells.all fun c => !(c.2 = 0#8 && (holeAt m.holes c.1).isNone)

/-- A burst that the range touches holds an uncorrectable error. -/
def Mem.isBad (m : Mem) (a len : Nat) : Bool := m.bad.any fun b => b * 64 < a + len ∧ a < b * 64 + 64

/-! ### Registers -/

def Dev.reg (d : Dev) (r : Reg) : W64 := mapGet d.regs r r.reset
def Dev.regN (d : Dev) (r : Reg) : Nat := (d.reg r).toNat
def Dev.setReg (d : Dev) (r : Reg) (v : W64) : Dev := { d with regs := mapSet d.regs r v }
/-- Field [hi:lo] of a register. -/
def Dev.fld (d : Dev) (r : Reg) (hi lo : Nat) : Nat := fget (d.reg r) hi lo
def Dev.setFld (d : Dev) (r : Reg) (hi lo n : Nat) : Dev := d.setReg r (fset (d.reg r) hi lo n)
def Dev.bit (d : Dev) (r : Reg) (i : Nat) : Bool := d.fld r i i = 1
def Dev.setBit (d : Dev) (r : Reg) (i : Nat) (b : Bool) : Dev := d.setFld r i i (if b then 1 else 0)
/-- Add to a saturating count in field [hi:lo]. -/
def Dev.addFld (d : Dev) (r : Reg) (hi lo k : Nat) : Dev :=
  d.setFld r hi lo (satAdd (hi + 1 - lo) (d.fld r hi lo) k)
/-- Add to a saturating 32-bit counter. -/
def Dev.count (d : Dev) (r : Reg) (k : Nat) : Dev := d.addFld r 31 0 k
/-- Add to a wrapping 64-bit counter. -/
def Dev.wrap (d : Dev) (r : Reg) (k : Nat) : Dev := d.setReg r (d.reg r + BitVec.ofNat 64 k)
/-- Add to a saturating 64-bit counter. -/
def Dev.count64 (d : Dev) (r : Reg) (k : Nat) : Dev := d.addFld r 63 0 k

def Dev.send (d : Dev) (o : Output) : Dev := { d with out := d.out ++ [o] }

/-- Draw a fresh counter value for a free value. -/
def Dev.draw (d : Dev) : Nat × Dev := (d.tick, { d with tick := d.tick + 1 })

/-- Apply an update for each element of a list, in order. -/
def Dev.each {α : Type} (d : Dev) (l : List α) (f : Dev → α → Dev) : Dev := l.foldl f d

/-! ### The address map (R25-R28, R33) -/

/-- Sizes of the SRAM of a node's die (R9, R26); nodes 0-19 are windows 0-19. -/
def sramSize (node : Nat) : Nat :=
  if node < 12 then 24 * 2 ^ 20 else if node < 16 then 32 * 2 ^ 20 else if node < 18 then 12 * 2 ^ 20
  else if node = 18 then 16 * 2 ^ 20 else if node = 19 then 128 * 2 ^ 20 else 0

/-- The base of SRAM window w of partition p (R26). -/
def windowBase (p w : Nat) : Nat := 0x200000000000 + (32 * p + w) * 0x10000000
/-- The base of partition p's slab (R25). -/
def slabBase (p : Nat) : Nat := p * 0x10000000000
/-- The base of the MMIO range (R25). -/
def mmioBase : Nat := 0x3F0000000000

/-- Where a module-local address lies (R25). -/
inductive Place where
  | slab (p : Nat)
  | window (p w off : Nat)
  | mmio (off : Nat)
  | unmapped
  deriving DecidableEq, Repr

def place (a : Nat) : Place :=
  if a < 0x40000000000 then .slab (a / 0x10000000000)
  else if 0x200000000000 ≤ a ∧ a < 0x200800000000 then
    let w := (a - 0x200000000000) / 0x10000000
    .window (w / 32) (w % 32) (a % 0x10000000)
  else if mmioBase ≤ a ∧ a < mmioBase + 0x100000000 then .mmio (a - mmioBase)
  else .unmapped

/-- A tagged address, taken apart (R33). -/
inductive Tagged where
  | localAddr (a : Nat)
  | pod (m a : Nat)
  | host (a : Nat)
  | bad
  deriving DecidableEq, Repr

def untag (t : Nat) : Tagged :=
  if 2 ^ 56 ≤ t then .bad else
  match t / 2 ^ 54 with
  | 0 => if t < 2 ^ 46 then .localAddr t else .bad
  | 1 => .pod (bitsN t 53 46) (t % 2 ^ 46)
  | 2 => .host (t % 2 ^ 54)
  | _ => .bad

/-! ### Engines (R415) -/

/-- The slot of an engine of a kind on its node (R415). -/
def slotOf (kind arr : Nat) : Nat :=
  match kind with
  | 0 => arr | 1 => 4 | 2 => 5 | 3 => 0 | 4 => 1 | 5 => 2 | 6 => 0 | 7 => 1 | 8 => 0 | _ => 1

/-- How many engine slots a node has (R415). -/
def slotCount (node : Nat) : Nat :=
  if node < 12 then 6 else if node < 16 then 3 else if node < 19 then 2 else 0

/-! ### Event stamps (R86-R88) -/

def dieGate : Nat := 98
def dieClerk : Nat := 99
/-- A node's die; base dies are recorded by the H-die (R86). -/
def dieOf (p node : Nat) : Nat := 24 * p + (if 24 ≤ node then 19 else node)

/-- Record an event on a die: the stamp it carries, with the count then advanced (R86, R87). -/
def Dev.stamp (d : Dev) (die : Nat) : Nat × Dev :=
  let ec := mapGet d.dies die (0, 0)
  (ec.2 + die * 2 ^ 32 + ec.1 * 2 ^ 40, { d with dies := mapSet d.dies die (ec.1, satAdd 32 ec.2 1) })

/-- An event without a record. -/
def Dev.event (d : Dev) (die : Nat) : Dev := (d.stamp die).2

/-! ### Messages to the commander (R118, R371) -/

/-- Table entry v of the MSI-X table as words: address, data, vector control. -/
def Dev.msixMasked (d : Dev) (v : Nat) : Bool :=
  d.bit (.msixEntry (4 * v + 3)) 0 || d.pcie.funcMask || !d.pcie.msixEnable

def Dev.msixSendNow (d : Dev) (v : Nat) : Dev :=
  d.send (.msix v (d.regN (.msixEntry (4 * v)) + 2 ^ 32 * d.regN (.msixEntry (4 * v + 1)))
    ((d.reg (.msixEntry (4 * v + 2))).truncate 32))

/-- Notify vector v: the message, or the pending bit while it is masked (R118). -/
def Dev.msix (d : Dev) (v : Nat) : Dev :=
  if d.msixMasked v then d.setBit (.msixPba (v / 64)) (v % 64) true else d.msixSendNow v

/-- Raise an identity in an interrupt file (R382). -/
def Dev.setip (d : Dev) (hart : Nat) (f : ImsicFile) (ident : Nat) : Dev :=
  if 1 ≤ ident ∧ ident ≤ 255 then
    { d with imsic := mapSet d.imsic (hart, f) (mapGet d.imsic (hart, f) 0 ||| 2 ^ ident) }
  else d

/-- The interrupt file at an MMIO offset (R382). -/
def imsicAt (off : Nat) : Option (Nat × ImsicFile) :=
  if 0x10000000 ≤ off ∧ off < 0x14000000 then
    let p := (off - 0x10000000) / 0x1000000
    let q := off % 0x1000000
    let hit := fun base f => if base ≤ q ∧ q < base + 48 * 0x1000 ∧ q % 0x1000 = 0 then
      some (48 * p + (q - base) / 0x1000, f) else none
    (hit 0x40000 ImsicFile.machine).orElse fun _ => (hit 0x80000 .supervisor).orElse fun _ => hit 0xC0000 .guest
  else none

/-! ### Partition states (R24, R397, R491) -/

/-- The sorting offices answer for the partition: it is in reset, fenced or degraded (R24, R495). -/
def Dev.down (d : Dev) (p : Nat) : Bool := d.bit (.sortStatus 0) p
def Dev.setDown (d : Dev) (p : Nat) (b : Bool) : Dev :=
  (d.setBit (.sortStatus 0) p b).setBit (.sortStatus 1) p b
/-- A reset of the partition runs, up to step 6 of R397. -/
def Dev.resetting (d : Dev) (p : Nat) : Bool := d.fld (.fltStatus p) 1 0 = 1
/-- PWR_STATE.STATE: 0 ACTIVE, 1 IDLE, 2 DROWSE (R434). -/
def powerState (d : Dev) : Nat := d.fld .pwrState 1 0
/-- A transition to a power state begins (R428). -/
def Dev.powerBegin (d : Dev) (t : Nat) : Dev := { d with power := { d.power with transition := some t } }.setBit .pwrState 2 true
def Dev.installed (d : Dev) (p : Nat) : Bool := d.fld .structPartState (4 * p + 3) (4 * p) = 1
def Dev.installing (d : Dev) (p : Nat) : Bool := d.fld .structPartState (4 * p + 3) (4 * p) = 2
def Dev.trained (d : Dev) (p : Nat) : Bool := d.bit (.memStatus p) 0
def Dev.degraded (d : Dev) (p : Nat) : Bool := d.bit (.memStatus p) 1
def Dev.gateReady (d : Dev) : Bool := 2 ≤ d.fld .gateBoot 2 0
def Dev.memReady (d : Dev) : Bool := d.fld .gateBoot 2 0 = 3

/-- Stack, channel and pseudo-channel of a slab address, and its offset there (R133, R134). -/
structure PcLoc where
  stack : Nat
  chan : Nat
  pc : Nat
  off : Nat
  deriving DecidableEq, Repr

def pcLoc (iset : Nat) (a : Nat) : PcLoc :=
  let a := a % 2 ^ 40
  let s := bitsN a 39 36
  let g := bitsN a 35 11
  let q := if bitN iset s then bitsN g 8 0 ^^^ bitsN g 17 9 ^^^ bitsN g 24 18 else bitsN g 8 0
  { stack := bitsN q 2 0, pc := bitsN q 3 3, chan := bitsN q 8 4,
    off := s * 0x8000000 + bitsN g 24 9 * 0x800 + bitsN a 10 0 }

/-- The granules that a range touches. -/
def granules (a len : Nat) : List Nat :=
  if len = 0 then [] else (List.range ((a + len - 1) / 2048 - a / 2048 + 1)).map fun i => (a / 2048 + i) * 2048

/-- The range meets a lost channel (R145). -/
def Dev.lostAt (d : Dev) (p a len : Nat) : Bool :=
  (granules a len).any fun g =>
    let l := pcLoc (d.regN (.memSegIset p)) g
    d.bit (.memChanLost p l.stack) l.chan

end Sys2Proof.Machine
end

