-- ==== Sys2Proof/Machine/Operands.lean ====
section
/-! DEFINITION. The operand forms: fields of structure records (R47-R60), and the operands and words of a letter's body
(R106, R107). -/

namespace Sys2Proof.Machine

/-! ### Structure records (R47-R60) -/

def recU (r : Rec) (off len : Nat) : Nat := field r off len

/-- CARVE records of a partition: node, region, offset, length (R55). -/
def carves (d : Dev) (p : Nat) : List Rec := ((mapGet? d.parts p).map (·.carve)).getD []
def carveNode (r : Rec) : Nat := recU r 0 1
def carveRegion (r : Rec) : Nat := recU r 1 1
def carveOff (r : Rec) : Nat := recU r 4 4
def carveLen (r : Rec) : Nat := recU r 8 4

/-- The regions of one type on a node, as (window address, length). -/
def regions (d : Dev) (p node region : Nat) : List (Nat × Nat) :=
  ((carves d p).filter fun r => carveNode r = node ∧ carveRegion r = region).map fun r =>
    (windowBase p node + carveOff r, carveLen r)

/-- An address lies in one of the ranges. -/
def inRanges (rs : List (Nat × Nat)) (a : Nat) : Bool := rs.any fun r => r.1 ≤ a ∧ a < r.1 + r.2

/-- Stage records of a partition (R53). -/
def stRoute (r : Rec) : Nat := recU r 0 2
def stIndex (r : Rec) : Nat := recU r 2 1
def stKind (r : Rec) : Nat := recU r 3 1
def stNode (r : Rec) : Nat := recU r 4 1
def stArr (r : Rec) : Nat := recU r 5 1
def stLayer (r : Rec) : Nat := recU r 6 2
def stInA (r : Rec) : Nat := recU r 8 2
def stInB (r : Rec) : Nat := recU r 10 2
def stOutA (r : Rec) : Nat := recU r 12 2
def stOutB (r : Rec) : Nat := recU r 14 2
def stOpts (r : Rec) : Rec := slice r 16 16

/-- Route directory records (R49). -/
def rtNumber (r : Rec) : Nat := recU r 0 2
def rtParts (r : Rec) : Nat := recU r 2 1 % 16
def rtForwardOnly (r : Rec) : Bool := bitN (recU r 3 1) 0
def rtPreemptible (r : Rec) : Bool := bitN (recU r 3 1) 1
def rtStages (r : Rec) : Nat := recU r 4 1
def rtLookahead (r : Rec) : Nat := recU r 5 1

/-- Layer records (R50). -/
def lyNumber (r : Rec) : Nat := recU r 0 2
def lyOpts (r : Rec) : Nat := recU r 2 1
def lyParts (r : Rec) : Nat := recU r 3 1 % 16
def lyMaskObj (r : Rec) : Nat := recU r 4 3
def lyRank (r : Rec) : Nat := recU r 8 2
def lyAdapter (r : Rec) : Nat := recU r 10 2
def lyTieGroup (r : Rec) : Nat := recU r 12 2

def routesOf (d : Dev) : List Rec := (d.modImage.map (·.routes)).getD []
def layersOf (d : Dev) : List Rec := (d.modImage.map (·.layers)).getD []
def findRoute (d : Dev) (r : Nat) : Option Rec := (routesOf d).find? fun x => rtNumber x = r
def findLayer (d : Dev) (n : Nat) : Option Rec := (layersOf d).find? fun x => lyNumber x = n
/-- The bit set of a mask, as a list of partitions. -/
def maskParts (m : Nat) : List Nat := (List.range 4).filter fun p => bitN m p
def partsMask (ps : List Nat) : Nat := ps.foldl (fun m p => m ||| 2 ^ p) 0

/-- A stage of a route, with its partition. -/
def findStage (d : Dev) (route stage : Nat) : Option (Nat × Rec) :=
  (List.range 4).findSome? fun p =>
    (((mapGet? d.parts p).map (·.stages)).getD []).find? (fun r => stRoute r = route ∧ stIndex r = stage)
      |>.map fun r => (p, r)

/-- The module number (R76). -/
def modNumber (d : Dev) : Nat := d.fld .structModuleNumber 7 0
/-- Member records of the installed cascade (R48). -/
def membersOf (d : Dev) : List Rec := (d.modImage.map (·.members)).getD []
def isMember (d : Dev) (m : Nat) : Bool := (membersOf d).any fun r => recU r 0 1 = m

/-! ### Letters -/

/-- Little-endian operand of a letter's body. -/
def Letter.opnd (x : Letter) (off len : Nat) : Nat := field x.body off len

/-- Operand word i of a RUN_ROUTE letter (R107). -/
def Letter.word (x : Letter) (i : Nat) : Nat := field x.body (8 * i) 8
def Letter.nWords (x : Letter) : Nat := x.encLen / 8

end Sys2Proof.Machine
end

