-- ==== Sys2Proof/Machine/Frames.lean ====
section
/-! DEFINITION. Courier frames: their bytes, the way they take through the torus, credits and the replay buffer
(R343-R351). -/

namespace Sys2Proof.Machine

/-- The class of a frame for credits (R345). -/
def Frame.cls (f : Frame) : Nat := if f.vc = 0 then 0 else 2 * f.vc + f.dl - 1

/-- Places of a class in a crossing buffer (R345). -/
def classPlaces (c : Nat) : Nat := if c = 0 then 2 else 5

/-- The bytes of a frame: header, body, CRC-32C trailer (R343). -/
def Frame.bytes (f : Frame) (lseq lack : Nat) : List Byte :=
  let h := natLe 8 (f.kind + f.vc * 2 ^ 4 + f.dl * 2 ^ 6 + f.src * 2 ^ 8 + f.dst * 2 ^ 16 + lseq % 4096 * 2 ^ 24 +
      lack % 4096 * 2 ^ 36 + f.body.length * 2 ^ 48) ++ natLe 8 f.hdr
  let hb := h ++ f.body
  hb ++ natLe 4 (crc32c hb).toNat ++ natLe 4 0

/-- A received frame with its LSEQ and LACK, when its KIND, LEN and CRC are good (R343). -/
def Frame.parse (b : List Byte) : Option (Frame × Nat × Nat) :=
  let h := field b 0 8
  let n := bitsN h 60 48
  let kind := bitsN h 3 0
  if b.length = n + 24 ∧ field b (16 + n) 4 = (crc32c (b.take (16 + n))).toNat ∧
     ((kind = 1 ∧ n = 16) ∨ (kind = 2 ∧ n ≤ 256) ∨ (kind = 3 ∧ n = 4608) ∨ (kind = 4 ∧ n = 5312)) then
    some ({ kind := kind, vc := bitsN h 5 4, dl := bitsN h 6 6, src := bitsN h 15 8, dst := bitsN h 23 16,
            hdr := field b 8 8, key := 0, body := slice b 16 n }, bitsN h 35 24, bitsN h 47 36)
  else none

def Dev.port (d : Dev) (n : Nat) : Port := mapGet d.ports n Port.reset
def Dev.setPort (d : Dev) (n : Nat) (p : Port) : Dev := { d with ports := mapSet d.ports n p }
/-- CRR_PORT_STATUS.STATE: 0 DISABLED, 1 CLOSED, 2 OPENING, 3 OPEN, 4 TRAINING, 5 DOWN, 6 DISABLING. -/
def Dev.portState (d : Dev) (n : Nat) : Nat := d.fld (.crrPortStatus n) 2 0
def Dev.setPortState (d : Dev) (n s : Nat) : Dev := d.setFld (.crrPortStatus n) 2 0 s
def Dev.portRole (d : Dev) (n : Nat) : Nat := d.fld (.crrPortRole n) 7 0

/-! ### Coordinates and directions (R347, R350) -/

def memberRec (d : Dev) (m : Nat) : Option Rec := (membersOf d).find? fun r => recU r 0 1 = m
/-- Coordinate of a member in a dimension. -/
def coord (d : Dev) (m dim : Nat) : Nat := ((memberRec d m).map fun r => recU r (1 + dim) 1).getD 0
def dimSize (d : Dev) (dim : Nat) : Nat := (d.modImage.map fun i => recU i.cascade (2 + dim) 1).getD 1
def dimMode (d : Dev) (dim : Nat) : Nat := (d.modImage.map fun i => bitsN (recU i.cascade 5 1) (2 * dim + 1) (2 * dim)).getD 0
/-- The member at given coordinates. -/
def memberAt (d : Dev) (x y z : Nat) : Option Nat :=
  ((membersOf d).find? fun r => recU r 1 1 = x ∧ recU r 2 1 = y ∧ recU r 3 1 = z).map fun r => recU r 0 1
/-- The neighbour of a module in a dimension, plus (0) or minus (1) (R347). -/
def neighbour (d : Dev) (m dim dir : Nat) : Option Nat :=
  let n := dimSize d dim
  let c := coord d m dim
  let c' := if dir = 0 then (c + 1) % n else (c + n - 1) % n
  let at_ := fun k => if k = dim then c' else coord d m k
  memberAt d (at_ 0) (at_ 1) (at_ 2)

/-- Ports of a direction that are OPEN or TRAINING, in ascending lane group (R350). -/
def livePorts (d : Dev) (dim dir : Nat) : List Nat :=
  (List.range 8).flatMap fun lane => (List.range 16).filter fun n =>
    d.portRole n = dim + 4 * dir + 8 * lane ∧ (d.portState n = 3 ∨ d.portState n = 4)

/-- The dimension and preferred direction of the next hop towards a module (R350): X, then Y, then Z, the shorter
way, plus when equal. -/
def hop (d : Dev) (own dst : Nat) : Option (Nat × Nat) :=
  ([0, 1, 2].find? fun k => coord d own k ≠ coord d dst k).map fun k =>
    let n := dimSize d k
    let fwd := (coord d dst k + n - coord d own k) % n
    (k, if fwd ≤ n - fwd then 0 else 1)

/-- The ports that serve a direction: its live ports, or those of the other way round when it has none (R350, R351). -/
def usedPorts (d : Dev) (k dir : Nat) : List Nat :=
  let l := livePorts d k dir
  if l = [] then livePorts d k (1 - dir) else l

/-- The port a frame takes, by its key (R350). A frame that has come in through a port keeps its way round a ring (R351). -/
def outPortFrom (d : Dev) (came : Option Nat) (dst key : Nat) : Option Nat :=
  match hop d (modNumber d) dst with
  | none => none
  | some (k, dir) =>
    let way := match came with
      | some n => if d.portRole n % 4 = k then 1 - d.portRole n / 4 % 2 else dir
      | none => dir
    let l := usedPorts d k way
    l[key % l.length]?
def outPort (d : Dev) (dst key : Nat) : Option Nat := outPortFrom d none dst key

/-- The port of an admission message: over OPEN ports only (R467). -/
def openPort (d : Dev) (dst : Nat) : Option Nat :=
  match hop d (modNumber d) dst with
  | none => none
  | some (k, dir) =>
    let l := (livePorts d k dir).filter fun n => d.portState n = 3
    (l ++ (livePorts d k (1 - dir)).filter fun n => d.portState n = 3).head?

/-- A destination no live port leads to (R351). -/
def unreachable (d : Dev) (dst : Nat) : Bool := (outPort d dst 0).isNone

/-- Crossing the wrap-around link changes DL 0 to DL 1 (R345). -/
def wrapDl (d : Dev) (port : Nat) (f : Frame) : Nat :=
  if f.vc = 0 then 0 else
  let role := d.portRole port
  let c := coord d (modNumber d) (role % 4)
  if (role / 4 % 2 = 0 ∧ c + 1 = dimSize d (role % 4)) ∨ (role / 4 % 2 = 1 ∧ c = 0) then 1 else f.dl

/-! ### Sending (R344, R345) -/

/-- The 16-byte body of a CONTROL frame: the subtype, then what it carries. The spec gives the order of what a HELLO carries
and no other layout (log entry 10): LSEQs stand in two bytes, the rest in one. -/
def controlBody (sub : Nat) (args : List Nat) : List Byte :=
  slice (natLe 1 sub ++ args.flatMap (natLe (if sub ≤ 2 then 2 else 1)) ++ List.replicate 16 0#8) 0 16

/-- A CONTROL frame of port n, with its LACK (R343). -/
def ctl (d : Dev) (n sub : Nat) (args : List Nat) : Output :=
  .frame n (({ kind := 1, vc := 0, dl := 0, src := modNumber d, dst := d.fld (.crrPortStatus n) 15 8, hdr := 0, key := 0,
               body := controlBody sub args } : Frame).bytes 0 (((d.port n).expect + 4095) % 4096))
def Dev.control (d : Dev) (n sub : Nat) (args : List Nat) : Dev := d.send (ctl d n sub args)

/-- The first frame of a queue that holds a credit; a frame waits behind an earlier one of its own VC alone (R344, R345).
The queue without it comes beside it. -/
def nextFrame (credits : Map Nat Nat) : List Nat → List Frame → Option (Frame × List Frame)
  | _, [] => none
  | stuck, f :: fs =>
    if !stuck.contains f.vc ∧ 0 < mapGet credits f.cls (classPlaces f.cls) then some (f, fs)
    else (nextFrame credits (f.vc :: stuck) fs).map fun r => (r.1, f :: r.2)

/-- Send the frames of a port's queue that hold a credit while the port is OPEN and the replay buffer has room. -/
def Dev.pump (d : Dev) (n : Nat) : Nat → Dev
  | 0 => d
  | k + 1 =>
    let p := d.port n
    match nextFrame p.credits [] p.queue with
    | none => d
    | some (f, fs) =>
      let c := mapGet p.credits f.cls (classPlaces f.cls)
      if d.portState n = 3 ∧ p.replay.length < 64 then
        let p' := { p with queue := fs, replay := p.replay ++ [(p.nextSeq, 0, f)], nextSeq := (p.nextSeq + 1) % 4096,
                           credits := mapSet p.credits f.cls (c - 1) }
        ((d.setPort n p').send (.frame n (f.bytes p.nextSeq ((p.expect + 4095) % 4096)))).pump n k
      else d

/-- Hand a frame to a port. -/
def Dev.enqueue (d : Dev) (n : Nat) (f : Frame) : Dev :=
  let p := d.port n
  let d := d.setPort n { p with queue := p.queue ++ [{ f with dl := wrapDl d n f }] }
  d.pump n (p.queue.length + 1)

/-- Route a frame towards its destination (R350); a frame without a way is not sent. -/
def Dev.route (d : Dev) (f : Frame) : Dev :=
  match outPort d f.dst f.key with
  | some n => d.enqueue n f
  | none => d

/-- A request of this module's own (VC 1): it waits while stores sent under an old mapping of its direction are not
acknowledged (R351). -/
def Dev.request (d : Dev) (f : Frame) : Dev :=
  match hop d (modNumber d) f.dst with
  | some h => match mapGet? d.remap h with
    | some e => { d with remap := mapSet d.remap h (e.1, e.2 ++ [f]) }
    | none => d.route f
  | none => d

/-- Requests go out once every store under the old mapping is acknowledged. -/
def Dev.remapGo (d : Dev) : Dev :=
  let waits := fun (e : (Nat × Nat) × List Nat × List Frame) => d.podStores.any fun s => e.2.1.contains s.tag
  let go := d.remap.filter fun e => !waits e
  let d := { d with remap := d.remap.filter waits }
  d.each (go.flatMap fun e => e.2.2) Dev.route

/-- The mapping of some directions has changed: their requests wait for the stores that are outstanding (R351). -/
def Dev.remapFrom (d old : Dev) : Dev :=
  (d.each [(0, 0), (0, 1), (1, 0), (1, 1), (2, 0), (2, 1)] fun d h =>
    if usedPorts old h.1 h.2 = usedPorts d h.1 h.2 then d else
    let tags := (d.podStores.filter fun s => hop d (modNumber d) s.dst = some h).map (·.tag)
    { d with remap := mapSet d.remap h (tags, (mapGet d.remap h ([], [])).2) }).remapGo

/-- A request that no way leads on for is answered with an address fault, in the name of its destination (R351). -/
def Dev.noWay (d : Dev) (f : Frame) : Dev :=
  d.route { kind := 2, vc := 2, dl := 0, src := f.dst, dst := f.src, key := f.key, body := natLe 4 1 ++ natLe 4 0,
            hdr := f.hdr % 2 ^ 47 + 2 ^ 47 + bitsN f.hdr 63 48 * 2 ^ 48 }

/-- Frames of a port that has left its direction go out on other ports, before any newer frame (R351): all that it
holds, or those that it has not sent. Another module's request that no way leads on for is answered so. -/
def Dev.requeue (d : Dev) (n : Nat) (all : Bool) : Dev :=
  let p := d.port n
  let fs := (if all then p.replay.map (·.2.2) else []) ++ p.queue
  let d := d.setPort n { p with replay := if all then [] else p.replay, queue := [] }
  let d := d.each fs.reverse fun d f => match outPort d f.dst f.key with
    | some m => let q := d.port m; d.setPort m { q with queue := { f with dl := wrapDl d m f } :: q.queue }
    | none => if f.vc = 1 ∧ f.src ≠ modNumber d then d.noWay f else d
  d.each (List.range 16) fun d m => d.pump m ((d.port m).queue.length + 1)

/-- Resend the replay buffer of a port from LSEQ `s` on; each resend counts (R344). -/
def Dev.resendFrom (d : Dev) (n s : Nat) : Dev :=
  let p := d.port n
  let hit := fun (e : Nat × Nat × Frame) => (e.1 + 4096 - s) % 4096 < 2048
  let again := p.replay.filter hit
  let d := d.setPort n { p with replay := p.replay.map fun e => if hit e then (e.1, e.2.1 + 1, e.2.2) else e }
  let d := d.count (.crrPortRetry n) again.length
  d.each again fun d e => d.send (.frame n (e.2.2.bytes e.1 ((p.expect + 4095) % 4096)))

/-- Drop acknowledged frames from the replay buffer: every frame up to LSEQ `s` (R344). -/
def Dev.ackUpTo (d : Dev) (n s : Nat) : Dev :=
  let p := d.port n
  let d := d.setPort n { p with replay := p.replay.filter fun e => 2048 ≤ (s + 4096 - e.1) % 4096 }
  d.pump n (p.queue.length + 1)

/-! ### Step and admission messages (R332, R352, R366, R467) -/

/-- The VC 0 postcards. The spec gives their content and no layout; `bytes` is the model's own (log entry 10). -/
inductive Msg where
  | join (m serial : Nat) (digest : List Byte)
  | admitted (m : Nat)
  | refuse (m serial cause : Nat)
  | cascadeOpen (bitmap : Nat)
  | portDown (m port : Nat)
  | portUp (m port : Nat)
  | memberLost (m : Nat)
  | updateDone (m job step bad : Nat) (norm : W64)
  | abortReq (m job step : Nat)
  | commit (job step : Nat)
  | abort (job step : Nat)
  | normPartial (m job step : Nat) (value : W64)
  | exchangeCounts (job route xkind run owner : Nat) (counts : List (Nat × Nat))
  | ready (job route xkind run owner source : Nat)
  | mailbagFailed (job mailbag : Nat)
  | groupNak (job mailbag group pass dim : Nat)
  deriving DecidableEq, Repr

def Msg.bytes : Msg → List Byte
  | .join m s g => natLe 8 0 ++ natLe 8 m ++ natLe 8 s ++ slice g 0 8
  | .admitted m => natLe 8 1 ++ natLe 8 m
  | .refuse m s c => natLe 8 2 ++ natLe 8 m ++ natLe 8 s ++ natLe 8 c
  | .cascadeOpen b => natLe 8 3 ++ natLe 32 b
  | .portDown m p => natLe 8 4 ++ natLe 8 m ++ natLe 8 p
  | .portUp m p => natLe 8 5 ++ natLe 8 m ++ natLe 8 p
  | .memberLost m => natLe 8 6 ++ natLe 8 m
  | .updateDone m j s b v => natLe 8 7 ++ natLe 8 m ++ natLe 8 j ++ natLe 8 s ++ natLe 8 b ++ natLe 8 v.toNat
  | .abortReq m j s => natLe 8 8 ++ natLe 8 m ++ natLe 8 j ++ natLe 8 s
  | .commit j s => natLe 8 9 ++ natLe 8 j ++ natLe 8 s
  | .abort j s => natLe 8 10 ++ natLe 8 j ++ natLe 8 s
  | .normPartial m j s v => natLe 8 11 ++ natLe 8 m ++ natLe 8 j ++ natLe 8 s ++ natLe 8 v.toNat
  | .exchangeCounts j r x n o cs => natLe 4 12 ++ natLe 4 j ++ natLe 4 r ++ natLe 4 x ++ natLe 4 n ++ natLe 4 o ++
      cs.flatMap fun c => natLe 4 c.1 ++ natLe 8 c.2
  | .ready j r x n o s => natLe 8 13 ++ natLe 8 j ++ natLe 8 r ++ natLe 8 x ++ natLe 8 n ++ natLe 8 o ++ natLe 8 s
  | .mailbagFailed j m => natLe 8 14 ++ natLe 8 j ++ natLe 8 m
  | .groupNak j m g q k => natLe 8 15 ++ natLe 8 j ++ natLe 8 m ++ natLe 8 g ++ natLe 8 q ++ natLe 8 k

/-- A postcard on VC 0. -/
def Msg.frame (m : Msg) (src dst : Nat) : Frame :=
  { kind := 2, vc := 0, dl := 0, src := src, dst := dst, hdr := 0, key := 0, body := m.bytes }

/-- Send a VC 0 postcard to one module (R350); the module's own messages take no hop (R305). -/
def Dev.postcard (d : Dev) (dst : Nat) (m : Msg) : Dev :=
  if dst = modNumber d then d.send (.own m.bytes) else d.route (m.frame (modNumber d) dst)

/-- An admission message to one module (R467). -/
def Dev.admission (d : Dev) (dst : Nat) (m : Msg) : Dev :=
  if dst = modNumber d then d.send (.own m.bytes) else
  match openPort d dst with
  | some n => d.enqueue n (m.frame (modNumber d) dst)
  | none => d

/-- The module at the far end of a port under its role (R347). -/
def portPeer (d : Dev) (n : Nat) : Option Nat := neighbour d (modNumber d) (d.portRole n % 4) (d.portRole n / 4 % 2)

/-- Flood a decision: on every OPEN port except the one it came in on (R332). -/
def Dev.flood (d : Dev) (m : Msg) (except_ : Option Nat) : Dev :=
  d.each (List.range 16) fun d n =>
    if d.portState n = 3 ∧ some n ≠ except_ then
      match portPeer d n with
      | some dst => d.enqueue n (m.frame (modNumber d) dst)
      | none => d
    else d

/-- The installed postmaster (R353). -/
def postmasterOf (d : Dev) : Nat := (d.modImage.map fun i => recU i.cascade 6 1).getD 0
def isPostmaster (d : Dev) : Bool := d.modImage.isSome && postmasterOf d = modNumber d
def cascadeOpen (d : Dev) : Bool := d.fld .gateCascade 1 0 = 2

end Sys2Proof.Machine
end

