-- ==== Sys2Proof/Machine/Access.lean ====
section
/-! DEFINITION. Accesses to memory: the module's own checks, coherence, commander and pod addresses, translation,
objects; incidents and notifications. -/

namespace Sys2Proof.Machine

/-- Why an access, a stage or a letter stops short. -/
inductive Stop where
  /-- Address fault (R24, R28, R33-R35). -/
  | addr (a : Nat)
  /-- Translation fault at a table level (R100). -/
  | trans (va level : Nat)
  | perm (va : Nat) (store : Bool)
  /-- Memory error: 1 uncorrectable data, 2 bad side record, 3 bad header or record, 4 format mismatch (R412). -/
  | mem (a kind : Nat)
  | down (p a : Nat)
  /-- A read of commander memory in error (R374): completion status and timeout. -/
  | host (a status : Nat) (timeout : Bool)
  /-- Nothing has happened yet: waiting on an engine (1), another module or the commander (2), or memory (3). -/
  | wait (on : Nat)
  /-- The letter ends with a status and DETAIL of its own. -/
  | fail (status detail : Nat)
  deriving DecidableEq, Repr

/-- An action on the module that can stop; what it has done by then stands (R128). -/
abbrev Act (α : Type) := ExceptT Stop (StateM Dev) α

def Act.run (x : Act α) (d : Dev) : Except Stop α × Dev := StateT.run (ExceptT.run x) d
def devGet : Act Dev := fun d => pure (.ok d, d)
def devMod (f : Dev → Dev) : Act Unit := fun d => pure (.ok (), f d)
def stop {α : Type} (e : Stop) : Act α := fun d => pure (.error e, d)

/-- Run an action for each element of a list. -/
def forA {α : Type} : List α → (α → Act Unit) → Act Unit
  | [], _ => pure ()
  | x :: xs, f => do f x; forA xs f
/-- An action of the record that may stop. -/
def act2 (f : Dev → Except Stop Unit × Dev) : Act Unit := fun d => pure (f d)
/-- Collect the results of an action over a list. -/
def mapA {α β : Type} : List α → (α → Act β) → Act (List β)
  | [], _ => pure []
  | x :: xs, f => do let y ← f x; let ys ← mapA xs f; pure (y :: ys)

/-- Who makes an access. -/
structure Who where
  /-- Its partition; none for the module-level dies. -/
  part : Option Nat
  node : Nat
  /-- ENGINE code of R410. -/
  eng : Nat
  arr : Nat
  ctx : Nat
  gen : Nat
  letter : Option LetterId
  stage : Nat
  route : Nat
  deriving DecidableEq, Repr

/-- The requester is an engine of R410, not a reader, a controller or the loader. -/
def Who.isEngine (w : Who) : Bool := w.eng < 10

/-- Where an access starts: partition and node; none for the module-level dies. -/
abbrev Src := Option (Nat × Nat)
def Who.src (w : Who) : Src := w.part.map fun p => (p, w.node)

/-! ### Module-local accesses -/

/-- The last-level-cache part of a hall (R27). -/
def inLlc (d : Dev) (p off len : Nat) : Bool :=
  (regions d p 19 6).any fun r => windowBase p 19 + off < r.1 + r.2 ∧ r.1 < windowBase p 19 + off + len

/-- The memory exists at these addresses (R25-R27), and is no OBJECT_DIR or HISTORY_TABLE region when stored to (R147,
R249). -/
def exists_ (d : Dev) (a len : Nat) (store : Bool) : Bool :=
  match place a with
  | .slab p => a + len ≤ slabBase (p + 1)
  | .window p w off =>
    off + len ≤ sramSize w && (w ≠ 19 || !inLlc d p off len) &&
    !(store && (regions d p 19 8 ++ regions d p 19 7).any fun r => a < r.1 + r.2 ∧ r.1 < a + len)
  | _ => false

/-- The partition that homes a module-local memory address. -/
def homeOf (a : Nat) : Nat :=
  match place a with
  | .slab p => p
  | .window p _ _ => p
  | _ => 0

/-- A pseudo-channel of the range is retraining (R144). -/
def Dev.retraining (d : Dev) (p a len : Nat) : Bool :=
  (granules a len).any fun g =>
    let l := pcLoc (d.regN (.memSegIset p)) g
    d.retrains.any fun r => r.1 = p ∧ r.2.1 = l.stack ∧ r.2.2.1 = l.chan ∧ r.2.2.2 = l.pc

/-- What stops an access at its home: lost channels, uncorrectable errors, retraining, untrained stacks
(R143-R145), and DROWSE (R161). -/
def homeCheck (d : Dev) (p a len : Nat) (store : Bool) : Option Stop :=
  match place a with
  | .slab _ =>
    if d.lostAt p a len then some (.mem a 1)
    else if !(d.trained p || d.degraded p) || d.bit (.memStatus p) 3 || d.retraining p a len then some (.wait 3)
    else if !store && d.mem.isBad a len then some (.mem a 1) else none
  | _ =>
    if d.bit (.memStatus p) 3 then some (.wait 3)
    else if !store && d.mem.isBad a len then some (.mem a 1) else none

/-- The port of the sorting offices behind which a requester or a target lies: its partition, or 4 for the module-level
dies (R22, R495). -/
def portOf (p : Option Nat) : Nat := p.getD 4

/-- Bytes that the offices forward out of port q, granule by granule (R21, R495). -/
def Dev.forwarded (d : Dev) (q a len : Nat) : Dev :=
  d.each (granules a len) fun d g =>
    d.wrap (.sortPortBytes (5 * (g / 2048 % 2) + q)) (min (a + len) (g + 2048) - max a g)

/-- Crossing the sorting offices from port `src` to port `tgt` (R20, R24, R71): one answer per granule, by address bit 11
(R21). A store leaves by the target's port, the answer of a load by the requester's. -/
def crossing (d : Dev) (src tgt a len : Nat) (store : Bool) : Except Stop Unit × Dev :=
  if src = tgt then (.ok (), d)
  else if tgt < 4 ∧ d.down tgt then
    (.error (.down tgt a), d.count (.sortDownAnswers (a / 2048 % 2)) 1)
  else if tgt < 4 ∧ d.installing tgt then (.error (.wait 3), d)
  else (.ok (), d.forwarded (if store then tgt else src) a len)

/-! ### The fabric of a partition (R18, R56) -/

/-- The next hops lead from node s to destination t within 16 hops. -/
def fabricGoes (f : Rec) (t : Nat) : Nat → Nat → Bool
  | 0, _ => false
  | k + 1, s =>
    let n := recU f (34 * s + t) 1
    if n = 0xFE then s = t else if n = t then true else if n < 32 then fabricGoes f t k n else false

/-- The node of a partition at which a memory address lies (R56): tile windows at their own, stacks at 24 to 31. -/
def nodeOf (d : Dev) (a : Nat) : Nat :=
  match place a with
  | .slab p => 24 + (pcLoc (d.regN (.memSegIset p)) a).stack
  | .window _ w _ => w
  | _ => 19

/-- The destination of the boot table: the post hall and the slab (R18). MMIO is on it too and is no memory. -/
def bootReaches (n : Nat) : Bool := n = 19 || 24 ≤ n

/-- What the boot table routes (R18): the partition's own reader on the H-die to any address, the resident cores of its S-dies and
arrivals from the offices to the post hall and the slab, and nothing else. -/
def bootRoutes (own : Bool) (n t : Nat) : Bool := if own then n = 19 || ((n = 20 || n = 21) && bootReaches t) else bootReaches t

/-- A partition on the boot table reaches neither the commander's memory nor another module (R18). -/
def bootCut (d : Dev) (part : Option Nat) : Bool := match part with | some p => !d.installed p | none => false

/-- The fabric of the home partition carries an access and its reply (R18, R56). An installed fabric routes what its table
routes; arrivals from a sorting office enter at node 19 or 18. Log entry 51 says what a requester hears of an access without a
route. -/
def routed (d : Dev) (src : Src) (a len : Nat) : Bool :=
  let q := homeOf a
  let own := src.map (·.1) = some q
  match mapGet? d.parts q with
  | some im =>
    if d.installed q then
      let ok := fun (s g : Nat) => let t := nodeOf d g
        s = t || (fabricGoes im.fabric t 16 s && fabricGoes im.fabric s 16 t)
      !own || (granules a len).all (ok ((src.map (·.2)).getD 19))
    else bootRoutes own ((src.map (·.2)).getD 19) (nodeOf d a)
  | none => bootRoutes own ((src.map (·.2)).getD 19) (nodeOf d a)

/-- The lines of 64 bytes that a range touches. -/
def linesOf (a len : Nat) : List Nat :=
  if len = 0 then [] else (List.range ((a + len - 1) / 64 - a / 64 + 1)).map fun i => (a / 64 + i) * 64

/-- A line held under R386 defers the access. -/
def heldLine (d : Dev) (a len : Nat) : Bool :=
  d.lines.any fun l => l.hold ∧ l.addr < a + len ∧ a < l.addr + 64

/-- An uncached read snoops an owner to S, dirty data written back (R384). -/
def snoopRead (d : Dev) (line : Nat) : Dev :=
  d.each (d.lines.filter fun l => l.addr = line ∧ 2 ≤ l.st) fun d l =>
    { d with mem := if l.st = 3 then d.mem.write line l.data else d.mem,
             lines := d.lines.map fun x => if x.addr = line then { x with st := 1 } else x }

/-- An uncached write invalidates every copy; a partial write first writes a modified copy back (R384). -/
def snoopWrite (d : Dev) (line : Nat) (whole : Bool) : Dev :=
  let d := if whole then d else
    d.each (d.lines.filter fun l => l.addr = line ∧ l.st = 3) fun d l => { d with mem := d.mem.write line l.data }
  { d with lines := d.lines.filter (·.addr ≠ line), reservations := d.reservations.filter (·.2 ≠ line) }

/-- Coherent memory: slabs and post halls (R383). -/
def coherent (a : Nat) : Bool :=
  match place a with
  | .slab _ => true
  | .window _ w _ => w = 19
  | _ => false

/-- An uncached load at the home (R384, R387). -/
def homeLoad (d : Dev) (a len : Nat) : List Byte × Dev :=
  let d := if coherent a then d.each (linesOf a len) snoopRead else d
  (d.mem.read a len, d)

/-- What an uncached load would answer (R384). -/
def homeView (d : Dev) (a len : Nat) : List Byte := (homeLoad d a len).1

/-- An uncached store at the home. -/
def homeStore (d : Dev) (a : Nat) (bs : List Byte) : Dev :=
  let d := if coherent a then
      d.each (linesOf a bs.length) fun d l => snoopWrite d l (a ≤ l ∧ l + 64 ≤ a + bs.length)
    else d
  { d with mem := d.mem.write a bs }

/-- An access reaches its home: the offices answer for a partition that is down before anything is looked at there (R24); then
the memory must exist and be routed (R18, R27, R28), and the access cross the offices. -/
def reach (d : Dev) (src : Src) (a len : Nat) (store : Bool) : Except Stop Unit × Dev :=
  let s := portOf (src.map (·.1))
  let t := homeOf a
  if place a ≠ .unmapped ∧ s ≠ t ∧ d.down t = true then crossing d s t a len store
  else if !exists_ d a len store ∨ !routed d src a len then (.error (.addr a), d)
  else crossing d s t a len store

/-- The pieces of a request, split at every 2 KiB granule boundary (R136). -/
def granulePieces (a len : Nat) : List (Nat × Nat) :=
  (granules a len).map fun g => (max a g, min (a + len) (g + 2048) - max a g)

/-- A store that meets a lost channel fails, and its pieces on other pseudo-channels are made (R136, R145). -/
def livePieces (d : Dev) (a : Nat) (bs : List Byte) : Dev :=
  d.each ((granulePieces a bs.length).filter fun p => (homeCheck d (homeOf a) p.1 p.2 true).isNone) fun d p =>
    homeStore d p.1 (slice bs (p.1 - a) p.2)

/-- Add to a 64-bit count at an access's home that its line's hold defers it (R390). -/
def Dev.deferred (d : Dev) (a : Nat) : Dev := d.count64 (.cohHoldDefers (homeOf a)) 1

/-- Keep from d' what a deferred request has added to the counts (R390). -/
def Dev.keepDefers (d d' : Dev) : Dev := d.each (List.range 4) fun d p =>
  if d.reg (.cohHoldDefers p) = d'.reg (.cohHoldDefers p) then d else d.setReg (.cohHoldDefers p) (d'.reg (.cohHoldDefers p))

/-- A load of module-local memory by a requester at `src`. -/
def localLoad (src : Src) (a len : Nat) : Act (List Byte) := fun d =>
  match reach d src a len false with
  | (.error e, d) => pure (.error e, d)
  | (.ok _, d) =>
    match homeCheck d (homeOf a) a len false with
    | some e => pure (.error e, d)
    | none =>
      if heldLine d a len then pure (.error (.wait 3), d.deferred a)
      else let r := homeLoad d a len; pure (.ok r.1, r.2)

/-- A store to module-local memory. -/
def localStore (src : Src) (a : Nat) (bs : List Byte) : Act Unit := fun d =>
  match reach d src a bs.length true with
  | (.error e, d) => pure (.error e, d)
  | (.ok _, d) =>
    if heldLine d a bs.length then pure (.error (.wait 3), d.deferred a) else
    match homeCheck d (homeOf a) a bs.length true with
    | some e => pure (.error e, livePieces d a bs)
    | none => pure (.ok (), homeStore d a bs)

/-! ### Commander and pod addresses -/

def modifyLetter (d : Dev) (l : LetterId) (f : Letter → Letter) : Dev :=
  { d with letters := d.letters.map fun x => if x.id = l then f x else x }
def findLetter (d : Dev) (l : LetterId) : Option Letter := d.letters.find? fun x => x.id = l

def intakeOf (d : Dev) : List Rec := (d.modImage.map (·.intake)).getD []
def inWindow (r : Rec) (a : Nat) : Bool := bitsN (recU r 8 8) 53 0 ≤ a && a ≤ bitsN (recU r 16 8) 53 0

/-- The intake channel of an engine's access to a commander address (R376): an address fault when the window is another route's,
else the channel, lowest index first, or the upstream path. -/
def intakeChan (d : Dev) (route a : Nat) : Except Unit (Option Nat) :=
  let ws := (intakeOf d).filter fun r => inWindow r a
  if ws = [] then .ok none else
  let mine := ws.filter fun r => recU r 2 2 % 4096 = route
  if mine = [] then .error () else
  .ok (some (mine.foldl (fun m r => min m (recU r 0 1)) 7))

/-- A range of commander addresses, cut where a window begins or ends and at target regions: first and last of each part
(R376, R377). -/
def intakeParts (d : Dev) (a len : Nat) : List (Nat × Nat) :=
  let edges := (intakeOf d).flatMap fun r => [bitsN (recU r 8 8) 53 0, bitsN (recU r 16 8) 53 0 + 1]
  let cuts := (a :: (edges ++ [alignDown (a + len) (2 ^ 28)]).filter fun x => a < x && x < a + len).eraseDups
  let cuts := sortNat cuts
  (cuts.zip (cuts.drop 1 ++ [a + len])).map fun c => (c.1, c.2 - 1)

/-- An access may use the windows that it touches: engines alone are restricted (R376). -/
def intakeOk (d : Dev) (engine : Bool) (route a len : Nat) : Bool :=
  !engine || (intakeParts d a len).all fun p => match intakeChan d route p.1 with | .ok _ => true | .error _ => false

/-- Split a range at multiples of `lim` and at 4 KiB boundaries (R374). -/
def splitAt : Nat → Nat → Nat → Nat → List (Nat × Nat)
  | 0, _, _, _ => []
  | k + 1, lim, a, len =>
    if len = 0 then [] else
    let n := min len (min (max lim 1) (4096 - a % 4096))
    (a, n) :: splitAt k lim (a + n) (len - n)

def splitReq (lim a len : Nat) : List (Nat × Nat) := splitAt (len + 1) lim a len

/-- Remember an outstanding read. -/
def Dev.addRemote (d : Dev) (r : Remote) : Dev := { d with remotes := d.remotes ++ [r] }

/-- The reads of commander memory that are outstanding. -/
def hostReads (d : Dev) : List Remote := d.remotes.filter fun r => r.addr < 2 ^ 54 && r.data.isNone

/-- The lowest 10-bit tag that is free; none while 768 non-posted requests are outstanding (R371). -/
def freeTag (d : Dev) : Option Nat :=
  let used := (hostReads d).map (·.req)
  if 768 ≤ used.length then none else (List.range 769).find? fun t => !used.contains t

/-- Send a zero-length read: one doubleword, no byte enables (R122, R374); without a tag it waits. -/
def Dev.flushRead (d : Dev) (l : LetterId) (a : Nat) (region : Option Region) : Dev :=
  match freeTag d with
  | some t => ({ d with nextTag := d.nextTag + 1 }.addRemote ⟨d.nextTag, t, a, 0, true, none, .reader l, region, none⟩).send (.pcieZeroRead t a)
  | none => { d with flushWait := d.flushWait ++ [(l, a, region)] }

/-- Issue a zero-length read for a letter (R122, R374). -/
def Dev.zeroRead (d : Dev) (l : LetterId) (a : Nat) (region : Option Region) : Dev :=
  (modifyLetter d l fun x => { x with zeroReads := x.zeroReads + 1 }).flushRead l a region

/-- Record a written target region of an intake channel; the seventeenth flushes the oldest (R377), for a RECEIPT_EARLY letter too:
DESIGN CHOICE (log entry 56), R123's "no zero-length reads" is taken of those before the receipt alone. -/
def Dev.trackRegion (d : Dev) (l : LetterId) (stage k last : Nat) : Dev :=
  let b := alignDown last (2 ^ 28)
  match findLetter d l with
  | none => d
  | some x =>
    if x.regions.any (fun r => r.chan = k ∧ r.base = b) then
      modifyLetter d l fun x => { x with regions := x.regions.map fun r =>
        if r.chan = k ∧ r.base = b then { r with last := last, stage := stage } else r }
    else
      let mine := x.regions.filter (·.chan = k)
      let d := match mine with
        | o :: _ => if mine.length = 16 then
            modifyLetter (d.zeroRead l o.last (some o)) l fun x =>
              { x with regions := x.regions.filter fun r => ¬ (r.chan = o.chan ∧ r.base = o.base) }
          else d
        | [] => d
      modifyLetter d l fun x => { x with regions := x.regions ++ [⟨stage, k, b, last⟩] }

/-- Answered data of an access made earlier by the same waiter (log entry 11). -/
def Dev.answered (d : Dev) (w : Waiter) (a len : Nat) : Option (List Byte) :=
  (d.remotes.find? fun r => r.who = w ∧ r.addr = a ∧ r.len = len ∧ !r.zero).bind (·.data)

def Dev.asked (d : Dev) (w : Waiter) (a len : Nat) : Bool :=
  d.remotes.any fun r => r.who = w ∧ r.addr = a ∧ r.len = len ∧ !r.zero

/-- A commander access of partition `src` passes the office that its address bit 11 names, between the requester's port and
the gate's (R35, log entry 51). -/
def Dev.hostCross (d : Dev) (src : Option Nat) (a len : Nat) (store : Bool) : Dev :=
  if src.isNone then d else d.forwarded (if store then 4 else portOf src) a len

/-- The letter behind an access has used an edge beyond the fabric: the courier's with `pod`, else the gate (R401). -/
def Dev.onPath (d : Dev) (w : Waiter) (pod : Bool) : Dev :=
  match w with
  | .letter l _ => modifyLetter d l fun x => if pod then { x with usesPod := true } else { x with usesHost := true }
  | _ => d

/-- A load of commander memory (R35, R374): issued as reads, awaited, and served from their completions. `engine`: the requester
is one, so that intake windows concern it. A core's access is issued whole or not at all, since it is not tried again. -/
def hostLoad (w : Waiter) (src : Option Nat) (engine : Bool) (ctx : Option (Nat × Nat)) (route a len : Nat) : Act (List Byte) := fun d =>
  if !d.pcie.busMaster ∨ !intakeOk d engine route a len then pure (.error (.addr (a + 2 ^ 55)), d) else
  let reqs := splitReq d.pcie.mrrs a len
  let got : List (Option (List Byte)) := reqs.map fun (r : Nat × Nat) => d.answered w r.1 r.2
  if got.all (·.isSome) then pure (.ok (got.flatMap fun x => x.getD []), (d.onPath w false).hostCross src a len false)
  else
    let d := d.each reqs fun d r =>
      if d.asked w r.1 r.2 then d else
      match freeTag d with
      | some t =>
        ({ d with nextTag := d.nextTag + 1 }.addRemote ⟨d.nextTag, t, r.1, r.2, false, ctx, w, none, none⟩).send (.pcieRead t r.1 r.2)
      | none => d
    let core := match w with | .core _ => true | _ => false
    let sent := fun (r : Nat × Nat) => d.asked w r.1 r.2
    pure (.error (.wait (if (if core then reqs.all sent else reqs.any sent) then 2 else 3)), d)

/-- A store to commander memory: posted writes (R35, R374). For the flushes of R122 and R377 its letter remembers the last address
written on the upstream path and in each target region. -/
def hostStore (l : Option LetterId) (src : Option Nat) (engine : Bool) (stage route a : Nat) (bs : List Byte) : Act Unit := fun d =>
  if !d.pcie.busMaster ∨ !intakeOk d engine route a bs.length then pure (.error (.addr (a + 2 ^ 55)), d) else
  let d := (d.hostCross src a bs.length true).each (splitReq d.pcie.mps a bs.length) fun d r =>
    d.send (.pcieWrite r.1 (slice bs (r.1 - a) r.2))
  match l with
  | none => pure (.ok (), d)
  | some l => pure (.ok (), (d.onPath (.letter l stage) false).each (intakeParts d a bs.length) fun d p =>
      match intakeChan d route p.1 with
      | .ok (some k) => d.trackRegion l stage k p.2
      | _ => modifyLetter d l fun x => { x with pcieLast := some p.2, pcieStage := stage })

/-- A pod access is possible: the module is a member, the cascade open, a way exists (R34, R351, R469). -/
def podOk (d : Dev) (m : Nat) : Bool := isMember d m && cascadeOpen d && !unreachable d m

/-- The bytes of a parcel with its side area, the body of a PARCEL frame (R343). -/
def parcelBytes : Nat := 4608

/-- Pieces of a pod access: a parcel with its side area whole, else up to 256 bytes within one granule (R343, log
entry 10). -/
def podPieces : Nat → Nat → Nat → List (Nat × Nat)
  | 0, _, _ => []
  | k + 1, a, len =>
    if len = 0 then [] else if len = parcelBytes then [(a, len)] else
    let n := min len (min 256 (2048 - a % 2048))
    (a, n) :: podPieces k (a + n) (len - n)

/-- A request frame on VC 1 (R343, R350). -/
def podFrame (d : Dev) (m a tag : Nat) (write : Bool) (body : List Byte) : Frame :=
  { kind := if body.length = parcelBytes then 3 else 2, vc := 1, dl := 0, src := modNumber d, dst := m, hdr := a + (if write then 2 ^ 46 else 0) + tag % 2 ^ 16 * 2 ^ 48,
    key := a / 2048, body := body }

/-- A load of another module's memory: requests on VC 1, awaited (R34, R343). The length of a load stands in the body
of the request, whose layout the spec does not give (log entry 10). -/
def podLoad (w : Waiter) (ctx : Option (Nat × Nat)) (t m a len : Nat) : Act (List Byte) := fun d =>
  if !podOk d m then pure (.error (.addr t), d) else
  let reqs := podPieces (len + 1) a len
  let got : List (Option (List Byte)) := reqs.map fun (r : Nat × Nat) => d.answered w (t - a + r.1) r.2
  if got.all (·.isSome) then pure (.ok (got.flatMap fun x => x.getD []), d.onPath w true)
  else
    let d := d.each reqs fun d r =>
      if d.asked w (t - a + r.1) r.2 then d else
      let tag := d.nextTag
      let d := { d with nextTag := tag + 1 }.addRemote ⟨tag, 0, t - a + r.1, r.2, false, ctx, w, none, none⟩
      d.request (podFrame d m r.1 tag false (natLe 8 r.2))
    pure (.error (.wait 2), d)

/-- A store to another module's memory: request frames on VC 1, each acknowledged (R34, R122, R343). -/
def podStore (w : Waiter) (ctx : Option (Nat × Nat)) (t m a : Nat) (bs : List Byte) : Act Unit := fun d =>
  if !podOk d m then pure (.error (.addr t), d) else
  pure (.ok (), (d.onPath w true).each (podPieces (bs.length + 1) a bs.length) fun d pc =>
    let tag := d.nextTag
    let d := { d with nextTag := tag + 1, podStores := d.podStores ++ [(⟨tag, t - a + pc.1, m, ctx, w⟩ : PodStore)] }
    let d := match w with
      | .letter l _ => modifyLetter d l fun x => { x with podAcks := x.podAcks + 1 }
      | _ => d
    d.request (podFrame d m pc.1 tag true (slice bs (pc.1 - a) pc.2)))

/-! ### Tagged physical addresses -/

/-- MMIO that an engine may never reach (R32, R66, R130, R373, R381, R415), or not write: GATE_CTX_RESET, GATE_RESET and
the GATE_INC_ registers (R500). Offsets of the gate block that hold no register are open (R31). -/
def engineBarred (off : Nat) (write : Bool) : Bool :=
  (0x100000 ≤ off && off < 0x300000) || (0x40000 ≤ off && off < 0x48100) ||
  ((0x1000 ≤ off && off < 0x2000 || write && 0x3000 ≤ off && off < 0x3120) && (Reg.ofOffset off).isSome) ||
  (0x10000000 ≤ off && off < 0x14000000 &&
    let q := off % 0x1000000
    q < 0x40000 || (0x100000 ≤ q && q < 0x200000) || (0x600000 ≤ q && q < 0x700000))

/-- GATE_CTX reads the context table (R102): the table's one home is `ctxs`. -/
def gateCtxView (d : Dev) (c : Nat) : Nat :=
  let x := mapGet d.ctxs c Ctx.reset
  x.gen % 4096 + x.state * 2 ^ 12

/-- A partition block that reads zero and ignores writes while its partition is unavailable (R491). -/
def blockDark (d : Dev) (off : Nat) (write : Bool) : Bool :=
  if off < 0x10000000 then false else
  let p := (off - 0x10000000) / 0x1000000
  let q := off % 0x1000000
  if d.stepFour = false then true
  else if d.fld (.fltStatus p) 1 0 = 0 then false
  else
    let mbx := 0x100000 ≤ q && q < 0x200000
    let flt := 0x600000 ≤ q && q < 0x700000
    if write then !(mbx || flt) else !(mbx || flt || (0x200000 ≤ q && q < 0x400000))

/-- The footprint of an object (R138). -/
def Obj.footprint (o : Obj) : Nat := if bitN o.iset 1 then o.size + o.size / 8 else o.size

/-- The overflow object's place, when it is lodged, of stacked tier and homed in another partition (R315). -/
def stashOvf (d : Dev) (p : Nat) : Option (Option (Nat × Nat)) :=
  if d.bit (.hallStashOvf p) 24 then
    match mapGet? d.objs (d.fld (.hallStashOvf p) 23 0) with
    | some o => if o.tier = 0 ∧ o.home ≠ p then some (some (o.base, o.footprint)) else some none
    | none => some none
  else none

/-- The value of a register as an access sees it; write-only registers read zero, and HALL_STASH_STATUS.OVF_BAD tells whether the
overflow object that is named at the moment breaks R315. -/
def regView (d : Dev) (r : Reg) : W64 :=
  match r with
  | .gateCtx c => BitVec.ofNat 64 (gateCtxView d c)
  | .mbxDoorbell _ | .gateReset | .clerkCycleReq => 0#64
  | .hallStashStatus p => d.reg r ||| (if stashOvf d p = some none then 1#64 <<< 63 else 0#64)
  | _ => d.reg r

/-- The permitted sizes and alignments (R488). -/
def sizeOk (r : Reg) (b size : Nat) : Bool :=
  match r with
  | .msixEntry _ | .msixPba _ => (size = 4 || size = 8) && b % size = 0
  | .secMeas _ _ => (size = 4 && b % 4 = 0) || (size = 8 && b = 0)
  | _ => (r.info.width = 4 && size = 4 && b = 0) || (r.info.width = 8 && ((size = 8 && b = 0) || (size = 4 && b % 4 = 0)))

/-- A read of an MMIO offset (R31, R488, R489, R491). -/
def mmioRead (d : Dev) (off size : Nat) : Nat :=
  if blockDark d off false then 0 else
  match Reg.ofOffset off with
  | none => 0
  | some (r, b) =>
    if sizeOk r b size then (regView d r).toNat / 2 ^ (8 * b) % 2 ^ (8 * size) else 0

/-- The port of the offices behind which an MMIO offset lies: a partition block's partition, else the module-level dies. -/
def mmioPort (off : Nat) : Nat := if 0x10000000 ≤ off ∧ off < 0x14000000 then (off - 0x10000000) / 0x1000000 else 4

/-- An MMIO access of a requester behind port `src` crosses the offices (R20, R24, R71); the bytes of a write are counted
when the write acts. -/
def mmioCross (src off len : Nat) (store : Bool) : Act Unit := fun d =>
  match crossing d src (mmioPort off) (mmioBase + off) len store with
  | (.ok _, d') => pure (.ok (), if store then d else d')
  | (.error e, d') => pure (.error e, d')

/-- A read of MMIO by a requester behind port `src`. -/
def mmioLoad (src off len : Nat) : Act (List Byte) := do
  mmioCross src off len false
  let d ← devGet
  pure (natLe len (mmioRead d off len))

/-- Who waits for the answers of a requester's accesses. -/
def Who.waiter (w : Who) : Waiter := match w.letter with | some l => .letter l w.stage | none => .loader

/-- A load of a tagged physical address by an engine or reader. -/
def physLoad (w : Who) (t len : Nat) : Act (List Byte) := do
  let d ← devGet
  let wt := w.waiter
  let go := fun (a : Nat) => match place a with
    | .mmio off => if engineBarred off false then stop (.addr t) else mmioLoad (portOf w.part) off len
    | _ => localLoad w.src a len
  match untag t with
  | .bad => stop (.addr t)
  | .localAddr a => go a
  | .pod m a => if m = modNumber d then go a else if bootCut d w.part then stop (.addr t) else podLoad wt (some (w.ctx, w.gen)) t m a len
  | .host a => if bootCut d w.part then stop (.addr t) else hostLoad wt w.part w.isEngine (some (w.ctx, w.gen)) w.route a len

/-- The part of an MMIO write that plain registers take: RW bits are set, W1C bits cleared (R7, R488-R490). -/
def regWrite (d : Dev) (r : Reg) (b size v : Nat) : Dev :=
  if !sizeOk r b size then d else
  let i := r.info
  let old := (d.reg r).toNat
  let m := (2 ^ (8 * size) - 1) * 2 ^ (8 * b)
  let v := v % 2 ^ (8 * size) * 2 ^ (8 * b)
  let rw := i.rw &&& m
  let keep := BitVec.ofNat 64 old &&& ~~~ BitVec.ofNat 64 rw
  let new := (keep ||| BitVec.ofNat 64 (v &&& rw)) &&& ~~~ BitVec.ofNat 64 (v &&& i.w1c &&& m)
  d.setReg r new

/-- A register write is on its way: it acts as the command of the register's row (R7, log entry 12). -/
def Dev.postWrite (d : Dev) (i : Instr) : Dev := { d with posted := d.posted ++ [i] }

/-- A write of MMIO by an engine or reader behind port `src`. The interrupt files take it at once; the write of a register is
posted. -/
def mmioStore (w : Who) (off : Nat) (bs : List Byte) : Act Unit := do
  mmioCross (portOf w.part) off bs.length true
  match imsicAt off with
  | some (h, f) => if bs.length = 4 then devMod fun d => if blockDark d off true then d else d.setip h f (leNat bs) else pure ()
  | none => devMod (·.postWrite (.registerWrite (.engine w.ctx (portOf w.part) w.node w.eng w.letter w.stage) off bs.length (BitVec.ofNat 64 (leNat bs))))

/-- A store of a tagged physical address by an engine or reader, whose answer `wt` awaits. -/
def physStoreAs (wt : Waiter) (w : Who) (t : Nat) (bs : List Byte) : Act Unit := do
  let d ← devGet
  let go := fun (a : Nat) => match place a with
    | .mmio off => if engineBarred off true then stop (.addr t) else mmioStore w off bs
    | _ => localStore w.src a bs
  match untag t with
  | .bad => stop (.addr t)
  | .localAddr a => go a
  | .pod m a => if m = modNumber d then go a else if bootCut d w.part then stop (.addr t) else podStore wt (some (w.ctx, w.gen)) t m a bs
  | .host a => if bootCut d w.part then stop (.addr t) else hostStore w.letter w.part w.isEngine w.stage w.route a bs
def physStore (w : Who) : Nat → List Byte → Act Unit := physStoreAs w.waiter w

/-! ### Translation (R99-R101) -/

/-- A stacked-memory, 4 KiB-aligned, kind-00 table address (R99). -/
def tableOk (t : Nat) : Bool := t < 0x40000000000 && t % 4096 = 0

/-- The walk from one level on: the leaf entry and its level, or the fault at the level of the entry that fails. -/
def walk (src : Src) (va : Nat) : Nat → Nat → Nat → Act (Nat × Nat)
  | 0, _, lvl => stop (.trans va lvl)
  | k + 1, table, lvl => do
    let idx := va / 2 ^ (48 - 9 * lvl) % 512
    let e := leNat (← localLoad src (table + 8 * idx) 8)
    let leaf := bitN e 1
    if !bitN e 0 ∨ e / 2 ^ 56 ≠ 0 then stop (.trans va lvl)
    else if leaf then
      if lvl = 1 ∨ bitsN e 20 4 ≠ 0 ∨ (lvl = 2 ∧ bitsN e 29 21 ≠ 0) ∨ bitsN e 55 54 = 3 then stop (.trans va lvl)
      else pure (e, lvl)
    else if lvl = 3 ∨ bitsN e 11 2 ≠ 0 ∨ !tableOk (alignDown e 4096 % 2 ^ 56) then stop (.trans va lvl)
    else walk src va k (alignDown e 4096 % 2 ^ 56) (lvl + 1)

/-- Translate a virtual address of a context. -/
def translate (src : Src) (c va : Nat) (store : Bool) : Act Nat := do
  if va / 2 ^ 48 ≠ 0 then stop (.trans va 0) else
  let d ← devGet
  let use := match mapGet? d.tlb (c, va / 2 ^ 21) with
    | some x => if Config.useCached d.tick then some x else none
    | none => none
  devMod fun d => { d with tick := d.tick + 1 }
  let (e, lvl) ← match use with
    | some x => pure x
    | none =>
      let root := (mapGet d.ctxs c Ctx.reset).root
      if tableOk root then walk src va 3 root 1 else stop (.trans va 1)
  devMod fun d => { d with tlb := mapSet d.tlb (c, va / 2 ^ 21) (e, lvl) }
  if (store && !bitN e 3) || (!store && !bitN e 2) then stop (.perm va store) else
  let sh := if lvl = 2 then 30 else 21
  pure (e % 2 ^ 56 / 2 ^ sh * 2 ^ sh + va % 2 ^ sh)

/-- Pieces of a virtual range, cut at 2 MiB pages. -/
def pages : Nat → Nat → Nat → List (Nat × Nat)
  | 0, _, _ => []
  | k + 1, va, len =>
    if len = 0 then [] else
    let n := min len (2 ^ 21 - va % 2 ^ 21)
    (va, n) :: pages k (va + n) (len - n)

/-- Load a virtual range. -/
def virtLoad (w : Who) (va len : Nat) : Act (List Byte) := do
  let bs ← mapA (pages (len / 2 ^ 21 + 2) va len) fun p => do
    let t ← translate w.src w.ctx p.1 false
    physLoad w t p.2
  pure bs.flatten

/-- Store a virtual range. -/
def virtStoreAs (wt : Waiter) (w : Who) (va : Nat) (bs : List Byte) : Act Unit :=
  forA (pages (bs.length / 2 ^ 21 + 2) va bs.length) fun p => do
    let t ← translate w.src w.ctx p.1 true
    physStoreAs wt w t (slice bs (p.1 - va) p.2)
def virtStore (w : Who) : Nat → List Byte → Act Unit := virtStoreAs w.waiter w

/-! ### Objects (R138, R152) -/

def Obj.hasSide (o : Obj) : Bool := bitN o.iset 1

/-- Where loads go (R152): the SRAM copy while RESIDENT or EVICTING. -/
def Obj.loadBase (o : Obj) : Nat := if o.tier = 0 ∧ (o.state = 2 ∨ o.state = 3) then o.sram else o.base

/-- A directory entry (R147): full in the home partition, forwarding elsewhere. -/
def dirEntry (id : Nat) (o : Obj) (home : Bool) : List Byte :=
  if home then
    natLe 4 (id % 2 ^ 24 + 2 ^ 24) ++ natLe 1 o.home ++ natLe 1 o.state ++ natLe 1 o.iset ++
    natLe 1 (o.tier + if o.dirty then 2 else 0) ++ natLe 8 o.size ++ natLe 8 o.base ++ natLe 8 o.sram ++
    natLe 8 (o.pins.eraseDups.map fun c => 2 ^ (c % 64)).sum ++ natLe 8 0 ++ natLe 8 0 ++ natLe 8 0
  else
    natLe 4 (id % 2 ^ 24 + 2 ^ 24 + 2 ^ 25) ++ natLe 1 o.home ++ List.replicate 59 0#8

/-- The OBJECT_DIR region of a partition (R146). -/
def dirRegion (d : Dev) (p : Nat) : Option (Nat × Nat) := (regions d p 19 8).head?

/-- A write of the H-die waits for an earlier one of the same line. -/
def hdieBehind (d : Dev) (a : Nat) : Bool := d.held.any fun h => match h with | .hdie b _ => a / 64 = b / 64 | _ => false

/-- The H-die writes the entry of an object in a partition's directory; a hold of the line defers it (R386). -/
def Dev.dirWrite (d : Dev) (p slot : Nat) (bs : List Byte) : Dev :=
  match dirRegion d p with
  | some r =>
    let a := r.1 + 64 * slot
    if r.2 < 64 * slot + 64 then d
    else if heldLine d a 64 ∨ hdieBehind d a then { d with held := d.held ++ [.hdie a bs] }
    else homeStore d a bs
  | none => d

/-- Change an object, and with it the home partition's entry (R147). -/
def Dev.putObj (d : Dev) (id : Nat) (o : Obj) : Dev :=
  let d := { d with objs := mapSet d.objs id o }
  match mapGet? o.slots o.home with
  | some k => d.dirWrite o.home k (dirEntry id o true)
  | none => d

/-- The object behind an identifier; unknown ones end the letter (R127). -/
def getObj (id : Nat) : Act Obj := do
  let d ← devGet
  match mapGet? d.objs id with
  | some o => pure o
  | none => stop (.fail 0x20 0)

/-- Load by identifier: offset and length within the footprint. -/
def objLoad (w : Who) (id off len : Nat) : Act (List Byte) := do
  let o ← getObj id
  if o.footprint < off + len then stop (.addr (o.base + off)) else
  localLoad w.src (o.loadBase + off) len

/-- Store by identifier: held while PROMOTING or EVICTING, dirty when it goes to the SRAM copy (R152). -/
def objStore (w : Who) (id off : Nat) (bs : List Byte) : Act Unit := do
  let o ← getObj id
  if o.footprint < off + bs.length then stop (.addr (o.base + off)) else
  let d ← devGet
  if o.tier = 0 ∧ (o.state = 1 ∨ o.state = 3) ∧ !(d.down o.home ∧ w.part ≠ some o.home) then
    devMod fun d => { d with objs := mapSet d.objs id { o with held := o.held ++ [(w.letter.map fun l => (l, w.stage), off, bs)] } }
  else do
    localStore w.src (o.loadBase + off) bs
    if o.state = 2 ∧ !o.dirty then devMod fun d => d.putObj id { o with dirty := true } else pure ()

end Sys2Proof.Machine
end

