-- ==== Sys2Proof/Machine/Flags.lean ====
section
/-! DEFINITION. The status fields that engines show: STATE, WAIT and what parking leaves (R198, R225, R243, R271, R302, R370,
R392, R415). -/

namespace Sys2Proof.Machine

/-- Set the STATE field of an engine's status register (R198, R225, R243, R271, R302, R370). -/
def Dev.engState (d : Dev) (p node slot n : Nat) : Dev :=
  if node < 12 then
    if slot < 4 then d.setFld (.arrStatus p node slot) 2 0 n
    else if slot = 4 then d.setFld (.frkStatus p node) 2 0 n else d
  else if node < 16 then d.setFld (.embStatus p node) (2 * slot + 1) (2 * slot) n
  else if node < 18 then
    if slot = 0 then d.setFld (.vecStatus p node) 2 0 n else d.setFld (.attStatus p node) 2 0 n
  else d.setFld (.redStatus p) (2 * slot + 1) (2 * slot) n

/-- What FLT_WAIT shows for an engine: 0 none, 1 engine, 2 remote, 3 memory (R392, R415). -/
def Dev.setWait (d : Dev) (p node slot k : Nat) : Dev := d.setFld (.fltWait p node) (2 * slot + 1) (2 * slot) k

/-- Forget what is parked on an array (R197). -/
def Dev.unpark (d : Dev) (p t a : Nat) : Dev :=
  let d := { d with parked := mapErase d.parked (p, t, a) }
  ((d.setReg (.arrPark p t a) 0#64).setReg (.arrParkPos p t a) 0#64).setBit (.arrStatus p t a) 3 false

/-- The state that means HALTED, by engine (R198, R225, R243, R271, R302, R370). -/
def haltCode (node slot : Nat) : Nat :=
  if node < 12 then 5 else if node < 16 then 3 else if node < 18 then (if slot = 0 then 4 else 5) else 3
def engStateOf (d : Dev) (p node slot : Nat) : Nat :=
  if node < 12 then (if slot < 4 then d.fld (.arrStatus p node slot) 2 0 else if slot = 4 then d.fld (.frkStatus p node) 2 0 else 0)
  else if node < 16 then d.fld (.embStatus p node) (2 * slot + 1) (2 * slot)
  else if node < 18 then (if slot = 0 then d.fld (.vecStatus p node) 2 0 else d.fld (.attStatus p node) 2 0)
  else d.fld (.redStatus p) (2 * slot + 1) (2 * slot)
def halted (d : Dev) (p node slot : Nat) : Bool := engStateOf d p node slot = haltCode node slot && !(node < 12 && slot = 5)

end Sys2Proof.Machine
end

