-- ==== Sys2Proof/Machine/Letters.lean ====
section
/-! DEFINITION. Incidents (R410-R412, R459), receipts (R122-R128) and the life of a letter. -/

namespace Sys2Proof.Machine

/-! ### Incident rings -/

def ringBase (r : Option Nat) : Reg := match r with | some p => .fltRingBase p | none => .gateIncRingBase
def ringNotify (r : Option Nat) : Reg := match r with | some p => .fltRingNotify p | none => .gateIncRingNotify
def ringCfg (r : Option Nat) : Reg := match r with | some p => .fltRingCfg p | none => .gateIncRingCfg
def ringHead (r : Option Nat) : Reg := match r with | some p => .fltRingHead p | none => .gateIncRingHead
def ringTail (r : Option Nat) : Reg := match r with | some p => .fltRingTail p | none => .gateIncRingTail
def ringLost (r : Option Nat) : Reg := match r with | some p => .fltRingLost p | none => .gateIncLost

/-- The requester that stands for a device's own writes of rings, receipts and notifications. -/
def devWho (p : Option Nat) : Who := ⟨p, 19, 0x10, 0, 0, 0, none, 0xFF, 0xFFFF⟩

/-- An earlier store of the same device is held, and has not reached the same granule (R21). -/
def ownHeld (d : Dev) (p : Option Nat) (t : Nat) : Bool :=
  d.held.any fun h => match h with | .own q u _ _ => p = q ∧ t / 2048 = u / 2048 | _ => false

/-- Do a store for its effect alone: one that has to wait is held (R144), one that cannot be made is dropped. -/
def Dev.tryStore (d : Dev) (p : Option Nat) (t : Nat) (bs : List Byte) : Dev :=
  let hold := { d with held := d.held ++ [.own p t bs none] }
  if ownHeld d p t then hold else
  match (physStore (devWho p) t bs).run d with
  | (.ok _, d') => d'
  | (.error (.wait _), _) => hold
  | (.error _, d') => d'

/-- Write one record to an enabled ring, or count it as lost (R411). -/
def Dev.ringWrite (d : Dev) (r : Option Nat) (rcd : List Byte) : Dev :=
  let n := d.fld (ringCfg r) 3 0
  let head := d.fld (ringHead r) 15 0
  let tail := d.fld (ringTail r) 15 0
  if (tail + 65536 - head) % 65536 ≥ 2 ^ n then
    { d.count (ringLost r) 1 with incLost := r :: d.incLost }
  else
    let rcd := if r ∈ d.incLost then patch rcd 5 [BitVec.ofNat 8 (field rcd 5 1 ||| 2)] else rcd
    let a := d.regN (ringBase r) + tail % 2 ^ n * 64
    let d := (d.tryStore r a (slice rcd 0 0x3F)).tryStore r (a + 0x3F) [0x80#8]
    let d := { d with incLost := d.incLost.filter (· ≠ r) }
    let d := d.setFld (ringTail r) 15 0 (tail + 1)
    let v := d.fld (ringCfg r) 15 5
    if d.bit (ringCfg r) 4 then d.tryStore r (d.regN (ringNotify r)) (natLe 4 v) else d.msix v

/-- An incident before its stamp: the fields of R410. `ring` is the partition whose ring is meant, if any. -/
structure Inc where
  cls : Nat
  eng : Nat
  idx : Nat := 0
  ctx : Option (Nat × Nat) := none
  named : Bool := false
  die : Nat
  part : Option Nat
  seq : Nat := 0
  mbx : Nat := 0
  stage : Nat := 0xFF
  route : Nat := 0xFFFF
  d0 : Nat := 0
  d1 : Nat := 0
  d2 : Nat := 0
  deriving DecidableEq, Repr

/-- The 64 bytes of a record (R410). -/
def Inc.bytes (i : Inc) (stamp : Nat) : List Byte :=
  natLe 2 i.cls ++ natLe 1 i.eng ++ natLe 1 i.idx ++
  natLe 1 (match i.ctx with | some (c, _) => c % 64 + 64 | none => 0) ++ natLe 1 (if i.named then 1 else 0) ++
  natLe 2 (match i.ctx with | some (_, g) => g % 4096 | none => 0) ++ natLe 8 stamp ++ natLe 4 i.seq ++
  natLe 1 i.mbx ++ natLe 1 i.stage ++ natLe 2 i.route ++ natLe 8 i.d0 ++ natLe 8 i.d1 ++ natLe 8 i.d2 ++
  natLe 8 0 ++ natLe 7 0 ++ [0x80#8]

/-- Classes that go to the module ring wherever they arise (R411). -/
def moduleClass (c : Nat) : Bool := c = 0x180 || c = 0x181 || c = 0x283

/-- The partition is in reset, or fenced as degraded. -/
def Dev.fenced (d : Dev) (p : Nat) : Bool := d.fld (.fltStatus p) 1 0 ≠ 0

/-- Raise an incident: stamped, routed, held before any ring is enabled, counted when its ring is disabled. -/
def Dev.raise (d : Dev) (i : Inc) : Dev :=
  let (st, d) := d.stamp i.die
  let rcd := i.bytes st
  let own := if moduleClass i.cls then none else i.part
  if !d.incSeen then
    if d.incHeld.length < 16 then
      { d with incHeld := d.incHeld ++ [(own, rcd)] }.setFld .gateBoot 20 16 (d.incHeld.length + 1)
    else { d.count .gateIncLost 1 with incLost := none :: own :: d.incLost }
  else
    let ring := match own with
      | some p => if d.fenced p || !d.bit (.fltRingCfg p) 16 then none else some p
      | none => none
    if ring = none ∧ !d.bit .gateIncRingCfg 16 then
      { d.count .gateIncLost 1 with incLost := none :: d.incLost }
    else d.ringWrite ring rcd

/-! ### The end of a letter -/

/-- The partition whose H-die reads a resident mailbox; none for a commander mailbox (R109). -/
def readerPart (d : Dev) (n : Nat) : Option Nat := if d.bit (.mbxCfg n) 4 then some (n / 64) else none
def readerDie (d : Dev) (n : Nat) : Nat := match readerPart d n with | some p => dieOf p 19 | none => dieGate

/-- A mailbag waits on other modules: for a partial of one of its groups, for a credit of its frames, or for the members' norms. -/
def bagAway (b : Bag) : Bool := b.active && (b.done || b.stage = 0xFF || b.grps.any fun g => g.phase ≠ 3)

/-- MB_STATE of a mailbag engine: it runs while a stage, a mailbag or an exchange does (R370). Between its stages it waits on other
modules while a mailbag or an exchange does (R392), or, before the cascade opens, as a stage that waits for it says (R469). -/
def Dev.redState (d : Dev) (p : Nat) : Dev :=
  if halted d p 18 0 then d else
  let staged := d.runs.any fun r => r.part = p ∧ r.node = 18 ∧ r.slot = 0 ∧ !r.parked
  let away := d.bags.any (fun b => b.part = p ∧ bagAway b = true) || d.exchs.any fun e => e.part = p
  let d' := d.engState p 18 0 (if staged ∨ away ∨ d.bags.any (fun b => b.part = p ∧ b.active) then 1 else 0)
  if staged ∨ (away = false ∧ cascadeOpen d = false) then d' else d'.setWait p 18 0 (if away then 2 else 0)

/-- Tiles that have reached a franker: those in the channels that its running stages drain (R222). -/
def frkTiles (d : Dev) (p t : Nat) : Nat :=
  ((d.runs.filter fun q => q.part = p ∧ q.node = t ∧ q.slot = 4).map fun q =>
    match (findLetter d q.letter).bind fun x => findStage d x.route q.stage with
    | some (_, r) => ((mapGet d.chans (q.letter, p, stInA r) []).filter fun i => match i with | .tile _ _ => true | _ => false).length
    | none => 0).sum

/-- Some parcel that a node's deliveries have issued has not landed (R157). -/
def delivering (d : Dev) (p node : Nat) : Bool :=
  d.delivs.any fun v => v.part = p && ((((mapGet? d.parts p).map (·.delivery)).getD [])[v.record]?.map fun r => recU r 16 1) = some node &&
    (List.range v.issued).any fun k => !v.landed.contains k && !v.dropped.contains k

/-- FRK_STATUS: FILLING while no staging bank holds values, AMAX when a bank has been filled, CONVERTING while its parcels are
converted, DELIVERING when only a delivery is under way; BANK_BUSY with two tiles or more (R222, R225). -/
def Dev.frkState (d : Dev) (p t : Nat) : Dev :=
  if halted d p t 4 then d else
  let rs := d.runs.filter fun q => q.part = p ∧ q.node = t ∧ q.slot = 4
  let n := frkTiles d p t
  let st := if rs = [] then (if delivering d p t then 4 else 0) else if rs.any (fun q => q.pos ≠ 0) then 3 else if n = 0 then 1 else 2
  (d.engState p t 4 st).setBit (.frkStatus p t) 3 (2 ≤ n)

/-- Stop one run: the engine is idle, what an array held is discarded (R197, R224, R242). -/
def Dev.dropRun (d : Dev) (r : Run) : Dev :=
  let d := { d with runs := d.runs.filter (· ≠ r) }
  if r.parked then (if r.node < 12 then d.unpark r.part r.node r.slot else d)
  else
    let d := ((if halted d r.part r.node r.slot then d else d.engState r.part r.node r.slot 0)).setWait r.part r.node r.slot 0
    if r.node < 12 ∧ r.slot < 4 then
      let d := { d with arrs := mapErase d.arrs (r.part, r.node, r.slot) }.setBit (.arrStatus r.part r.node r.slot) 5 false
      if (mapGet? d.parked (r.part, r.node, r.slot)).isNone then d.unpark r.part r.node r.slot else d
    else if r.node < 12 ∧ r.slot = 4 then d.frkState r.part r.node else d

/-- The frankers that work for a letter: on its stages, or on its deliveries. -/
def letterFrks (d : Dev) (l : LetterId) : List (Nat × Nat) :=
  ((d.runs.filter fun r => r.letter = l ∧ r.node < 12 ∧ r.slot = 4).map fun r => (r.part, r.node)) ++
  ((d.delivs.filter (·.letter = l)).filterMap fun v =>
    (((mapGet? d.parts v.part).map (·.delivery)).getD [])[v.record]?.bind fun r => if recU r 16 1 < 12 then some (v.part, recU r 16 1) else none)

/-- Everything that a letter has under way in the engines stops. -/
def Dev.dropWork (d : Dev) (l : LetterId) : Dev :=
  let frks := letterFrks d l
  let flying := d.bags.filter fun b => b.letter = l ∧ b.active = true ∧ b.done = false
  let d := d.each (d.runs.filter (·.letter = l)) Dev.dropRun
  let d := { d with chans := d.chans.filter fun e => e.1.1 ≠ l, tileOrder := d.tileOrder.filter (·.1 ≠ l), delivs := d.delivs.filter (·.letter ≠ l),
                    waits := d.waits.filter (·.1 ≠ l), updates := d.updates.filter (·.letter ≠ l),
                    bags := d.bags.filter fun b => b.letter ≠ l ∨ b.done = true, exchs := d.exchs.filter (·.letter ≠ l) }
  let d := d.each flying fun d b =>
    d.setBit (.redChan b.part b.chan) 22 (d.bags.any fun x => x.part = b.part && x.chan = b.chan && x.active && !x.done)
  (d.each frks fun d e => d.frkState e.1 e.2).each (List.range 4) Dev.redState

/-! ### Spoiling a step (R303, R306) -/

/-- GATE_STEP.STATE: 0 IDLE, 1 OPEN, 2 UPDATING, 3 UPDATED, 4 DECIDING, 5 COMMITTING, 6 ABORTING. -/
def stepState (d : Dev) (c : Nat) : Nat := d.fld (.gateStep c) 2 0
def Dev.setStepState (d : Dev) (c n : Nat) : Dev := d.setFld (.gateStep c) 2 0 n
/-- The STEP of the last accepted STEP_BEGIN. -/
def stepOpen (d : Dev) (c : Nat) : Nat := d.regN (.gateStepOpen c)

/-- Ask the postmaster for an abort of the open step (R331). -/
def Dev.abortReq (d : Dev) (c : Nat) : Dev := d.postcard (postmasterOf d) (.abortReq (modNumber d) c (stepOpen d c))

/-- The step of a context is spoiled while OPEN, UPDATING or UPDATED: SPOILED is set and ABORT_REQ sent (R306). -/
def Dev.spoil (d : Dev) (c : Nat) : Dev :=
  if 1 ≤ stepState d c ∧ stepState d c ≤ 3 ∧ !d.bit (.gateStep c) 4 then (d.setBit (.gateStep c) 4 true).abortReq c else d

/-- Statuses that spoil the step of their letter (R306): MEMORY_ERROR, PARTITION_DOWN, STASH_EXHAUSTED, REDUCE_FAILED,
RESET. -/
def spoils (status : Nat) : Bool := [0x13, 0x14, 0x23, 0x32, 0x51].contains status

/-- A letter of the step that ends in a status of R306 spoils it. -/
def Dev.spoilBy (d : Dev) (x : Letter) (status : Nat) : Dev :=
  if spoils status ∧ x.started ∧ (x.bracket = 1 ∨ x.opcode = 0x11) then d.spoil x.ctx else d

/-- A letter ends with a status: unless RECEIPT_EARLY is set, its paths are flushed by zero-length reads
(R122, R123, R377). The first status stands. A failed letter of the step may spoil it (R306). -/
def Dev.finish (d : Dev) (l : LetterId) (status detail : Nat) : Dev :=
  match findLetter d l with
  | none => d
  | some x =>
    if x.result.isSome then d else
    let (status, detail) := match status, x.flushErr with
      | 0, some st => (0x13, st)
      | s, _ => (s, detail)
    let d := (modifyLetter d l fun x => { x with result := some (status, detail % 65536) }).dropWork l
    let d := d.spoilBy x status
    if bitN x.flags 0 then d else
    let d := match x.pcieLast with | some a => d.zeroRead l a none | none => d
    d.each x.regions fun d r => d.zeroRead l r.last (some r)

/-- A flush of a target region fails while its letter runs: the letter will not end in SUCCESS (R377). -/
def Dev.flushFails (d : Dev) (l : LetterId) (stage : Nat) : Dev :=
  modifyLetter d l fun x => if x.result.isNone ∧ x.flushErr.isNone then { x with flushErr := some stage } else x

/-- A store of a letter that has ended in SUCCESS fails before its receipt: the status becomes the failure's (R122, R306,
R377). -/
def Dev.worsen (d : Dev) (l : LetterId) (status detail : Nat) : Dev :=
  match findLetter d l with
  | none => d
  | some x =>
    if x.result.map (·.1) ≠ some 0 then d
    else (modifyLetter d l fun y => { y with result := some (status, detail) }).spoilBy x status

/-- Add saturations and non-finite values to a letter's receipt counts (R125). SAT is kept whole here and saturates in the
receipt, so that a discarded tile's share can be taken back (R91, R196). -/
def Dev.addCounts (d : Dev) (l : LetterId) (sat nonfin : Nat) : Dev :=
  modifyLetter d l fun x => { x with sat := x.sat + sat, nonfin := satAdd 32 x.nonfin nonfin }

/-- Incident and letter status of a stop of requester w (R24, R100, R127, R143, R374). -/
def Dev.stopIncident (d : Dev) (w : Who) (s : Stop) : Dev :=
  let i : Inc := { cls := 0, eng := w.eng, idx := w.arr, ctx := some (w.ctx, w.gen),
                   die := (match w.part with | some p => dieOf p w.node | none => dieGate), part := w.part,
                   seq := (w.letter.map (·.seq)).getD 0, mbx := (w.letter.map (·.mbx)).getD 0,
                   stage := w.stage, route := w.route }
  match s with
  | .addr a => d.raise { i with cls := 4, d0 := a }
  | .down _ a => d.raise { i with cls := 4, d0 := a }
  | .trans va lvl => d.raise { i with cls := 5, d0 := va, d1 := lvl }
  | .perm va st => d.raise { i with cls := 6, d0 := va, d1 := if st then 1 else 0 }
  | .mem a k => d.raise { i with cls := 7, d0 := a, d1 := k }
  | .host a st tmo => d.raise { i with cls := 9, d0 := a, d1 := st + (if tmo then 8 else 0) }
  | .wait _ | .fail _ _ => d

/-- The status and DETAIL of R127. -/
def stopStatus (stage : Nat) : Stop → Nat × Nat
  | .addr _ => (0x10, stage)
  | .trans _ _ => (0x11, stage)
  | .perm _ _ => (0x12, stage)
  | .mem _ _ => (0x13, stage)
  | .host _ _ _ => (0x13, stage)
  | .down p _ => (0x14, p)
  | .fail s t => (s, t)
  | .wait _ => (0, 0)

/-- An engine's entry in FLT_WAIT, when the requester is an engine. -/
def Dev.whoWait (d : Dev) (w : Who) (k : Nat) : Dev :=
  match w.part with
  | some p => if w.eng < 10 then d.setWait p w.node (slotOf w.eng w.arr) k else d
  | none => d

/-- FLT_WAIT of the requester. -/
def Dev.waitOf (d : Dev) (w : Who) : Nat :=
  match w.part with
  | some p => if w.isEngine then d.fld (.fltWait p w.node) (2 * slotOf w.eng w.arr + 1) (2 * slotOf w.eng w.arr) else 0
  | none => 0

/-- Run an action of a letter. A wait undoes what the action did but for the requests it issued (log entry 11) and the deferral that it
begins with; any other stop raises its incident and ends the letter. -/
def Dev.runAct (d : Dev) (w : Who) (l : LetterId) (x : Act Unit) (done waiting : Dev → Dev) : Dev :=
  match x.run d with
  | (.ok _, d') => done (d'.whoWait w 0)
  | (.error (.wait k), d') =>
    let d := if d.waitOf w = 3 then d else d.keepDefers d'
    waiting { d.whoWait w k with remotes := d'.remotes, nextTag := d'.nextTag, out := d'.out, ports := d'.ports, remap := d'.remap }
  | (.error s, d') =>
    let (st, dt) := stopStatus w.stage s
    (d'.stopIncident w s).finish l st dt

/-! ### Which letters may start -/

/-- Letters of one mailbox start in ring order, a FENCE alone (R119, R120); none while the mailbox's partition is in steps 1 to 6 of its
reset (R397). -/
def mayStart (d : Dev) (x : Letter) : Bool :=
  let before := (d.letters.takeWhile (·.id ≠ x.id)).filter (·.id.mbx = x.id.mbx)
  x.result.isNone && !x.started && !(d.partResets.any fun r => r.part = x.id.mbx / 64 ∧ r.fence) &&
  before.all (fun y => (y.started || y.result.isSome) && y.opcode ≠ 0x07) &&
  (x.opcode ≠ 0x07 || before = [])

/-- The letter has started; its dead letters count from here (R401). -/
def Letter.begun (x : Letter) : Letter := { x with started := true, dead := if x.started then x.dead else 0 }

/-- Mark a letter as started and count the event (R87). -/
def Dev.startLetter (d : Dev) (x : Letter) : Dev :=
  (modifyLetter d x.id Letter.begun).event (readerDie d x.id.mbx)

/-- The letter waits: it is not started yet. -/
def Dev.unstart (d : Dev) (l : LetterId) : Dev := modifyLetter d l fun x => { x with started := false }

/-! ### Contexts -/

def Dev.ctx (d : Dev) (c : Nat) : Ctx := mapGet d.ctxs c Ctx.reset
def Dev.setCtx (d : Dev) (c : Nat) (x : Ctx) : Dev := { d with ctxs := mapSet d.ctxs c x }

/-- Every stage of a route, with its partition. -/
def stagesOf (d : Dev) (route : Nat) : List (Nat × Rec) :=
  (List.range 4).flatMap fun p =>
    ((((mapGet? d.parts p).map (·.stages)).getD []).filter fun r => stRoute r = route).map fun r => (p, r)

/-! ### Dead letters (R400, R401) -/

/-- A letter has, or awaits, data of commander memory (`pod` false) or of another module's. -/
def usesEdge (d : Dev) (x : Letter) (pod : Bool) : Bool :=
  (if pod then x.usesPod else x.usesHost) || d.remotes.any fun r =>
    (match r.who with | .letter l _ => l = x.id | _ => false) &&
    pod != decide (r.addr < 2 ^ 54)

/-- A letter has a stage in the partition. A letter without a route may go anywhere (log entry 62). -/
def passesPart (d : Dev) (x : Letter) (p : Nat) : Bool :=
  x.opcode ≠ 1 || (stagesOf d x.route).any (·.1 = p)

/-- DEAD of the letters that a dead letter of generation g counts for (R125, R401): those of its context that have started, no
receipt of theirs yet, whose path includes the edge. CTX_TEAR counts what its own generation leaves, on every path (R404). -/
def Dev.deadAt (d : Dev) (c g : Nat) (path : Letter → Bool) : Dev :=
  { d with letters := d.letters.map fun (x : Letter) =>
      if x.ctx = c ∧ x.started ∧ (if x.opcode = 0x21 then x.gen = g else path x = true) then { x with dead := satAdd 16 x.dead 1 } else x }

/-- A dead letter at an L-die's courier edge (R400, R401). -/
def Dev.courierDead (d : Dev) (p c g : Nat) : Dev :=
  (d.count (.fltDead p c) 1).deadAt c g fun x => usesEdge d x true || x.opcode = 1 && passesPart d x p

/-! ### Engines -/

/-- The running stage of an engine. -/
def runOn (d : Dev) (p node slot : Nat) : Option Run :=
  d.runs.find? fun r => r.part = p ∧ r.node = node ∧ r.slot = slot ∧ !r.parked

def runOf (d : Dev) (l : LetterId) (stage : Nat) : Option Run :=
  d.runs.find? fun r => r.letter = l ∧ r.stage = stage

/-- An UPDATE stage: it runs only under STEP_UPDATE, and a RUN_ROUTE letter passes over it (R324). -/
def isUpdate (r : Rec) : Bool := stKind r = 9 && recU r 16 1 = 0

/-- A stage runs on an engine; an update starts with its STEP_UPDATE. -/
def onEngine (p node slot : Nat) (q : Nat × Rec) : Bool :=
  q.1 = p && stNode q.2 = node && slotOf (stKind q.2) (stArr q.2) = slot && !isUpdate q.2

/-- A running letter has work for an engine that has not begun: a stage, or its copy. -/
def pendingOn (d : Dev) (y : Letter) (p node slot : Nat) : Bool :=
  y.started && y.result.isNone &&
  ((y.opcode = 1 && (stagesOf d y.route).any fun q => onEngine p node slot q && !y.stages.contains (stIndex q.2) && (runOf d y.id (stIndex q.2)).isNone) ||
   (y.opcode = 6 && node = 18 && slot = 1 && y.opnd 0x18 1 = p))

/-- A letter ahead of this one in its mailbox has yet to reach the engine (R119). -/
def ringAhead (d : Dev) (l : LetterId) (p node slot : Nat) : Bool :=
  (d.letters.takeWhile (·.id ≠ l)).any fun y => y.id.mbx = l.mbx && pendingOn d y p node slot

/-- An engine reset or the partition's reset bars the engine. -/
def engineOut (d : Dev) (p node slot : Nat) : Bool :=
  d.resetting p || d.engResets.any (fun r => r.part = p ∧ r.node = node ∧ r.slot = slot) ||
  halted d p node slot

/-- Discard a context's cached translations (R101). -/
def Dev.dropTlb (d : Dev) (c : Nat) : Dev := { d with tlb := d.tlb.filter fun e => e.1.1 ≠ c }

/-- The requester of a letter that runs no stage: DETAIL 0x00FF (R127). -/
def letterWho (x : Letter) (part : Option Nat) (node eng : Nat) : Who :=
  ⟨part, node, eng, 0, x.ctx, x.gen, some x.id, 0xFF, 0xFFFF⟩

end Sys2Proof.Machine
end

