-- ==== Sys2Proof/Machine/Links.lean ====
section
/-! DEFINITION. Changes of a courier port's state, and the ends of pod requests (R346-R351, R400). -/

namespace Sys2Proof.Machine

/-! ### The ends of pod requests (R122, R343, R351, R401) -/

/-- An incident of the reader of mailbox n. -/
def readerInc (d : Dev) (n cls : Nat) : Inc :=
  { cls := cls, eng := 0x10, die := readerDie d n, part := readerPart d n, mbx := n }

/-- A notification could not be written (R118). -/
def Dev.notifyFault (d : Dev) (l : LetterId) (addr : Nat) : Dev :=
  d.raise { readerInc d l.mbx 0xD with seq := l.seq, d0 := addr, d1 := l.mbx + l.seq * 2 ^ 32 }

/-- The L-die of a port (R11). -/
def lDie (n : Nat) : Nat := dieOf (n / 4) (22 + n % 4 / 2)

/-- What stops a pod request, by the code of its response: 2 memory error, 3 partition down, else an address fault. -/
def podStop (t code p : Nat) : Stop :=
  match code with
  | 2 => .mem t 1
  | 3 => .down p t
  | _ => .addr t

/-- A pod store is complete, or has failed (R122). -/
def Dev.storeEnds (d : Dev) (s : PodStore) (err : Option Stop) : Dev :=
  let d := { d with podStores := d.podStores.filter (·.tag ≠ s.tag) }
  let d := match s.who with
    | .letter l stage =>
      let ack := fun (x : Letter) => { x with podAcks := x.podAcks - 1 }
      let x := ((findLetter d l).orElse fun _ => d.early.find? (·.id = l))
      let d := { modifyLetter d l ack with early := d.early.map fun (y : Letter) => if y.id = l then ack y else y }
      match err, x with
      | some e, some x =>
        let w : Who := { letterWho x none 19 0x10 with stage := stage, route := x.route }
        let d := d.stopIncident w e
        let (st, dt) := stopStatus stage e
        match x.result with
        | none => d.finish l st dt
        | some _ => d.worsen l st dt
      | _, _ => d
    | .core h =>
      if err.isSome then { d with podStores := d.podStores.filter fun t => t.who ≠ Waiter.core h }.send (.coreFault h 7)
      else if d.podStores.any (fun t => t.who = Waiter.core h) then d else d.send (.coreDone h)
    | .receipt l status addr =>
      if err.isNone then d else
      { d with podStores := d.podStores.filter fun t => t.who ≠ s.who }.raise
        { readerInc d l.mbx 3 with seq := l.seq, d0 := status, d1 := addr }
    | .notify l addr => if err.isSome then d.notifyFault l addr else d
    | _ => d
  d.remapGo

/-- One part of a core's load is answered (R374, R343): the hart hears of the load when all of it is, of a fault when a part came
back in error, which stands as an empty answer. -/
def Dev.coreAnswer (d : Dev) (h tag : Nat) (bs : Option (List Byte)) : Dev :=
  let d := { d with remotes := d.remotes.map fun (x : Remote) => if x.tag = tag then { x with data := some (bs.getD []) } else x }
  let mine := d.remotes.filter fun (x : Remote) => x.who = Waiter.core h
  if mine.any (·.data.isNone) then d else
  let d := { d with remotes := d.remotes.filter fun (x : Remote) => x.who ≠ Waiter.core h }
  let got := mine.map fun (x : Remote) => x.data.getD []
  if got.any (·.isEmpty) then d.send (.coreFault h 5) else d.send (.coreValue h (leNat got.flatten))

/-- A pod load is answered, or fails. -/
def Dev.loadEnds (d : Dev) (r : Remote) (res : Except Stop (List Byte)) : Dev :=
  let gone := { d with remotes := d.remotes.filter (·.tag ≠ r.tag) }
  match r.who, res with
  | .letter _ _, .ok bs => { d with remotes := d.remotes.map fun x => if x.tag = r.tag then { x with data := some (slice bs 0 r.len) } else x }
  | .letter l stage, .error e =>
    match findLetter gone l with
    | none => gone
    | some x =>
      let (st, dt) := stopStatus stage e
      (gone.stopIncident { letterWho x none 19 0x10 with stage := stage, route := x.route } e).finish l st dt
  | .core h, .ok bs => d.coreAnswer h r.tag (some (slice bs 0 r.len))
  | .core h, .error _ => d.coreAnswer h r.tag none
  | _, _ => gone

/-- The module that a pending pod read is addressed to. -/
def podDst (t : Nat) : Option Nat :=
  match untag t with
  | .pod m _ => some m
  | _ => none

/-- Requests to a destination that no way leads to complete with an address fault (R351). -/
def Dev.strand (d : Dev) : Dev :=
  let lost := fun (d : Dev) (m : Nat) => m ≠ modNumber d && unreachable d m
  let d := d.each (d.podStores.filter fun s => lost d s.dst) fun d s => d.storeEnds s (some (.addr s.addr))
  d.each (d.remotes.filter fun r => r.data.isNone && match podDst r.addr with | some m => lost d m | none => false) fun d r =>
    d.loadEnds r (.error (.addr r.addr))

/-- A change of ports: new mappings take effect, and what has lost its way ends (R351). -/
def Dev.rewire (d : Dev) (f : Dev → Dev) : Dev := ((f d).remapFrom d).strand

/-! ### Port states -/

/-- A port without a session: only the cable, the reported states and the link stay; a retraining has ended (R369). -/
def Dev.clearSession (d : Dev) (n : Nat) (link : Bool) : Dev :=
  let p := d.port n
  (d.setBit (.crrPortCtrl n) 1 false).setPort n
    { Port.reset with cabled := p.cabled, linkUp := link, mismatch := p.mismatch, downReported := p.downReported }

/-- An enabled port starts CLOSED, without a session (R348). -/
def Dev.closePort (d : Dev) (n : Nat) : Dev :=
  let d := (d.clearSession n false).setPortState n 1
  d.setPort n { d.port n with mismatch := none }

/-- A port begins to disable: what it has not sent goes another way, its replay buffer waits for acknowledgement
(R409). A port that is not OPEN cannot be acknowledged: all of it goes another way (R351). -/
def Dev.disablePort (d : Dev) (n : Nat) : Dev :=
  let opened := d.portState n = 3
  d.rewire fun d => ((d.setPortState n 6).setBit (.crrPortCtrl n) 1 false).requeue n (!opened)

/-- A retrain takes an OPEN port to TRAINING at once (R346). -/
def Dev.retrainPort (d : Dev) (n : Nat) : Dev :=
  if d.portState n = 3 then (d.setPortState n 4).count (.crrPortRetrain n) 1 else d

/-- A frame that has been resent 4 times retrains its port; a port that is disabling hands its frames over (R346). -/
def Dev.resendCheck (d : Dev) (n : Nat) : Dev :=
  if (d.port n).replay.any fun e => 4 ≤ e.2.1 then
    (if d.portState n = 6 then d.rewire fun d => d.requeue n true else d.retrainPort n)
  else d

end Sys2Proof.Machine
end

