-- ==== Sys2Proof/Machine/Functions.lean ====
section
/-! DEFINITION. Switching functions on and off (R408, R409): the queue of each function and its transitions. -/

namespace Sys2Proof.Machine

/-- The state of a function: 0 DISABLED, 1 ENABLING, 2 ENABLED, 3 DISABLING. A LATE mailbox counts as enabled, a
port that has entered CLOSED as enabled (R408). -/
def fnState (d : Dev) : FnId → Nat
  | .mailbox n => let s := d.fld (.mbxStatus n) 2 0; if s = 4 then 2 else s
  | .engine p node slot => d.fld (.fltFnEngine p node) (3 * slot + 2) (3 * slot)
  | .partition p => d.fld (.fltStatus p) 3 2
  | .port n => let s := d.portState n; if s = 0 then 0 else if s = 6 then 3 else 2

def setFnState (d : Dev) (f : FnId) (s : Nat) : Dev :=
  match f with
  | .mailbox n => d.setFld (.mbxStatus n) 2 0 s
  | .engine p node slot => d.setFld (.fltFnEngine p node) (3 * slot + 2) (3 * slot) s
  | .partition p => d.setFld (.fltStatus p) 3 2 s
  | .port n => d.setPortState n (match s with | 0 => 0 | 3 => 6 | _ => 1)

/-- The operands name a function that exists (R107, R127). -/
def fnExists : FnId → Bool
  | .mailbox n => n < 256
  | .engine p node slot => p < 4 && slot < slotCount node
  | .partition p => p < 4
  | .port n => n < 16

/-- A mailbox whose ring registers do not meet R109 (R117). -/
def mbxBadCfg (d : Dev) (n : Nat) : Bool :=
  let lg := d.fld (.mbxCfg n) 3 0
  let b := d.regN (.mbxBase n)
  let kindOk := match untag b with
    | .localAddr _ => true
    | .host _ => !d.bit (.mbxCfg n) 4
    | _ => false
  lg < 4 || b % 4096 ≠ 0 || !kindOk

/-- The running letters that have a stage in a partition: by their route, or an UPDATE stage under STEP_UPDATE (R324). -/
def lettersIn (d : Dev) (p : Nat) : List Letter :=
  d.letters.filter fun x => x.started && x.result.isNone &&
    (x.opcode = 1 && (stagesOf d x.route).any (·.1 = p) || d.updates.any fun u => u.letter = x.id && u.parts.contains p)

/-- The update engine of a partition has work: a STEP_UPDATE or a COPY. -/
def updBusy (d : Dev) (p : Nat) : Bool :=
  d.updates.any (·.parts.contains p) || d.letters.any fun x => x.started && x.result.isNone && x.opcode = 6 && x.opnd 0x18 1 = p

/-- The mailbag engine of a partition has a mailbag or an exchange. -/
def redBusy (d : Dev) (p : Nat) : Bool := d.bags.any (·.part = p) || d.exchs.any (·.part = p)

/-- Begin the transition of the request at the head of a function's queue. A port whose role dimension is 3 stays DISABLED
(R347); in DROWSE every port does, its ENABLE kept for the exit (R427). -/
def fnBegin (d : Dev) (f : FnId) (enable : Bool) : Dev :=
  match f, enable with
  | .port n, true => if powerState d = 2 ∨ (d.modImage.isSome ∧ d.portRole n % 4 = 3) then d else d.closePort n
  | .port n, false => d.disablePort n
  | _, true => setFnState d f 1
  | _, false => setFnState d f 3

/-- A transition in progress may end now (R117, R409, R462); in DROWSE no mailbox reader runs (R427). -/
def fnMayEnd (d : Dev) (f : FnId) : Bool :=
  match f, fnState d f with
  | .mailbox n, 1 =>
    powerState d ≠ 2 && if d.bit (.mbxCfg n) 4 then d.memReady && d.trained (n / 64) && !d.degraded (n / 64) else d.memReady
  | .mailbox n, 3 => d.letters.all fun x => x.id.mbx ≠ n
  | .engine p node slot, 3 => d.runs.all (fun r => ¬ (r.part = p ∧ r.node = node ∧ r.slot = slot)) &&
      !(node = 18 && (if slot = 0 then redBusy d p else updBusy d p))
  | .partition p, 3 => lettersIn d p = []
  | .port n, 3 => (d.port n).replay = [] && (d.port n).queue = []
  | _, 1 => true
  | _, _ => false

/-- Complete the letter behind a request. -/
def fnReceipt (d : Dev) (r : FnReq) : Dev :=
  match r.letter with
  | some l => d.finish l 0 0
  | none => d

/-- Work through a function's queue: requests whose target state is reached complete at once; a refused mailbox
enable leaves it DISABLED with BADCFG (R117); the first real transition begins (R408). -/
def fnKick (f : FnId) : Nat → Dev → Dev
  | 0, d => d
  | k + 1, d =>
    match mapGet d.fns f [] with
    | [] => d
    | r :: rs =>
      let s := fnState d f
      if s = 1 ∨ s = 3 then d
      else if (s = 2) = (r.enable = true) then fnKick f k (fnReceipt { d with fns := mapSet d.fns f rs } r)
      else
        let bad := match f with | .mailbox n => r.enable && mbxBadCfg d n | _ => false
        if bad then
          let d := match f with | .mailbox n => d.setBit (.mbxStatus n) 11 true | _ => d
          fnKick f k (fnReceipt { d with fns := mapSet d.fns f rs } r)
        else
          let d := fnBegin d f r.enable
          match f, r.enable with
          | .port _, true => fnKick f k (fnReceipt { d with fns := mapSet d.fns f rs } r)
          | _, _ => d

/-- Queue a request for a function (R408). -/
def fnRequest (d : Dev) (f : FnId) (r : FnReq) : Dev :=
  let q := mapGet d.fns f [] ++ [r]
  fnKick f (q.length + 1) { d with fns := mapSet d.fns f q }

/-- An engine begins anew (R409). -/
def Dev.engineInit (d : Dev) (p node slot : Nat) : Dev := (d.engState p node slot 0).setWait p node slot 0

/-- What a function does as it reaches its settled state (R101, R112, R409). -/
def fnSettle (d : Dev) (f : FnId) : Dev :=
  let s := fnState d f
  let d := setFnState d f (if s = 1 then 2 else 0)
  match f, s with
  | .mailbox n, 1 =>
    { d with mbx := mapSet d.mbx n { mapGet d.mbx n Mbx.reset with attempts := 0 } }
  | .engine p node slot, 1 => d.engineInit p node slot
  | .partition p, 1 => d.each ((List.range 19).flatMap fun n => (List.range (slotCount n)).map fun t => (n, t)) fun d e => d.engineInit p e.1 e.2
  | .port n, 3 => d.setPort n { Port.reset with cabled := (d.port n).cabled, downReported := (d.port n).downReported }
  | _, _ => d

/-- A transition completes, its receipt is due and the next request proceeds (R408). -/
def fnDone (d : Dev) (f : FnId) : Dev :=
  if fnMayEnd d f then
    let d := fnSettle d f
    match mapGet d.fns f [] with
    | [] => d
    | r :: rs => fnKick f (rs.length + 1) (fnReceipt { d with fns := mapSet d.fns f rs } r)
  else d

/-- Transitions of a mailbox that may end do so at once (R117, R462). -/
def mbxSettle (n : Nat) : Nat → Dev → Dev
  | 0, d => d
  | k + 1, d => if fnMayEnd d (.mailbox n) then mbxSettle n k (fnDone d (.mailbox n)) else d

def Dev.mbxReady (d : Dev) (n : Nat) : Dev := mbxSettle n ((mapGet d.fns (.mailbox n) []).length + 1) d

/-- A reset completes a transition in progress and leaves the settled state (R408). -/
def fnForce (d : Dev) (f : FnId) : Dev :=
  let s := fnState d f
  if s = 1 ∨ s = 3 then
    let d := fnSettle d f
    match mapGet d.fns f [] with
    | [] => d
    | r :: rs => fnKick f (rs.length + 1) (fnReceipt { d with fns := mapSet d.fns f rs } r)
  else d

/-! ### Opening a context -/

/-- CTX_OPEN zeroes the context's saturation and non-finite counts on every tile, and its step registers
(R225, R243, R271, R302, R338, R370). HALL_STASH_DROPS stays: R339 lets software alone set it. -/
def Dev.openCounts (d : Dev) (c : Nat) : Dev :=
  let z := fun (d : Dev) (r : Reg) => d.setReg r 0#64
  let d := d.each (List.range 4) fun d p =>
    let d := d.each (List.range 12) fun d t => z (z d (.frkSat p t c)) (.frkNonfinite p t c)
    let d := d.each [12, 13, 14, 15] fun d t => z (z d (.embSat p t c)) (.embNonfinite p t c)
    let d := d.each [16, 17] fun d t =>
      z (z (z (z d (.vecSat p t c)) (.vecNonfinite p t c)) (.attSat p t c)) (.attNonfinite p t c)
    z (z d (.redSat p c)) (.redNonfinite p c)
  let d := { d with xruns := d.xruns.filter fun (e : (Nat × Nat × Nat) × Nat) => e.1.1 ≠ c,
                    xbase := d.xbase.filter fun (e : (Nat × Nat × Nat) × Nat) => e.1.1 ≠ c,
                    decisions := d.decisions.filter fun (e : (Nat × Nat) × Bool) => e.1.1 ≠ c,
                    stepParts := mapErase d.stepParts c, evals := mapErase d.evals c }
  z (z (z (z d (.gateStep c)) (.gateStepOpen c)) (.gateStepCommitted c)) (.gateNorm c)

/-! ### Who may write a register (R32, R66, R130, R381, R415, R416, R500) -/

/-- What becomes of an MMIO write by its requester. -/
inductive Grant where
  | yes
  /-- The access has no effect: the BAR is not enabled, or the requester is barred. -/
  | no
  /-- A core takes a store/AMO access fault (cause 7). -/
  | fault (hart : Nat)
  deriving DecidableEq, Repr

/-- Which requesters a register admits: `high`: the commander and cores in machine or hypervisor mode (R500); `sec` and `power`: the
SEC_ and CLERK_ blocks, which the Clerk may write too (R32). -/
inductive Guard where
  | open_
  | high
  | sec
  | power
  /-- No engine reaches the register (R66, R130). -/
  | noEngine
  deriving DecidableEq, Repr

/-- The module is in recovery mode (R441). -/
def Dev.recovery (d : Dev) : Bool := d.bit .secStatus 0

/-- The BARs answer: the gate is ready, memory space is on, the function is in D0 (R42, R371). -/
def barsOn (d : Dev) : Bool := d.gateReady && d.pcie.memSpace && !d.pcie.d3hot

/-- Each requester against each guard. BAR0 reaches only the gate block (R37), so `gate` says whether the register
lies there. In recovery mode BAR4 serves the security block alone, the SEC_ registers
(R441). -/
def grant (d : Dev) (v : Via) (g : Guard) (gate : Bool) : Grant :=
  match v with
  | .bar0 => if barsOn d && gate && !d.bit .secStatus 0 then .yes else .no
  | .bar4 => if barsOn d && (!d.bit .secStatus 0 || g = .sec) then .yes else .no
  | .core h mode => match g with
    | .open_ | .noEngine => .yes
    | _ => if mode.high then .yes else .fault h
  | .clerk => match g with
    | .high => .no
    | _ => .yes
  | .engine _ _ _ _ _ _ => match g with
    | .open_ => .yes
    | _ => .no

/-- The port of the offices from which a requester's writes come (R20, R22). -/
def viaPort : Via → Nat
  | .core h _ => h / 48
  | .engine _ p _ _ _ _ => p
  | _ => 4

/-- The requester behind an engine's write. -/
def viaWho (d : Dev) (c p n k : Nat) (l : Option LetterId) (st : Nat) : Who :=
  ⟨if p < 4 then some p else none, n, k, 0, c, (d.ctx c).gen, l, st, ((l.bind (findLetter d)).map (·.route)).getD 0xFFFF⟩

/-- A write that a register does not take is an error of its requester: a core takes a store/AMO access fault, an engine's
letter ends and an incident is raised; the commander's and the Clerk's have no effect (R24, R28, R32, R500). -/
def Dev.viaStop (d : Dev) (v : Via) (s : Stop) : Dev :=
  match v with
  | .core h _ => d.send (.coreFault h 7)
  | .engine c p n k l st =>
    let w := viaWho d c p n k l st
    let d := d.stopIncident w s
    match l with
    | some l => d.finish l (stopStatus st s).1 (stopStatus st s).2
    | none => d
  | _ => d

/-- A held write of the commander's. -/
def Held.isBar : Held → Bool
  | .bar2Write _ _ => true
  | .cmd _ v _ _ _ => v = .bar0 || v = .bar4
  | _ => false

/-- A write of the commander's that has not reached its target: none of its later requests passes it (R375). -/
def barWait (d : Dev) : Bool := d.held.any Held.isBar

/-- A request of the commander's behind such a write waits. -/
def barBlocked (d : Dev) (v : Via) : Bool := (v = .bar0 || v = .bar4) && barWait d

/-- A write i at MMIO offset `off`, of `len` bytes: granted or not, then across the sorting offices (R20): held while its
partition is installed (R71) or behind an earlier write of the commander's (R375), answered down (R24) unless it is the commander's (R491). A core's store is done when it acts. -/
def Dev.via (d : Dev) (v : Via) (g : Guard) (off len : Nat) (i : Instr) (f : Dev → Dev) : Dev :=
  match grant d v g (off < 0x100000) with
  | .no => d.viaStop v (.addr (mmioBase + off))
  | .fault h => d.send (.coreFault h 7)
  | .yes =>
    let act := fun (d : Dev) => match v with
      | .core h _ => (f d).send (.coreDone h)
      | _ => f d
    let hold := { d with held := d.held ++ [.cmd (mmioPort off) v off len i] }
    if barBlocked d v then hold else
    match crossing d (viaPort v) (mmioPort off) (mmioBase + off) len true with
    | (.ok _, d) => act d
    | (.error (.wait _), _) => match v with
      | .core h _ => hold.send (.coreWait h)
      | _ => hold
    | (.error s, d') => if v = .bar4 ∨ v = .bar0 then act d else d'.viaStop v s

/-- What a core hears of a store that is done; other requesters hear nothing. -/
def viaAck : Via → List Output
  | .core h _ => [.coreDone h]
  | _ => []

/-- A write to a partition block that is dark is ignored (R491). -/
def Dev.viaReg (d : Dev) (v : Via) (g : Guard) (r : Reg) (i : Instr) (f : Dev → Dev) : Dev :=
  d.via v g r.info.offset r.info.width i fun d => if blockDark d r.info.offset true then d else f d

/-- Of a mailbox's registers R500 names MBX_BASE, MBX_CFG, MBX_HEAD, MBX_SEQ and MBX_NOTIFY; offsets as R130. -/
def mbxHigh (o : Nat) : Bool := o < 0xC || (0x10 ≤ o && o < 0x14) || (0x18 ≤ o && o < 0x1C) || (0x20 ≤ o && o < 0x28)

/-- The guard of a register of the gate block from 0x1000 on, by its register: R66 and R500 name those that lower modes may not
write, and R66 keeps engines from all STRUCT_ registers. An offset without a register is open (R31). -/
def gateGuard (off : Nat) : Guard :=
  match Reg.ofOffset off with
  | none => .open_
  | some (r, _) => match r with
    | .structCtrl | .structSrcAddr | .structSrcLen | .structModuleNumber => .high
    | _ => if off < 0x2000 then .noEngine else .high

/-- The guard of a register by its MMIO offset (R32, R373, R500). -/
def guardAt (off : Nat) : Guard :=
  if 0x100000 ≤ off ∧ off < 0x200000 then .power
  else if 0x200000 ≤ off ∧ off < 0x300000 then .sec
  else if 0x40000 ≤ off ∧ off < 0x48100 then .high
  else if (0x1000 ≤ off ∧ off < 0x2000) ∨ (0x3000 ≤ off ∧ off < 0x3120) then gateGuard off
  else if 0x10000000 ≤ off ∧ off < 0x14000000 then
    let q := off % 0x1000000
    if q < 0x40000 ∨ (0x600000 ≤ q ∧ q < 0x700000) then .high
    else if 0x140000 ≤ q ∧ q < 0x141000 then (if mbxHigh (q % 64) then .high else .noEngine)
    else if 0x100000 ≤ q ∧ q < 0x200000 then .noEngine
    else .open_
  else .open_

end Sys2Proof.Machine
end

