-- ==== Sys2Proof/Machine/Stages.lean ====
section
/-! DEFINITION. What every engine shares: operand words, parcels and their slots, the poste restante, handshake
channels, and the start and end of a stage (R53, R54, R77, R138-R140, R157-R160, R169, R181, R314-R318, R406-R409). -/

namespace Sys2Proof.Machine

/-! ### Operand words (R107, R181) -/

def wordObj (w : Nat) : Nat := bitsN w 23 0
def wordFirst (w : Nat) : Nat := bitsN w 55 24
def dimM (w : Nat) : Nat := bitsN w 20 0
def dimN (w : Nat) : Nat := bitsN w 41 21
def dimK (w : Nat) : Nat := bitsN w 62 42

/-- Operand word i, or FORMAT with the enclosure offset of a word that lies beyond the enclosure (R181, R235). -/
def needWord (x : Letter) (i : Nat) : Act Nat :=
  if i < x.nWords then pure (x.word i) else stop (.fail 1 (8 * i))

/-- Operand word i as an object word, or FORMAT when a reserved bit is set (R6, R181). -/
def objWord (x : Letter) (i : Nat) : Act Nat := do
  let w ← needWord x i
  if bitsN w 63 56 ≠ 0 then stop (.fail 1 (8 * i)) else pure w

/-- Operand word i as a dimensions word (R6, R181). -/
def dimWord (x : Letter) (i : Nat) : Act Nat := do
  let w ← needWord x i
  if bitN w 63 then stop (.fail 1 (8 * i)) else pure w

/-- Act as another requester, whose incident and status a stop then takes. -/
def actAs {α : Type} (w : Who) (a : Act α) : Act α := fun d =>
  match a.run d with
  | (.error (.wait k), e) => (.error (.wait k), e)
  | (.error (.fail s t), e) => (.error (.fail s t), e)
  | (.error s, e) => let (st, dt) := stopStatus w.stage s; (.error (.fail st dt), e.stopIncident w s)
  | r => r

/-- The requester of a stage. -/
def stageWho (x : Letter) (p : Nat) (r : Rec) : Who :=
  ⟨some p, stNode r, stKind r, stArr r, x.ctx, x.gen, some x.id, stIndex r, x.route⟩

/-! ### The poste restante (R314-R318) -/

def isHandle (id : Nat) : Bool := 0xFF0000 ≤ id
def layerRecompute (d : Dev) (n : Nat) : Bool :=
  match findLayer d n with
  | some r => bitN (lyOpts r) 3
  | none => false

/-- Ranges of a partition's STASH regions, in ascending node, then offset (R315). -/
def stashRegions (d : Dev) (p : Nat) : List (Nat × Nat) :=
  (List.range 20).flatMap fun n => sortBy (fun a b => a.1 ≤ b.1) (regions d p n 3)

/-- First fit of `units` of 64 KiB in a range that other entries share. -/
def fitIn (used : List (Nat × Nat)) (base len units : Nat) : Option Nat :=
  (List.range (len / 65536)).findSome? fun k =>
    let a := base + k * 65536
    if k + units ≤ len / 65536 ∧ used.all (fun u => a + units * 65536 ≤ u.1 ∨ u.1 + u.2 ≤ a) then some a else none

/-- The space that the entries of a partition hold. -/
def stashUsed (d : Dev) (p : Nat) : List (Nat × Nat) :=
  (d.stash.filter fun e => e.1.1 = p).filterMap fun e => e.2.base.map fun b => (b, e.2.units * 65536)

/-- A place for an entry: in SRAM, else in the overflow object (R315); none when the table of 4,096 is full. -/
def stashPlace (d : Dev) (p units : Nat) : Option (Nat × Bool) :=
  if 4096 ≤ (d.stash.filter fun e => e.1.1 = p).length then none else
  let used := stashUsed d p
  match (stashRegions d p).findSome? fun r => fitIn used r.1 r.2 units with
  | some a => some (a, false)
  | none => match stashOvf d p with
    | some (some (b, n)) => (fitIn used b n units).map fun a => (a, true)
    | _ => none

/-- HALL_STASH_STATUS follows the table (R339); OVF_BAD is read off the overflow object. -/
def Dev.stashStatus (d : Dev) (p : Nat) : Dev :=
  let es := (d.stash.filter fun e => e.1.1 = p).map (·.2)
  let units := fun (o : Bool) => ((es.filter fun e => e.base.isSome ∧ e.ovf = o).map (·.units)).sum
  let d := d.setFld (.hallStashStatus p) 15 0 (units false)
  let d := d.setFld (.hallStashStatus p) 31 16 es.length
  d.setFld (.hallStashStatus p) 55 32 (units true)

def Dev.setStash (d : Dev) (p c h : Nat) (e : Stash) : Dev :=
  { d with stash := mapSet d.stash (p, c, h) e }.stashStatus p

/-- Release entries (R318). -/
def Dev.releaseStash (d : Dev) (hit : Nat × Nat × Nat → Bool) : Dev :=
  let d := { d with stash := d.stash.filter fun e => !hit e.1 }
  d.each (List.range 4) Dev.stashStatus

/-- The card inputs of a vector stage that name objects: operand words (R235). -/
def cardReads (d : Dev) (r : Rec) : List Nat :=
  match mapGet? d.objs (recU r 16 3) with
  | none => []
  | some o =>
    let c := d.mem.read o.loadBase 256
    (List.range 3).filterMap fun i =>
      if bitsN (field c (4 + 4 * i) 1) 1 0 = 3 then some (recU r 19 1 + field c (5 + 4 * i) 1) else none

/-- The operand words that a stage reads its data from, by kind (R180, R220, R234, R245, R280-R282, R324, R354). -/
def readWords (d : Dev) (r : Rec) : List Nat :=
  let o := fun i => recU r (16 + i) 1
  (match stKind r with
  | 0 => [o 4, o 5] ++ (if bitN (o 0) 1 then [o 6] else [])
  | 1 => if bitN (o 0) 0 then [o 4] else []
  | 2 => [o 0]
  | 3 => [o 1, o 2]
  | 4 => [o 2, o 3, o 4]
  | 5 => [o 1, o 2, o 3]
  | 6 => cardReads d r
  | 7 => [o 4] ++ (if bitN (o 2) 0 then [] else [o 5, o 6]) ++ (if o 0 = 1 then [o 7, o 9] else [])
  | 8 => if o 0 = 2 then [o 8] else []
  | _ => []).filter (· ≠ 0xFF)

/-- The stash handles that a letter's stages read, with their partitions (R314, R317). -/
def handleReads (d : Dev) (x : Letter) : List (Nat × Nat) :=
  (stagesOf d x.route).flatMap fun pr => ((readWords d pr.2).map fun i => (pr.1, wordObj (x.word i))).filter fun e => isHandle e.2

/-- A running letter reads an entry. -/
def stashRead (d : Dev) (p c h : Nat) : Bool :=
  d.letters.any fun y => y.started && y.result.isNone && y.opcode = 1 && y.ctx = c && (handleReads d y).any (· = (p, h))

/-- The entry to drop next: recompute-eligible, of the same context, not being read; highest layer, then highest
handle (R316). -/
def dropChoice (d : Dev) (p c : Nat) : Option (Nat × Stash) :=
  ((d.stash.filter fun e => e.1.1 = p ∧ e.1.2.1 = c ∧ e.2.base.isSome ∧ layerRecompute d e.2.layer ∧
      !stashRead d p c e.1.2.2).map fun e => (e.1.2.2, e.2)).foldl
    (fun b e => match b with
      | none => some e
      | some f => if f.2.layer < e.2.layer ∨ (f.2.layer = e.2.layer ∧ f.1 < e.1) then some e else some f) none

/-- Create an entry, dropping others until it fits; every drop stands and counts, even where no space comes of it (R316). -/
def Dev.stashMake (d : Dev) (w : Who) (p h layer parcels units : Nat) : Nat → Option Stash × Dev
  | 0 => (none, d)
  | k + 1 =>
    let e : Stash := ⟨layer, parcels, units, none, false, w.letter⟩
    match stashPlace d p units with
    | some (a, o) => (some { e with base := some a, ovf := o }, d.setStash p w.ctx h { e with base := some a, ovf := o })
    | none =>
      if layerRecompute d layer then (some e, (d.setStash p w.ctx h e).count (.hallStashDrops p w.ctx) 1)
      else match dropChoice d p w.ctx with
        | none => (none, d)
        | some (g, x) =>
          ((d.setStash p w.ctx g { x with base := none }).count (.hallStashDrops p w.ctx) 1).stashMake w p h layer parcels units k

/-- What a store finds behind its handle: the entry to go on with, or none where one has to be made (R315, R319). An entry with space
is overwritten in place while the footprint is the same. A dropped entry takes the stores of the letter that it was dropped under, and
discards them; another letter, a recompute route for example, makes it again. -/
def stashKept (w : Who) (layer parcels units : Nat) (e : Stash) : Option Stash :=
  if e.base.isSome then
    if e.units = units then some { e with layer := layer, parcels := parcels, writer := w.letter } else none
  else if e.writer = w.letter ∧ w.letter.isSome then some e else none

/-- The entry behind a handle that a stage stores through: kept, or made anew (R315). A failure raises its incident and ends the
letter (R316). -/
def stashFor (w : Who) (layer h parcels : Nat) : Act Stash := do
  let d ← devGet
  let p := w.part.getD 0
  let units := ceilDiv (parcels * 4608) 65536
  match (mapGet? d.stash (p, w.ctx, h)).map (stashKept w layer parcels units) with
  | some (some e) => do
    devMod fun d => d.setStash p w.ctx h e
    pure e
  | some none => do
    devMod fun d => d.releaseStash (· = (p, w.ctx, h))
    make p units
  | none => make p units
where make (p units : Nat) : Act Stash := fun d =>
  match d.stashMake w p h layer parcels units (d.stash.length + 2) with
  | (some e, d) => pure (.ok e, d)
  | (none, d) =>
    let d := d.raise { cls := 0xB, eng := 0x15, ctx := some (w.ctx, w.gen), die := dieOf p 19, part := some p,
                       seq := (w.letter.map (·.seq)).getD 0, mbx := (w.letter.map (·.mbx)).getD 0, stage := w.stage,
                       route := w.route, d0 := layer % 65536 + h * 2 ^ 24 }
    pure (.error (.fail 0x23 layer), d)

/-! ### Parcels (R138) -/

/-- Load payload and side record of parcel i of an object or stash entry. -/
def parcelLoad (w : Who) (id i : Nat) : Act (List Byte × List Byte) := do
  if isHandle id then
    let d ← devGet
    match mapGet? d.stash (w.part.getD 0, w.ctx, id) with
    | none => stop (.fail 0x20 0)
    | some e => match e.base with
      | none => stop (.fail 0x21 4)
      | some b =>
        if e.parcels ≤ i then stop (.addr (b + 4096 * i)) else do
        let pl ← localLoad w.src (b + 4096 * i) 4096
        let sd ← localLoad w.src (b + 4096 * e.parcels + 512 * i) 512
        pure (pl, sd)
  else do
    let o ← getObj id
    let pl ← objLoad w id (4096 * i) 4096
    let sd ← objLoad w id (o.size + 512 * i) 512
    pure (pl, sd)

/-- The address of a parcel, for incidents. -/
def parcelAddr (d : Dev) (w : Who) (id i : Nat) : Nat :=
  if isHandle id then ((mapGet? d.stash (w.part.getD 0, w.ctx, id)).bind (·.base)).getD 0 + 4096 * i
  else ((mapGet? d.objs id).map (·.loadBase)).getD 0 + 4096 * i

/-- Store pieces of the payload and the side record of parcel i; `parcels` is the size of the whole destination (R315). -/
def parcelStoreAt (w : Who) (layer id i parcels : Nat) (pieces : List (Nat × List Byte)) (side : List Byte) : Act Unit := do
  if isHandle id then
    let e ← stashFor w layer id parcels
    match e.base with
    | none => pure ()
    | some b =>
      if e.parcels ≤ i then stop (.addr (b + 4096 * i)) else do
      forA pieces fun q => localStore w.src (b + 4096 * i + q.1) q.2
      localStore w.src (b + 4096 * e.parcels + 512 * i) side
  else do
    let o ← getObj id
    forA pieces fun q => objStore w id (4096 * i + q.1) q.2
    objStore w id (o.size + 512 * i) side

/-- Store the whole payload and the side record of parcel i. -/
def parcelStore (w : Who) (layer id i parcels : Nat) (payload side : List Byte) : Act Unit :=
  parcelStoreAt w layer id i parcels [(0, payload)] side

/-- A parcel that a reader has checked (R140, R201, R202, R204). -/
structure Parcel where
  fmt : EFmt
  side : Side
  payload : List Byte

/-- Check a parcel's side record; a bad one is a memory error of kind 2 (R412). -/
def checkParcel (w : Who) (id i : Nat) (pl sd : List Byte) : Act Parcel := do
  let s := Side.ofBytes sd
  match s.ok id i with
  | some f => pure ⟨f, s, pl⟩
  | none => let d ← devGet; stop (.mem (parcelAddr d w id i) 2)

def readParcel (w : Who) (id i : Nat) : Act Parcel := do
  let (pl, sd) ← parcelLoad w id i
  checkParcel w id i pl sd

/-! ### Channels (R54, R77) -/

def chanRec (d : Dev) (p ch : Nat) : Option Rec :=
  (((mapGet? d.parts p).map (·.channels)).getD []).find? fun r => recU r 0 2 = ch

/-- The consumer's end of a channel: its partition and number (R54). -/
def chanEnd (d : Dev) (p ch : Nat) : Nat × Nat :=
  match chanRec d p ch with
  | some r => if bitN (recU r 8 1) 1 ∧ recU r 5 1 = 0xFE then (recU r 9 1, recU r 10 2) else (p, ch)
  | none => (p, ch)

def Dev.chan (d : Dev) (l : LetterId) (p ch : Nat) : List Item :=
  let e := chanEnd d p ch
  mapGet d.chans (l, e.1, e.2) []
def Dev.setChan (d : Dev) (l : LetterId) (p ch : Nat) (is : List Item) : Dev :=
  let e := chanEnd d p ch
  { d with chans := mapSet d.chans (l, e.1, e.2) is }
/-- Send on a channel; 0xFFFF is no channel. -/
def Dev.emit (d : Dev) (l : LetterId) (p ch : Nat) (i : Item) : Dev :=
  if ch = 0xFFFF then d else d.setChan l p ch (d.chan l p ch ++ [i])

/-- Entries of 128 bytes that an item fills in a channel's queue (R54, R183): a tile is 128 x 128 x 4 bytes, a parcel 4,608. -/
def Item.entries : Item → Nat
  | .token _ => 1
  | .tile _ _ => 512
  | .parcel _ _ _ => 36

/-- A letter's consumer at the end of a channel runs, and takes what arrives; a parked one takes nothing (R19). A franker takes a
tile while one of its two staging banks is free (R222). -/
def consumerRuns (d : Dev) (l : LetterId) (e : Nat × Nat) : Bool :=
  d.runs.any fun r => r.letter = l && r.part = e.1 && !r.parked && match findLetter d l with
    | some x => match findStage d x.route r.stage with
      | some (_, st) => (stInA st = e.2 || stInB st = e.2) && (stKind st ≠ 1 || frkTiles d r.part r.node < 2)
      | none => false
    | none => false

/-- Entries of a channel's queue that no running consumer takes. -/
def chanHeld (d : Dev) (e : Nat × Nat) : Nat :=
  ((d.chans.filter fun (c : (LetterId × Nat × Nat) × List Item) => c.1.2 = e && !consumerRuns d c.1.1 e).flatMap fun c =>
    c.2.map Item.entries).sum

/-- The queue on the consumer's die has room for an item (R54, R77, R78): what no running consumer takes stays within DEPTH. -/
def chanRoom (d : Dev) (l : LetterId) (p ch : Nat) (i : Item) : Bool :=
  match chanRec d p ch with
  | none => true
  | some r => consumerRuns d l (chanEnd d p ch) || decide (chanHeld d (chanEnd d p ch) + i.entries ≤ recU r 6 2)

/-- A completion token can go: there is no channel for it, or its channel has room (R77). -/
def tokenRoom (d : Dev) (l : LetterId) (p ch : Nat) : Bool := ch = 0xFFFF || chanRoom d l p ch (.token 0)

/-- A stage sends on a channel; without room it waits (R19, R77, R78, log entry 30). -/
def sendItem (l : LetterId) (p ch : Nat) (i : Item) : Act Unit := fun d =>
  if ch = 0xFFFF ∨ chanRoom d l p ch i then pure (.ok (), d.emit l p ch i) else pure (.error (.wait 1), d)

/-- A token on a channel, taken off it. -/
def takeToken (d : Dev) (l : LetterId) (p ch : Nat) : Option (Nat × Dev) :=
  match d.chan l p ch with
  | .token t :: is => some (t, d.setChan l p ch is)
  | _ => none

/-! ### Deliveries (R157-R160) -/

/-- Delivery records of a partition (R60). -/
def delivRecs (d : Dev) (p : Nat) : List Rec := ((mapGet? d.parts p).map (·.delivery)).getD []
def delivRec (d : Dev) (p i : Nat) : Option Rec := (delivRecs d p)[i]?
/-- Module-local address of parcel slot s of a node's PARCEL_BUFFER regions taken in order (R60, R138). -/
def slotAddr (d : Dev) (p node s : Nat) : Option Nat :=
  ((regions d p node 1).head?).map fun r => r.1 + 4608 * s

/-- The delivery from whose slots a stage reads a parcel: its record and the parcel's index in it. Where several of the stage's
layer cover the parcel it is the latest whose window has come, else the first (R159). -/
def delivFor (d : Dev) (x : Letter) (w : Who) (id i : Nat) : Option (Rec × Nat) :=
  let p := w.part.getD 0
  let layer := (findStage d x.route w.stage).map fun q => stLayer q.2
  let rs := (delivRecs d p).filter fun r =>
    recU r 0 2 = x.route ∧ recU r 16 1 = w.node ∧ bitsN (recU r 4 4) 23 0 = id ∧ recU r 8 4 ≤ i ∧ i < recU r 8 4 + recU r 12 4 ∧
    layer = some (recU r 2 2)
  let past := rs.filter fun r => recU r 17 1 ≤ w.stage
  let best := past.foldl (fun b r => match b with
    | none => some r
    | some q => if recU q 17 1 < recU r 17 1 then some r else some q) none
  (if past = [] then rs.head? else best).map fun r => (r, i - recU r 8 4)

def delivIdx (d : Dev) (p : Nat) (r : Rec) : Nat := ((delivRecs d p).findIdx? (· = r)).getD 0

/-- Fetch a matrix operand's parcel for a feeder: from its slot when it is in place, awaited when its load is under
way, and by direct read otherwise (R159, R171). -/
def feedParcel (x : Letter) (w : Who) (id i : Nat) : Act (Parcel × Option (Nat × Nat)) := do
  let d ← devGet
  let p := w.part.getD 0
  match delivFor d x w id i with
  | none => do let q ← readParcel w id i; pure (q, none)
  | some (r, k) =>
    match d.delivs.find? fun v => v.letter = x.id ∧ v.part = p ∧ v.record = delivIdx d p r with
    | none => do let q ← readParcel w id i; pure (q, none)
    | some v =>
      let slot := recU r 20 4 + k
      if v.landed.contains k then
        match slotAddr d p w.node slot with
        | none => do let q ← readParcel w id i; pure (q, none)
        | some a => do
          let pl ← localLoad w.src a 4096
          let sd ← localLoad w.src (a + 4096) 512
          let q ← checkParcel w id i pl sd
          pure (q, some (w.node, slot))
      else if v.dropped.contains k ∨ v.issued ≤ k then do let q ← readParcel w id i; pure (q, none)
      else stop (.wait 3)

/-! ### The start and end of a stage -/

/-- The FLT_SOLO and FLT_HOLD registers let a context's stage start on an engine (R406). -/
def soloOk (d : Dev) (p node slot c : Nat) : Bool :=
  !(d.bit (.fltSolo p) 31 && d.fld (.fltSolo p) 4 0 = node && d.fld (.fltSolo p) 7 5 = slot) || d.fld (.fltSolo p) 13 8 = c

/-- Every stage of a letter's route that the letter runs has ended, and so has every mailbag that it sent (R127, R359). -/
def allDone (d : Dev) (x : Letter) : Bool :=
  (stagesOf d x.route).all (fun q => isUpdate q.2 || x.stages.contains (stIndex q.2)) && d.bags.all fun b => b.letter ≠ x.id || b.done

/-- A letter whose work has ended completes with SUCCESS. -/
def Dev.letterDone (d : Dev) (l : LetterId) : Dev :=
  match findLetter d l with
  | some x => if allDone d x then d.finish l 0 0 else d
  | none => d

/-- A running letter with an undone stage of one of the kinds at an index. -/
def stageAt (d : Dev) (l : LetterId) (stage : Nat) (kinds : List Nat) : Option (Letter × Nat × Rec) :=
  match findLetter d l with
  | none => none
  | some x =>
    if !x.started || x.result.isSome || x.opcode ≠ 1 || x.stages.contains stage then none else
    match findStage d x.route stage with
    | some (p, r) => if kinds.contains (stKind r) && !isUpdate r then some (x, p, r) else none
    | none => none

def Dev.setRun (d : Dev) (l : LetterId) (stage : Nat) (f : Run → Run) : Dev :=
  { d with runs := d.runs.map fun r => if r.letter = l ∧ r.stage = stage then f r else r }

/-- A stage that reached the engine earlier waits for it (R53). -/
def queueAhead (d : Dev) (l : LetterId) (stage p node slot : Nat) : Bool :=
  (d.waits.takeWhile (· ≠ (l, stage))).any fun (e : LetterId × Nat) => match findLetter d e.1 with
    | some y => y.result.isNone && (match findStage d y.route e.2 with | some q => onEngine p node slot q | none => false) &&
        !ringAhead d e.1 p node slot
    | none => false

/-- A franker stage that converts what arrays drain. -/
def drainStage (r : Rec) : Bool := stKind r = 1 && !bitN (recU r 16 1) 0

/-- The engine can take the stage: nothing runs on it, or a franker serves drains and the stage is another of them (R222). -/
def engineFree (d : Dev) (p : Nat) (r : Rec) : Bool :=
  let on := d.runs.filter fun q => q.part = p ∧ q.node = stNode r ∧ q.slot = slotOf (stKind r) (stArr r) ∧ !q.parked
  on = [] || (drainStage r && on.all fun q => match (findLetter d q.letter).bind fun y => findStage d y.route q.stage with
    | some (_, s) => drainStage s
    | none => false)

/-- Consumers on its own node of a transposing feeder's streams (R180). -/
def feederUsers (d : Dev) (x : Letter) (p : Nat) (r : Rec) : List Nat :=
  ((stagesOf d x.route).filter fun q => q.1 = p ∧ stKind q.2 = 0 ∧
    [stOutA r, stOutB r].any (fun c => c ≠ 0xFFFF ∧ (stInA q.2 = c ∨ stInB q.2 = c))).map fun q => stIndex q.2

/-- The transposing feeders of which a stage is the first consumer to start. -/
def feedersOf (d : Dev) (x : Letter) (p : Nat) (r : Rec) : List Rec :=
  if stKind r ≠ 0 then [] else
  ((stagesOf d x.route).filter fun q => q.1 = p && stKind q.2 = 2 && (feederUsers d x p q.2).contains (stIndex r) &&
    (feederUsers d x p q.2).all fun k => !x.stages.contains k && (runOf d x.id k).isNone).map (·.2)

/-- The transposing feeder takes a letter's stream: no other letter's stage runs on it, and it is the letter's turn (R53, R119,
R177). The streams of one letter run side by side. -/
def feederFree (d : Dev) (x : Letter) (p : Nat) (f : Rec) : Bool :=
  d.runs.all (fun q => !(q.part = p && q.node = stNode f && q.slot = 5 && q.letter ≠ x.id)) && !ringAhead d x.id p (stNode f) 5 &&
  !engineOut d p (stNode f) 5

/-- No other context has a stage on an engine, nor a mailbag in flight on a mailbag engine (R407). -/
def aloneOn (d : Dev) (p node slot c : Nat) : Bool :=
  d.runs.all (fun q => !(q.part = p && q.node = node && q.slot = slot) || q.ctx = c) &&
  (node ≠ 18 || slot ≠ 0 || d.bags.all fun b => b.part ≠ p || !b.active || b.done || b.ctx = c)

/-- The engine is free to take the stage, and it is the stage's turn (R53, R119); so are the transposing feeders that start with
it. In named-fault mode no other context is on the engine (R407). -/
def canStart (d : Dev) (x : Letter) (p : Nat) (r : Rec) : Bool :=
  let slot := slotOf (stKind r) (stArr r)
  !ringAhead d x.id p (stNode r) slot && !queueAhead d x.id (stIndex r) p (stNode r) slot &&
  (stKind r ≠ 8 || cascadeOpen d) && engineFree d p r && (runOf d x.id (stIndex r)).isNone && soloOk d p (stNode r) slot x.ctx &&
  !engineOut d p (stNode r) slot && fnState d (.engine p (stNode r) slot) = 2 && (feedersOf d x p r).all (feederFree d x p) &&
  (!d.bit (.fltCtrl p) 0 || aloneOn d p (stNode r) slot x.ctx)

/-- Count read-through parcels of a layer in HALL_RT: entries by first read-through, the rest in HALL_RT_OTHER
(R160). -/
def Dev.countRt (d : Dev) (p layer n : Nat) : Dev :=
  if n = 0 then d else
  match (List.range 64).find? fun i => d.bit (.hallRt p i) 63 ∧ d.fld (.hallRt p i) 15 0 = layer with
  | some i => d.addFld (.hallRt p i) 47 16 n
  | none => match (List.range 64).find? fun i => !d.bit (.hallRt p i) 63 with
    | some i => d.setReg (.hallRt p i) (BitVec.ofNat 64 (layer + min n (2 ^ 32 - 1) * 2 ^ 16 + 2 ^ 63))
    | none => d.count (.hallRtOther p) n

def Dev.deliv (d : Dev) (l : LetterId) (p i : Nat) : Deliv :=
  (d.delivs.find? fun v => v.letter = l ∧ v.part = p ∧ v.record = i).getD ⟨l, p, i, 0, [], []⟩
def Dev.setDeliv (d : Dev) (v : Deliv) : Dev :=
  { d with delivs := v :: d.delivs.filter fun u => ¬ (u.letter = v.letter ∧ u.part = v.part ∧ u.record = v.record) }

/-- Some delivery of the letter has dropped the parcel before, so it has been counted (R160). -/
def readThroughDone (d : Dev) (l : LetterId) (p obj i : Nat) : Bool :=
  d.delivs.any fun v => v.letter = l && v.part = p && match delivRec d p v.record with
    | some r => recU r 4 4 = obj && v.dropped.any fun k => recU r 8 4 + k = i
    | none => false

/-- A window stage is ready: parcels whose load has not been issued are dropped from their delivery and will be read
through (R159, R160). -/
def Dev.windowReady (d : Dev) (x : Letter) (stage : Nat) : Dev :=
  d.each (List.range 4) fun d p => d.each (delivRecs d p).zipIdx fun d e =>
    let r := e.1
    if recU r 0 2 ≠ x.route ∨ recU r 17 1 ≠ stage then d else
    let v := d.deliv x.id p e.2
    let miss := (List.range (recU r 12 4)).filter fun k => v.issued ≤ k ∧ !v.dropped.contains k
    if miss = [] then d else
    let n := (miss.filter fun k => !readThroughDone d x.id p (recU r 4 4) (recU r 8 4 + k)).length
    let d := d.setDeliv { v with dropped := v.dropped ++ miss }
    let d := d.countRt p (recU r 2 2) n
    let d := if recU r 16 1 < 12 then d.frkState p (recU r 16 1) else d
    modifyLetter d x.id fun y => { y with readThrough := true }

/-- The run of a stage that starts. -/
def newRun (x : Letter) (p : Nat) (r : Rec) : Run :=
  ⟨x.id, stIndex r, p, stNode r, slotOf (stKind r) (stArr r), x.ctx, false, 0, [], []⟩

/-- A partition takes part in a context's open step: a stage of the bracket has run in it (R306). -/
def Dev.stepPart (d : Dev) (c p : Nat) : Dev :=
  let ps := mapGet d.stepParts c []
  if ps.contains p then d else { d with stepParts := mapSet d.stepParts c (p :: ps) }

/-- A stage starts: its engine runs, and its die counts the event (R87). The transposing feeders that supply it start and run with
their first consumer. -/
def Dev.startStage (d : Dev) (x : Letter) (p : Nat) (r : Rec) (st : Nat) : Dev :=
  let slot := slotOf (stKind r) (stArr r)
  let d := d.each (feedersOf d x p r) fun d f =>
    let d := (d.windowReady x (stIndex f)).event (dieOf p (stNode f))
    ({ d with runs := d.runs ++ [newRun x p f] } : Dev)
  let d := d.windowReady x (stIndex r)
  let d := { d with runs := d.runs ++ [newRun x p r],
                    waits := d.waits.filter (· ≠ (x.id, stIndex r)) }
  let d := if x.bracket = 1 then d.stepPart x.ctx p else d
  let d := if stKind r = 1 then d.frkState p (stNode r) else d.engState p (stNode r) slot st
  d.event (dieOf p (stNode r))

/-- A stage waits for its engine (R53); a mailbag stage waits on another module while the cascade is not open (R469). -/
def Dev.waitStage (d : Dev) (x : Letter) (r : Rec) : Dev :=
  let d := if stKind r = 8 ∧ !cascadeOpen d then
      match findStage d x.route (stIndex r) with | some (p, _) => d.setWait p 18 0 2 | none => d
    else d
  if d.waits.contains (x.id, stIndex r) then d else { d with waits := d.waits ++ [(x.id, stIndex r)] }

/-- A stage ends. A transposing feeder ends with the last array stage that its streams supply; a letter whose every
stage has ended completes with SUCCESS (R127). -/
def Dev.stageDone (d : Dev) (x : Letter) (stage : Nat) : Dev :=
  let d := match runOf d x.id stage with
    | some r => if r.node = 18 ∧ r.slot = 0 then (d.dropRun r).redState r.part else d.dropRun r
    | none => d
  let d := modifyLetter d x.id fun y => { y with stages := stage :: y.stages }
  let d := { d with remotes := d.remotes.filter fun r => ¬ (r.who = .letter x.id stage ∧ r.data.isSome) }
  match findLetter d x.id with
  | none => d
  | some y =>
    let fed := ((stagesOf d y.route).filter fun q => stKind q.2 = 2 ∧ !y.stages.contains (stIndex q.2) ∧
      (feederUsers d y q.1 q.2).all y.stages.contains).map fun q => stIndex q.2
    let d := modifyLetter d x.id fun y => { y with stages := fed ++ y.stages }
    let d := ({ d with runs := d.runs.filter fun q => !(q.letter = x.id && fed.contains q.stage) } : Dev)
    d.letterDone x.id

/-- Run an action of a stage; on a stop the letter ends, on a wait nothing has happened but FLT_WAIT (R127, R415). -/
def Dev.stageAct (d : Dev) (x : Letter) (p : Nat) (r : Rec) (a : Act Unit) (done : Dev → Dev) : Dev :=
  d.runAct (stageWho x p r) x.id a done id

/-- A stage that one command carries out from start to end. -/
def Dev.oneShot (d : Dev) (l : LetterId) (stage : Nat) (kinds : List Nat) (mode : Rec → Bool) (st : Nat)
    (a : Letter → Nat → Rec → Act Unit) : Dev :=
  match stageAt d l stage kinds with
  | none => d
  | some (x, p, r) =>
    if !mode r then d else
    let go := fun (d : Dev) => d.stageAct x p r (a x p r) fun d => d.stageDone x stage
    if (runOf d l stage).isSome then (if engineOut d p (stNode r) (slotOf (stKind r) (stArr r)) then d else go d)
    else if canStart d x p r then go (d.startStage x p r st)
    else d.waitStage x r

/-- Add a conversion's counts to a letter and to its engine's registers (R217, R219, R225, R243, R271, R302). -/
def Dev.convCounts (d : Dev) (l : LetterId) (satReg nfReg : Reg) (sat nf : Nat) : Dev :=
  ((d.addCounts l sat nf).count satReg sat).count nfReg nf

/-- A seed word that a stage names lies within the enclosure (R107, R235). -/
def seedCheck (x : Letter) (word : Nat) : Act Unit :=
  if word = 0xFF then pure () else do
    let _ ← needWord x word
    pure ()

/-- The key of stochastic draws: the context seed xor the seed word (R214). -/
def seedKey (d : Dev) (x : Letter) (word : Nat) : Nat := (d.ctx x.ctx).seed.toNat ^^^ (if word = 0xFF then 0 else x.word word)

end Sys2Proof.Machine
end

