-- ==== Sys2Proof/Machine/Arrays.lean ====
section
/-! DEFINITION. The systolic arrays and the transposing feeder (R164-R198). -/

namespace Sys2Proof.Machine

/-! ### Options (R180) -/

def aFlag (r : Rec) (i : Nat) : Bool := bitN (recU r 16 1) i
def aPriority (r : Rec) : Nat := recU r 17 1 % 4
def aDrain (r : Rec) : Nat := recU r 18 1
def aSplitPrev (r : Rec) : Nat := recU r 19 1
def aWordA (r : Rec) : Nat := recU r 20 1
def aWordB (r : Rec) : Nat := recU r 21 1
def aWordOut (r : Rec) : Nat := recU r 22 1
def aWordDims (r : Rec) : Nat := recU r 23 1
def aKbFirst (r : Rec) : Nat := recU r 24 2
def aKbCount (r : Rec) : Nat := recU r 26 2

/-- One past the last K-block of a stage (R180). DESIGN CHOICE: blocks that KB_COUNT places beyond K, of which the spec says
nothing, run with zero operands (log entry 53). -/
def aKbEnd (r : Rec) (k : Nat) : Nat := if aKbCount r = 0 then ceilDiv k 32 else aKbFirst r + aKbCount r

/-! ### Operand blocks (R168-R172, R175-R179) -/

/-- One 32-element K-block of 128 lanes: decoded elements without scales, lane scales, the zero point when ZP = 1, and
the block sums (R172, R216). -/
structure Lanes where
  vals : List (List FV)
  scale : List (Nat × Int)
  zp : Option Nat
  sums : List FV
  fmt : EFmt

def zeroFV : FV := .fin false 0 0
def sumFV (l : List FV) : FV := l.foldl FV.add zeroFV

/-- Element i of a parcel without scales; elements beyond ELEMENTS are zero, whose code is the zero point (R169, R212). -/
def rawElem (q : Parcel) (i : Nat) : FV :=
  if q.side.elements ≤ i then (if q.side.zpSet then .fin false q.side.zp 0 else zeroFV)
  else q.fmt.raw (q.fmt.elemCode q.payload i)

/-- Block sums of a parcel, lane by lane and chunk by chunk (R216). -/
def parcelSums (q : Parcel) : List FV :=
  let w := q.fmt.width
  (List.range 128).flatMap fun l => (List.range (max 1 (w / 32))).map fun h =>
    sumFV ((List.range (min w 32)).map fun k => rawElem q (l * w + 32 * h + k))

/-- The frank of a parcel. -/
def Parcel.frank (q : Parcel) : Nat × Int := frankVal q.side.frank
def mulScale (a b : Nat × Int) : Nat × Int := (a.1 * b.1, a.2 + b.2)

/-- The K-block q of lane tile rt, from the parcels that hold it: `get c` is K-parcel c of the row tile. -/
def laneBlock (f : EFmt) (rows rt q : Nat) (p : Nat) (get : Nat → Act (Option (Parcel × Option (Nat × Nat)))) : Act Lanes := do
  let w := f.width
  let cs := if w = 16 then [2 * q, 2 * q + 1] else [32 * q / w]
  let ps ← mapA cs get
  let d ← devGet
  let h := if w = 64 then q % 2 else 0
  let lane := fun (l : Nat) => if rows ≤ 128 * rt + l then List.replicate 32 zeroFV else
    ps.flatMap fun o => match o with
      | none => List.replicate (min w 32) zeroFV
      | some (pc, _) => (List.range (min w 32)).map fun k => rawElem pc (l * w + 32 * h + k)
  let vals := (List.range 128).map lane
  let first := (ps.head?).bind id
  let sc := fun (l : Nat) => match first with
    | some (pc, _) => mulScale (pc.side.stamp (if w = 64 then 2 * l + h else l)) pc.frank
    | none => (1, 0)
  let kept := fun (l : Nat) (o : Option (Parcel × Option (Nat × Nat))) => match o with
    | some (pc, some (n, s)) => ((mapGet d.sums (p, n, s) (parcelSums pc)).getD (if w = 64 then 2 * l + h else l) zeroFV)
    | some (pc, none) => (parcelSums pc).getD (if w = 64 then 2 * l + h else l) zeroFV
    | none => zeroFV
  let sums := (List.range 128).map fun l => if rows ≤ 128 * rt + l then zeroFV else sumFV (ps.map (kept l))
  pure { vals := vals, scale := (List.range 128).map sc, fmt := f, sums := sums,
         zp := first.bind fun x => if x.1.side.zpSet then some x.1.side.zp else none }

/-- A matrix operand may be read in these formats; FP32 is none (R168, R171). -/
def operandFmt (a : Nat) (q : Parcel) (want : Nat) : Act Unit :=
  if q.fmt = .fp32 ∨ (want ≠ 0 ∧ q.fmt.code ≠ want) then stop (.mem a 4) else pure ()

/-- The format of a K pass: the one its first block had, else that of the parcel where the pass begins (R171). `at0` is the
layout's width, `get` gives parcel i of the operand. Where parcels of different widths stand in one operand the spec gives no
layout; the first parcel's width finds the pass (log entry 53). -/
def passFmt (known k rt q : Nat) (first : Act Parcel) (get : Nat → Act Parcel) : Act EFmt :=
  match EFmt.ofCode known with
  | some f => pure f
  | none => do
    let q0 ← first
    let per := ceilDiv k q0.fmt.width
    let c := 32 * q / q0.fmt.width
    if per ≤ c then pure q0.fmt else do
    let pc ← get (rt * per + c)
    pure pc.fmt

/-- Normal orientation from an object (R168, R169). `known` is the format of this K pass, 0 when it is not known. -/
def objBlock (x : Letter) (w : Who) (word rows k rt q known : Nat) : Act Lanes := do
  let op ← objWord x word
  let id := wordObj op
  let first := wordFirst op
  let d ← devGet
  let take := fun (i want : Nat) => do
    let (pc, s) ← feedParcel x w id (first + i)
    operandFmt (parcelAddr d w id (first + i)) pc want
    pure (pc, s)
  let f ← passFmt known k rt q (do let r ← take 0 0; pure r.1) fun i => do let r ← take i 0; pure r.1
  let per := ceilDiv k f.width
  let get := fun (c : Nat) => if per ≤ c then pure none else do
    let r ← take (rt * per + c) f.code
    pure (some r)
  laneBlock f rows rt q (w.part.getD 0) get

/-- Normal orientation from a channel's parcels (R220, R237): awaited until they are there. DESIGN CHOICE: a memory error of such
a parcel, which has no address, gives D0 = 0 in its incident (R171, log entry 53). -/
def chanBlock (x : Letter) (w : Who) (ch rows k rt q known : Nat) : Act Lanes := do
  let d ← devGet
  let items := d.chan x.id (w.part.getD 0) ch
  let parse := fun (i : Nat) => (items.findSome? fun t => match t with
    | .parcel j pl sd => if j = i then some (pl, sd) else none
    | _ => none)
  let load := fun (i : Nat) => match parse i with
    | none => (stop (.wait 1) : Act Parcel)
    | some (pl, sd) =>
      let s := Side.ofBytes sd
      match s.ok s.obj s.parcel with
      | some f => pure ⟨f, s, pl⟩
      | none => stop (.mem 0 2)
  let take := fun (i want : Nat) => do
    let pc ← load i
    operandFmt 0 pc want
    pure pc
  let head := match items.findSome? fun t => match t with | .parcel j _ _ => some j | _ => none with
    | some j => take j 0
    | none => stop (.wait 1)
  let f ← passFmt known k rt q head fun i => take i 0
  let per := ceilDiv k f.width
  let get := fun (c : Nat) => if per ≤ c then pure none else do
    let pc ← take (rt * per + c) f.code
    pure (some (pc, none))
  laneBlock f rows rt q (w.part.getD 0) get

/-- An element times the ratio of its stored stamp to the new one, rounded to nearest even in its own format. The ratio is at
most 1, so no value leaves the format's range, the weight formats' most negative code among them (R178). -/
def reblockElem (f : EFmt) (mx : Nat × Int) (v : FV) : FV :=
  if f = .int4w ∨ f = .int8w then
    match v with
    | .fin neg m e => .fin neg (roundInt neg m mx.1 (e - mx.2) .rne) 0
    | v => v
  else f.raw (convert f mx 0 .rne v).code

/-- Re-block one group of 32 stored elements to the largest of their stamps (R178). -/
def reblock (f : EFmt) (es : List (FV × (Nat × Int))) : List FV × (Nat × Int) :=
  let mx := es.foldl (fun m e => magMax m e.2) (0, 0)
  let same := fun (a b : Nat × Int) => magMax a b = a ∧ magMax b a = b ∧ a.1 * 2 ^ (a.2 - min a.2 b.2).toNat = b.1 * 2 ^ (b.2 - min a.2 b.2).toNat
  if es.all (fun e => same e.2 mx) then (es.map (·.1), mx)
  else (es.map fun e => reblockElem f mx (e.1.mul (.fin false e.2.1 e.2.2)), mx)

/-- A transposing feeder's own options (R180): the stored object, its dimensions, which edge of the product its lanes are, and
its K-blocks. -/
def tWordSrc (f : Rec) : Nat := recU f 16 1
def tWordDims (f : Rec) : Nat := recU f 17 1
def tEdge (f : Rec) : Bool := bitN (recU f 18 1) 0
def tKbFirst (f : Rec) : Nat := recU f 20 2
def tKbEnd (f : Rec) (k : Nat) : Nat := if recU f 22 2 = 0 then ceilDiv k 32 else tKbFirst f + recU f 22 2

/-- Transposed orientation: lanes are stored columns, K runs over stored rows (R177-R179). The feeder serves output tile `tile` by
its own dimensions: its lanes are the tile's rows, or with EDGE its columns (R180). A block outside its K-blocks never comes. -/
def feederBlock (x : Letter) (w : Who) (f : Rec) (tile q known : Nat) : Act Lanes := do
  let word ← objWord x (tWordSrc f)
  let dw ← dimWord x (tWordDims f)
  let id := wordObj word
  let first := wordFirst word
  let fw : Who := { w with eng := 2, arr := 0, stage := stIndex f }
  let mts := ceilDiv (dimM dw) 128
  let lanes := if tEdge f then dimN dw else dimM dw
  let rt := if tEdge f then tile / mts else tile % mts
  if q < tKbFirst f ∨ tKbEnd f (dimK dw) ≤ q then stop (.wait 1) else do
  let d ← devGet
  let take := fun (i want : Nat) => do
    let (pc, _) ← feedParcel x fw id (first + i)
    operandFmt (parcelAddr d fw id (first + i)) pc want
    if pc.side.zpSet then stop (.mem (parcelAddr d fw id (first + i)) 4) else pure pc
  let rowTile := 32 * q / 128
  let fmt ← match EFmt.ofCode known with
    | some f => pure f
    | none => do
      let q0 ← take 0 0
      let per := ceilDiv lanes q0.fmt.width
      let c := 128 * rt / q0.fmt.width
      if per ≤ c ∨ dimK dw ≤ 32 * q then pure q0.fmt else do
      let pc ← take (rowTile * per + c) 0
      pure pc.fmt
  let wd := fmt.width
  let per := ceilDiv lanes wd
  let ps ← mapA (List.range (128 / wd)) fun j => do
    let c := 128 * rt / wd + j
    if per ≤ c ∨ dimK dw ≤ 32 * q then pure none else do
    let pc ← take (rowTile * per + c) fmt.code
    pure (some pc)
  let lane := fun (l : Nat) => match ps.getD (l / wd) none with
    | none => (List.replicate 32 zeroFV, (1, (0 : Int)))
    | some pc =>
      if lanes ≤ 128 * rt + l then (List.replicate 32 zeroFV, (1, 0)) else
      let col := l % wd
      let es := (List.range 32).map fun j =>
        let row := (32 * q + j) % 128
        let st := if pc.side.stamped then pc.side.stamp (if wd = 64 then 2 * row + col / 32 else row) else (1, 0)
        (rawElem pc (row * wd + col), st)
      let (vs, st) := reblock pc.fmt es
      (vs, mulScale st pc.frank)
  let ls := (List.range 128).map lane
  pure { vals := ls.map (·.1), scale := ls.map (·.2), zp := none, sums := ls.map fun v => sumFV v.1, fmt := fmt }

/-- The transposing feeder that produces a channel, if one does. -/
def feederOf (d : Dev) (x : Letter) (p ch : Nat) : Option Rec :=
  ((stagesOf d x.route).find? fun q => q.1 = p ∧ stKind q.2 = 2 ∧ (stOutA q.2 = ch ∨ stOutB q.2 = ch)).map (·.2)

/-- An operand's block, by where the stage takes it from (R180): lane tile `rt` of the operand, for output tile `tile`. -/
def operandBlock (x : Letter) (w : Who) (word ch rows k rt tile q known : Nat) : Act Lanes := do
  if word ≠ 0xFF then objBlock x w word rows k rt q known else do
  let d ← devGet
  match feederOf d x (w.part.getD 0) ch with
  | some f => actAs { w with eng := 2, arr := 0, stage := stIndex f } (feederBlock x w f tile q known)
  | none => chanBlock x w ch rows k rt q known

/-! ### Cells (R172-R174) -/

/-- The exact integer of an integer element. -/
def FV.toInt : FV → Int
  | .fin neg m e => let v : Int := (m * 2 ^ e.toNat : Nat); if neg then -v else v
  | _ => 0

/-- The corrected block sum s of R172. An Inf whose partner operand has a zero point meets its infinite product again in the
correction, with the other sign: DEDUCED from R172's formula, the sum is then NaN (log entry 53). -/
def blockSum (a b : Lanes) (i j : Nat) : FV :=
  let av := a.vals.getD i []
  let bv := b.vals.getD j []
  let s := sumFV ((av.zip bv).map fun e => e.1.mul e.2)
  let s := match a.zp with
    | some z => s.add ((FV.fin true z 0).mul (b.sums.getD j zeroFV))
    | none => s
  match b.zp with
  | some z => s.add ((FV.fin true z 0).mul (a.sums.getD i zeroFV))
  | none => s

/-- One block in one cell: the new accumulator, and whether it saturated (R172-R174). -/
def cellStep (int : Bool) (a b : Lanes) (i j : Nat) (acc : W32) : W32 × Bool :=
  let s := blockSum a b i j
  if int then
    let t := acc.toInt + s.toInt
    if t < -(2 ^ 31) then (BitVec.ofInt 32 (-(2 ^ 31)), true)
    else if 2 ^ 31 ≤ t then (BitVec.ofInt 32 (2 ^ 31 - 1), true)
    else (BitVec.ofInt 32 t, false)
  else
    let m := mulScale (a.scale.getD i (1, 0)) (b.scale.getD j (1, 0))
    let mf := toF32 (.fin false m.1 m.2)
    let sat := mf = 0x7F800000#32
    let mf := if sat then maxF32 else mf
    (toF32 ((f32 acc).add (s.mul (f32 mf))), sat)

/-- A block in every cell; lanes beyond M or N compute zeros (R182). -/
def bankStep (int : Bool) (a b : Lanes) (rows cols : Nat) (bank : List W32) : List W32 × Nat :=
  let r := bank.zipIdx.map fun e =>
    if e.2 / 128 < rows ∧ e.2 % 128 < cols then cellStep int a b (e.2 / 128) (e.2 % 128) e.1 else (0#32, false)
  (r.map (·.1), (r.filter (·.2)).length)

/-! ### Array stages -/

def Dev.arr (d : Dev) (p t a : Nat) : Option ArrRun := mapGet? d.arrs (p, t, a)
def Dev.setArr (d : Dev) (p t a : Nat) (r : ArrRun) : Dev := { d with arrs := mapSet d.arrs (p, t, a) r }

/-- Output tiles of a stage, and the tile's row and column (R182). -/
def tileCount (m n : Nat) : Nat := ceilDiv m 128 * ceilDiv n 128

def dimsOf (x : Letter) (r : Rec) : Nat × Nat × Nat :=
  let w := x.word (aWordDims r)
  (dimM w, dimN w, dimK w)

/-- The checks of R181 on a transposing feeder's words, made with those of the array stages that it supplies. -/
def feederCheck (x : Letter) (f : Rec) : Act Unit := do
  let _ ← objWord x (tWordSrc f)
  let w ← dimWord x (tWordDims f)
  if dimM w = 0 ∨ dimN w = 0 ∨ dimK w = 0 ∨ dimK w % 128 ≠ 0 ∨ dimK w ≤ 32 * tKbFirst f then stop (.fail 1 (8 * tWordDims f))
  else pure ()

/-- The checks of R181 and R184 as a stage starts. A drain that integer mode forbids leaves DETAIL open (R184). -/
def arrayCheck (x : Letter) (p : Nat) (r : Rec) : Act Unit := do
  let d ← devGet
  forA ([aWordA r, aWordB r, aWordOut r].filter (· ≠ 0xFF)) fun i => do let _ ← objWord x i; pure ()
  let w ← dimWord x (aWordDims r)
  let off := 8 * aWordDims r
  let tr := fun (word ch : Nat) => word = 0xFF && (feederOf d x p ch).isSome
  forA ((([(aWordA r, stInA r), (aWordB r, stInB r)].filter fun e => e.1 = 0xFF).filterMap fun e => feederOf d x p e.2)) (feederCheck x)
  if dimM w = 0 ∨ dimN w = 0 ∨ dimK w = 0 ∨ dimK w ≤ 32 * aKbFirst r ∨
     ((tr (aWordA r) (stInA r) || tr (aWordB r) (stInB r)) = true ∧ dimK w % 128 ≠ 0) then stop (.fail 1 off)
  else if aFlag r 0 ∧ aDrain r ≠ 0 then do
    devMod fun d => d.draw.2
    stop (.fail 1 ((Config.freeWord d.tick).toNat % 65536))
  else pure ()

/-- An array stage starts computing (R182): both banks are empty. -/
def Dev.arrayStart (d : Dev) (x : Letter) (p : Nat) (r : Rec) : Dev :=
  d.stageAct x p r (arrayCheck x p r) fun d =>
    (d.startStage x p r 1).setArr p (stNode r) (stArr r)
      { letter := x.id, stage := stIndex r, tile := 0, next := aKbFirst r, live := none, drain := none, fmtA := 0,
        fmtB := 0, faulted := [], tokens := [], mask := none, sat := 0, drainSat := 0 }

/-- Start an array stage, or let it wait for the array (R53, R193). A parked stage resumes before any other (R194). -/
def Dev.arrayTry (d : Dev) (x : Letter) (p : Nat) (r : Rec) : Dev :=
  if canStart d x p r ∧ (mapGet? d.parked (p, stNode r, stArr r)).isNone then d.arrayStart x p r else d.waitStage x r

/-- The running stage of an array, with its letter and record. -/
def arrStage (d : Dev) (p t a : Nat) : Option (ArrRun × Letter × Rec) :=
  match d.arr p t a with
  | none => none
  | some s =>
    if engineOut d p t a then none else
    match findLetter d s.letter, (findLetter d s.letter).bind fun x => findStage d x.route s.stage with
    | some x, some (_, r) => some (s, x, r)
    | _, _ => none

/-- The drained values of a tile that an earlier stage stored to WORD_OUT, row by row (R170, R183). -/
def tileLoad (x : Letter) (w : Who) (word m n tile : Nat) : Act (List W32) := do
  let op ← objWord x word
  let mt := tile % ceilDiv m 128
  let nt := tile / ceilDiv m 128
  let ps ← mapA (List.range 16) fun k =>
    if ceilDiv n 8 ≤ 16 * nt + k then pure [] else do
      let (pl, _) ← parcelLoad w (wordObj op) (wordFirst op + mt * ceilDiv n 8 + 16 * nt + k)
      pure pl
  pure ((List.range 16384).map fun e =>
    let i := e / 128
    let j := e % 128
    BitVec.ofNat 32 (field (ps.getD (j / 8) []) (4 * (i * 8 + j % 8)) 4))

/-- One K-block (R172); while a resumed stage completes its recorded drain it runs none (R195). DESIGN CHOICE: the memory error of
a non-integer operand in integer mode raises the incident of R412 with D0 = 0 (R174, log entry 53). -/
def arrayBlock (s : ArrRun) (x : Letter) (p : Nat) (r : Rec) : Act Unit := do
  let w := stageWho x p r
  let (m, n, k) := dimsOf x r
  let mt := s.tile % ceilDiv m 128
  let nt := s.tile / ceilDiv m 128
  let d ← devGet
  if d.fld (.arrStatus p (stNode r) (stArr r)) 2 0 = 3 then stop (.wait 1) else do
  let bank ← match s.live with
    | some b => pure b
    | none =>
      if aFlag r 1 then
        if s.tokens.contains s.tile then tileLoad x w (aWordOut r) m n s.tile else stop (.wait 1)
      else pure (List.replicate 16384 0#32)
  let a ← operandBlock x w (aWordA r) (stInA r) m k mt s.tile s.next s.fmtA
  let b ← operandBlock x w (aWordB r) (stInB r) n k nt s.tile s.next s.fmtB
  if aFlag r 0 ∧ (!a.fmt.isInt ∨ !b.fmt.isInt) then stop (.mem 0 4) else do
  let (bank, sat) := bankStep (aFlag r 0) a b (m - 128 * mt) (n - 128 * nt) bank
  devMod fun d =>
    let d := (d.setArr p (stNode r) (stArr r)
      { s with live := some bank, next := s.next + 1, fmtA := a.fmt.code, fmtB := b.fmt.code, sat := s.sat + sat }).addCounts x.id sat 0
    (d.wrap (.arrProgress p (stNode r) (stArr r)) 1).engState p (stNode r) (stArr r)
      (if s.faulted.contains s.tile ∧ s.next + 1 < aKbEnd r k then 4 else 1)

def Dev.arrayBlock (d : Dev) (p t a : Nat) : Dev :=
  match arrStage d p t a with
  | none => d
  | some (s, x, r) =>
    let (m, n, k) := dimsOf x r
    if tileCount m n ≤ s.tile ∨ aKbEnd r k ≤ s.next then d
    else d.stageAct x p r (Machine.arrayBlock s x p r) id

/-- The last block of a K pass has been added: the banks swap, unless the other still drains (R166). -/
def Dev.passEnd (d : Dev) (p t a : Nat) : Dev :=
  match arrStage d p t a with
  | none => d
  | some (s, x, r) =>
    let (m, n, k) := dimsOf x r
    match s.live, s.drain with
    | some b, none =>
      if s.next < aKbEnd r k ∨ tileCount m n ≤ s.tile then d else
      let d := d.setArr p t a { s with tile := s.tile + 1, next := aKbFirst r, live := none, drain := some (s.tile, b),
                                       fmtA := 0, fmtB := 0, sat := 0, drainSat := s.sat }
      (d.setBit (.arrStatus p t a) 4 (!d.bit (.arrStatus p t a) 4)).setBit (.arrStatus p t a) 5 true
    | _, _ => d

/-- The mask object of a stage's layer, a bit for each output tile (R186). DESIGN CHOICE: for a layer without a LAYERS record the
spec names no mask; the model's is empty and discards every tile (log entry 53). -/
def loadMask (w : Who) (r : Rec) (tiles : Nat) : Act (List Byte) := do
  let d ← devGet
  match findLayer d (stLayer r) with
  | none => pure []
  | some ly => objLoad w (lyMaskObj ly) 0 (ceilDiv tiles 8)

/-- An INT32 value as a number. -/
def intFV (v : W32) : FV := .fin (v.toInt < 0) v.toInt.natAbs 0

/-- One parcel of a drained tile: FP32 or INT32 values with the side record of R184. -/
def drainParcel (int : Bool) (id i elements : Nat) (vals : List W32) : List Byte × List Byte :=
  let fv := (vals.take elements).map (if int then intFV else f32)
  let (am, ae) := amaxOf fv
  let s : Side := { format := 9, sflags := if fv.all FV.isFin then 0 else 4, frank := 0x3F80, zp := 0, elements := elements,
                    obj := id, parcel := i, amax := toF32 (.fin false am ae), stamps := List.replicate 256 0#8 }
  (vals.flatMap fun v => natLe 4 v.toNat, s.toBytes)

/-- The bytes of a drained parcel that are stored: those of valid rows and columns alone (R182). -/
def drainPieces (rows cols : Nat) (pl : List Byte) : List (Nat × List Byte) :=
  if cols = 8 then [(0, slice pl 0 (32 * rows))] else (List.range rows).map fun l => (32 * l, slice pl (32 * l) (4 * cols))

/-- Stages that continue a stage's partial: they await its drain tokens on IN_B (R183). -/
def continuers (d : Dev) (x : Letter) (stage : Nat) : List (Nat × Rec) :=
  (stagesOf d x.route).filter fun q => stKind q.2 = 0 ∧ aFlag q.2 1 ∧ aSplitPrev q.2 = stage

/-- A finished bank drains to its hook (R184-R186). -/
def drainTile (s : ArrRun) (x : Letter) (p : Nat) (r : Rec) (tile : Nat) (vals : List W32) : Act Unit := do
  let w := stageWho x p r
  let (m, n, _) := dimsOf x r
  let rows := min 128 (m - 128 * (tile % ceilDiv m 128))
  let nt := tile / ceilDiv m 128
  let cols := min 128 (n - 128 * nt)
  let mask ← if aFlag r 2 then
      match s.mask with
      | some b => pure (some b)
      | none => do let b ← loadMask w r (tileCount m n); pure (some b)
    else pure none
  let on := match mask with | some b => bitN (field b (tile / 8) 1) (tile % 8) | none => true
  let nf := if aFlag r 0 ∨ !on then 0 else
    (vals.zipIdx.filter fun e => e.2 / 128 < rows ∧ e.2 % 128 < cols ∧ !finite32 e.1).length
  let out := if on then vals else List.replicate 16384 0#32
  if aDrain r = 0 then
    if on then do
      let op ← objWord x (aWordOut r)
      let per := ceilDiv n 8
      forA (List.range 16) fun k =>
        if per ≤ 16 * nt + k then pure () else
        let i := wordFirst op + (tile % ceilDiv m 128) * per + 16 * nt + k
        let vs := (List.range 1024).map fun e => vals.getD (e / 8 * 128 + 8 * k + e % 8) 0#32
        let (pl, sd) := drainParcel (aFlag r 0) (wordObj op) i (rows * 8) vs
        parcelStoreAt w (stLayer r) (wordObj op) i (ceilDiv m 128 * per) (drainPieces rows (min 8 (cols - 8 * k)) pl) sd
    else pure ()
  else if aDrain r = 1 then
    if on then do
      sendItem x.id p (stOutA r) (.tile tile out)
      devMod fun d =>
        let e := chanEnd d p (stOutA r)
        { d with tileOrder := d.tileOrder ++ [(x.id, e.1, e.2)] }.frkState p (stNode r)
    else pure ()
  else sendItem x.id p (stOutA r) (.tile tile out)
  let d ← devGet
  forA (if aDrain r = 0 ∧ on then continuers d x (stIndex r) else []) fun q => sendItem x.id q.1 (stInB q.2) (.token tile)
  devMod fun d =>
    let d := d.addCounts x.id 0 nf
    d.setArr p (stNode r) (stArr r) { s with drain := none, mask := mask, drainSat := 0 }

/-- A drain is complete; with the last tile's the stage ends. The recorded drain of a resumed stage ends its parking (R195), also
when the live tile is being recomputed by then (R197). -/
def Dev.drainDone (d : Dev) (p t a : Nat) : Dev :=
  match arrStage d p t a with
  | none => d
  | some (s, x, r) =>
    match s.drain with
    | none => d
    | some (tile, vals) =>
      d.stageAct x p r (drainTile s x p r tile vals) fun d =>
        let d := d.setBit (.arrStatus p t a) 5 false
        let st := d.fld (.arrStatus p t a) 2 0
        let d := if d.bit (.arrStatus p t a) 3 ∧ (mapGet? d.parked (p, t, a)).isNone then (d.unpark p t a).engState p t a (if st = 3 then 1 else st) else d
        let (m, n, _) := dimsOf x r
        if tileCount m n ≤ s.tile then d.stageDone x s.stage else d

/-- A drain token arrives on IN_B (R183). -/
def Dev.tokenArrive (d : Dev) (p t a : Nat) : Dev :=
  match arrStage d p t a with
  | none => d
  | some (s, x, r) =>
    if !aFlag r 1 then d else
    match takeToken d x.id p (stInB r) with
    | some (tile, d) => d.setArr p t a { s with tokens := tile :: s.tokens }
    | none => d

/-! ### Preemption (R193-R195) -/

/-- The pigeonhole slot of an M-tile (R55, R194). -/
def pigeonSlot (d : Dev) (p t k : Nat) : Option Nat := ((regions d p t 2).head?).map fun r => r.1 + 65536 * k

/-- DESIGN CHOICE: a bank's words stand row by row in its slot, four bytes each, the least significant first (R194, log entry 53). -/
def bankBytes (b : List W32) : List Byte := b.flatMap fun v => natLe 4 v.toNat
def bankOf (bs : List Byte) : List W32 := (List.range 16384).map fun i => BitVec.ofNat 32 (field bs (4 * i) 4)

/-- The running stage may be preempted by another (R193, R407). -/
def mayPreempt (d : Dev) (p t a : Nat) (cur : ArrRun) (cx : Letter) (cr : Rec) (x : Letter) (r : Rec) : Bool :=
  aPriority cr < aPriority r && ((findRoute d cx.route).map rtPreemptible).getD false &&
  (mapGet? d.parked (p, t, a)).isNone && !d.bit (.arrStatus p t a) 3 && (!d.bit (.fltCtrl p) 0 || cx.ctx = x.ctx) && (pigeonSlot d p t 0).isSome &&
  soloOk d p t a x.ctx && fnState d (.engine p t a) = 2 && (cur.letter, cur.stage) ≠ (x.id, stIndex r)

/-- Unload the banks to the pigeonholes, record the parked stage and start the other (R194). `row` is how many rows
of the draining bank have left. Steps 1 to 5 of R195 are this one transition, so STATE 2 PREEMPTING, which lasts while they go
on, is never left in a register (log entry 53). -/
def Dev.preempt (d : Dev) (p t a : Nat) (s : ArrRun) (x : Letter) (nx : Letter) (nr : Rec) (row : Nat) : Dev :=
  match pigeonSlot d p t (2 * a), pigeonSlot d p t (2 * a + 1) with
  | some lo, some hi =>
    let d := match s.live with
      | some b => { d with mem := d.mem.write lo (bankBytes b) }
      | none => d
    let d := match s.drain with
      | some (_, b) => { d with mem := d.mem.write hi (bankBytes b) }
      | none => d
    let kept := { s with live := s.live.map fun _ => [], drain := s.drain.map fun e => (e.1, []) }
    let d := { d with arrs := mapErase d.arrs (p, t, a), parked := mapSet d.parked (p, t, a) kept }
    let d := d.setRun x.id s.stage fun q => { q with parked := true }
    let d := d.setReg (.arrPark p t a) (BitVec.ofNat 64 (x.ctx + s.stage * 2 ^ 6 + x.route * 2 ^ 12))
    let d := d.setReg (.arrParkPos p t a) (BitVec.ofNat 64 (s.next % 65536 + (if s.drain.isSome then row % 128 * 2 ^ 16 + 2 ^ 23 else 0) + s.tile * 2 ^ 32))
    let d := (d.setBit (.arrStatus p t a) 3 true).setBit (.arrStatus p t a) 5 false
    (d.count (.arrPreempts p t a) 1).arrayStart nx p nr
  | _, _ => d

/-- The stage of the highest priority that waits for an array, the earliest of equals. -/
def waitingOn (d : Dev) (p t a : Nat) : Option (Letter × Rec) :=
  (d.waits.filterMap fun e => (stageAt d e.1 e.2 [0]).bind fun s =>
    if s.2.1 = p ∧ stNode s.2.2 = t ∧ stArr s.2.2 = a then some (s.1, s.2.2) else none).foldl
    (fun b e => match b with
      | none => some e
      | some f => if aPriority f.2 < aPriority e.2 then some e else some f) none

/-- A preemption of the running stage by a given stage, if R193 allows it. -/
def Dev.preemptBy (d : Dev) (p t a : Nat) (nx : Letter) (nr : Rec) (row : Nat) : Dev :=
  match arrStage d p t a with
  | none => d
  | some (s, x, r) => if mayPreempt d p t a s x r nx nr then d.preempt p t a s x nx nr row else d

/-- The parked stage resumes: the array reloads both slots (R194). While it completes a recorded drain it is RESUMING, and
PARKED until that ends (R195). -/
def Dev.resume (d : Dev) (p t a : Nat) : Dev :=
  match mapGet? d.parked (p, t, a) with
  | none => d
  | some s =>
    if (runOn d p t a).isSome ∨ engineOut d p t a then d else
    match pigeonSlot d p t (2 * a), pigeonSlot d p t (2 * a + 1) with
    | some lo, some hi =>
      let back := { s with live := s.live.map fun _ => bankOf (d.mem.read lo 65536),
                           drain := s.drain.map fun e => (e.1, bankOf (d.mem.read hi 65536)) }
      let d := if s.drain.isSome then { d with parked := mapErase d.parked (p, t, a) } else d.unpark p t a
      let d := d.setArr p t a back
      let d := d.setRun s.letter s.stage fun q => { q with parked := false }
      (d.engState p t a (if s.drain.isSome then 3 else 1)).setBit (.arrStatus p t a) 5 s.drain.isSome
    | _, _ => d

/-! ### Parity (R196) -/

def faultInc (x : Letter) (p node : Nat) (r : Rec) (cls d0 : Nat) : Inc :=
  { cls := cls, eng := stKind r, idx := stArr r, ctx := some (x.ctx, x.gen), die := dieOf p node, part := some p,
    seq := x.id.seq, mbx := x.id.mbx, stage := stIndex r, route := x.route, d0 := d0 }

/-- A parity error: the tile is recomputed; a second one on the same tile halts the stage. -/
def Dev.parity (d : Dev) (p t a : Nat) (draining : Bool) : Dev :=
  match arrStage d p t a with
  | none => d
  | some (s, x, r) =>
    let tile := match draining, s.drain with
      | true, some (k, _) => some k
      | true, none => none
      | false, _ => some s.tile
    match tile with
    | none => d
    | some k =>
      if s.faulted.contains k then
        ((d.raise (faultInc x p t r 0x100 k)).setBit (.arrStatus p t a) 6 true).engState p t a 5
      else
        let d := d.setArr p t a { s with tile := k, next := aKbFirst r, live := none, faulted := k :: s.faulted,
                                         drain := if draining then none else s.drain, fmtA := 0, fmtB := 0,
                                         sat := 0, drainSat := if draining then 0 else s.drainSat }
        let d := modifyLetter d x.id fun y => { y with sat := y.sat - (s.sat + if draining then s.drainSat else 0) }
        let d := if draining then d.setBit (.arrStatus p t a) 5 false else d
        let d := if draining ∧ d.fld (.arrStatus p t a) 2 0 = 3 then d.unpark p t a else d
        (d.count (.arrRecompute p t a) 1).engState p t a 4

/-! ### Commands -/

def isArray (p t a : Nat) : Bool := p < 4 && t < 12 && a < 4

/-- An array stage starts, or waits for its array (R182, R193). -/
def execArrayStageStart (l : LetterId) (stage : Nat) (s : State) : Host.Outcome State Fault Refusal :=
  .next (s.onDev fun d => match stageAt d l stage [0] with
    | some (x, p, r) => if (runOf d l stage).isSome then d else d.arrayTry x p r
    | none => d)

/-- A 32-element K-block is accumulated into every cell's live bank (R172). -/
def execArrayBlock (p t a : Nat) (s : State) : Host.Outcome State Fault Refusal :=
  .next (s.onDev fun d => d.arrayBlock p t a)

/-- A K pass ends and the banks swap (R166). -/
def execArrayPassEnd (p t a : Nat) (s : State) : Host.Outcome State Fault Refusal :=
  .next (s.onDev fun d => d.passEnd p t a)

/-- The draining bank has reached its hook (R184). -/
def execArrayDrainDone (p t a : Nat) (s : State) : Host.Outcome State Fault Refusal :=
  .next (s.onDev fun d => d.drainDone p t a)

/-- A drain token arrives (R183). -/
def execDrainTokenArrive (p t a : Nat) (s : State) : Host.Outcome State Fault Refusal :=
  .next (s.onDev fun d => d.tokenArrive p t a)

/-- ARR_CTRL.PREEMPT: preemption on behalf of the highest-priority waiting stage, or refused; the bit clears (R193). -/
def execPreempt (via : Via) (p t a row : Nat) (s : State) : Host.Outcome State Fault Refusal :=
  .next (s.onDev fun d => if !isArray p t a then d else d.viaReg via .open_ (.arrCtrl p t a) (.preempt via p t a row) fun d =>
    match waitingOn d p t a with
    | some (nx, nr) => d.preemptBy p t a nx nr row
    | none => d)

/-- A waiting stage of higher priority preempts the running one (R193, R194). -/
def execArrayPreemption (p t a : Nat) (l : LetterId) (stage row : Nat) (s : State) : Host.Outcome State Fault Refusal :=
  .next (s.onDev fun d => match stageAt d l stage [0] with
    | some (x, q, r) => if q = p ∧ stNode r = t ∧ stArr r = a ∧ (runOf d l stage).isNone then d.preemptBy p t a x r row else d
    | none => d)

/-- The parked stage resumes before any other waiting stage (R194). -/
def execArrayResume (p t a : Nat) (s : State) : Host.Outcome State Fault Refusal :=
  .next (s.onDev fun d => d.resume p t a)

/-- A parity error in the live bank or an operand, or in the draining bank (R196). -/
def execArrayParityError (p t a : Nat) (draining : Bool) (s : State) : Host.Outcome State Fault Refusal :=
  .next (s.onDev fun d => d.parity p t a draining)

end Sys2Proof.Machine
end

