-- ==== Sys2Proof/Machine/Franker.lean ====
section
/-! DEFINITION. The franker (R206-R225) and its use of deliveries (R157-R160, R216). -/

namespace Sys2Proof.Machine

/-! ### Source values -/

/-- The element (row, col) of a matrix of K columns whose parcels are given by index (R169): its decoded FP32 value and
whether it saturated (R205). -/
def matElem (w : Nat) (k : Nat) (ps : List (Nat × Parcel)) (row col : Nat) : W32 × Bool :=
  match ps.find? fun e => e.1 = row / 128 * ceilDiv k w + col / w with
  | some (_, q) => decodeElem q.fmt q.side q.payload (row % 128 * w + col % w)
  | none => (0#32, false)

/-- The parcels of a source matrix that cover columns [c0, c1) of a row tile, with the width of its format. DESIGN CHOICE: R221 lays
the matrix out by one format, and a parcel of another width is a memory error of kind 4, as R171 has it for arrays (log entry 54). -/
def matParcels (x : Letter) (w : Who) (word k rt c0 c1 : Nat) : Act (Nat × List (Nat × Parcel)) := do
  let op ← objWord x word
  let id := wordObj op
  let first := wordFirst op
  let q0 ← readParcel w id first
  let wd := q0.fmt.width
  let per := ceilDiv k wd
  let cs := (List.range (ceilDiv c1 wd - c0 / wd)).map (· + c0 / wd)
  let ps ← mapA (cs.filter (· < per)) fun c => do
    let i := rt * per + c
    let q ← readParcel w id (first + i)
    if q.fmt.width ≠ wd then do let d ← devGet; stop (.mem (parcelAddr d w id (first + i)) 4)
    else pure (i, q)
  pure (wd, ps)

/-- An FP32 source value on its way to a target: only an FP32 source is copied bit by bit, any other NaN is the
canonical one (R206, R218). -/
def canonNan (v : W32) : W32 := if f32 v = .nan then nan32 else v

/-! ### The stage (R220-R222) -/

def fFlag (r : Rec) (i : Nat) : Bool := bitN (recU r 16 1) i
def fTarget (r : Rec) : EFmt := (EFmt.ofCode (recU r 17 1)).getD .fp32

/-- Where a conversion goes: target object, key, class and purpose (R214, R220). DESIGN CHOICE: a stochastic class without WORD_DST,
which R220 requires and no rule rejects, draws and labels its parcels as object 0 from parcel 0 (log entry 54). -/
def frankSpec (d : Dev) (x : Letter) (r : Rec) (parcel : Nat) (count : Bool) : ConvSpec :=
  let dst := recU r 21 1
  { fmt := fTarget r, cls := recU r 18 1, purpose := recU r 19 1, key := seedKey d x (recU r 23 1),
    obj := if dst = 0xFF then 0 else wordObj (x.word dst), parcel := parcel, count := count }

/-- Write or send one converted parcel, `i` its index in the matrix (R220). -/
def parcelOut (x : Letter) (w : Who) (dst layer i parcels : Nat) (store send : Bool) (ch : Nat) (o : ParcelOut) :
    Act Unit := do
  let sd := o.side.toBytes
  if store then do
    let op ← objWord x dst
    parcelStore w layer (wordObj op) (wordFirst op + i) parcels o.payload sd
  else pure ()
  if send then sendItem x.id (w.part.getD 0) ch (.parcel i o.payload sd) else pure ()

/-- One destination parcel: source values, amax pass, conversion pass (R222). `cols` gives the FP32 value of a lane
and column of the destination parcel. -/
def frankParcel (x : Letter) (p : Nat) (r : Rec) (m k rt c decSat nfExtra : Nat) (count : Bool) (val : Nat → Nat → W32) :
    Act Unit := do
  let w := stageWho x p r
  let f := fTarget r
  let wd := f.width
  let per := ceilDiv k wd
  let i := rt * per + c
  let lanes := min 128 (m - 128 * rt)
  let src := (List.range (128 * wd)).map fun e =>
    let l := e / wd
    let col := c * wd + e % wd
    if l < lanes ∧ col < k then (⟨val l col, true⟩ : SrcElem) else ⟨0#32, false⟩
  let d ← devGet
  let dst := recU r 21 1
  let first := if dst = 0xFF then 0 else wordFirst (x.word dst)
  let o := convertParcel (frankSpec d x r (first + i) count) (lanes * wd) src
  parcelOut x w dst (stLayer r) i (ceilDiv m 128 * per) (fFlag r 1) (fFlag r 2) (stOutA r) o
  devMod fun d => (d.convCounts x.id (.frkSat p (stNode r) x.ctx) (.frkNonfinite p (stNode r) x.ctx)
    (o.sat + decSat) (o.nonfin + nfExtra)).wrap (.frkProgress p (stNode r)) 1

/-- Array stages of the route that drain into a channel by DRAIN 1 (R184). -/
def drainers (d : Dev) (x : Letter) (p ch : Nat) : List Nat :=
  ((stagesOf d x.route).filter fun q => q.1 = p ∧ stKind q.2 = 0 ∧ stOutA q.2 = ch).map fun q => stIndex q.2

/-- The tile that a franker serves next is this channel's: the oldest of those that wait for its running stages (R222). -/
def tileTurn (d : Dev) (x : Letter) (p : Nat) (r : Rec) : Bool :=
  (d.tileOrder.find? fun e => d.runs.any fun q => q.letter = e.1 && q.part = p && q.node = stNode r && q.slot = 4 && e.2.1 = p &&
    match (findLetter d q.letter).bind fun y => findStage d y.route q.stage with
    | some (_, s) => stInA s = e.2.2
    | none => false).all fun e => e = (x.id, p, stInA r)

/-- The next destination parcel of a stage, from the object or from the oldest drained tile of IN_A. `pos` counts the
parcels done, of the object or of that tile. DEDUCED: an element that saturates as it is decoded (R205) and again as it is
converted adds two to SAT, one for each conversion that saturates (R217, log entry 54). -/
def frankStep (x : Letter) (p : Nat) (r : Rec) (q : Run) : Act Unit := do
  let w := stageWho x p r
  let dw ← dimWord x (recU r 22 1)
  let m := dimM dw
  let k := dimK dw
  if m = 0 ∨ k = 0 then stop (.fail 1 (8 * recU r 22 1)) else do
  seedCheck x (recU r 23 1)
  if recU r 21 1 ≠ 0xFF then do
    let _ ← objWord x (recU r 21 1)
    pure ()
  else pure ()
  let wd := (fTarget r).width
  let per := ceilDiv k wd
  let total := ceilDiv m 128 * per
  if fFlag r 0 then
    let rt := q.pos / per
    let c := q.pos % per
    let (ws, ps) ← matParcels x w (recU r 20 1) k rt (c * wd) (min k ((c + 1) * wd))
    let fp32Src := ps.all fun e => e.2.fmt = .fp32
    let val := fun (l col : Nat) =>
      let v := (matElem ws k ps (128 * rt + l) col).1
      if fp32Src then v else canonNan v
    let here := (List.range (128 * wd)).filterMap fun e =>
      let l := e / wd
      let col := c * wd + e % wd
      if 128 * rt + l < m ∧ col < k then some (matElem ws k ps (128 * rt + l) col) else none
    let sat := (here.filter (·.2)).length
    let nf := if fTarget r = .fp32 ∧ !fp32Src then (here.filter fun e => !finite32 e.1).length else 0
    frankParcel x p r m k rt c sat nf true val
    devMod fun d =>
      let d := (d.setRun x.id (stIndex r) fun q => { q with pos := q.pos + 1 }).frkState p (stNode r)
      if q.pos + 1 = total then d.stageDone x (stIndex r) else d
  else do
    let d ← devGet
    let fin := fun (d : Dev) =>
      match findLetter d x.id with
      | some y => if (drainers d x p (stInA r)).all y.stages.contains ∧ d.chan x.id p (stInA r) = [] then d.stageDone x (stIndex r) else d
      | none => d
    match d.chan x.id p (stInA r) with
    | .tile t vals :: rest =>
      if !tileTurn d x p r then stop (.wait 1) else do
      let mt := t % ceilDiv m 128
      let c := 128 / wd * (t / ceilDiv m 128) + q.pos
      let n0 := 128 * (t / ceilDiv m 128)
      if c < per then frankParcel x p r m k mt c 0 0 false fun l col => vals.getD (l * 128 + (col - n0)) 0#32
      else pure ()
      devMod fun d =>
        if q.pos + 1 < 128 / wd then (d.setRun x.id (stIndex r) fun q => { q with pos := q.pos + 1 }).frkState p (stNode r)
        else
          let d := { d with tileOrder := d.tileOrder.erase (x.id, p, stInA r) }
          fin (((d.setChan x.id p (stInA r) rest).setRun x.id (stIndex r) fun q => { q with pos := 0 }).frkState p (stNode r))
    | _ =>
      if (match findLetter d x.id with
          | some y => (drainers d x p (stInA r)).all y.stages.contains
          | none => false) then devMod fin
      else stop (.wait 1)

/-- A stage whose steps are separate commands: it starts with its first step. -/
def Dev.stepStage (d : Dev) (l : LetterId) (stage kind st : Nat) (f : Letter → Nat → Rec → Run → Act Unit) : Dev :=
  match stageAt d l stage [kind] with
  | none => d
  | some (x, p, r) =>
    let go := fun (d : Dev) => match runOf d l stage with
      | some q => if engineOut d p (stNode r) q.slot then d else d.stageAct x p r (f x p r q) id
      | none => d
    if (runOf d l stage).isSome then go d
    else if canStart d x p r then go (d.startStage x p r st)
    else d.waitStage x r

/-- The franker runs the amax and conversion passes for one destination parcel (R222). -/
def execFrankerParcel (l : LetterId) (stage : Nat) (s : State) : Host.Outcome State Fault Refusal :=
  .next (s.onDev fun d => d.stepStage l stage 1 3 frankStep)

/-- The running stage's letter on an engine. -/
def runLetter (d : Dev) (p node slot : Nat) : Option (Run × Letter × Rec) :=
  match runOn d p node slot with
  | none => none
  | some q => match findLetter d q.letter with
    | none => none
    | some x => (findStage d x.route q.stage).map fun r => (q, x, r.2)

/-- A stage halts on its engine: its fault incident with D0, FAULT and HALTED (R224, R242, R269, R412). -/
def Dev.stageFault (d : Dev) (p node slot : Nat) (x : Letter) (r : Rec) (cls d0 : Nat) (statusReg : Reg) (bit : Nat) : Dev :=
  ((d.raise (faultInc x p node r cls d0)).setBit statusReg bit true).engState p node slot (haltCode node slot)

/-- An uncorrectable error halts the stage on an engine. -/
def Dev.engineFault (d : Dev) (p node slot cls : Nat) (statusReg : Reg) (bit : Nat) : Dev :=
  match runLetter d p node slot with
  | none => d
  | some (q, x, r) => d.stageFault p node slot x r cls q.pos statusReg bit

/-- The stage whose values stand in a franker's banks, with its letter: one that converts a parcel, else the one whose tile came
first, else the first that runs (R222, R224). -/
def frkStage (d : Dev) (p t : Nat) : Option (Run × Letter × Rec) :=
  let rs := (d.runs.filter fun q => q.part = p ∧ q.node = t ∧ q.slot = 4 ∧ !q.parked).filterMap fun q =>
    (findLetter d q.letter).bind fun x => (findStage d x.route q.stage).map fun e => (q, x, e.2)
  let first := d.tileOrder.findSome? fun e => rs.find? fun c => c.1.letter = e.1 ∧ e.2.1 = p ∧ stInA c.2.2 = e.2.2
  (rs.find? fun c => c.1.pos ≠ 0).orElse fun _ => first.orElse fun _ => rs.head?

/-- The index of the destination parcel that a franker stage works on (R221, R412). -/
def frkParcel (d : Dev) (p : Nat) (q : Run) (x : Letter) (r : Rec) : Nat :=
  if fFlag r 0 then q.pos else
  match d.chan x.id p (stInA r) with
  | .tile t _ :: _ =>
    let w := x.word (recU r 22 1)
    let wd := (fTarget r).width
    t % ceilDiv (dimM w) 128 * ceilDiv (dimK w) wd + 128 / wd * (t / ceilDiv (dimM w) 128) + q.pos
  | _ => q.pos

/-- An ECC error in a staging bank (R224). -/
def execFrankerEccError (p t : Nat) (corrected : Bool) (s : State) : Host.Outcome State Fault Refusal :=
  .next (s.onDev fun d => if 4 ≤ p ∨ 12 ≤ t then d else
    if corrected then d.count (.frkEccCorr p t) 1 else
    match frkStage d p t with
    | some (q, x, r) => d.stageFault p t 4 x r 0x101 (frkParcel d p q x r) (.frkStatus p t) 4
    | none => d)

/-- Zero the per-context counters of an engine. -/
def Dev.clearCounts (d : Dev) (a b : Nat → Reg) : Dev :=
  d.each (List.range 64) fun d c => (d.setReg (a c) 0#64).setReg (b c) 0#64

/-- FRK_CTRL.CLEAR_COUNTS (R225). -/
def execFrkClearCounts (via : Via) (p t : Nat) (s : State) : Host.Outcome State Fault Refusal :=
  .next (s.onDev fun d => if 4 ≤ p ∨ 12 ≤ t then d else
    d.viaReg via .open_ (.frkCtrl p t) (.frkClearCounts via p t) fun d => d.clearCounts (.frkSat p t) (.frkNonfinite p t))

/-! ### Deliveries (R157-R160) -/

/-- The engine that fetches a node's deliveries (R157): franker, gather/pool, vector or the C-tile's update engine. -/
def delivEngine (node : Nat) : Nat × Nat :=
  if node < 12 then (node, 1) else if node < 16 then (node, 4) else if node < 18 then (node, 6) else (18, 9)

/-- The engine of a node's deliveries is halted or in reset (R224, R396). -/
def delivOut (d : Dev) (p node : Nat) : Bool := engineOut d p (delivEngine node).1 (slotOf (delivEngine node).2 0)

/-- The progress counter of that engine, where it counts delivered parcels: the franker's and the update engine's (R225, R370). -/
def delivProgress (p node : Nat) : Option Reg :=
  if node < 12 then some (.frkProgress p node) else if node < 18 then none else some (.redUpdProgress p)

/-- A letter's deliveries to a node in order of WINDOW_STAGE (R158). -/
def delivOrder (d : Dev) (x : Letter) (p node : Nat) : List Rec :=
  sortBy (fun a b => recU a 17 1 ≤ recU b 17 1) ((delivRecs d p).filter fun r => recU r 0 2 = x.route ∧ recU r 16 1 = node)

/-- The lowest-indexed unfinished stage on a node, whose layer is the current one (R158). The H-die holds no stage: there the
stages for whose start its deliveries are meant stand in (DEDUCED, log entry 29). -/
def currentStage (d : Dev) (x : Letter) (p node : Nat) : Option Rec :=
  let wins := (delivOrder d x p node).map fun r => recU r 17 1
  let ss := (stagesOf d x.route).filter fun q => !isUpdate q.2 ∧ !x.stages.contains (stIndex q.2) ∧
    (if node = 19 then wins.contains (stIndex q.2) else q.1 = p ∧ stNode q.2 = node)
  ss.foldl (fun b q => match b with
    | none => some q.2
    | some r => if stIndex q.2 < stIndex r then some q.2 else some r) none

/-- Deliveries in order, each with the place of its layer: a layer that is delivered again after another has a place of its own. -/
def layerPlaces : Option Nat → Nat → List Rec → List (Rec × Nat)
  | _, _, [] => []
  | last, k, r :: rs =>
    let k := if last.isNone ∨ last = some (recU r 2 2) then k else k + 1
    (r, k) :: layerPlaces (some (recU r 2 2)) k rs

/-- A delivery's layer is the current one or among the LOOKAHEAD that follow it in the order of WINDOW_STAGE (R158). Of a layer that
is delivered more than once, the place of the latest window that has come is the current one. -/
def inLookahead (d : Dev) (x : Letter) (p : Nat) (r : Rec) : Bool :=
  let ps := layerPlaces none 0 (delivOrder d x p (recU r 16 1))
  let look := ((findRoute d x.route).map rtLookahead).getD 2
  match currentStage d x p (recU r 16 1), ps.find? fun e => e.1 = r with
  | some c, some (_, b) =>
    let own := ps.filter fun e => recU e.1 2 2 = stLayer c
    match ((own.filter fun e => recU e.1 17 1 ≤ stIndex c).getLast?).orElse fun _ => own.head? with
    | some (_, a) => a ≤ b && b ≤ a + look
    | none =>
      let a := (((ps.filter fun e => recU e.1 17 1 < stIndex c).getLast?).map fun e => e.2 + 1).getD 0
      a ≤ b && b < a + look
  | _, _ => false

/-- Slots that a record fills. -/
def delivSlots (r : Rec) : Nat × Nat := (recU r 20 4, recU r 20 4 + recU r 12 4)

/-- Two records of a partition fill some slot of one node both. -/
def slotsMeet (q r : Rec) : Bool :=
  recU q 16 1 = recU r 16 1 && (delivSlots q).1 < (delivSlots r).2 && (delivSlots r).1 < (delivSlots q).2

/-- A stage that reads a record's slots has not finished in a letter: the window stage, or a stage of its layer on its node. -/
def readerLeft (d : Dev) (y : Letter) (p : Nat) (q : Rec) : Bool :=
  (stagesOf d y.route).any fun e => !isUpdate e.2 && !y.stages.contains (stIndex e.2) &&
    (stIndex e.2 = recU q 17 1 || (e.1 = p && stLayer e.2 = recU q 2 2 && stNode e.2 = recU q 16 1))

/-- Some unfinished stage reads slots that the delivery will overwrite: a reader of an earlier delivery of the same letter, or of
a delivery that another running letter has begun (R158). -/
def slotsBusy (d : Dev) (x : Letter) (p i : Nat) (r : Rec) : Bool :=
  ((delivRecs d p).zipIdx.any fun e => recU e.1 0 2 = x.route && slotsMeet e.1 r &&
    (recU e.1 17 1 < recU r 17 1 || (recU e.1 17 1 = recU r 17 1 && e.2 < i)) && readerLeft d x p e.1) ||
  d.delivs.any fun v => v.part = p && v.letter ≠ x.id && v.issued ≠ 0 &&
    match delivRec d p v.record, findLetter d v.letter with
    | some q, some y => slotsMeet q r && y.result.isNone && readerLeft d y p q
    | _, _ => false

/-- A delivery's loads are issued: `n` more parcels, in index order, once its layer is within LOOKAHEAD and its slots
are free (R157, R158). -/
def Dev.issue (d : Dev) (l : LetterId) (p i n : Nat) : Dev :=
  match findLetter d l, delivRec d p i with
  | some x, some r =>
    if !x.started ∨ x.result.isSome ∨ recU r 0 2 ≠ x.route then d else
    let v := d.deliv l p i
    if (v.issued = 0 ∧ (!inLookahead d x p r ∨ slotsBusy d x p i r)) ∨ delivOut d p (recU r 16 1) then d
    else if v.dropped ≠ [] then d
    else
      let d := d.setDeliv { v with issued := min (recU r 12 4) (v.issued + n) }
      if recU r 16 1 < 12 then d.frkState p (recU r 16 1) else d
  | _, _ => d

def execDeliveryIssue (l : LetterId) (p record n : Nat) (s : State) : Host.Outcome State Fault Refusal :=
  .next (s.onDev fun d => if 4 ≤ p then d else d.issue l p record n)

/-- A parcel lands in its slot, once its side record shows a format and the parcel addressed (R140); on an M-tile the franker
keeps its block sums (R157, R216). -/
def land (x : Letter) (p : Nat) (r : Rec) (i k : Nat) : Act Unit := do
  let node := recU r 16 1
  let (en, kind) := delivEngine node
  let w : Who := ⟨some p, en, kind, 0, x.ctx, x.gen, some x.id, recU r 17 1, x.route⟩
  let id := bitsN (recU r 4 4) 23 0
  let idx := recU r 8 4 + k
  let (pl, sd) ← parcelLoad w id idx
  let d ← devGet
  if !(Side.ofBytes sd).named id idx then stop (.mem (parcelAddr d w id idx) 2) else
  match slotAddr d p node (recU r 20 4 + k) with
  | none => pure ()
  | some a => do
    localStore w.src a pl
    localStore w.src (a + 4096) sd
    devMod fun d =>
      let s := Side.ofBytes sd
      let d := match decide (node < 12), EFmt.ofCode s.format with
        | true, some f => { d with sums := mapSet d.sums (p, node, recU r 20 4 + k) (parcelSums ⟨f, s, pl⟩) }
        | _, _ => d
      let v := d.deliv x.id p i
      let d := d.setDeliv { v with landed := k :: v.landed }
      let d := match delivProgress p node with | some g => d.wrap g 1 | none => d
      if node < 12 then d.frkState p node else d

/-- A delivered parcel lands: one of those whose load has been issued (R157, R159). -/
def execDeliveryParcelLanded (l : LetterId) (p record i : Nat) (s : State) : Host.Outcome State Fault Refusal :=
  .next (s.onDev fun d => match findLetter d l, delivRec d p record with
    | some x, some r =>
      let v := d.deliv l p record
      if v.issued ≤ i ∨ v.landed.contains i ∨ v.dropped.contains i ∨ x.result.isSome ∨ delivOut d p (recU r 16 1) then d
      else d.runAct ⟨some p, (delivEngine (recU r 16 1)).1, (delivEngine (recU r 16 1)).2, 0, x.ctx, x.gen, some l, recU r 17 1, x.route⟩
        l (land x p r record i) id id
    | _, _ => d)

/-! ### Read-through counts (R160, R433) -/

/-- How far a count has moved; a count below its old value has been written. -/
def moved (now old : Nat) : Nat := if old ≤ now then now - old else now

/-- Read-through parcels that a partition reports. -/
def rtTotal (d : Dev) (p : Nat) : Nat :=
  ((List.range 64).map fun k => d.fld (.hallRt p k) 47 16).sum + d.regN (.hallRtOther p)

/-- CLERK_RT takes what a partition has counted since the last look. -/
def Dev.rtReport (d : Dev) (p : Nat) : Dev :=
  let t := rtTotal d p
  { d.count64 (.clerkRt p) (moved t (mapGet d.power.rtSeen p 0)) with power := { d.power with rtSeen := mapSet d.power.rtSeen p t } }

/-- The tables begin again at nothing; CLERK_RT keeps what they had counted (R433). -/
def Dev.rtRestart (d : Dev) (p : Nat) : Dev :=
  let d := if d.power.clerk then d.rtReport p else d
  { d with power := { d.power with rtSeen := mapErase d.power.rtSeen p } }

/-- HALL_RT_CTRL.CLEAR empties both tables (R160). -/
def execHallRtClear (via : Via) (p : Nat) (s : State) : Host.Outcome State Fault Refusal :=
  .next (s.onDev fun d => if 4 ≤ p then d else d.viaReg via .open_ (.hallRtCtrl p) (.hallRtClear via p) fun d =>
    ((d.rtRestart p).each (List.range 64) fun d i => d.setReg (.hallRt p i) 0#64).setReg (.hallRtOther p) 0#64)

end Sys2Proof.Machine
end

