-- ==== Sys2Proof/Machine/Vector.lean ====
section
/-! DEFINITION. The vector engine and route cards (R226-R243), and window stages (R159). -/

namespace Sys2Proof.Machine

/-! ### Lane operations (R227-R232) -/

/-- The smaller operand, -0 below +0; NaN if either is NaN. -/
def fmin (a b : W32) : W32 :=
  if f32 a = .nan ∨ f32 b = .nan then nan32
  else if (f32 a).lt (f32 b) then a
  else if (f32 b).lt (f32 a) then b
  else a ||| b
/-- The larger operand, +0 above -0; NaN if either is NaN. -/
def fmax (a b : W32) : W32 :=
  if f32 a = .nan ∨ f32 b = .nan then nan32
  else if (f32 a).lt (f32 b) then b
  else if (f32 b).lt (f32 a) then a
  else a &&& b
def one32 : W32 := 0x3F800000#32
def fbool (b : Bool) : W32 := if b then one32 else 0#32
/-- True when it is non-zero and not NaN (R227, SEL). -/
def ftrue (c : W32) : Bool := f32 c ≠ .nan && !(f32 c).isZero

/-- b rounded to the nearest even integer, limited to -300 to 300. -/
def scaleExp : FV → Int
  | .nan => 0
  | .inf neg => if neg then -300 else 300
  | .fin neg m e =>
    let (q, r, d) := quoAt m 1 e 0
    let v : Int := rneNat (q * d + r) d
    max (-300) (min 300 (if neg then -v else v))

/-- a x 2^n with n from b (R227). -/
def fscale (a b : W32) : W32 :=
  if f32 b = .nan then nan32 else toF32 ((f32 a).mul (.fin false 1 (scaleExp (f32 b))))

/-- Reciprocal seed (R231). -/
def seedRcp (a : W32) : W32 :=
  match f32 a with
  | .nan => nan32
  | .inf s => toF32 (.fin s 0 0)
  | .fin s m e =>
    if m = 0 then toF32 (.inf s) else
    let l := Nat.log2 m
    let j := m * 128 / 2 ^ l - 128
    toF32 (.fin s (rneNat (256 * 1024) (257 + 2 * j)) (-10 - (l + e)))

/-- Nearest integer to the square root of n / d. -/
def rsqrtNat (n d : Nat) : Nat :=
  let s := isqrt (n / d)
  if (2 * s + 1) * (2 * s + 1) * d < 4 * n ∨ ((2 * s + 1) * (2 * s + 1) * d = 4 * n ∧ s % 2 = 1) then s + 1 else s

/-- Reciprocal square-root seed (R231). -/
def seedRsqrt (a : W32) : W32 :=
  match f32 a with
  | .nan => nan32
  | .inf s => if s then nan32 else 0#32
  | .fin s m e =>
    if m = 0 then toF32 (.inf s) else if s then nan32 else
    let l : Int := Nat.log2 m
    let h := (l + e) / 2
    let odd := ((l + e) - 2 * h).toNat
    let j := m * 64 * 2 ^ odd / 2 ^ l.toNat - 64
    toF32 (.fin false (rsqrtNat (128 * 2 ^ 20) (129 + 2 * j)) (-10 - h))

/-- EXP (R230). -/
def fexp (a : W32) : W32 :=
  let x := fmax (fmin a 0x42B20000#32) 0xC2D00000#32
  let t := fma x 0x3FB8AA3B#32 0x4B400000#32
  let n := fsub t 0x4B400000#32
  let r := fma n 0xBF317200#32 x
  let r := fma n 0xB5BFBE8E#32 r
  let p := fma 0x39500D01#32 r 0x3AB60B61#32
  let p := fma p r 0x3C088889#32
  let p := fma p r 0x3D2AAAAB#32
  let p := fma p r 0x3E2AAAAB#32
  let p := fma p r 0x3F000000#32
  let p := fma p r one32
  let p := fma p r one32
  fscale p n

/-- The result of RCP or RSQRT is the seed for these operands (R232). -/
def seedOnly (a : W32) : Bool := match f32 a with
  | .fin _ m _ => m = 0
  | _ => true

/-- RCP (R232). -/
def frcp (a : W32) : W32 :=
  let y := seedRcp a
  if seedOnly a then y else
  let it := fun y => fma y (fma (fneg a) y one32) y
  it (it y)

/-- RSQRT (R232). -/
def frsqrt (a : W32) : W32 :=
  let y := seedRsqrt a
  if seedOnly a ∨ (f32 a).lt (.fin false 0 0) then y else
  let it := fun y => fmul y (fma (fmul a (fmul y y)) 0xBF000000#32 0x3FC00000#32)
  it (it y)

/-- Round to BF16 and hold the exact FP32 value; NaN becomes 0x7FC0 (R228). -/
def toBf16 (v : FV) : W32 := BitVec.ofNat 32 (encodeIeee bf16 v * 65536)
def bfOf (a : W32) : W32 := toBf16 (f32 a)

/-- The native operations in an FP32 lane (R227). -/
def nativeOp (op : Nat) (a b c : W32) : W32 :=
  match op with
  | 0x01 => fadd a b
  | 0x02 => fsub a b
  | 0x03 => fmul a b
  | 0x04 => fma a b c
  | 0x05 => fmin a b
  | 0x06 => fmax a b
  | 0x07 => fbool ((f32 a).lt (f32 b))
  | 0x08 => fbool ((f32 a).lt (f32 b) || (f32 a).eqv (f32 b))
  | 0x09 => fbool ((f32 a).eqv (f32 b))
  | 0x0A => if ftrue c then a else b
  | 0x0B => a &&& 0x7FFFFFFF#32
  | 0x0C => fscale a b
  | 0x0D => seedRcp a
  | 0x0E => seedRsqrt a
  | 0x10 => fexp a
  | 0x11 => frcp a
  | 0x12 => frsqrt a
  | _ => 0#32

/-- The operation exactly, rounded once to BF16 (R228). -/
def bfOp (op : Nat) (a b c : W32) : W32 :=
  let a := bfOf a
  let b := bfOf b
  let c := bfOf c
  match op with
  | 0x01 => toBf16 ((f32 a).add (f32 b))
  | 0x02 => toBf16 ((f32 a).add (f32 b).neg)
  | 0x03 => toBf16 ((f32 a).mul (f32 b))
  | 0x04 => toBf16 (((f32 a).mul (f32 b)).add (f32 c))
  | _ => nativeOp op a b c

/-! ### Cards (R235, R236, R238) -/

def stepWord (c : List Byte) (i : Nat) : Nat := field c (0x80 + 4 * i) 4
def opArity : Nat → Nat
  | 0x0B | 0x0D | 0x0E | 0x10 | 0x11 | 0x12 => 1
  | 0x04 | 0x0A => 3
  | _ => 2
def opValid (op : Nat) : Bool := (1 ≤ op && op ≤ 0x0E) || (0x10 ≤ op && op ≤ 0x12)

def cardInput (c : List Byte) (i : Nat) : Nat × Nat × Nat :=
  (bitsN (field c (4 + 4 * i) 1) 1 0, bitsN (field c (4 + 4 * i) 1) 3 2, field c (5 + 4 * i) 1)
/-- Output o of a card: REG, STORE, SEND, TARGET, CLASS, PURPOSE, destination word offset. -/
structure CardOut where
  reg : Nat
  store : Bool
  send : Bool
  target : Nat
  cls : Nat
  purpose : Nat
  word : Nat
def cardOut (c : List Byte) (o : Nat) : CardOut :=
  let b := fun i => field c (0x10 + 8 * o + i) 1
  ⟨b 0 % 16, bitN (b 1) 0, bitN (b 1) 1, b 2, b 3, b 4, b 5⟩
def CardOut.used (o : CardOut) : Bool := o.store || o.send

def steps (c : List Byte) : Nat := field c 0 1
def stepList (c : List Byte) : List Nat := (List.range (steps c)).map (stepWord c)

/-- The first check of R238 that a card fails. -/
def cardCause (c : List Byte) (r : Rec) : Option Nat :=
  let ops := stepList c
  let checks : List Bool := [
    slice (shake256 c) 0 8 = slice r 20 8,
    1 ≤ steps c ∧ steps c ≤ 32,
    ops.all fun w => opValid (bitsN w 5 0) && (!bitN w 25 || bitsN w 5 0 ≤ 0x0B),
    zeroRange c 1 3 && zeroRange c 0x24 28 &&
      (List.range 3).all (fun i => bitsN (field c (4 + 4 * i) 1) 7 4 = 0 && (cardInput c i).2.1 ≠ 3 && zeroRange c (6 + 4 * i) 2) &&
      (List.range 2).all (fun o => field c (0x10 + 8 * o) 1 < 16 && field c (0x11 + 8 * o) 1 < 4 && zeroRange c (0x16 + 8 * o) 2) &&
      field c 0x23 1 ≤ 4 &&
      ops.all (fun w => bitsN w 31 26 = 0 && (2 ≤ opArity (bitsN w 5 0) || bitsN w 19 15 = 0) &&
        (3 ≤ opArity (bitsN w 5 0) || bitsN w 24 20 = 0)) &&
      (List.range 32).all (fun i => i < steps c || stepWord c i = 0),
    (List.range 3).all fun i => let s := (cardInput c i).1; (s ≠ 1 || stInA r ≠ 0xFFFF) && (s ≠ 2 || stInB r ≠ 0xFFFF),
    (List.range 2).all fun o => let u := cardOut c o
      !u.used || (match EFmt.ofCode u.target with
        | some f => (classTargets u.cls).contains f && purposeOk u.cls u.purpose
        | none => false),
    (List.range 2).any fun o => (cardOut c o).used]
  (checks.findIdx? (· = false)).map (· + 1)

/-! ### The card applied to one element (R237) -/

/-- Constants with a letter's scalar words in place (R235). -/
def cardConsts (x : Letter) (base : Nat) (c : List Byte) : List W32 :=
  let ns := field c 0x23 1
  (List.range 16).map fun k =>
    if 8 ≤ k ∧ (k - 8) / 2 < ns then
      let w := x.word (base + field c 0x22 1 + (k - 8) / 2)
      BitVec.ofNat 32 (bitsN w (32 * (k % 2) + 31) (32 * (k % 2)))
    else BitVec.ofNat 32 (field c (0x40 + 4 * k) 4)

/-- One step on the lane registers. -/
def laneStep (cs : List W32) (v : List W32) (w : Nat) : List W32 :=
  let src := fun (s : Nat) => if s < 16 then v.getD s 0#32 else cs.getD (s - 16) 0#32
  let op := bitsN w 5 0
  let a := src (bitsN w 14 10)
  let b := src (bitsN w 19 15)
  let c := src (bitsN w 24 20)
  v.set (bitsN w 9 6) (if bitN w 25 then bfOp op a b c else nativeOp op a b c)

/-- The lane registers after the card, from the inputs and the indices. -/
def laneRun (cs : List W32) (ops : List Nat) (ins : List W32) (m k : Nat) : List W32 :=
  ops.foldl (laneStep cs)
    ([ins.getD 0 0#32, ins.getD 1 0#32, ins.getD 2 0#32, f32OfNat k, f32OfNat m] ++ List.replicate 11 0#32)

/-! ### The stage -/

def vBase (r : Rec) : Nat := recU r 19 1

/-- The used outputs. -/
def usedOuts (c : List Byte) : List (Nat × CardOut) :=
  ((List.range 2).map fun o => (o, cardOut c o)).filter fun e => e.2.used
def outWidth (o : CardOut) : Nat := ((EFmt.ofCode o.target).getD .fp32).width
/-- The width of the parcel that orders the elements: the widest used output's. -/
def groupWidth (c : List Byte) : Nat := (usedOuts c).foldl (fun m e => max m (outWidth e.2)) 8

/-- Load and check the card; every word that it names lies within the enclosure (R235, R238). DESIGN CHOICE: VEC_CARD_CAUSE keeps the
last failed check when a later card passes (R243, log entry 59). -/
def cardLoad (x : Letter) (p : Nat) (r : Rec) : Act (List Byte) := do
  let w := stageWho x p r
  let id := recU r 16 3
  let c ← objLoad w id 0 256
  match cardCause c r with
  | some k => do
    devMod fun d => d.setReg (.vecCardCause p (stNode r)) (BitVec.ofNat 64 (k + stIndex r * 2 ^ 8))
    let d ← devGet
    stop (.mem (parcelAddr d w id 0) 3)
  | none => do
    let b := vBase r
    let ins := (List.range 3).filterMap fun i => let n := cardInput c i; if n.1 = 3 then some n.2.2 else none
    let outs := (usedOuts c).filterMap fun e =>
      if e.2.store ∨ (classStoch e.2.cls = true) then some e.2.word else none
    let ws := ins ++ outs ++ [field c 0x20 1] ++ (if field c 0x21 1 = 0xFF then [] else [field c 0x21 1]) ++
      (List.range (field c 0x23 1)).map (· + field c 0x22 1)
    forA ws fun o => do let _ ← needWord x (b + o); pure ()
    forA (ins ++ outs) fun o => do let _ ← objWord x (b + o); pure ()
    let dw ← dimWord x (b + field c 0x20 1)
    if dimM dw = 0 ∨ dimK dw = 0 then stop (.fail 1 (8 * (b + field c 0x20 1))) else pure c

/-- The card of a stage that has started is loaded and checked; then the engine runs it (R238, R243). -/
def Dev.vectorLoad (d : Dev) (x : Letter) (p : Nat) (r : Rec) : Dev :=
  d.stageAct x p r (do
    let c ← cardLoad x p r
    devMod fun d => (d.setRun x.id (stIndex r) fun q => { q with card := c }).engState p (stNode r) 0 2) id

/-- A vector stage starts, LOADING_CARD until its card is there (R238, R243). -/
def Dev.vectorStart (d : Dev) (x : Letter) (p : Nat) (r : Rec) : Dev :=
  match runOf d x.id (stIndex r) with
  | some q => if q.card = [] ∧ !engineOut d p (stNode r) q.slot then d.vectorLoad x p r else d
  | none => if canStart d x p r then (d.startStage x p r 1).vectorLoad x p r else d.waitStage x r

def execVectorStageStart (l : LetterId) (stage : Nat) (s : State) : Host.Outcome State Fault Refusal :=
  .next (s.onDev fun d => match stageAt d l stage [6] with
    | some (x, p, r) => d.vectorStart x p r
    | none => d)

/-- A channel's parcel i, checked. -/
def chanParcel (x : Letter) (p ch i : Nat) : Act Parcel := do
  let d ← devGet
  match (d.chan x.id p ch).findSome? fun t => match t with
    | .parcel j pl sd => if j = i then some (pl, sd) else none
    | _ => none with
  | none => stop (.wait 1)
  | some (pl, sd) =>
    let s := Side.ofBytes sd
    match s.ok s.obj s.parcel with
    | some f => pure ⟨f, s, pl⟩
    | none => stop (.mem 0 2)

/-- Input i at each of a list of elements: decoded values and saturations (R205, R235). An object's parcel that is delivered to
the V-tile comes from its slot (R159, R242). DESIGN CHOICE: parcels of one input whose formats differ in width, for which R169 gives
no layout, are a memory error of kind 4 (R237, log entry 59). -/
def inputVals (x : Letter) (p : Nat) (r : Rec) (c : List Byte) (k i : Nat) (els : List (Nat × Nat)) : Act (List (W32 × Bool)) := do
  let (src, shape, off) := cardInput c i
  if src = 0 then pure (els.map fun _ => (0#32, false)) else do
  let w := stageWho x p r
  let kk := if shape = 2 then 1 else k
  let at_ := fun (e : Nat × Nat) => match shape with | 0 => e | 1 => (0, e.2) | _ => (e.1, 0)
  let ch := if src = 1 then stInA r else stInB r
  let word := x.word (vBase r + off)
  let get := fun (j : Nat) => if src = 3 then do
      let e ← feedParcel x w (wordObj word) (wordFirst word + j)
      pure e.1
    else chanParcel x p ch j
  let d ← devGet
  let peek := if src = 3 then some 0 else
    (d.chan x.id p ch).findSome? fun t => match t with | .parcel j _ _ => some j | _ => none
  match peek with
  | none => stop (.wait 1)
  | some j0 => do
    let q0 ← get j0
    let wd := q0.fmt.width
    let idx := (els.map fun e => let e := at_ e; e.1 / 128 * ceilDiv kk wd + e.2 / wd).eraseDups
    let ps ← mapA idx fun j => do let q ← get j; pure (j, q)
    if ps.any fun e => e.2.fmt.width ≠ wd then stop (.mem (parcelAddr d w (wordObj word) (wordFirst word)) 4)
    else pure (els.map fun e => let e := at_ e; matElem wd kk ps e.1 e.2)

/-- Convert the sub-parcels of one output from the buffered values of a finished parcel (R237, R241). DESIGN CHOICE: an output with
SEND alone and a class that draws nothing needs no destination word and labels its parcels as object 0 from parcel 0 (R235), and a
SEND whose OUT_A or OUT_B is 0xFFFF, which no check of R238 covers, discards its parcels (log entry 59). -/
def vecOutput (x : Letter) (p : Nat) (r : Rec) (c : List Byte) (m k rt col : Nat) (vals : List W32) (e : Nat × CardOut) :
    Act Unit := do
  let (o, u) := e
  let f := (EFmt.ofCode u.target).getD .fp32
  let wg := groupWidth c
  let wo := f.width
  let per := ceilDiv k wo
  let lanes := min 128 (m - 128 * rt)
  let word := x.word (vBase r + u.word)
  let seed := if field c 0x21 1 = 0xFF then 0xFF else vBase r + field c 0x21 1
  let useDst := u.store || classStoch u.cls
  forA (List.range (wg / wo)) fun s => do
    let j := col * (wg / wo) + s
    if per ≤ j then pure () else do
    let d ← devGet
    let first := if useDst then wordFirst word else 0
    let i := rt * per + j
    let spec : ConvSpec := { fmt := f, cls := u.cls, purpose := u.purpose, key := seedKey d x seed,
                             obj := if useDst then wordObj word else 0, parcel := first + i, count := false }
    let src := (List.range (128 * wo)).map fun q =>
      let l := q / wo
      let cc := j * wo + q % wo
      if l < lanes ∧ cc < k then (⟨vals.getD (l * wg + s * wo + q % wo) 0#32, true⟩ : SrcElem) else ⟨0#32, false⟩
    let out := convertParcel spec (lanes * wo) src
    parcelOut x (stageWho x p r) (vBase r + u.word) (stLayer r) i (ceilDiv m 128 * per) u.store u.send
      (if o = 0 then stOutA r else stOutB r) out
    devMod fun d => d.convCounts x.id (.vecSat p (stNode r) x.ctx) (.vecNonfinite p (stNode r) x.ctx) out.sat 0

/-- One group of 1,024 elements in the order of the destination's parcels (R237, R241). DESIGN CHOICE: an element of a broadcast
input that saturates as it is decoded adds one to SAT for every output element that uses it (log entry 59). -/
def vectorGroup (x : Letter) (p : Nat) (r : Rec) (q : Run) : Act Unit := do
  let c := q.card
  let dw := x.word (vBase r + field c 0x20 1)
  let m := dimM dw
  let k := dimK dw
  let wg := groupWidth c
  let per := ceilDiv k wg
  let inParcel := 128 * wg / 1024
  let pi := q.pos / inParcel
  let rt := pi / per
  let col := pi % per
  let els := (List.range 1024).map fun e =>
    let e := q.pos % inParcel * 1024 + e
    (128 * rt + e / wg, col * wg + e % wg)
  let valid := fun (e : Nat × Nat) => decide (e.1 < m ∧ e.2 < k)
  let live := els.filter valid
  let ins ← mapA [0, 1, 2] fun i => inputVals x p r c k i live
  let cs := cardConsts x (vBase r) c
  let outs := usedOuts c
  let regs := live.zipIdx.map fun e => laneRun cs (stepList c) (ins.map fun l => (l.getD e.2 (0#32, false)).1) e.1.1 e.1.2
  let val := fun (e : Nat × Nat) (o : Nat) => match live.findIdx? (· = e) with
    | some i => (regs.getD i []).getD (cardOut c o).reg 0#32
    | none => 0#32
  let got := els.map fun e => if valid e then (val e 0, val e 1) else (0#32, 0#32)
  let nf := (regs.map fun v => (outs.filter fun o => !finite32 (v.getD o.2.reg 0#32)).length).sum
  let sat := (ins.map fun l => (l.filter (·.2)).length).sum
  let buf := q.buf ++ got
  devMod fun d => (d.convCounts x.id (.vecSat p (stNode r) x.ctx) (.vecNonfinite p (stNode r) x.ctx) sat nf).wrap
    (.vecProgress p (stNode r)) 1
  devMod fun d =>
    let d := d.setRun x.id (stIndex r) fun q => { q with pos := q.pos + 1, buf := buf }
    if (q.pos + 1) % inParcel = 0 then d.engState p (stNode r) 0 3 else d

/-- The values of a whole parcel are buffered, and its conversion is due (R241). -/
def vecFull (q : Run) : Bool := 128 * groupWidth q.card ≤ q.buf.length

/-- The conversion passes for the parcel whose values are buffered (R241); the stage ends with its last parcel. -/
def vectorConvert (x : Letter) (p : Nat) (r : Rec) (q : Run) : Act Unit := do
  let c := q.card
  let dw := x.word (vBase r + field c 0x20 1)
  let m := dimM dw
  let k := dimK dw
  let per := ceilDiv k (groupWidth c)
  let inParcel := 128 * groupWidth c / 1024
  let pi := (q.pos - 1) / inParcel
  forA (usedOuts c) fun e => vecOutput x p r c m k (pi / per) (pi % per) (q.buf.map fun v => if e.1 = 0 then v.1 else v.2) e
  devMod fun d =>
    let d := (d.setRun x.id (stIndex r) fun q => { q with buf := [] }).engState p (stNode r) 0 2
    if q.pos = ceilDiv m 128 * per * inParcel then d.stageDone x (stIndex r) else d

/-- The card on one group of 1,024 elements, and the conversion of the parcel that it completes (R241). While a conversion waits for
room or for memory the engine is CONVERTING, and the command goes on with it (R243). -/
def execVectorElementGroup (l : LetterId) (stage : Nat) (s : State) : Host.Outcome State Fault Refusal :=
  .next (s.onDev fun d => match stageAt d l stage [6], runOf d l stage with
    | some (x, p, r), some q =>
      if engineOut d p (stNode r) q.slot ∨ q.card = [] then d else
      let d := if vecFull q then d else d.stageAct x p r (vectorGroup x p r q) id
      match runOf d l stage with
      | some q => if vecFull q then d.stageAct x p r (vectorConvert x p r q) id else d
      | none => d
    | _, _ => d)

/-- An ECC error in lane registers or staging (R242). -/
def execVectorEccError (p t : Nat) (corrected : Bool) (s : State) : Host.Outcome State Fault Refusal :=
  .next (s.onDev fun d => if 4 ≤ p ∨ t < 16 ∨ 18 ≤ t then d else
    if corrected then d.count (.vecEccCorr p t) 1 else d.engineFault p t 0 0x102 (.vecStatus p t) 3)

/-- VEC_CTRL.CLEAR_COUNTS (R243). -/
def execVecClearCounts (via : Via) (p t : Nat) (s : State) : Host.Outcome State Fault Refusal :=
  .next (s.onDev fun d => if 4 ≤ p ∨ t < 16 ∨ 18 ≤ t then d else
    d.viaReg via .open_ (.vecCtrl p t) (.vecClearCounts via p t) fun d => d.clearCounts (.vecSat p t) (.vecNonfinite p t))

/-- A window stage is ready: unissued parcels of its deliveries will be read through, and it starts at once (R159,
R160). Engines whose stage is one command of its own start with that command. -/
def execWindowStageReady (l : LetterId) (stage : Nat) (s : State) : Host.Outcome State Fault Refusal :=
  .next (s.onDev fun d => match stageAt d l stage [0, 1, 2, 3, 4, 5, 6, 7, 8, 9] with
    | some (x, p, r) =>
      let d := d.windowReady x stage
      if stKind r = 0 ∧ (runOf d l stage).isNone then d.arrayTry x p r
      else if stKind r = 6 then d.vectorStart x p r
      else d
    | none => d)

end Sys2Proof.Machine
end

