-- ==== Sys2Proof/Machine/Attention.lean ====
section
/-! DEFINITION. The attention engine and the history manager (R244-R272). -/

namespace Sys2Proof.Machine

/-! ### Options (R245) -/

def tMode (r : Rec) : Nat := recU r 16 1
def tPool (r : Rec) : Nat := recU r 17 1 % 8
def tFlag (r : Rec) (i : Nat) : Bool := bitN (recU r 18 1) i
def tTarget (r : Rec) : EFmt := (EFmt.ofCode (recU r 19 1)).getD .fp32
def tList (r : Rec) : Nat := recU r 20 1
def tA (r : Rec) : Nat := recU r 21 1
def tB (r : Rec) : Nat := recU r 22 1
def tC (r : Rec) : Nat := recU r 23 1
def tOut (r : Rec) : Nat := recU r 24 1
def tLse (r : Rec) : Nat := recU r 25 1
def tSeed (r : Rec) : Nat := recU r 26 1
def tScale (r : Rec) : W32 := BitVec.ofNat 32 (recU r 28 4)

/-! ### The history table (R249-R251) -/

/-- The HISTORY_TABLE region of a partition: base and length. -/
def histRegion (d : Dev) (p : Nat) : Option (Nat × Nat) := (regions d p 19 7).head?
def histBase (d : Dev) (p : Nat) : Nat := ((histRegion d p).map (·.1)).getD 0
def histGet (d : Dev) (p off len : Nat) : Nat := leNat ((homeLoad d (histBase d p + off) len).1)
/-- The history manager writes the table (R249). -/
def Dev.histSet (d : Dev) (p off len v : Nat) : Dev := homeStore d (histBase d p + off) (natLe len v)

def poolGet (d : Dev) (p k off len : Nat) : Nat := histGet d p (64 * k + off) len
def Dev.poolSet (d : Dev) (p k off len v : Nat) : Dev := d.histSet p (64 * k + off) len v
def poolValid (d : Dev) (p k : Nat) : Bool := (histRegion d p).isSome && bitN (poolGet d p k 0 4) 24

/-- A pool's descriptor, read once. -/
structure Pool where
  part : Nat
  k : Nat
  obj : Nat
  fmt : EFmt
  heads : Nat
  dim : Nat
  frames : Nat
  seqs : Nat
  pageRec : Nat
  seqRec : Nat
  owner : Nat
  ppp : Nat

def pool (d : Dev) (p k : Nat) : Pool :=
  let g := poolGet d p k
  { part := p, k := k, obj := bitsN (g 0 4) 23 0, fmt := (EFmt.ofCode (g 4 1)).getD .fp32, heads := g 5 1, dim := g 6 2,
    frames := g 8 4, seqs := g 12 4, pageRec := g 16 4, seqRec := g 20 4, owner := g 0x1C 1 % 64, ppp := g 0x1E 2 }

def Pool.cols (q : Pool) : Nat := q.heads * q.dim
/-- Parcels of one row tile of a page's keys or values. -/
def Pool.per (q : Pool) : Nat := ceilDiv q.cols q.fmt.width

/-- Page records (R250). -/
def pageGet (d : Dev) (q : Pool) (f hi lo : Nat) : Nat := bitsN (histGet d q.part (q.pageRec + 8 * f) 8) hi lo
def Dev.pageSet (d : Dev) (q : Pool) (f hi lo v : Nat) : Dev :=
  d.histSet q.part (q.pageRec + 8 * f) 8 (fset (BitVec.ofNat 64 (histGet d q.part (q.pageRec + 8 * f) 8)) hi lo v).toNat
def pageRefs (d : Dev) (q : Pool) (f : Nat) : Nat := pageGet d q f 15 0
def pageReaders (d : Dev) (q : Pool) (f : Nat) : Nat := pageGet d q f 31 16
def pageFill (d : Dev) (q : Pool) (f : Nat) : Nat := pageGet d q f 40 32
def pageUsed (d : Dev) (q : Pool) (f : Nat) : Bool := pageGet d q f 63 63 = 1

/-- Sequence records (R251). -/
def seqOff (q : Pool) (s off : Nat) : Nat := q.seqRec + 256 * s + off
def seqLen (d : Dev) (q : Pool) (s : Nat) : Nat := histGet d q.part (seqOff q s 0) 4
def seqValid (d : Dev) (q : Pool) (s : Nat) : Bool := bitN (histGet d q.part (seqOff q s 5) 1) 0
def seqPage (d : Dev) (q : Pool) (s i : Nat) : Nat := histGet d q.part (seqOff q s (16 + 4 * i)) 4
def seqPages (d : Dev) (q : Pool) (s : Nat) : List Nat :=
  (List.range (histGet d q.part (seqOff q s 4) 1)).map (seqPage d q s)
def Dev.seqSetLen (d : Dev) (q : Pool) (s n : Nat) : Dev :=
  (d.histSet q.part (seqOff q s 0) 4 n).histSet q.part (seqOff q s 4) 1 (ceilDiv n 256)

/-- The descriptor's FREE and HALL_HIST_POOL follow the records (R249, R272). -/
def Dev.poolSync (d : Dev) (p k : Nat) : Dev :=
  if poolValid d p k then
    let q := pool d p k
    let free := ((List.range q.frames).filter fun f => !pageUsed d q f).length
    let sv := ((List.range q.seqs).filter (seqValid d q)).length
    (d.poolSet p k 0x18 4 free).setReg (.hallHistPool p k)
      (BitVec.ofNat 64 (free % 2 ^ 24 + sv % 2 ^ 24 * 2 ^ 24 + q.owner * 2 ^ 48 + 2 ^ 63))
  else d.setReg (.hallHistPool p k) 0#64

/-- Free a frame when both its counts are zero (R256). -/
def Dev.freeIfDue (d : Dev) (q : Pool) (f : Nat) : Dev :=
  if pageRefs d q f = 0 ∧ pageReaders d q f = 0 then d.histSet q.part (q.pageRec + 8 * f) 8 0 else d

def Dev.addRefs (d : Dev) (q : Pool) (f : Nat) : Dev := d.pageSet q f 15 0 (pageRefs d q f + 1)
def Dev.dropRef (d : Dev) (q : Pool) (f : Nat) : Dev := (d.pageSet q f 15 0 (pageRefs d q f - 1)).freeIfDue q f
def Dev.addReader (d : Dev) (q : Pool) (f : Nat) : Dev := d.pageSet q f 31 16 (pageReaders d q f + 1)
def Dev.dropReader (d : Dev) (q : Pool) (f : Nat) : Dev := (d.pageSet q f 31 16 (pageReaders d q f - 1)).freeIfDue q f

/-- RELEASE of one sequence (R256). -/
def Dev.releaseSeq (d : Dev) (q : Pool) (s : Nat) : Dev :=
  let ps := seqPages d q s
  (d.histSet q.part (seqOff q s 5) 1 0).each ps fun d f => d.dropRef q f

/-- Every READERS count of a pool becomes zero, and frames that are due are freed (R269). -/
def Dev.clearReaders (d : Dev) (q : Pool) : Dev :=
  (d.each ((List.range q.frames).filter fun f => pageReaders d q f ≠ 0) fun d f =>
    (d.pageSet q f 31 16 0).freeIfDue q f).poolSync q.part q.k

/-- A partition's pools lose their readers (R269). -/
def Dev.dropReaders (d : Dev) (p : Nat) : Dev :=
  d.each (List.range 8) fun d k => if poolValid d p k then d.clearReaders (pool d p k) else d

/-- Run an action; when it stops, clean up behind it. -/
def onStop {α : Type} (clean : Dev → Dev) (x : Act α) : Act α := fun d =>
  match x.run d with
  | (.ok a, d) => pure (.ok a, d)
  | (.error e, d) => pure (.error e, clean d)

/-- A torn context's pools: sequences released, pools invalid (R269). -/
def Dev.releasePools (d : Dev) (c : Nat) : Dev :=
  d.each ((List.range 4).flatMap fun p => (List.range 8).map fun k => (p, k)) fun d pk =>
    if poolValid d pk.1 pk.2 ∧ (pool d pk.1 pk.2).owner = c then
      let q := pool d pk.1 pk.2
      let d := d.each ((List.range q.seqs).filter (seqValid d q)) fun d s => d.releaseSeq q s
      (d.poolSet pk.1 pk.2 0 4 0).poolSync pk.1 pk.2
    else d

/-- A free frame. Which one is placement, which the spec leaves open (R253): a free choice among those free. -/
def pickFrame (d : Dev) (q : Pool) : Option Nat :=
  let l := (List.range q.frames).filter fun f => !pageUsed d q f
  l[(Config.freeWord d.tick).toNat % l.length]?

/-! ### Lists (R252, R258) -/

/-- The header of a stage's descriptor list, and its entries. -/
def listRead (x : Letter) (p : Nat) (r : Rec) : Act (List Byte × List Nat) := do
  let w := stageWho x p r
  let word ← objWord x (tList r)
  let h ← objLoad w (wordObj word) 0 64
  let n := field h 0 4
  let es ← objLoad w (wordObj word) 64 (8 * n)
  pure (h, (List.range n).map fun i => field es (8 * i) 8)

def listFormat {α : Type} (r : Rec) : Act α := stop (.fail 1 (8 * tList r))

/-- The pool of a stage: valid and owned by the letter's context (R258). -/
def stagePool (x : Letter) (p : Nat) (r : Rec) : Act Pool := do
  let d ← devGet
  if !poolValid d p (tPool r) then stop (.fail 0x20 0) else
  let q := pool d p (tPool r)
  if q.owner ≠ x.ctx then stop (.fail 0x12 (stIndex r)) else pure q

/-! ### Pages (R247, R248, R255) -/

/-- Parcel index of a page's keys (0) or values (1), row tile and K-parcel, in the pool object (R247). -/
def pageParcel (q : Pool) (f kv rt c : Nat) : Nat := f * q.ppp + kv * (2 * q.per) + rt * q.per + c

/-- The requester that copies pages: the update engine of the pool object's home (R255). -/
def copier (d : Dev) (w : Who) (q : Pool) : Who :=
  { w with part := some (((mapGet? d.objs q.obj).map (·.home)).getD q.part), node := 18, eng := 9, arr := 0 }

/-- A side record whose AMAX and NONFINITE are recomputed over `lanes` lanes (R255). -/
def resideLanes (f : EFmt) (s : Side) (payload : List Byte) (lanes : Nat) : Side :=
  let s := { s with elements := lanes * f.width }
  let vs := (List.range (lanes * f.width)).map fun i => f32 (decodeElem f s payload i).1
  let (m, e) := amaxOf vs
  { s with amax := toF32 (.fin false m e),
           sflags := (if f.narrow then 1 else 0) + (if vs.all FV.isFin then 0 else 4) }

/-- Stamps per lane of a parcel. -/
def laneStamps (f : EFmt) : Nat := if f.narrow then f.width / 32 else 0

/-- A parcel of a page that APPEND reads: checked as every reader does (R140, R202, R204). A width that is not the pool's is a memory error
of kind 4 (log entry 60). -/
def poolParcel (w : Who) (q : Pool) (i : Nat) : Act Parcel := do
  let pc ← readParcel w q.obj i
  if pc.fmt.width = q.fmt.width then pure pc else do
    let d ← devGet
    stop (.mem (parcelAddr d w q.obj i) 4)

/-- Copy a sequence's own n tokens of a page to a new frame: the update engine of the pool's home copies, and counts the parcels (R255,
R370). -/
def copyPage (w : Who) (q : Pool) (src dst n : Nat) : Act Unit := do
  let d ← devGet
  let w := copier d w q
  forA [0, 1] fun kv => forA (List.range (ceilDiv n 128)) fun rt => forA (List.range q.per) fun c => do
    let pc ← poolParcel w q (pageParcel q src kv rt c)
    let s := pc.side
    let lanes := min 128 (n - 128 * rt)
    let keep := lanes * laneStamps q.fmt
    let s := { s with parcel := pageParcel q dst kv rt c, stamps := slice (s.stamps.take keep) 0 256 }
    parcelStore w 0xFFFF q.obj (pageParcel q dst kv rt c) 0 pc.payload (resideLanes q.fmt s pc.payload lanes).toBytes
    devMod fun d => d.wrap (.redUpdProgress (w.part.getD q.part)) 1

/-- Append tokens [n0, n1) of a page, in one matrix: new lanes are converted with frank 1.0 (R248), the lanes below n0
keep their bits (R255). `val t c` is the FP32 value of token t, column c. Answers saturations and non-finite
elements. -/
def appendLanes (w : Who) (q : Pool) (f kv rt c n0 n1 : Nat) (val : Nat → Nat → W32) : Act (Nat × Nat) := do
  let wd := q.fmt.width
  let lo := n0 - 128 * rt
  let hi := min 128 (n1 - 128 * rt)
  let i := pageParcel q f kv rt c
  let src := (List.range (128 * wd)).map fun e =>
    let l := e / wd
    let col := c * wd + e % wd
    if lo ≤ l ∧ l < hi ∧ col < q.cols then (⟨val (128 * rt + l) col, true⟩ : SrcElem) else ⟨0#32, false⟩
  let blocks := (blocks32 (ceilDiv (128 * wd) 32) src).map validVals
  let sc : Scales := { frankE := 0, zp := 0, stamps := blocks.map fun b => let (m, e) := amaxOf b; stampFor m q.fmt.qmax e }
  let o := convertWith { fmt := q.fmt, cls := 0, purpose := 0, key := 0, obj := q.obj, parcel := i, count := true } sc (hi * wd) src
  if lo = 0 then parcelStore w 0xFFFF q.obj i 0 o.payload o.side.toBytes
  else do
    let pc ← poolParcel w q i
    let s0 := pc.side
    let k := laneStamps q.fmt
    let pl := pc.payload.take (32 * lo) ++ o.payload.drop (32 * lo)
    let s := { o.side with stamps := s0.stamps.take (k * lo) ++ o.side.stamps.drop (k * lo) }
    let s1 := resideLanes q.fmt s pl hi
    parcelStore w 0xFFFF q.obj i 0 pl
      { s1 with sflags := s1.sflags ||| (s0.sflags &&& 4) ||| (o.side.sflags &&& 4) }.toBytes
  pure (o.sat, o.nonfin)

/-- The matrix rows that APPEND, FORWARD and BACKWARD read, from an object or from a channel (R245), and whether the source is
FP32. Only an FP32 source is copied bit by bit; another's NaN is the canonical one (R206, R218). -/
def matRowF (x : Letter) (p : Nat) (r : Rec) (inch : Bool) (ch word cols row : Nat) : Act (Bool × List (W32 × Bool)) := do
  let w := stageWho x p r
  let op ← if inch then pure 0 else objWord x word
  let d ← devGet
  let get := fun (j : Nat) => if inch then chanParcel x p ch j else readParcel w (wordObj op) (wordFirst op + j)
  let peek := if inch then (d.chan x.id p ch).findSome? fun t => match t with | .parcel j _ _ => some j | _ => none else some 0
  match peek with
  | none => stop (.wait 1)
  | some j0 => do
    let q0 ← get j0
    let wd := q0.fmt.width
    let per := ceilDiv cols wd
    let ps ← mapA (List.range per) fun c => do let q ← get (row / 128 * per + c); pure (row / 128 * per + c, q)
    if ps.any fun e => e.2.fmt.width ≠ wd then stop (.mem (parcelAddr d w (wordObj op) (wordFirst op)) 4)
    else
      let copy := ps.all fun e => e.2.fmt = .fp32
      pure (copy, (List.range cols).map fun c =>
        let v := matElem wd cols ps row c
        if copy then v else (canonNan v.1, v.2))

def matRow (x : Letter) (p : Nat) (r : Rec) (inch : Bool) (ch word cols row : Nat) : Act (List (W32 × Bool)) := do
  let e ← matRowF x p r inch ch word cols row
  pure e.2

def rowVals (l : List (W32 × Bool)) (c : Nat) : W32 := (l.getD c (0#32, false)).1
def satsOf (l : List (W32 × Bool)) : Nat := (l.filter (·.2)).length

/-- Add a stage's counts (R270). -/
def attCount (x : Letter) (p : Nat) (r : Rec) (sat nf : Nat) : Act Unit :=
  devMod fun d => d.convCounts x.id (.attSat p (stNode r) x.ctx) (.attNonfinite p (stNode r) x.ctx) sat nf
def attProgress (p : Nat) (r : Rec) (n : Nat) : Act Unit := devMod fun d => d.wrap (.attProgress p (stNode r)) n

/-! ### Table operations (R253-R258) -/

/-- Offsets at or above 0x200 where n bytes of records may begin, lowest first (R257). -/
def fitRegion (used : List (Nat × Nat)) (len n : Nat) : List Nat :=
  (sortNat (0x200 :: used.map fun u => u.1 + u.2)).filter fun a =>
    0x200 ≤ a && a + n ≤ len && used.all fun u => a + n ≤ u.1 || u.1 + u.2 ≤ a

/-- Places for a pool's page and sequence records: the lowest where both fit, page records first (R257, log entry 54). -/
def fitRecords (used : List (Nat × Nat)) (len pages seqs : Nat) : Option (Nat × Nat) :=
  (fitRegion used len pages).findSome? fun a => ((fitRegion ((a, pages) :: used) len seqs).head?).map fun b => (a, b)

def poolInit (x : Letter) (p : Nat) (r : Rec) : Act Unit := do
  let w := stageWho x p r
  let word ← objWord x (tList r)
  let h ← objLoad w (wordObj word) 0 64
  let d ← devGet
  let k := tPool r
  let frames := field h 0x10 4
  let seqs := field h 0x14 4
  let obj := bitsN (field h 8 4) 23 0
  let len := ((histRegion d p).map (·.2)).getD 0
  let valid := poolValid d p k
  if valid && (pool d p k).owner ≠ x.ctx then stop (.fail 0x12 (stIndex r))
  else
    if frames = 0 then
      if valid then
        let q := pool d p k
        if ((List.range q.seqs).any (seqValid d q) || (List.range q.frames).any fun f => pageReaders d q f ≠ 0) = true then
          stop (.fail 0x21 0)
        else devMod fun d => (d.poolSet p k 0 4 0).poolSync p k
      else pure ()
    else if valid then stop (.fail 0x21 0)
    else
      let fmt := (EFmt.ofCode (field h 0xC 1))
      let heads := field h 0xD 1
      let dim := field h 0xE 2
      let e := heads * dim
      let wd := (fmt.map (·.width)).getD 1
      let ppp := 4 * ceilDiv e wd
      let shape := 1 ≤ heads && heads ≤ 8 && [32, 64, 128, 256].contains dim && e ≤ 512 &&
        [some EFmt.fp4, some .fp8e4, some .bf16, some .fp32].contains fmt && 1 ≤ seqs && seqs ≤ 65535 &&
        field h 0 4 = 0 && zeroRange h 4 4 && field h 0xB 1 = 0 && zeroRange h 0x18 40
      let objOk := match mapGet? d.objs obj with
        | some o => o.hasSide && frames * ppp * 4096 ≤ o.size
        | none => false
      if !shape || !objOk then listFormat r else
      let used := ((List.range 8).filter fun j => poolValid d p j && j ≠ k).flatMap fun j =>
        let q := pool d p j
        [(q.pageRec, 8 * q.frames), (q.seqRec, 256 * q.seqs)]
      match fitRecords used len (8 * frames) (256 * seqs) with
      | none => stop (.fail 0x22 p)
      | some (a, b) => devMod fun d =>
        let base := histBase d p
        let d := homeStore d (base + 64 * k) (List.replicate 64 0#8)
        let d := homeStore d (base + a) (List.replicate (8 * frames) 0#8)
        let d := homeStore d (base + b) (List.replicate (256 * seqs) 0#8)
        let d := (((d.poolSet p k 0 4 (obj + 2 ^ 24)).poolSet p k 4 1 (field h 0xC 1)).poolSet p k 5 1 heads).poolSet p k 6 2 dim
        let d := (((d.poolSet p k 8 4 frames).poolSet p k 0xC 4 seqs).poolSet p k 0x10 4 a).poolSet p k 0x14 4 b
        ((d.poolSet p k 0x1C 1 x.ctx).poolSet p k 0x1E 2 ppp).poolSync p k

/-- FORK of one entry (R254). DESIGN CHOICE (log entry 60): SRC 0xFFFF with LEN other than 0 ends the letter with OBJECT_STATE; the
spec names no status. -/
def forkEntry (p : Nat) (r : Rec) (q : Pool) (e : Nat) : Act Unit := do
  let new := bitsN e 15 0
  let src := bitsN e 31 16
  let n := bitsN e 63 32
  let d ← devGet
  if q.seqs ≤ new ∨ (src ≠ 0xFFFF ∧ q.seqs ≤ src) then listFormat r
  else if seqValid d q new ∨ (src ≠ 0xFFFF ∧ (!seqValid d q src ∨ seqLen d q src < n)) ∨ (src = 0xFFFF ∧ n ≠ 0) then
    stop (.fail 0x21 0)
  else devMod fun d =>
    let ps := if src = 0xFFFF then [] else (seqPages d q src).take (ceilDiv n 256)
    let d := homeStore d (histBase d p + seqOff q new 0) (List.replicate 256 0#8)
    let d := (d.seqSetLen q new n).histSet p (seqOff q new 5) 1 1
    (d.each ps.zipIdx fun d e => (d.histSet p (seqOff q new (16 + 4 * e.2)) 4 e.1).addRefs q e.1).poolSync p q.k

/-- RELEASE of one entry (R256). -/
def releaseEntry (p : Nat) (r : Rec) (q : Pool) (e : Nat) : Act Unit := do
  let s := bitsN e 15 0
  let d ← devGet
  if q.seqs ≤ s ∨ e / 2 ^ 16 ≠ 0 then listFormat r
  else if !seqValid d q s then stop (.fail 0x21 0)
  else devMod fun d => (d.releaseSeq q s).poolSync p q.k

/-- Take a new frame for page i of a sequence, with n tokens of its own. -/
def newFrame (p : Nat) (q : Pool) (s i n : Nat) : Act Nat := do
  let d ← devGet
  match pickFrame d q with
  | none => stop (.fail 0x22 p)
  | some f => do
    devMod fun d =>
      let d := d.draw.2.histSet p (q.pageRec + 8 * f) 8 (1 + n * 2 ^ 32 + 2 ^ 63)
      d.histSet p (seqOff q s (16 + 4 * i)) 4 f
    pure f

/-- The frames that are free suffice for an APPEND of n tokens to a sequence: each entry is applied whole or not at all (R253). A copy of its
last page takes one, and leaves the old one free where nothing else holds it (R255, R256). -/
def framesSuffice (d : Dev) (q : Pool) (s n : Nat) : Bool :=
  let free := ((List.range q.frames).filter fun f => !pageUsed d q f).length
  let len := seqLen d q s
  let own := len % 256
  let f := seqPage d q s (len / 256)
  let new := ceilDiv (len + n) 256 - ceilDiv len 256
  if own = 0 ∨ (pageRefs d q f = 1 ∧ pageFill d q f = own) then new ≤ free
  else 1 ≤ free && 1 + new ≤ free + (if pageRefs d q f = 1 ∧ pageReaders d q f = 0 then 1 else 0)

/-- The tokens of an APPEND entry that go into page i (R255). -/
def appendPage (x : Letter) (p : Nat) (r : Rec) (q : Pool) (s i n0 n1 : Nat) (key val : Nat → Nat → W32) : Act Unit := do
  let w := stageWho x p r
  let d ← devGet
  let f ← if n0 = 0 then newFrame p q s i 0 else do
    let f := seqPage d q s i
    if pageRefs d q f = 1 ∧ pageFill d q f = n0 then pure f else do
    let g ← newFrame p q s i n0
    copyPage w q f g n0
    devMod fun d => d.dropRef q f
    pure g
  forA [0, 1] fun kv => forA ((List.range 2).filter fun rt => n0 < 128 * (rt + 1) ∧ 128 * rt < n1) fun rt =>
    forA (List.range q.per) fun c => do
      let (sat, nf) ← appendLanes w q f kv rt c n0 n1 (if kv = 0 then key else val)
      attCount x p r sat nf
  devMod fun d => d.pageSet q f 40 32 n1

/-- An entry that fails is not applied at all: the page records and the sequence record are as they were, and frames that it took
are free (R253, R269). -/
def Dev.undoEntry (d d0 : Dev) (q : Pool) (s : Nat) : Dev :=
  let d := d.each ((List.range q.frames).filter fun f => pageGet d q f 63 0 ≠ pageGet d0 q f 63 0) fun d f =>
    d.histSet q.part (q.pageRec + 8 * f) 8 (pageGet d0 q f 63 0)
  (homeStore d (histBase d q.part + seqOff q s 0) (homeLoad d0 (histBase d q.part + seqOff q s 0) 256).1).poolSync q.part q.k

/-- APPEND of one entry; `row0` is the matrix row of its first token (R255). Elements of an FP32 pool that come from another format
are counted as they are converted (R219, R270). DESIGN CHOICE (log entry 60): an entry of no tokens ends the letter with FORMAT; R252 gives
the range 1 to 15,360 and no status. -/
def appendEntry (x : Letter) (p : Nat) (r : Rec) (q : Pool) (row0 e : Nat) : Act Nat := do
  let s := bitsN e 15 0
  let n := bitsN e 63 32
  let d ← devGet
  if q.seqs ≤ s ∨ bitsN e 31 16 ≠ 0 ∨ n = 0 then listFormat r
  else if !seqValid d q s then stop (.fail 0x21 0)
  else
    let len := seqLen d q s
    if 15360 < len + n ∨ framesSuffice d q s n = false then
      stop (.fail 0x22 p)
    else onStop (·.undoEntry d q s) do
      let inch := tFlag r 0
      let kf ← mapA (List.range n) fun t => matRowF x p r inch (stInA r) (tA r) q.cols (row0 + t)
      let vf ← mapA (List.range n) fun t => matRowF x p r inch (stInB r) (tB r) q.cols (row0 + t)
      let ks := kf.map (·.2)
      let vs := vf.map (·.2)
      let nf := if q.fmt = .fp32 then
          (((kf ++ vf).filter fun m => !m.1).map fun m => (m.2.filter fun v => !finite32 v.1).length).sum
        else 0
      attCount x p r (((ks ++ vs).map satsOf).sum) nf
      forA (List.range (ceilDiv (len + n) 256 - len / 256)) fun j => do
        let i := len / 256 + j
        let n0 := if j = 0 then len % 256 else 0
        let n1 := min 256 (len + n - 256 * i)
        let at_ := fun (m : List (List (W32 × Bool))) (t c : Nat) => rowVals (m.getD (256 * i + t - len) []) c
        appendPage x p r q s i n0 n1 (at_ ks) (at_ vs)
      devMod fun d => (d.seqSetLen q s (len + n)).poolSync p q.k
      pure (row0 + n)

def appendAll (x : Letter) (p : Nat) (r : Rec) (q : Pool) : Nat → List Nat → Act Unit
  | _, [] => pure ()
  | row, e :: es => do
    let row ← appendEntry x p r q row e
    attProgress p r 1
    appendAll x p r q row es

/-- A table operation's header holds COUNT and zeros (R252). -/
def countOnly (r : Rec) (h : List Byte) : Act Unit := if zeroRange h 4 60 then pure () else listFormat r

/-- Table operations of a stage: each entry in list order; those before a failing one stand (R253, R258). -/
def tableOp (x : Letter) (p : Nat) (r : Rec) : Act Unit := do
  if tMode r = 5 then poolInit x p r else do
  let q ← stagePool x p r
  let (h, es) ← listRead x p r
  countOnly r h
  match tMode r with
  | 2 => appendAll x p r q 0 es
  | 3 => forA es fun e => do forkEntry p r q e; attProgress p r 1
  | _ => forA es fun e => do releaseEntry p r q e; attProgress p r 1

/-! ### Scores and softmax (R260-R263) -/

/-- A page's decoded keys and values. -/
structure PageData where
  key : Nat → Nat → W32
  val : Nat → Nat → W32

/-- Read the parcels of a page that hold n tokens. -/
def loadPage (x : Letter) (p : Nat) (r : Rec) (q : Pool) (f n : Nat) : Act (PageData × Nat) := do
  let w := stageWho x p r
  let one := fun (kv : Nat) => do
    let ps ← mapA ((List.range (ceilDiv n 128)).flatMap fun rt => (List.range q.per).map fun c => (rt, c)) fun rc => do
      let pc ← readParcel w q.obj (pageParcel q f kv rc.1 rc.2)
      pure (rc.1 * q.per + rc.2, pc)
    pure ps
  let ks ← one 0
  let vs ← one 1
  let wd := q.fmt.width
  let sat := (List.range n).map fun t => ((List.range q.cols).filter fun c =>
    (matElem wd q.cols ks t c).2).length + ((List.range q.cols).filter fun c => (matElem wd q.cols vs t c).2).length
  pure (⟨fun t c => (matElem wd q.cols ks t c).1, fun t c => (matElem wd q.cols vs t c).1⟩, sat.sum)

/-- The score of R260 before the scale: fma over d ascending. -/
def dotF (n : Nat) (a b : Nat → W32) : W32 := (List.range n).foldl (fun acc d => fma (a d) (b d) acc) 0#32
def negInf : W32 := 0xFF800000#32

/-- ln(l) (R263). -/
def fln (l : W32) : W32 :=
  match f32 l with
  | .fin false m e =>
    if m = 0 then negInf else
    let k := Nat.log2 m
    let f := toF32 (.fin false m (-(k : Int)))
    let big := 0x3FB504F3 < f.toNat
    let f := if big then fmul f 0x3F000000#32 else f
    let ei : Int := (k : Int) + e + (if big then 1 else 0)
    let ev := toF32 (.fin (ei < 0) ei.natAbs 0)
    let r := fmul (fsub f one32) (frcp (fadd f one32))
    let z := fmul r r
    let p := fma z 0x3DE38E39#32 0x3E124925#32
    let p := fma p z 0x3E4CCCCD#32
    let p := fma p z 0x3EAAAAAB#32
    let p := fma p z one32
    fma ev 0x3F317218#32 (fmul (fmul r p) 0x40000000#32)
  | .inf false => l
  | _ => nan32

/-- Running statistics of one row and head. -/
structure Soft where
  m : W32
  l : W32
  o : List W32

/-- Fold one block of visible keys (R261): scores in ascending key order, each with its value row. -/
def softBlock (s : Soft) (ks : List (W32 × (Nat → W32))) : Soft :=
  if ks = [] then s else
  let mb := ks.foldl (fun m k => fmax m k.1) negInf
  let mn := fmax s.m mb
  let alpha := if (f32 mn).eqv (f32 s.m) then one32 else fexp (fsub s.m mn)
  let s := { s with l := fmul s.l alpha, o := s.o.map fun v => fmul v alpha }
  let s := ks.foldl (fun s k =>
    let pr := if k.1 = negInf then 0#32 else fexp (fsub k.1 mn)
    { s with l := fadd s.l pr, o := s.o.zipIdx.map fun e => fma pr (k.2 e.2) e.1 }) s
  { s with m := mn }

/-- The outputs of one row and head, and its statistic (R262). -/
def softEnd (s : Soft) : List W32 × W32 :=
  if (f32 s.l).isZero then (s.o.map fun _ => 0#32, negInf)
  else (s.o.map fun v => fmul v (frcp s.l), fadd s.m (fln s.l))

/-- A sequence latched by a stage: its length and its pages with their data (R259). -/
structure Latched where
  seq : Nat
  len : Nat
  pages : List (Nat × PageData)

/-- Visible keys of a row, page by page: positions in ascending order (R252). -/
def visible (s : Latched) (limit : Nat) : List (PageData × List Nat) :=
  s.pages.zipIdx.map fun e => (e.1.2, (List.range (min 256 (s.len - 256 * e.2))).filter fun t => 256 * e.2 + t < min limit s.len)

def scoreOf (scale : W32) (dim h : Nat) (qv : Nat → W32) (pd : PageData) (t : Nat) : W32 :=
  fmul (dotF dim (fun d => qv (h * dim + d)) fun d => pd.key t (h * dim + d)) scale

/-- Forward attention of one row and head. -/
def softRow (scale : W32) (dim h : Nat) (qv : Nat → W32) (s : Latched) (limit : Nat) : List W32 × W32 :=
  softEnd ((visible s limit).foldl (fun st b => softBlock st (b.2.map fun t =>
    (scoreOf scale dim h qv b.1 t, fun d => b.1.val t (h * dim + d)))) ⟨negInf, 0#32, List.replicate dim 0#32⟩)

/-! ### Rows and outputs -/

def rowLimit (e : Nat) : Nat := let n := bitsN e 63 32; if n = 0xFFFFFFFF then 2 ^ 32 else n

/-- Blocks of a sequence up to the last key that some of the rows sees; those beyond are not run (R268). -/
def blocksSeen (es : List Nat) (s len : Nat) : Nat :=
  ceilDiv ((es.filter fun e => bitsN e 15 0 = s).foldl (fun m e => max m (min (rowLimit e) len)) 0) 256

/-- A page that no row sees is not read (R268). -/
def noPage : PageData := ⟨fun _ _ => 0#32, fun _ _ => 0#32⟩

/-- The sequences of the rows, in order of first appearance, latched with their readers counted (R259). -/
def latch (x : Letter) (p : Nat) (r : Rec) (q : Pool) (es : List Nat) : Act (List Latched) := do
  let d ← devGet
  if es.any fun e => q.seqs ≤ bitsN e 15 0 ∨ bitsN e 31 16 ≠ 0 then listFormat r
  else if es.any fun e => !seqValid d q (bitsN e 15 0) then stop (.fail 0x21 0)
  else
    let ss := (es.map fun e => bitsN e 15 0).eraseDups
    mapA ss fun s => do
      let d ← devGet
      let len := seqLen d q s
      let fs := seqPages d q s
      devMod fun d => d.each fs fun d f => d.addReader q f
      let ps ← mapA fs.zipIdx fun e => if blocksSeen es s len ≤ e.2 then pure (e.1, noPage) else do
        let (pd, sat) ← loadPage x p r q e.1 (min 256 (len - 256 * e.2))
        attCount x p r sat 0
        pure (e.1, pd)
      pure ⟨s, len, ps⟩

/-- The stage releases its pages; frames that are due are freed (R256, R259). -/
def unlatch (p : Nat) (q : Pool) (ls : List Latched) : Act Unit :=
  devMod fun d => (d.each (ls.flatMap fun s => s.pages.map (·.1)) fun d f => d.dropReader q f).poolSync p q.k

/-- Blocks that the row groups of up to 1,024 rows run: for ATT_PROGRESS (R264, R268, R271). -/
def groupBlocks (es : List Nat) (ls : List Latched) : Nat :=
  ((List.range (ceilDiv es.length 1024)).map fun g =>
    let rows := (es.drop (1024 * g)).take 1024
    ((rows.map fun e => bitsN e 15 0).eraseDups.map fun s =>
      ((ls.find? fun l => l.seq = s).map fun l => blocksSeen rows s l.len).getD 0).sum).sum

/-- Write a matrix of FP32 values to a destination, parcel by parcel (R169, R264). -/
def matOut (x : Letter) (p : Nat) (r : Rec) (f : EFmt) (cls purpose obj first rows cols : Nat) (store send : Bool)
    (val : Nat → Nat → W32) : Act Unit := do
  let w := stageWho x p r
  let wd := f.width
  let per := ceilDiv cols wd
  let d ← devGet
  let key := seedKey d x (tSeed r)
  forA (List.range (ceilDiv rows 128 * per)) fun i => do
    let rt := i / per
    let c := i % per
    let lanes := min 128 (rows - 128 * rt)
    let src := (List.range (128 * wd)).map fun e =>
      let l := e / wd
      let col := c * wd + e % wd
      if l < lanes ∧ col < cols then (⟨val (128 * rt + l) col, true⟩ : SrcElem) else ⟨0#32, false⟩
    let o := convertParcel { fmt := f, cls := cls, purpose := purpose, key := key, obj := obj, parcel := first + i, count := true }
      (lanes * wd) src
    let nf := if f = .fp32 then (src.filter fun e => e.valid && !finite32 e.bits).length else o.nonfin
    attCount x p r o.sat nf
    let sd := o.side.toBytes
    if store then parcelStore w (stLayer r) obj (first + i) (ceilDiv rows 128 * per) o.payload sd else pure ()
    if send then sendItem x.id p (stOutA r) (.parcel i o.payload sd) else pure ()

/-- The row statistics: an M x HEADS FP32 matrix; a statistic of -Inf is not counted (R264, R270). -/
def lseOut (x : Letter) (p : Nat) (r : Rec) (heads rows : Nat) (lse : Nat → Nat → W32) : Act Unit := do
  let w := stageWho x p r
  let op ← objWord x (tLse r)
  forA (List.range (ceilDiv rows 128)) fun rt => do
    let lanes := min 128 (rows - 128 * rt)
    let src := (List.range 1024).map fun e =>
      if e / 8 < lanes ∧ e % 8 < heads then (⟨lse (128 * rt + e / 8) (e % 8), true⟩ : SrcElem) else ⟨0#32, false⟩
    let o := convertParcel { fmt := .fp32, cls := 0, purpose := 0, key := 0, obj := wordObj op, parcel := wordFirst op + rt, count := false }
      (lanes * 8) src
    attCount x p r 0 (src.filter fun e => e.valid && e.bits ≠ negInf && !finite32 e.bits).length
    parcelStore w (stLayer r) (wordObj op) (wordFirst op + rt) (ceilDiv rows 128) o.payload o.side.toBytes

def rowSeq (ls : List Latched) (e : Nat) : Latched := (ls.find? fun s => s.seq = bitsN e 15 0).getD ⟨0, 0, []⟩
/-- A FORWARD stage (R259-R264). -/
def attForward (x : Letter) (p : Nat) (r : Rec) : Act Unit := do
  let q ← stagePool x p r
  let (h, es) ← listRead x p r
  if es = [] ∨ 2097151 < es.length then listFormat r else do
  countOnly r h
  seedCheck x (tSeed r)
  let ls ← latch x p r q es
  let qs ← mapA (List.range es.length) fun i => matRow x p r false 0 (tA r) q.cols i
  attCount x p r ((qs.map satsOf).sum) 0
  let res := es.zipIdx.map fun e => (List.range q.heads).map fun hd =>
    softRow (tScale r) q.dim hd (rowVals (qs.getD e.2 [])) (rowSeq ls e.1) (rowLimit e.1)
  let at_ := fun (i hd : Nat) => ((res.getD i []).getD hd ([], 0#32))
  let op ← if tFlag r 1 then objWord x (tOut r) else pure 0
  matOut x p r (tTarget r) 0 0 (wordObj op) (wordFirst op) es.length q.cols (tFlag r 1) (tFlag r 2)
    fun i c => (at_ i (c / q.dim)).1.getD (c % q.dim) 0#32
  lseOut x p r q.heads es.length fun i hd => (at_ i hd).2
  unlatch p q ls
  attProgress p r (groupBlocks es ls)

/-! ### Backward (R265, R266) -/

/-- What BACKWARD finds for one row, head and visible key: p and ds. -/
structure Grad where
  row : Nat
  pos : Nat
  pr : W32
  ds : W32

/-- The terms of one row and head, keys in ascending order (R265). -/
def gradRow (scale : W32) (dim hd i : Nat) (qv dov ov : Nat → W32) (lse : W32) (s : Latched) (limit : Nat) : List Grad :=
  let c := fun d => hd * dim + d
  let delta := dotF dim (fun d => dov (c d)) fun d => ov (c d)
  ((visible s limit).zipIdx).flatMap fun b => b.1.2.map fun t =>
    let sc := scoreOf scale dim hd qv b.1.1 t
    let pr := if lse = negInf then 0#32 else fexp (fsub sc lse)
    let dp := dotF dim (fun d => dov (c d)) fun d => b.1.1.val t (c d)
    ⟨i, 256 * b.2 + t, pr, fmul pr (fsub dp delta)⟩

def keyAt (s : Latched) (pos c : Nat) : W32 :=
  match s.pages[pos / 256]? with | some e => e.2.key (pos % 256) c | none => 0#32

/-- A BACKWARD stage (R265, R266). -/
def attBackward (x : Letter) (p : Nat) (r : Rec) : Act Unit := do
  let q ← stagePool x p r
  let (h, es) ← listRead x p r
  if es = [] ∨ 2097151 < es.length ∨ !zeroRange h 4 4 ∨ !zeroRange h 0x18 40 ∨ field h 0xF 1 ≠ 0 ∨ field h 0x17 1 ≠ 0 then listFormat r
  else if ((es.map fun e => bitsN e 15 0).eraseDups).any (fun s => 1024 < (es.filter fun e => bitsN e 15 0 = s).length) then
    listFormat r
  else do
  seedCheck x (tSeed r)
  let ls ← latch x p r q es
  let rows := fun (word cols : Nat) => mapA (List.range es.length) fun i => matRow x p r false 0 word cols i
  let qs ← rows (tA r) q.cols
  let dos ← rows (tB r) q.cols
  let os ← rows (tC r) q.cols
  let lse ← rows (tLse r) q.heads
  attCount x p r (((qs ++ dos ++ os ++ lse).map satsOf).sum) 0
  let at_ := fun (m : List (List (W32 × Bool))) (i : Nat) => rowVals (m.getD i [])
  let grads := (List.range q.heads).map fun hd => es.zipIdx.map fun e =>
    gradRow (tScale r) q.dim hd e.2 (at_ qs e.2) (at_ dos e.2) (at_ os e.2) (at_ lse e.2 hd) (rowSeq ls e.1) (rowLimit e.1)
  let g := fun (hd i : Nat) => (grads.getD hd []).getD i []
  let key := rowSeq ls
  let dq := fun (i c : Nat) =>
    let s := key (es.getD i 0)
    fmul (tScale r) ((g (c / q.dim) i).foldl (fun acc t => fma t.ds (keyAt s t.pos c) acc) 0#32)
  let starts := ls.zipIdx.map fun e => (e.1, ((ls.take e.2).map fun s => ceilDiv s.len 256 * 256).sum)
  let total := (ls.map fun s => ceilDiv s.len 256 * 256).sum
  let own := fun (row : Nat) => starts.find? fun e => e.2 ≤ row && row < e.2 + ceilDiv e.1.len 256 * 256
  let terms := fun (s pos hd : Nat) => (es.zipIdx.filter fun e => bitsN e.1 15 0 = s).flatMap fun e =>
    (g hd e.2).filter fun t => t.pos = pos
  let dk := fun (row c : Nat) => match own row with
    | some (s, b) => fmul (tScale r) ((terms s.seq (row - b) (c / q.dim)).foldl (fun acc t => fma t.ds (at_ qs t.row c) acc) 0#32)
    | none => 0#32
  let dv := fun (row c : Nat) => match own row with
    | some (s, b) => (terms s.seq (row - b) (c / q.dim)).foldl (fun acc t => fma t.pr (at_ dos t.row c) acc) 0#32
    | none => 0#32
  if tFlag r 1 then do
    let op ← objWord x (tOut r)
    matOut x p r (tTarget r) 2 1 (wordObj op) (wordFirst op) es.length q.cols true false dq
  else pure ()
  let wk := field h 8 8
  let wv := field h 0x10 8
  matOut x p r (tTarget r) 2 1 (wordObj wk) (wordFirst wk) total q.cols true false dk
  matOut x p r (tTarget r) 2 1 (wordObj wv) (wordFirst wv) total q.cols true false dv
  unlatch p q ls
  attProgress p r (groupBlocks es ls)

/-! ### Commands (R244) -/

def execAttForward (l : LetterId) (stage : Nat) (s : State) : Host.Outcome State Fault Refusal :=
  .next (s.onDev fun d => d.oneShot l stage [7] (fun r => tMode r = 0) 1 fun x p r => onStop (·.dropReaders p) (attForward x p r))
def execAttBackward (l : LetterId) (stage : Nat) (s : State) : Host.Outcome State Fault Refusal :=
  .next (s.onDev fun d => d.oneShot l stage [7] (fun r => tMode r = 1) 2 fun x p r => onStop (·.dropReaders p) (attBackward x p r))
def execAttAppend (l : LetterId) (stage : Nat) (s : State) : Host.Outcome State Fault Refusal :=
  .next (s.onDev fun d => d.oneShot l stage [7] (fun r => tMode r = 2) 3 tableOp)
def execAttFork (l : LetterId) (stage : Nat) (s : State) : Host.Outcome State Fault Refusal :=
  .next (s.onDev fun d => d.oneShot l stage [7] (fun r => tMode r = 3) 3 tableOp)
def execAttRelease (l : LetterId) (stage : Nat) (s : State) : Host.Outcome State Fault Refusal :=
  .next (s.onDev fun d => d.oneShot l stage [7] (fun r => tMode r = 4) 3 tableOp)
def execAttPoolInit (l : LetterId) (stage : Nat) (s : State) : Host.Outcome State Fault Refusal :=
  .next (s.onDev fun d => d.oneShot l stage [7] (fun r => tMode r = 5) 3 tableOp)

/-- An ECC error in the state store (R269). -/
def execAttentionEccError (p t : Nat) (corrected : Bool) (s : State) : Host.Outcome State Fault Refusal :=
  .next (s.onDev fun d => if 4 ≤ p ∨ t < 16 ∨ 18 ≤ t then d else
    if corrected then d.count (.attEccCorr p t) 1 else d.engineFault p t 1 0x103 (.attStatus p t) 3)

/-- ATT_CTRL.CLEAR_COUNTS (R271). -/
def execAttClearCounts (via : Via) (p t : Nat) (s : State) : Host.Outcome State Fault Refusal :=
  .next (s.onDev fun d => if 4 ≤ p ∨ t < 16 ∨ 18 ≤ t then d else
    d.viaReg via .open_ (.attCtrl p t) (.attClearCounts via p t) fun d => d.clearCounts (.attSat p t) (.attNonfinite p t))

end Sys2Proof.Machine
end

