-- ==== Sys2Proof/Machine/Security.lean ====
section
/-! DEFINITION. Measurement, the firmware image, trust anchors and the SEC_OP operations (R436-R454). -/

namespace Sys2Proof.Machine

/-! ### Measurement registers (R447) -/

def Dev.meas (d : Dev) (n : Nat) : List Byte := (List.range 8).flatMap fun w => natLe 8 (d.regN (.secMeas n w))

/-- Extend SEC_MEAS[n] by data X: SHAKE256(M || X), and count it (R447). -/
def Dev.extend (d : Dev) (n : Nat) (x : List Byte) : Dev :=
  let m := shake256 (d.meas n ++ x)
  let d := d.each (List.range 8) fun d w => d.setReg (.secMeas n w) (BitVec.ofNat 64 (field m (8 * w) 8))
  d.count (.secMeasCount n) 1

/-- An incident of the security block, for the module ring (R452). -/
def secInc (cls d0 : Nat) : Inc := { cls := cls, eng := 0x24, die := dieGate, part := none, d0 := d0 }

/-- FUSED_MIN and REVOKED read the fuses, whose one home is `sec` (R453). -/
def Dev.withSec (d : Dev) (sec : Sec) : Dev :=
  let d := d.setFld .secSvn 15 0 sec.fusedMin
  d.setFld .secAnchorState 31 16 ((List.range 16).foldl (fun m i => if i ∈ sec.revoked ∧ i ≠ 0 then m + 2 ^ i else m) 0)

/-! ### The firmware image (R439, R440, R442) -/

/-- The image's digest: its bytes up to the signature block. -/
def imageDigest (b : List Byte) : List Byte := shake256 (b.take (b.length - 2048))

/-- Why step 2 of R440 rejects an image, by the cause codes of R454. -/
def firmwareCause (sec : Sec) (b : List Byte) : Option Nat :=
  let len := field b 8 4
  let sigOff := b.length - 2048
  let secOk := fun off n => off % 64 = 0 && 256 ≤ off && off + n ≤ sigOff
  let sigLen := field b (sigOff + 2) 2
  if b.length < 2304 ∨ 8 * 2 ^ 20 < b.length ∨ len ≠ b.length ∨ len % 64 ≠ 0 then some 2
  else if field b 0 4 ≠ 0x4B524C43 ∨ field b 6 2 ≠ 0 ∨ !zeroRange b 0x20 224 ∨ !secOk (field b 0x10 4) (field b 0x14 4) ∨
      !secOk (field b 0x18 4) (field b 0x1C 4) ∨ field b sigOff 2 ≠ 0 ∨ sigLen = 0 ∨ 1462 < sigLen ∨
      !zeroRange b (sigOff + 4 + sigLen) (2044 - sigLen) then some 3
  else if !falconVerify Config.firmwareKey (imageDigest b) (slice b (sigOff + 4) sigLen) then some 4
  else if field b 4 2 < sec.fusedMin then some 7
  else none

def sectionOf (b : List Byte) (o : Nat) : List Byte := slice b (field b o 4) (field b (o + 4) 4)

/-! ### Anchors (R444, R445) -/

def anchorSlot (r : List Byte) : Nat := field r 5 1
def anchorKey (r : List Byte) : List Byte := slice r 0x10 1793
def anchorAdmin (r : List Byte) : Bool := bitN (field r 6 1) 0

/-- The key of a valid slot, with its ADMIN flag; slot 0 is Garzal's (R444). -/
def anchorOf (sec : Sec) (valid n : Nat) : Option (List Byte × Bool) :=
  if n = 0 then some (Config.garzalKey, true)
  else if n < 16 ∧ bitN valid n ∧ n ∉ sec.revoked then
    (mapGet? sec.anchors n).map fun a => (anchorKey a.record, anchorAdmin a.record)
  else none

/-- The signed part of a record and its signature. -/
def recordDigest (r : List Byte) : List Byte := shake256 (slice r 0 0x720)
def recordSig (r : List Byte) : List Byte := slice r 0x724 (field r 0x722 2)

/-- The format of an anchor record (R445): cause 3. -/
def recordFormatOk (r : List Byte) (op : Nat) : Bool :=
  field r 0 4 = 0x52434E41 && field r 4 1 = op && field r 6 1 < 2 && field r 7 1 = 0 && zeroRange r 0x711 15 &&
  zeroRange r 0xCDA 38 && (field r 8 8 = 0 || field r 8 8 = Config.serial) && 1 ≤ field r 0x722 2 && field r 0x722 2 ≤ 1462 &&
  zeroRange r (0x724 + field r 0x722 2) (1462 - field r 0x722 2) && (op = 1 || zeroRange r 0x10 1793)

/-- Why an anchor record is rejected (R445, R454). -/
def anchorCause (sec : Sec) (valid op : Nat) (r : List Byte) : Option Nat :=
  let n := anchorSlot r
  if !recordFormatOk r op then some 3
  else match anchorOf sec valid (field r 0x720 2) with
    | none => some 5
    | some (key, admin) =>
      if !admin then some 5
      else if !falconVerify key (recordDigest r) (recordSig r) then some 4
      else if n = 0 ∨ 16 ≤ n ∨ n ∈ sec.revoked ∨ (op = 1 ∧ bitN valid n) then some 6
      else none

/-- The digest of the 16 slots' states and key digests that SEC_MEAS[7] is extended with (R444). The coding of a
slot (one state byte: 0 empty, 1 valid, 2 revoked, then the key's digest) is the model's (log entry 14). -/
def anchorStoreDigest (sec : Sec) (valid : Nat) : List Byte :=
  shake256 ((List.range 16).flatMap fun n =>
    match anchorOf sec valid n with
    | some (key, _) => natLe 1 1 ++ shake256 key
    | none => natLe 1 (if n ∈ sec.revoked then 2 else 0) ++ List.replicate 64 0#8)

/-- The anchor check at chip reset: the slots whose stored record verifies, and those that fail (R444). -/
def anchorCheck (sec : Sec) : List Nat × List Nat :=
  let live := (List.range 16).filter fun n => n ≠ 0 ∧ n ∉ sec.revoked ∧ (mapGet? sec.anchors n).isSome
  let ok := fun n => match mapGet? sec.anchors n with
    | some a => recordFormatOk a.record 1 && anchorSlot a.record = n &&
                falconVerify a.signerKey (recordDigest a.record) (recordSig a.record)
    | none => false
  (live.filter fun n => ok n, live.filter fun n => !ok n)

/-! ### Keys, certificates and die authentication (R436-R438) -/

/-- What the module certificate's extension says of a die: the digest of its public key (R437). -/
def keyDigest (n : Nat) : List Byte := shake256 (Config.dieKey n)

/-- The chain of slot 0, from the root down (R437): the module's certificate names the serial number and the key of the G-die and
carries the digests of the 100 public keys in SRC_DIE order. -/
def certChain : List Byte :=
  Config.rootCert ++ Config.productCert ++ Config.moduleCert Config.serial (Config.dieKey dieGate) ((List.range 100).flatMap keyDigest)

/-- A nonce of 32 bytes of the module's own choice. -/
def nonce (k : Nat) : List Byte := (List.range 32).map (Config.freeByte k)

/-- What a die signs: the digest of its nonce, its number and its fuse record (R438). -/
def dieMessage (k n : Nat) : List Byte :=
  shake256 (((List.range 32).map fun i => Config.freeByte k (32 * n + i)) ++ natLe 1 n ++ Config.fuseRecord n)

/-- The dies that pass: the public key that each answers with is the one in the certificate, and its signature verifies (R438). -/
def diesPassed (k : Nat) (answers : List (Nat × List Byte × List Byte)) : List Nat :=
  (List.range 100).filter fun n => match answers.find? fun a => a.1 = n with
    | some (_, key, sig) => shake256 key = keyDigest n && falconVerify key (dieMessage k n) sig
    | none => false

/-- Die authentication (R438) and the anchor check (R444), step 5 of R440. A die of the module's keeps it in recovery mode, with
IMAGE_SVN and CLERK_FW_VERSION zero (R433, R453); BOOT_CAUSE keeps the cause of an image that was rejected. -/
def Dev.authenticate (d : Dev) (sec : Sec) (answers : List (Nat × List Byte × List Byte)) : Dev :=
  let passed := diesPassed d.authNonce answers
  let (good, bad) := anchorCheck sec
  let d := d.setFld .secAnchorState 15 0 (good.foldl (fun m n => m + 2 ^ n) 1)
  let d := d.each bad fun d n => d.raise (secInc 0x403 (n + 4 * 2 ^ 8))
  let d := d.extend 7 (anchorStoreDigest sec (d.fld .secAnchorState 15 0))
  let d := d.each (List.range 4) fun d k =>
    d.setReg (.secDieAuth k) (BitVec.ofNat 64 ((List.range 32).foldl (fun m i =>
      if 32 * k + i ∈ passed ∧ 32 * k + i < 100 ∧ 32 * k + i ≠ 98 then m + 2 ^ i else m) 0))
  let failed := (List.range 100).filter fun n => n ∉ passed ∧ n ≠ 98
  let d := d.each failed fun d n => d.raise (secInc 0x401 n)
  let held := (List.range 4).filter fun p => failed.any fun n => n / 24 = p ∧ n < 96
  let d := d.each held fun d p => (d.setBit .gateBoot (12 + p) true).setDown p true
  if (failed.any fun n => 96 ≤ n) ∧ !d.recovery then
    (((d.setBit .secStatus 0 true).setFld .secStatus 15 8 4).setFld .secSvn 31 16 0).setReg .clerkFwVersion 0#64
  else d

/-! ### SEC_OP operations -/

/-- An operation ends: DONE or FAIL, GO and BUSY clear. CAUSE holds the cause of the last failure, so a success leaves it. -/
def Dev.secEnd (d : Dev) (cause : Option Nat) : Dev :=
  let d := (d.setBit .secOpCtrl 31 false).setBit .secOpStatus 0 false
  match cause with
  | none => (d.setBit .secOpStatus 1 true).setBit .secOpStatus 2 false
  | some c => ((d.setBit .secOpStatus 1 false).setBit .secOpStatus 2 true).setFld .secOpStatus 15 8 c

/-- Why the source of an operation is no good: SEC_OP_SRC of kind 00 or 10, 4 KiB aligned; SEC_OP_LEN (R453, R454). -/
def secSource (d : Dev) (want : Nat) : Option Nat :=
  let a := d.regN .secOpSrc
  let kindOk := match untag a with
    | .localAddr _ => true
    | .host _ => true
    | _ => false
  if !kindOk ∨ a % 4096 ≠ 0 then some 1
  else if d.regN .secOpLen ≠ want ∨ 8 * 2 ^ 20 < d.regN .secOpLen then some 2
  else none

/-- The bytes of an operation: read from module memory, or brought by the command when they lie in commander memory. -/
def secFetch (d : Dev) (given : List Byte) : Option (List Byte) :=
  match untag (d.regN .secOpSrc) with
  | .localAddr a =>
    match (physLoad (devWho none) a (d.regN .secOpLen)).run d with
    | (.ok bs, _) => some bs
    | _ => none
  | _ => if d.pcie.busMaster ∧ given.length = d.regN .secOpLen then some given else none

/-- The bytes that an operation started by a bare register write finds in commander memory: free, as many as SEC_OP_LEN says. -/
def secFree (d : Dev) : List Byte :=
  match untag (d.regN .secOpSrc) with
  | .host _ => (List.range (min (d.regN .secOpLen) (8 * 2 ^ 20))).map (Config.freeByte d.tick)
  | _ => []

def flashProtected (d : Dev) : Bool := bitN d.power.straps 4

/-- A write of the flash: how it ends (R454), at once when it is protected. -/
def Dev.flashTry (d : Dev) : Option Bool × Dev :=
  if flashProtected d then (some true, d) else let (k, d) := d.draw; (Config.flashWrite k, d)

/-- An anchor operation may act: it waits while the loader is in FETCH or VERIFY (R446). -/
def anchorWaits (d : Dev) : Bool := let st := d.fld .structStatus 2 0; st = 1 || st = 2

/-- Start of an operation: GO is ignored while BUSY, which covers an operation that waits under R446 (R453), and waits behind an
earlier write of the commander's (R375). -/
def secGo (d : Dev) (v : Via) (op : Nat) : Option Dev :=
  match grant d v .sec false with
  | .yes =>
    if barBlocked d v ∨ d.bit .secOpStatus 0 then none else
    let d := (crossing d (viaPort v) 4 (mmioBase + Reg.secOpCtrl.info.offset) 4 true).2
    let d := ((d.setFld .secOpCtrl 2 0 op).setBit .secOpCtrl 31 true).setBit .secOpStatus 0 true
    some { d with out := d.out ++ viaAck v }
  | _ => none

/-- What becomes of an anchor record: rejected with a cause and the slot it names, or taken (R445, R454). -/
def anchorReady (sec : Sec) (d : Dev) (op : Nat) (record : List Byte) : Except (Nat × Nat) (List Byte) :=
  match secSource d 3328 with
  | some c => .error (c, 0)
  | none => match secFetch d record with
    | none => .error (1, 0)
    | some r => match anchorCause sec (d.fld .secAnchorState 15 0) op r with
      | some c => .error (c, anchorSlot r)
      | none => .ok r

/-- The store and the fuses after a record is taken: an add fills its slot, a revoke empties it and blows its fuse. -/
def Sec.anchor (sec : Sec) (valid op : Nat) (r : List Byte) : Sec :=
  let n := anchorSlot r
  let key := ((anchorOf sec valid (field r 0x720 2)).map (·.1)).getD []
  if op = 1 then { sec with anchors := mapSet sec.anchors n ⟨r, key⟩ }
  else { sec with anchors := mapErase sec.anchors n, revoked := n :: sec.revoked }

/-- The module after a record is taken: VALID and REVOKED, SEC_MEAS[7], the incident (R444, R445, R452). -/
def Dev.anchorTaken (d : Dev) (sec : Sec) (op : Nat) (r : List Byte) : Dev :=
  let n := anchorSlot r
  let d := (d.setBit .secAnchorState n (op = 1)).withSec sec
  let d := d.extend 7 (anchorStoreDigest sec (d.fld .secAnchorState 15 0))
  d.raise (secInc 0x402 (n + (if op = 1 then 0 else 256) + field r 0x720 2 % 16 * 2 ^ 12))

/-- An anchor operation that has started and need not wait. -/
def anchorAct (op : Nat) (record : List Byte) (s : State) (d : Dev) : State :=
  let fails := fun (d : Dev) (c slot : Nat) =>
    ({ s with dev := (d.raise (secInc 0x403 (slot % 16 + c * 2 ^ 8))).secEnd (some c) } : State)
  match anchorReady s.sec d op record with
  | .error (c, slot) => fails d c slot
  | .ok r => match d.flashTry with
    | (some _, d) => fails d 8 (anchorSlot r)
    | (none, d) =>
      let sec := s.sec.anchor (d.fld .secAnchorState 15 0) op r
      { s with sec := sec, dev := (d.anchorTaken sec op r).secEnd none }

/-- An anchor operation (R445): ignored while BUSY, held while the loader fetches or verifies (R446). -/
def anchorOp (op : Nat) (v : Via) (record : List Byte) (s : State) : State :=
  match secGo s.dev v 1 with
  | none => { s with dev := s.dev.viaReg v .sec .secOpCtrl (if op = 1 then .anchorAdd v record else .anchorRevoke v record) fun d => d }
  | some d => if anchorWaits d then { s with dev := { d with secWait := some (op, record) } } else anchorAct op record s d

/-- The loader may have left VERIFY: an anchor operation that waits for it acts (R446). -/
def State.anchorResume (s : State) : State :=
  match s.dev.secWait with
  | none => s
  | some (op, record) => if anchorWaits s.dev then s else anchorAct op record s { s.dev with secWait := none }

/-- SEC_OP ANCHOR with an add record (R445). -/
def execAnchorAdd (via : Via) (record : List Byte) (s : State) : Host.Outcome State Fault Refusal :=
  .next (anchorOp 1 via record s)

/-- SEC_OP ANCHOR with a revoke record (R445). -/
def execAnchorRevoke (via : Via) (record : List Byte) (s : State) : Host.Outcome State Fault Refusal :=
  .next (anchorOp 2 via record s)

/-- Verify an image and write it to flash: an image that fails leaves the flash untouched (R442); a flash that fails is left with
what it held, or with no image (R454). -/
def writeFlash (s : State) (d : Dev) (image : List Byte) : State × Option Nat :=
  let fails := fun (d : Dev) (flash : Option (List Byte)) (c : Nat) =>
    (({ s with sec := { s.sec with flash := flash }, dev := d.raise (secInc 0x400 (c + 256)) } : State), some c)
  match firmwareCause s.sec image with
  | some c => fails d s.sec.flash c
  | none => match d.flashTry with
    | (some kept, d) => fails d (if kept then s.sec.flash else none) 8
    | (none, d) => ({ s with sec := { s.sec with flash := some image }, dev := d }, none)

/-- The image of FW_WRITE, or the cause for which it cannot be had. -/
def fwSource (d : Dev) (image : List Byte) : Except Nat (List Byte) :=
  match secSource d (d.regN .secOpLen) with
  | some c => .error c
  | none => match secFetch d image with
    | none => .error 1
    | some b => .ok b

/-- SEC_OP FW_WRITE (R442). -/
def execFwWrite (via : Via) (image : List Byte) (s : State) : Host.Outcome State Fault Refusal :=
  .next (match secGo s.dev via 3 with
    | none => { s with dev := s.dev.viaReg via .sec .secOpCtrl (.fwWrite via image) fun d => d }
    | some d => match fwSource d image with
      | .error c => { s with dev := (d.raise (secInc 0x400 (c + 256))).secEnd (some c) }
      | .ok b =>
        let w := writeFlash s d b
        { w.1 with dev := w.1.dev.secEnd w.2 })

/-- SEC_OP SVN_COMMIT: FUSED_MIN rises to the SVN of the running image and never falls; in recovery mode it fails
with STATE (R443). -/
def execSvnCommit (via : Via) (s : State) : Host.Outcome State Fault Refusal :=
  .next (match secGo s.dev via 4 with
    | none => { s with dev := s.dev.viaReg via .sec .secOpCtrl (.svnCommit via) fun d => d }
    | some d =>
      if d.recovery then { s with dev := (d.raise (secInc 0x400 9)).secEnd (some 9) }
      else
        let sec := { s.sec with fusedMin := max s.sec.fusedMin (d.fld .secSvn 31 16) }
        { s with sec := sec, dev := (d.withSec sec).secEnd none })

/-- A PLDM Type 5 update of the Clerk image, by the same operation (R429, R442). PLDM is answered once the boot ROM
has started the Clerk (R461). -/
def execPldmFirmwareUpdate (image : List Byte) (s : State) : Host.Outcome State Fault Refusal :=
  .next (if s.dev.power.standby ∧ s.dev.power.clerk then
      let w := writeFlash s s.dev image
      { w.1 with dev := w.1.dev.send (.tray 5 [w.2.getD 0]) }
    else s)

end Sys2Proof.Machine
end

