-- ==== Sys2Proof/Machine/Boot.lean ====
section
/-! DEFINITION. Power, the start-up sequence and chip reset (R399, R438-R441, R455-R464, R473-R481). -/

namespace Sys2Proof.Machine

/-! ### Chip reset and removal of the rails -/

/-- Registers that keep their values across chip reset (R498); CLERK_FW_VERSION, SEC_SVN.IMAGE_SVN follow the image
that boots. -/
def keptRegs (d : Dev) : Map Reg W64 := d.regs.filter fun e => match e.1 with
  | .thermTrip | .arrSpare _ _ _ | .secSvn | .clerkFwVersion => true
  | .secAnchorState => true
  | _ => false

/-- Security incidents that recovery mode held: they are written once a ring is enabled, which recovery mode never allows, so that
they outlast the chip reset that ends it (R452). -/
def keptIncidents (d : Dev) : List (Option Nat × List Byte) :=
  if d.recovery then d.incHeld.filter fun e => field e.2 0 2 / 256 = 4 else []

/-- Partitions with a lost channel (R145). -/
def lostParts (d : Dev) : List Nat := (List.range 4).filter fun p => (List.range 8).any fun k => d.reg (.memChanLost p k) ≠ 0#64

/-- Ports keep only whether a cable is plugged in. -/
def keptPorts (d : Dev) : Map Nat Port := d.ports.map fun e => (e.1, { Port.reset with cabled := e.2.cabled })

/-- The first step of R440: measurement registers are zero and SEC_MEAS[0] takes the boot ROMs' digest. -/
def Dev.measureRoms (d : Dev) : Dev := d.extend 0 Config.romDigest

/-- Chip reset (R399, R460): every register to its reset value but those of R498; stacked memory is kept in
self-refresh, but for a partition with a lost channel, whose bytes are undefined and whose stacks train (R145); SRAM is lost; the
Clerk restarts. Configuration space stands, and answers with retry status. -/
def Dev.chipReset (d : Dev) : Dev :=
  let (k, d) := d.draw
  let d' : Dev :=
    { Dev.reset with
      tick := d.tick, out := d.out, regs := keptRegs d,
      mem := (lostParts d).foldl (fun m p => m.undefine (slabBase p) (slabBase (p + 1)) k)
        (d.mem.undefine (windowBase 0 0) (windowBase 4 0) k),
      trains := lostParts d, incHeld := keptIncidents d,
      ports := keptPorts d, nextTag := d.nextTag, i3cAddr := d.i3cAddr,
      pcie := { d.pcie with retry := true, msixEnable := d.pcie.msixEnable },
      power := { Power.reset with standby := d.power.standby, pwrEn := d.power.pwrEn, rails := d.power.rails,
                                  straps := d.power.straps, millivolts := d.power.millivolts,
                                  tripDue := d.power.tripDue } }
  (d'.setFld .gateBoot 20 16 (keptIncidents d).length).measureRoms

/-- Every rail behind the switch is removed (R474, R476): what they fed is lost, memory included. -/
def Dev.railsOff (d : Dev) (off : Bool) : Dev :=
  let (k, d) := d.draw
  { Dev.reset with
    tick := d.tick, out := d.out, regs := keptRegs d,
    mem := ⟨[], [⟨0, 2 ^ 46, k⟩], []⟩,
    ports := keptPorts d, nextTag := d.nextTag, i3cAddr := d.i3cAddr,
    power := { Power.reset with standby := d.power.standby, pwrEn := d.power.pwrEn, off := off,
                                straps := d.power.straps } }

/-- The input stage removes the rails: the module is OFF until a power cycle (R474, R476). -/
def Dev.removal (d : Dev) : Dev := if d.power.rails then d.railsOff true else d

/-- 48 V good: the straps are sampled and the power-up sequence starts (R455, R475, R480). -/
def execInput48vGood (straps : Nat) (s : State) : Host.Outcome State Fault Refusal :=
  .next (s.onDev fun d =>
    if d.power.standby ∧ d.power.pwrEn ∧ !d.power.rails ∧ !d.power.off then
      { d with power := { d.power with rails := true, straps := straps % 32, millivolts := 40000, tripDue := d.bit .thermTrip 8 } }.measureRoms
    else d)

/-- PWR_EN is asserted after `lowMs` milliseconds low: 50 ms make a power cycle (R475, R476). -/
def execPwrEnAssert (lowMs : Nat) (s : State) : Host.Outcome State Fault Refusal :=
  .next (s.onDev fun d =>
    if d.power.pwrEn then d else
    { d with power := { d.power with pwrEn := true, off := d.power.off && !(50 ≤ lowMs) } })

/-- PWR_EN is deasserted: the switch opens (R475, R481). -/
def execPwrEnDeassert (s : State) : Host.Outcome State Fault Refusal :=
  .next (s.onDev fun d =>
    let d := if d.power.rails then d.railsOff d.power.off else d
    { d with power := { d.power with pwrEn := false } })

/-- Below 36 V for 20 µs (R474). -/
def execUndervoltageRemoval (s : State) : Host.Outcome State Fault Refusal := .next (s.onDev (·.removal))
/-- Above 62 V for 20 µs (R474). -/
def execOvervoltageRemoval (s : State) : Host.Outcome State Fault Refusal := .next (s.onDev (·.removal))
/-- Above 4.6 kW, or the current limit, for longer than 5 ms: only when the Clerk has stopped (R477). -/
def execInputOverloadRemoval (s : State) : Host.Outcome State Fault Refusal := .next (s.onDev (·.removal))

/-- Below 30 V the standby island is unpowered and THERM_TRIP alone is kept, and the fuses; the input has fallen, so that its rise
to 40 V completes a power cycle (R474, R476). -/
def execStandbyIslandLoss (s : State) : Host.Outcome State Fault Refusal :=
  .next (s.onDev fun d =>
    let d := d.railsOff false
    let d : Dev := { d with
      power := { Power.reset with pwrEn := d.power.pwrEn }, i3cAddr := none,
      regs := d.regs.filter fun e => e.1 = .thermTrip || (match e.1 with | .arrSpare _ _ _ => true | _ => false) }
    d.withSec s.sec)

/-- The input rises to 30 V: the standby island has power (R474). -/
def execStandbyIslandPowerUp (s : State) : Host.Outcome State Fault Refusal :=
  .next (s.onDev fun d => { d with power := { d.power with standby := true } })

/-- PWR_GOOD and TRIP_N (R481). -/
def Dev.pwrGood (d : Dev) : Bool := d.power.rails && d.stepFour
def Dev.tripN (d : Dev) : Bool := !d.bit .thermTrip 8

/-! ### Incidents of the Clerk (R431) -/

/-- To the module ring, and as an event message to the tray controller (R429). -/
def Dev.clerkRaise (d : Dev) (cls d0 : Nat) : Dev :=
  (d.raise { cls := cls, eng := 0x23, die := dieClerk, part := none, d0 := d0 }).send (.tray 3 [cls, d0])

/-! ### Boot (R440, R455, R457) -/

/-- The operating points (R79): the trim range in mV, the target rate and the least rate in M/s. -/
def pointLo (pt : Nat) : Nat := [560, 640, 710, 780].getD pt 780
def pointHi (pt : Nat) : Nat := [640, 710, 780, 850].getD pt 850
def pointRate (pt : Nat) : Nat := [1100, 1450, 1800, 2050].getD pt 2050
def pointMin (pt : Nat) : Nat := [1020, 1360, 1700, 1940].getD pt 1940

/-- The point whose trim range holds a voltage; the upper one where two meet (R418). -/
def pointOf (mv : Nat) : Nat := if mv < 640 then 0 else if mv < 710 then 1 else if mv < 780 then 2 else 3

/-- The hottest junction of a partition. -/
def hotPart (d : Dev) (p : Nat) : Nat := (List.range 24).foldl (fun t i => max t (d.fld (.thermDie (24 * p + i)) 7 0)) 0

/-- The voltage that trim gives a partition at a point: what the part needs, within the range (R79). -/
def trimMv (d : Dev) (p pt : Nat) : Nat := max (pointLo pt) (min (pointHi pt) (Config.trimVolt p pt (hotPart d p)))

/-- A limit of R424 holds the partition at 0.56 V: a die of it or a module die above 105 °C, or the input out of range. -/
def heldLow (d : Dev) (p : Nat) : Bool := d.power.supplyHold || d.power.hotDies.any fun n => n / 24 = p || 96 ≤ n

/-- The thermal limit of R418. -/
def heatMv (d : Dev) (p : Nat) : Nat := if heldLow d p then 560 else mapGet d.power.heatVolt p 1023

/-- The supply of a partition, in mV. -/
def voltOf (d : Dev) (p : Nat) : Nat := d.fld (.pwrPartStatus p) 11 2

/-- A partition is at N0: held there under R419, or the module is in IDLE (R427). -/
def atN0 (d : Dev) (p : Nat) : Bool := d.bit (.pwrPartStatus p) 30 || decide (powerState d = 1)

/-- The supply that a partition would have but for the cap and the thermal limits: N0 nominal while it is at N0, else what limit 1 of
R418 gives. -/
def wantMv (d : Dev) (p : Nat) : Nat := if atN0 d p then 600 else trimMv d p (d.fld (.pwrPartCtrl p) 1 0)

/-- A thermal limit lowers the partition (R424, R434). -/
def limited (d : Dev) (p : Nat) : Bool := decide (heatMv d p < wantMv d p)

/-- The supply is lowered for the cap or for a thermal limit (R79). -/
def lowered (d : Dev) (p : Nat) : Bool := d.bit (.pwrPartStatus p) 28 || limited d p

/-- The rate at a supply (R79, R82): the target while the point's trim range reaches it; else the rate that the voltage gives, never
below the point's minimum. Lowered for the cap or the thermal limits, the rate follows the voltage, from 0.90 G/s up to the target of the
highest point that PWR_PART_CTRL allows. -/
def rateAt (d : Dev) (p mv : Nat) : Nat :=
  let pt := pointOf mv
  let t := hotPart d p
  let need := Config.trimVolt p pt t
  let own := fun (top : Nat) => min (pointRate top) (Config.partRate p mv t)
  if lowered d p then max 900 (own (max pt (d.fld (.pwrPartCtrl p) 1 0)))
  else if need ≤ pointHi pt then pointRate pt else max (pointMin pt) (own pt)

/-- PWR_PART_STATUS.RATE follows the supply, the junction and the limits (R79). -/
def Dev.setRate (d : Dev) (p : Nat) : Dev :=
  d.setFld (.pwrPartStatus p) 27 16 (rateAt d p (voltOf d p))

/-- Set a partition's supply, and with it its point and its rate (R79, R418). A supply that changes is in motion (R81, R434) until the
next sample of R417 (log entry 47). -/
def Dev.setVolt (d : Dev) (p mv : Nat) : Dev :=
  let d := if voltOf d p = mv then d else d.setBit (.pwrPartStatus p) 31 true
  ((d.setFld (.pwrPartStatus p) 11 2 mv).setFld (.pwrPartStatus p) 1 0 (pointOf mv)).setRate p

/-- Supplies in motion have come to rest. -/
def Dev.supplyRest (d : Dev) : Dev := d.each (List.range 4) fun d p => d.setBit (.pwrPartStatus p) 31 false

/-- Step 4 of R455: the Clerk raises the partitions' rails to N0 nominal, 600 mV, and training starts. The partitions of a held die stay
down (R438). After a power-up the Clerk raises the incident of a latched thermal trip (R425). -/
def Dev.clerkStart (d : Dev) : Dev :=
  let d := { d with stepFour := true, power := { d.power with clerk := true } }
  let d := d.each (List.range 4) fun d p => (d.setVolt p 600).setDown p false
  let d := d.setFld .gateBoot 2 0 1
  if d.power.tripDue then { d with power := { d.power with tripDue := false } }.clerkRaise 0x306 (d.regN .thermTrip) else d

/-- The K-die boot ROM ends its check of the image in flash: it starts the Clerk or enters recovery mode (R440, R441). -/
def Dev.firmwareBoot (d : Dev) (sec : Sec) : Dev :=
  if !d.power.rails ∨ d.power.clerk ∨ d.stepFour ∨ d.recovery then d else
  let reject := fun (c : Nat) =>
    let d := (d.setBit .secStatus 0 true).setFld .secStatus 15 8 c
    let d := (d.setReg .clerkFwVersion 0#64).setFld .secSvn 31 16 0
    d.raise (secInc 0x400 c)
  match sec.flash with
  | none => reject 9
  | some b => match firmwareCause sec b with
    | some c => reject c
    | none =>
      let d := { d.extend 1 (imageDigest b) with gateImage := sectionOf b 0x18 }
      let d := d.setReg .clerkFwVersion (BitVec.ofNat 64 (field b 0xC 4))
      (d.setFld .secSvn 31 16 (field b 4 2)).clerkStart

def execFirmwareBootDone (s : State) : Host.Outcome State Fault Refusal :=
  .next (s.onDev fun d => d.firmwareBoot s.sec)

/-- The G-die loads and measures the gate section of the image that step 2 accepted (R440 step 4); in recovery mode it runs code
from its ROM (R441). The security block then sends the dies their nonces (R438). -/
def execGateSectionLoaded (s : State) : Host.Outcome State Fault Refusal :=
  .next (s.onDev fun d =>
    if !d.power.rails ∨ d.power.gateLoaded ∨ (!d.power.clerk ∧ !d.recovery) then d else
    let d := { d with power := { d.power with gateLoaded := true }, authNonce := d.tick, tick := d.tick + 1 }
    if d.power.clerk then d.extend 2 (shake256 d.gateImage) else d)

/-- Die authentication and the anchor check end (R438, R440 step 5, R444): `answers` are the dies, each with the public key and
the signature that it answers the nonce with. -/
def execDieAuthenticationDone (answers : List (Nat × List Byte × List Byte)) (s : State) : Host.Outcome State Fault Refusal :=
  .next (s.onDev fun d =>
    if d.power.gateLoaded ∧ !d.power.authDone ∧ (d.power.clerk ∨ d.recovery) then
      { d with power := { d.power with authDone := true } }.authenticate s.sec answers
    else d)

/-- MEM_READY once training has ended in every partition (R455 step 10, R458). -/
def Dev.memReadyCheck (d : Dev) : Dev :=
  if d.fld .gateBoot 11 8 = 15 ∧ d.fld .gateBoot 2 0 = 2 ∧ !d.recovery then d.setFld .gateBoot 2 0 3 else d

/-- Gate ready: retry status ends; the gate firmware enables the 16 ports, but not in recovery mode (R455 step 7,
R457). -/
def execGateReady (s : State) : Host.Outcome State Fault Refusal :=
  .next (s.onDev fun d =>
    if d.power.authDone ∧ !d.pcie.perst ∧ d.fld .gateBoot 2 0 < 2 then
      let d := { d with pcie := { d.pcie with retry := false } }.setFld .gateBoot 2 0 2
      if d.recovery then d else
      let d := d.each (List.range 16) fun d n => fnRequest (d.setBit (.crrPortCtrl n) 0 true) (.port n) ⟨true, none⟩
      d.memReadyCheck.each (List.range 256) Dev.mbxReady
    else d)

/-- A channel is lost: its bit, its incident, the partition degraded and fenced (R145, R413). -/
def Dev.loseChannel (d : Dev) (p stack chan : Nat) : Dev :=
  let d := (d.setBit (.memChanLost p stack) chan true).setBit (.memStatus p) 1 true
  let d := d.setDown p true
  let d := if d.resetting p then d else d.setFld (.fltStatus p) 1 0 2
  d.raise { cls := 0x180, eng := 0x12, idx := stack, die := dieOf p 19, part := some p, d0 := stack + chan * 256 }

/-- A hart begins at PART_BOOT_ADDR, in M-mode (R381). -/
def Dev.hartStart (d : Dev) (p i : Nat) : Dev :=
  ((d.setFld (.partCoreStatus p i) 1 0 1).setBit (.cohAgents p) i true).send (.coreStart (48 * p + i) (d.regN (.partBootAddr p)))

/-- Harts of a partition may begin: their boot address lies in its own post hall, or its memory is TRAINED (R463). -/
def mayBoot (d : Dev) (p : Nat) : Bool :=
  let b := d.regN (.partBootAddr p)
  (windowBase p 19 ≤ b && b < windowBase p 19 + 0x10000000) || d.trained p

/-- Harts released before their partition was trained start (R463). -/
def Dev.startHeldHarts (d : Dev) (p : Nat) : Dev :=
  d.each (List.range 48) fun d i =>
    if d.bit (.partCoreCtrl p i) 0 ∧ d.fld (.partCoreStatus p i) 1 0 = 0 then
      d.hartStart p i
    else d

/-! ### Resets that the commander link brings (R371, R394, R456) -/

/-- A Function Level Reset: a chip reset of everything beyond the link and configuration space (R371). -/
def execFunctionLevelReset (s : State) : Host.Outcome State Fault Refusal :=
  .next (s.onDev fun d => if d.gateReady then d.chipReset else d)

/-- PERST# is asserted: after gate ready a chip reset, before it the link is held in reset (R456). -/
def execPerstAssert (s : State) : Host.Outcome State Fault Refusal :=
  .next (s.onDev fun d =>
    let d := if d.gateReady then d.chipReset else d
    { d with pcie := { Pcie.reset with perst := true } })

/-- PERST# is deasserted: the PHY enters Detect (R456). -/
def execPerstDeassert (s : State) : Host.Outcome State Fault Refusal :=
  .next (s.onDev fun d => { d with pcie := { d.pcie with perst := false } })

/-- A write of GATE_RESET: 0x0000_C41F performs a chip reset, other values are ignored (R416). -/
def execChipReset (via : Via) (value : W32) (s : State) : Host.Outcome State Fault Refusal :=
  .next (s.onDev fun d => d.viaReg via .high .gateReset (.chipReset via value) fun d => if value = 0xC41F#32 then d.chipReset else d)

/-! ### Ports -/

/-- The I3C address of the target: the one assigned, else the static one of the straps (R429, R480). -/
def Dev.i3cTarget (d : Dev) : Nat := d.i3cAddr.getD (0x28 + d.power.straps % 8)

/-- An I3C dynamic address assignment (R429). -/
def execDynamicAddressAssignment (addr : Nat) (s : State) : Host.Outcome State Fault Refusal :=
  .next (s.onDev fun d => if d.power.standby then { d with i3cAddr := some (addr % 128) } else d)

end Sys2Proof.Machine
end

