-- ==== Sys2Proof/Machine/Pcie.lean ====
section
/-! DEFINITION. The commander's view: configuration space, the BARs, register writes, MSI-X and the completions of
reads that the gate issued (R36-R42, R371-R377, R488-R491). -/

namespace Sys2Proof.Machine

/-! ### Configuration space (R371, R372) -/

/-- The capabilities in the order of their lists: the standard one, then the extended one, which PCIe begins at 0x100. -/
def capOrder : List CapId := [.pm, .msix, .pcie, .aer, .serial, .rebar, .doe, .margining]

/-- Doublewords that a capability takes (the layouts are PCIe's: PRESUMED, log entry 9). -/
def capLen : CapId → Nat
  | .pm => 2
  | .msix => 3
  | .pcie => 15
  | .aer => 18
  | .serial => 3
  | .rebar => 3
  | .doe => 6
  | .margining => 17

/-- Where the capabilities of a list lie, from an offset on; gaps as the implementation has them (R372). -/
def capPlaces (gaps : Nat) : Nat → Nat → List CapId → List (CapId × Nat)
  | _, _, [] => []
  | k, o, c :: cs =>
    let b := o + 4 * (Config.capGap k % gaps)
    (c, b) :: capPlaces gaps (k + 1) (b + 4 * capLen c) cs

/-- Each capability and its offset: the standard list from 0x40 on, the extended list with AER at 0x100. -/
def capTable : List (CapId × Nat) :=
  capPlaces 9 0 0x40 (capOrder.take 3) ++ (.aer, 0x100) :: capPlaces 16 3 (0x100 + 4 * capLen .aer) (capOrder.drop 4)

def capBase (c : CapId) : Nat := (mapGet? capTable c).getD 0

/-- The capability after this one in its list; 0 at the end. -/
def capNext : CapId → Nat
  | .pm => capBase .msix
  | .msix => capBase .pcie
  | .aer => capBase .serial
  | .serial => capBase .rebar
  | .rebar => capBase .doe
  | .doe => capBase .margining
  | .pcie | .margining => 0

/-- The doublewords of a capability (R371): their layouts are PCIe's (PRESUMED, log entry 9). -/
def capWord (d : Dev) (c : CapId) (i : Nat) : W32 :=
  let p := d.pcie
  let free := Config.cfgWord (capBase c + 4 * i)
  let head := fun (id hi : Nat) => BitVec.ofNat 32 (id + capNext c * 256 + hi * 2 ^ 16)
  let ext := fun (id : Nat) => BitVec.ofNat 32 (id + 2 ^ 16 + capNext c * 2 ^ 20)
  let lg := fun (n : Nat) => Nat.log2 n - 7
  match c, i with
  | .pm, 0 => head 1 3
  | .pm, 1 => BitVec.ofNat 32 (8 + if p.d3hot then 3 else 0)
  | .msix, 0 => head 0x11 (2047 + (if p.funcMask then 2 ^ 14 else 0) + if p.msixEnable then 2 ^ 15 else 0)
  | .msix, 1 => 0x140000#32
  | .msix, 2 => 0x148000#32
  | .pcie, 0 => head 0x10 2
  -- 512 B, role-based error reporting, Function Level Reset
  | .pcie, 1 => BitVec.ofNat 32 (2 + 2 ^ 15 + 2 ^ 28)
  | .pcie, 2 => BitVec.ofNat 32 (lg p.mps * 2 ^ 5 + lg p.mrrs * 2 ^ 12)
  -- speeds up to 128 GT/s, x16, no ASPM
  | .pcie, 3 => BitVec.ofNat 32 (7 + 16 * 2 ^ 4 + free.toNat / 2 ^ 24 * 2 ^ 24)
  -- completion timeout ranges, no AtomicOps, 10-bit tags
  | .pcie, 9 => BitVec.ofNat 32 (free.toNat % 2 ^ 5 + 3 * 2 ^ 16)
  -- 2.5, 5, 8, 16, 32, 64 and 128 GT/s
  | .pcie, 11 => 0xFE#32
  | .aer, 0 => ext 1
  | .aer, 1 => BitVec.ofNat 32 p.aer
  | .serial, 0 => ext 3
  | .serial, 1 => BitVec.ofNat 32 Config.serial
  | .serial, 2 => BitVec.ofNat 32 (Config.serial / 2 ^ 32)
  | .rebar, 0 => ext 0x15
  | .rebar, 1 => BitVec.ofNat 32 ((2 ^ 23 - 2 ^ 10) * 2 ^ 4)
  | .rebar, 2 => BitVec.ofNat 32 (2 + 2 ^ 5 + (p.bar2Log2 - 20) * 2 ^ 8)
  | .doe, 0 => ext 0x2E
  | .margining, 0 => ext 0x27
  | _, _ => free

/-- The answer of DOE Discovery: the vendor, the type with this index, and the next index (R371; PRESUMED from PCIe). -/
def doeWord (i : Nat) : W32 := if i = 0 then 0x01000001#32 else if i = 1 then 0x00010001#32 else 0xFFFF#32

/-- The doublewords of configuration space (R372): the header, and the capabilities where the lists lead; the words that the spec
does not give are the implementation's, and stay. -/
def cfgWord (d : Dev) (off : Nat) : W32 :=
  let barLo := fun (b : W64) (sz flags : Nat) => BitVec.ofNat 32 (b.toNat / sz * sz + flags)
  let barHi := fun (b : W64) (sz : Nat) => BitVec.ofNat 32 (b.toNat / sz * sz / 2 ^ 32)
  match off / 4 * 4 with
  | 0x00 => 0x40961FA7#32
  | 0x04 => BitVec.ofNat 32 (0x00100000 + (if d.pcie.memSpace then 2 else 0) + (if d.pcie.busMaster then 4 else 0))
  | 0x08 => 0x12000001#32
  | 0x0C => 0#32
  | 0x10 => barLo d.pcie.bar0 (2 ^ 26) 4
  | 0x14 => barHi d.pcie.bar0 (2 ^ 26)
  | 0x18 => barLo d.pcie.bar2 (2 ^ d.pcie.bar2Log2) 12
  | 0x1C => barHi d.pcie.bar2 (2 ^ d.pcie.bar2Log2)
  | 0x20 => barLo d.pcie.bar4 (2 ^ 24) 4
  | 0x24 => barHi d.pcie.bar4 (2 ^ 24)
  | 0x2C => 0x00011FA7#32
  | 0x34 => BitVec.ofNat 32 (capBase .pm)
  | o => if o = 0x3C then BitVec.ofNat 32 ((Config.cfgWord o).toNat % 256) else
    match capTable.find? fun e => e.2 ≤ o && o < e.2 + 4 * capLen e.1 with
    | some (c, b) => capWord d c ((o - b) / 4)
    | none => Config.cfgWord o

/-- Send the pending messages of vectors that are no longer masked (R118). -/
def Dev.msixFlush (d : Dev) (vs : List Nat) : Dev :=
  d.each vs fun d v =>
    if d.bit (.msixPba (v / 64)) (v % 64) ∧ !d.msixMasked v then
      (d.setBit (.msixPba (v / 64)) (v % 64) false).msixSendNow v
    else d

/-- Vectors with a pending bit. -/
def pendingVectors (d : Dev) : List Nat :=
  (List.range 32).flatMap fun w =>
    if d.reg (.msixPba w) = 0#64 then [] else (List.range 64).filterMap fun i =>
      if d.bit (.msixPba w) i then some (64 * w + i) else none

/-- A configuration request: served, or answered with retry status before gate ready (R42, R371). -/
def execPcieConfigRequest (op : CfgOp) (s : State) : Host.Outcome State Fault Refusal :=
  .next (s.onDev fun d =>
    if !d.power.rails ∨ d.pcie.perst then d
    else if d.pcie.retry then d.send .cfgRetry
    else match op with
      | .read off => d.send (.cfgCompletion (cfgWord d off))
      | .capability c i => d.send (.cfgCompletion (capWord d c i))
      | .aerClear m => { d with pcie := { d.pcie with aer := d.pcie.aer - (d.pcie.aer &&& m) } }
      | .doeDiscovery i => d.send (.cfgCompletion (doeWord i))
      | .command m b => { d with pcie := { d.pcie with memSpace := m, busMaster := b } }
      | .sizes mps mrrs =>
        { d with pcie := { d.pcie with mps := (if mps ≤ 512 ∧ mps ∈ [128, 256, 512] then mps else d.pcie.mps),
                                       mrrs := (if mrrs ∈ [128, 256, 512, 1024, 2048, 4096] then mrrs else d.pcie.mrrs) } }
      | .msix e m =>
        let d := { d with pcie := { d.pcie with msixEnable := e, funcMask := m } }
        d.msixFlush (pendingVectors d)
      | .bar2Size k => if 30 ≤ k ∧ k ≤ 42 then { d with pcie := { d.pcie with bar2Log2 := k } } else d
      | .barBase b v => match b with
        | 0 => { d with pcie := { d.pcie with bar0 := v } }
        | 2 => { d with pcie := { d.pcie with bar2 := v } }
        | 4 => { d with pcie := { d.pcie with bar4 := v } }
        | _ => d
      | .power off => { d with pcie := { d.pcie with d3hot := off } })

/-- An unmask of a vector or the function, or MSI-X Enable being set (R118). -/
def execMsixUnmask (what : MsixWhat) (s : State) : Host.Outcome State Fault Refusal :=
  .next (s.onDev fun d => match what with
    | .vector v => if v < 2048 then (d.setBit (.msixEntry (4 * v + 3)) 0 false).msixFlush [v] else d
    | .function => let d := { d with pcie := { d.pcie with funcMask := false } }; d.msixFlush (pendingVectors d)
    | .enable => let d := { d with pcie := { d.pcie with msixEnable := true } }; d.msixFlush (pendingVectors d))

/-! ### Register writes -/

/-- The MMIO offset that a BAR access reaches (R37, R39, R441). -/
def barTarget (d : Dev) (v : Via) (addr : Nat) : Option Nat :=
  match v with
  | .bar0 => if d.recovery then none else
    if 0x100000 ≤ addr ∧ addr < 0x200000 then some (addr - 0x100000) else none
  | .bar4 =>
    if d.recovery then (if 0x200000 ≤ addr ∧ addr < 0x300000 then some addr else none)
    else if addr < 0x400000 then some addr
    else if 0x800000 ≤ addr ∧ addr < 0x1000000 then
      some (d.fld .gateMmioWindow 31 23 * 0x800000 + (addr - 0x800000))
    else none
  | _ => some addr

/-- Registers whose writes are commands of their own (log entry 12). -/
def ownRow : Reg → Bool
  | .gateApertureBase | .gateMmioWindow | .structModuleNumber | .gateEpoch | .gateReset | .clerkCycleReq | .pwrCap
  | .thermCtrl => true
  | .mbxDoorbell _ | .mbxCtrl _ | .memSegIset _ | .crrPortCtrl _ | .partCoreCtrl _ _ => true
  | _ => false

/-- A stash entry of the partition lies in its overflow object (R315, R339). -/
def overflowUsed (d : Dev) (p : Nat) : Bool :=
  d.stash.any fun e => e.1.1 = p && e.2.ovf && e.2.base.isSome

/-- Writes that a register's own rule ignores in the present state (R130, R339, R398, R415, R416). -/
def writeIgnored (d : Dev) (r : Reg) : Bool :=
  match r with
  | .hallStashOvf p => overflowUsed d p
  | .mbxBase n | .mbxCfg n | .mbxHead n | .mbxSeq n => d.fld (.mbxStatus n) 2 0 ≠ 0
  | .fltRingBase p => d.bit (.fltRingCfg p) 16
  | .gateIncRingBase => d.bit .gateIncRingCfg 16
  | .gateCtxReset => d.bit .gateCtxReset 30
  | .fltEngReset p => d.bit (.fltStatus p) 4
  | .secOpSrc | .secOpLen | .secOpCtrl => false
  | _ => false

/-- The ring configuration: LOG2SIZE only while disabled; ENABLE is set by its own command and cleared here (R411,
R415). -/
def ringCfgWrite (d : Dev) (r : Reg) (v : Nat) : Dev :=
  let on := d.bit r 16
  let lg := if on then d.fld r 3 0 else bitsN v 3 0
  let d := ((d.setFld r 3 0 lg).setFld r 15 4 (bitsN v 15 4)).setBit r 16 (on && bitN v 16)
  if bitN v 17 then d.setBit r 17 false else d

/-- A write to a register that has no row of its own, by its access type (R7, R488-R490). -/
def Dev.regTake (d : Dev) (r : Reg) (b size v : Nat) : Dev :=
  if ownRow r ∨ !sizeOk r b size ∨ writeIgnored d r then d else
  match r with
  | .fltRingCfg _ | .gateIncRingCfg => ringCfgWrite d r v
  | .cohStatus _ => if bitsN v 2 1 = 3 then d.setFld r 2 1 0 else d
  | .crrPortStatus n =>
    let d := regWrite d r b size v
    if bitN v 3 then d.setPort n { d.port n with mismatch := none } else d
  | .msixEntry i => (regWrite d r b size v).msixFlush [i / 4]
  | _ => regWrite d r b size v

/-- An MMIO write that has been granted. -/
def Dev.mmioTake (d : Dev) (off size v : Nat) : Dev :=
  match imsicAt off with
  | some (h, f) => if size = 4 ∧ !blockDark d off true then d.setip h f v else d
  | none =>
    if blockDark d off true then d else
    match Reg.ofOffset off with
    | some (r, b) => d.regTake r b size v
    | none => d

/-- A read through BAR0 or BAR4 (R37, R39, R42): a register's value, and zero, in a successful completion, for a doorbell
page, a reserved range and an offset without a register; none while no BAR is enabled. No command of the table reads a
register, so this says what a read finds at any moment. -/
def barRead (d : Dev) (v : Via) (addr size : Nat) : Option Nat :=
  if !barsOn d then none else
  match barTarget d v addr with
  | some off => some (mmioRead d off size)
  | none => some 0

/-- GATE_APERTURE_BASE, in order with the commander's other requests (R40, R41). -/
def execGateApertureBaseWrite (via : Via) (value : W32) (s : State) : Host.Outcome State Fault Refusal :=
  .next (s.onDev fun d => d.viaReg via .open_ .gateApertureBase (.gateApertureBaseWrite via value) fun d => d.setFld .gateApertureBase 11 0 value.toNat)

/-- GATE_MMIO_WINDOW (R40, R41). -/
def execGateMmioWindowWrite (via : Via) (value : W32) (s : State) : Host.Outcome State Fault Refusal :=
  .next (s.onDev fun d => d.viaReg via .open_ .gateMmioWindow (.gateMmioWindowWrite via value) fun d => d.setFld .gateMmioWindow 31 23 (bitsN value.toNat 31 23))

/-! ### The BAR2 aperture (R38, R42) -/

/-- The module-local address of an aperture offset (R38, R40). -/
def apertureAddr (d : Dev) (off : Nat) : Nat :=
  let base := d.fld .gateApertureBase 11 0 * 2 ^ 30
  base / 2 ^ d.pcie.bar2Log2 * 2 ^ d.pcie.bar2Log2 + off

/-- The aperture answers. -/
def apertureOn (d : Dev) (off len : Nat) : Bool := barsOn d && !d.recovery && off + len ≤ 2 ^ d.pcie.bar2Log2

def barInc (a : Nat) (write : Bool) : Inc :=
  { cls := 8, eng := 0x20, die := dieGate, part := none, d0 := a, d1 := if write then 1 else 0 }

/-- The home partition does not take the commander's accesses: in reset, degraded or not trained (R42, R461). -/
def homeAway (d : Dev) (a : Nat) : Bool := d.down (homeOf a) || !d.trained (homeOf a)

/-- A read of module-local address a through BAR2: served, held, or answered with EP set and data all ones (R42, R71,
R375). -/
def Dev.bar2Read (d : Dev) (a len : Nat) : Dev :=
  let poison := fun (d : Dev) => (d.send (.completion (List.replicate len 0xFF#8) true)).raise (barInc a false)
  if homeAway d a then poison (d.count (.sortDownAnswers (a / 2048 % 2)) 1) else
  match (localLoad none a len).run d with
  | (.ok bs, d) => d.send (.completion bs false)
  | (.error (.wait _), _) => { d with held := d.held ++ [.bar2Read a len] }
  | (.error _, d) => poison d

/-- A write through BAR2: it reaches stacked memory, is held, or is dropped and reported (R42). -/
def Dev.bar2Write (d : Dev) (a : Nat) (data : List Byte) : Dev :=
  if homeAway d a then (d.count (.sortDownAnswers (a / 2048 % 2)) 1).raise (barInc a true) else
  match (localStore none a data).run d with
  | (.ok _, d) => d
  | (.error (.wait _), _) => { d with held := d.held ++ [.bar2Write a data] }
  | (.error _, d) => d.raise (barInc a true)

/-! ### Completions of the gate's own reads (R374, R377, R400) -/

/-- PCIe completion status codes (PRESUMED from PCIe, log entry 9). -/
def cplCode : CplStatus → Nat
  | .success => 0
  | .unsupported => 1
  | .abort => 4
  | .poisoned => 0

/-- The gate is a domain edge: its number among the edges (R400). -/
def gateEdge : Nat := 106

/-- An edge's copy of a context's generation; an edge that has latched nothing holds the table's. -/
def Dev.edgeGen (d : Dev) (e c : Nat) : Nat := (mapGet d.edges (e, c) ((d.ctx c).gen, 0)).1

/-- A dead letter at the gate (R401). -/
def Dev.gateDeadLetter (d : Dev) (c g : Nat) : Dev := (d.count (.gateDead c) 1).deadAt c g fun x => usesEdge d x false

/-- A dead letter at a sorting office's port of partition p (R401). -/
def Dev.officeDeadLetter (d : Dev) (p c g : Nat) : Dev := (d.count (.gateDead c) 1).deadAt c g fun x => passesPart d x p

/-- A flushing zero-length read comes back (R122, R377). -/
def Dev.flushDone (d : Dev) (r : Remote) (l : LetterId) (ok : Bool) : Dev :=
  match findLetter d l with
  | none => d
  | some x =>
    let d := modifyLetter d l fun y => { y with zeroReads := y.zeroReads - 1 }
    if ok ∨ x.opcode = 0x21 then d else
    match r.region with
    | some g =>
      ((d.worsen l 0x13 g.stage).flushFails l g.stage).raise
        { cls := 0xA, eng := 0x20, die := dieGate, part := none, ctx := some (x.ctx, x.gen), seq := l.seq,
          mbx := l.mbx, stage := g.stage, route := x.route, d0 := g.base, d1 := g.chan }
    | none => d.worsen l 0x13 x.pcieStage

/-- A current reply of a read of the gate's (R374). -/
def Dev.readEndsLive (d gone : Dev) (r : Remote) (data : Option (List Byte)) (code : Nat) (timeout : Bool) : Dev :=
  match r.who with
  | .reader l => if r.zero then gone.flushDone r l data.isSome else gone
  | .letter l stage =>
    match data with
    | some bs => { d with remotes := d.remotes.map fun x => if x.tag = r.tag then { x with data := some (slice bs 0 r.len) } else x }
    | none =>
      match findLetter gone l with
      | none => gone
      | some x =>
        let gone := gone.raise
          { cls := 9, eng := 0x20, die := dieGate, part := none, ctx := some (x.ctx, x.gen), seq := l.seq,
            mbx := l.mbx, stage := stage, route := x.route, d0 := r.addr,
            d1 := code + (if timeout then 8 else 0) }
        gone.finish l 0x13 stage
  | .core h => d.coreAnswer h r.tag (data.map fun bs => slice bs 0 r.len)
  | _ => gone

/-- A tag is free again: a flush that waits for one goes out (R371). -/
def Dev.flushNext (d : Dev) : Dev :=
  match d.flushWait with
  | [] => d
  | (l, a, region) :: fs => if (freeTag d).isSome then { d with flushWait := fs }.flushRead l a region else d

/-- A read of the gate's ends: in success with data, or in error (R374). -/
def Dev.readEnds (d : Dev) (tag : Nat) (data : Option (List Byte)) (code : Nat) (timeout : Bool) : Dev :=
  match (hostReads d).find? fun r => r.req = tag with
  | none => d
  | some r =>
    let gone := { d with remotes := d.remotes.filter (·.tag ≠ r.tag) }
    (match r.ctx with
    | some (c, g) =>
      if d.edgeGen gateEdge c ≠ g then { d.gateDeadLetter c g with remotes := gone.remotes } else d.readEndsLive gone r data code timeout
    | none => d.readEndsLive gone r data code timeout).flushNext

/-- AER records a poisoned completion and a completion timeout (R371). -/
def Dev.aerNote (d : Dev) (bit : Nat) : Dev := { d with pcie := { d.pcie with aer := d.pcie.aer ||| 2 ^ bit } }

/-- A PCIe completion arrives for a read the gate issued (R374). -/
def execHostReadCompletion (tag : Nat) (status : CplStatus) (data : List Byte) (s : State) :
    Host.Outcome State Fault Refusal :=
  .next (s.onDev fun d =>
    let d := if status = .poisoned ∧ (hostReads d).any (fun r => r.req = tag) then d.aerNote 12 else d
    d.readEnds tag (if status = .success then some data else none) (cplCode status) false)

/-- The completion timeout of a read expires (R374). -/
def execHostReadTimeout (tag : Nat) (s : State) : Host.Outcome State Fault Refusal :=
  .next (s.onDev fun d =>
    let d := if (hostReads d).any (fun r => r.req = tag) then d.aerNote 14 else d
    d.readEnds tag none 0 true)

end Sys2Proof.Machine
end

