-- ==== Sys2Proof/Machine/Cores.lean ====
section
/-! DEFINITION. The resident cores' accesses (R378-R382), the coherence directory (R383-R390), the sorting offices (R20-R24)
and the base dies (R136, R143). -/

namespace Sys2Proof.Machine

/-! ### The directory (R384-R386) -/

/-- An agent's copy of a line. -/
def lineOf (d : Dev) (p ag line : Nat) : Option Line := d.lines.find? fun l => l.part = p ∧ l.agent = ag ∧ l.addr = line
/-- The copies of other agents. -/
def otherCopies (d : Dev) (ag line : Nat) : List Line := d.lines.filter fun l => l.addr = line ∧ l.agent ≠ ag

/-- Write a modified copy back to memory. -/
def Dev.writeBack (d : Dev) (l : Line) : Dev := if l.st = 3 then { d with mem := d.mem.write l.addr l.data } else d

/-- Take every copy of a line away, dirty data written back; reservations on it end. -/
def Dev.invalidate (d : Dev) (line : Nat) : Dev :=
  let d := d.each (d.lines.filter (·.addr = line)) Dev.writeBack
  { d with lines := d.lines.filter (·.addr ≠ line), reservations := d.reservations.filter fun (r : Nat × Nat) => r.2 ≠ line }

/-- The directory's set of a line, one of 131,072 of 16 ways: 2,097,152 entries (R385). -/
def dirSetOf (line : Nat) : Nat := Config.dirSet line % 131072

/-- The lines that share a directory set with a line (R385). -/
def setLines (d : Dev) (p line : Nat) : List Nat :=
  ((d.lines.filter fun l => l.part = p ∧ l.addr ≠ line ∧ dirSetOf l.addr = dirSetOf line).map (·.addr)).eraseDups

/-- Room for an entry: a full set of 16 ways loses one, back-invalidated in every holder (R385). -/
def dirRoom (p line : Nat) : Act Unit := fun d =>
  let ls := setLines d p line
  if d.lines.any (·.addr = line) ∨ ls.length < 16 then pure (.ok (), d) else
  let (k, d) := d.draw
  let v := ls.getD (Config.freeSlot k % ls.length) 0
  if d.lines.any fun l => l.addr = v ∧ l.hold then pure (.error (.wait 3), d.count64 (.cohHoldDefers p) 1)
  else pure (.ok (), (d.invalidate v).count64 (.cohBackInval p) 1)

/-- Grant a line to an agent, by Read or by Read for ownership (R384); a hold defers the request (R386). -/
def acquire (p ag line : Nat) (own : Bool) : Act (List Byte) := do
  let d ← devGet
  let mine := lineOf d p ag line
  match mine with
  | some l =>
    if !own ∨ l.st = 3 then return l.data
    else if l.st = 2 then
      devMod fun d => { d with lines := d.lines.map fun x => if x = l then { x with st := 3 } else x }
      return l.data
    else pure ()
  | none => pure ()
  match homeCheck d p line 64 false with
  | some e => stop e
  | none => pure ()
  let rivals := otherCopies d ag line
  if rivals.any fun l => l.hold && (own || 2 ≤ l.st) then
    devMod fun d => d.count64 (.cohHoldDefers p) 1
    stop (.wait 3)
  else pure ()
  dirRoom p line
  if own then
    let d ← devGet
    let bs := match mine, rivals.find? (·.st = 3) with
      | some l, _ => l.data
      | none, some l => l.data
      | none, none => d.mem.read line 64
    devMod fun d => { d with lines := d.lines.filter (·.addr ≠ line) ++ [⟨p, ag, line, 3, bs, true⟩],
                             reservations := d.reservations.filter fun (r : Nat × Nat) => r.2 ≠ line ∨ r.1 = 48 * p + ag }
    return bs
  else
    devMod fun d => snoopRead d line
    let d ← devGet
    let bs := d.mem.read line 64
    let st := if rivals = [] then 2 else 1
    devMod fun d => { d with lines := d.lines ++ [⟨p, ag, line, st, bs, st = 2⟩] }
    return bs

/-- Load a cacheable range through an agent's cache. -/
def cachedLoad (p ag a len : Nat) : Act (List Byte) := do
  let ls ← mapA (linesOf a len) fun line => acquire p ag line false
  return slice ls.flatten (a % 64) len

/-- Store a cacheable range through an agent's cache. -/
def cachedStore (p ag a : Nat) (bs : List Byte) : Act Unit :=
  forA (linesOf a bs.length) fun line => do
    let _ ← acquire p ag line true
    let lo := max a line
    let hi := min (a + bs.length) (line + 64)
    devMod fun d => { d with lines := d.lines.map fun l =>
      if l.part = p ∧ l.agent = ag ∧ l.addr = line then { l with data := patch l.data (lo - line) (slice bs (lo - a) (hi - lo)) } else l }

/-! ### Core operations (R379) -/

/-- Bytes that an operation touches. -/
def opLen : CoreOp → Nat
  | .load n | .ncLoad n | .lr n | .fetch n => n
  | .store bs | .ncStore bs | .sc bs => bs.length
  | .amoAdd n _ | .amoSwap n _ | .amoAnd n _ | .amoOr n _ | .amoXor n _ | .amoMin n _ | .amoMax n _ | .amoMinu n _ | .amoMaxu n _ => n
  | .fenceI => 0
  | .cboClean | .cboFlush | .cboInval | .cboZero => 64

/-- The AMOs. -/
def opIsAmo : CoreOp → Bool
  | .amoAdd _ _ | .amoSwap _ _ | .amoAnd _ _ | .amoOr _ _ | .amoXor _ _ | .amoMin _ _ | .amoMax _ _ | .amoMinu _ _ | .amoMaxu _ _ => true
  | _ => false
def opIsLrSc : CoreOp → Bool
  | .lr _ | .sc _ => true
  | _ => false

/-- The block operations of Zicbom and Zicboz. -/
def opIsCbo : CoreOp → Bool
  | .cboClean | .cboFlush | .cboInval | .cboZero => true
  | _ => false
/-- Operations that may change the bytes they address. -/
def opStores : CoreOp → Bool
  | .load _ | .ncLoad _ | .lr _ | .fetch _ | .fenceI | .cboClean | .cboFlush | .cboInval => false
  | _ => true

/-- The exception of an access fault: instruction 1, load 5, store/AMO 7. -/
def opCause : CoreOp → Nat
  | .fetch _ => 1
  | .load _ | .ncLoad _ | .lr _ => 5
  | _ => 7

/-- A tagged address in a region that takes no LR and no SC: any but the hart's own slab and post hall (R379). -/
def noLrSc (d : Dev) (hart t : Nat) : Bool :=
  let here := fun (a : Nat) => match place a with
    | .slab q => q ≠ hart / 48
    | .window q w _ => ¬ (q = hart / 48 ∧ w = 19)
    | .mmio _ => true
    | _ => false
  match untag t with
  | .bad => false
  | .localAddr a => here a
  | .pod m a => if m = modNumber d then here a else true
  | .host _ => true

/-- The exception of an access: an LR in a region marked No takes the store/AMO one (R379). -/
def opCauseAt (d : Dev) (hart t : Nat) (op : CoreOp) : Nat :=
  match op with
  | .lr _ => if noLrSc d hart t then 7 else 5
  | op => opCause op

/-- A value as a signed number of n bytes. -/
def signedOf (n v : Nat) : Int := if v % 2 ^ (8 * n) < 2 ^ (8 * n - 1) then v % 2 ^ (8 * n) else (v % 2 ^ (8 * n) : Nat) - (2 ^ (8 * n) : Nat)

/-- What an AMO stores. -/
def opAmo (op : CoreOp) (old : Nat) : Nat :=
  match op with
  | .amoAdd n v => (old + v) % 2 ^ (8 * n)
  | .amoSwap n v => v % 2 ^ (8 * n)
  | .amoAnd n v => old &&& (v % 2 ^ (8 * n))
  | .amoOr n v => old ||| (v % 2 ^ (8 * n))
  | .amoXor n v => old ^^^ (v % 2 ^ (8 * n))
  | .amoMin n v => if signedOf n old ≤ signedOf n v then old else v % 2 ^ (8 * n)
  | .amoMax n v => if signedOf n v ≤ signedOf n old then old else v % 2 ^ (8 * n)
  | .amoMinu n v => min old (v % 2 ^ (8 * n))
  | .amoMaxu n v => max old (v % 2 ^ (8 * n))
  | _ => old

/-- How a core's operation ends. -/
inductive CoreRes where
  | value (v : Nat)
  | done
  /-- A read has gone out; its answer comes later. -/
  | pending
  deriving DecidableEq, Repr

/-- Clean, flush, invalidate or zero a block (Zicbom, Zicboz). -/
def cboAct (p ag line : Nat) (op : CoreOp) : Act CoreRes := do
  let d ← devGet
  match op with
  | .cboZero => cachedStore p ag line (List.replicate 64 0#8)
  | _ =>
    if d.lines.any fun l => l.addr = line ∧ l.hold ∧ l.agent ≠ ag then
      devMod fun d => d.count64 (.cohHoldDefers p) 1
      stop (.wait 3)
    else match op with
    | .cboClean => devMod fun d => { d.each (d.lines.filter (·.addr = line)) Dev.writeBack with
        lines := d.lines.map fun l => if l.addr = line ∧ l.st = 3 then { l with st := 2 } else l }
    | .cboFlush => devMod (·.invalidate line)
    | _ => devMod fun d => if Config.cboInvalFlushes then d.invalidate line else { d with lines := d.lines.filter (·.addr ≠ line) }
  return .done

/-- An operation on the core's own slab or post hall (R379, R384). -/
def cachedOp (hart p ag a : Nat) (op : CoreOp) : Act CoreRes := do
  let d ← devGet
  match op with
  | .load n | .ncLoad n => return .value (leNat (← cachedLoad p ag a n))
  | .fetch n =>
    match mapGet? d.icache (hart, a / 64 * 64) with
    | some bs => return .value (leNat (slice bs (a % 64) n))
    | none =>
      let bs ← cachedLoad p ag (a / 64 * 64) 64
      devMod fun d => { d with icache := mapSet d.icache (hart, a / 64 * 64) bs }
      return .value (leNat (slice bs (a % 64) n))
  | .store bs | .ncStore bs => cachedStore p ag a bs; return .done
  | .lr n =>
    let bs ← cachedLoad p ag a n
    devMod fun d => { d with reservations := mapSet d.reservations hart (a / 64 * 64) }
    return .value (leNat bs)
  | .sc bs =>
    devMod fun d => { d with reservations := mapErase d.reservations hart }
    if mapGet? d.reservations hart = some (a / 64 * 64) then cachedStore p ag a bs; return .value 0
    else return .value 1
  | .fenceI => return .done
  | .cboClean | .cboFlush | .cboInval | .cboZero => cboAct p ag (a / 64 * 64) op
  | _ =>
    let old := leNat (← do let bs ← acquire p ag (a / 64 * 64) true; pure (slice bs (a % 64) (opLen op)))
    cachedStore p ag a (natLe (opLen op) (opAmo op old))
    return .value old

/-- The node of a hart: the S-die on which it lies (R10, R378). -/
def hartSrc (hart : Nat) : Src := some (hart / 48, 20 + hart % 48 / 24)

/-- The block operations that a core performs on a line that it does not cache: nothing to do, but the line must be there
(R27, R28, R379). -/
def localProbe (src : Src) (a : Nat) : Act Unit := fun d =>
  match reach d src a 64 false with
  | (.error e, d) => pure (.error e, d)
  | (.ok _, _) => pure (.ok (), d)

/-- An uncached operation on module memory (R379, R387). -/
def uncachedOp (src : Src) (a : Nat) (op : CoreOp) (amo : Bool) : Act CoreRes := do
  match op with
  | .load n | .ncLoad n | .fetch n => return .value (leNat (← localLoad src a n))
  | .store bs | .ncStore bs => localStore src a bs; return .done
  | .cboZero => localStore src (a / 64 * 64) (List.replicate 64 0#8); return .done
  | .cboClean | .cboFlush | .cboInval => localProbe src (a / 64 * 64); return .done
  | .fenceI => return .done
  | _ =>
    if !(amo && opIsAmo op) then stop (.addr a) else
    let old := leNat (← localLoad src a (opLen op))
    localStore src a (natLe (opLen op) (opAmo op old))
    return .value old

/-- Blocks that a core reaches in machine or hypervisor mode alone: SEC_ and CLERK_ (R32), the MSI-X table and PBA (R373). -/
def secBlock (off : Nat) : Bool := (0x100000 ≤ off && off < 0x300000) || (0x40000 ≤ off && off < 0x48100)

/-- An operation on memory of the module. -/
def coreLocal (d : Dev) (hart t a : Nat) (op : CoreOp) : Act CoreRes :=
  let p := hart / 48
  let boot := !d.installed p
  let src := hartSrc hart
  let b := if opIsCbo op then a / 64 * 64 else a
  let nc := match op with | .ncLoad _ | .ncStore _ => true | _ => false
  let cached := if nc then uncachedOp src a op false else if exists_ d b (opLen op) (opStores op) ∧ routed d src b (opLen op) then cachedOp hart p (hart % 48) a op else stop (.addr t)
  match place a with
  | .slab q => if q = p then cached else if boot then stop (.addr t) else uncachedOp src a op true
  | .window q w _ =>
    if q = p ∧ w = 19 then cached
    else if boot ∧ q ≠ p then stop (.addr t)
    else uncachedOp src a op (q ≠ p)
  | _ => stop (.addr t)

/-- An operation on MMIO (R32, R379, R500). -/
def coreMmio (hart : Nat) (mode : CoreMode) (t off : Nat) : CoreOp → Act CoreRes
  | .load n | .ncLoad n | .fetch n => if secBlock off ∧ !mode.high then stop (.addr t) else do
    let bs ← mmioLoad (hart / 48) off n
    pure (.value (leNat bs))
  | .store bs | .ncStore bs => do
    devMod (·.postWrite (.registerWrite (.core hart mode) off bs.length (BitVec.ofNat 64 (leNat bs))))
    pure .pending
  | .cboClean | .cboFlush | .cboInval => if secBlock off ∧ !mode.high then stop (.addr t) else do
    mmioCross (hart / 48) off 0 true
    pure .done
  | _ => stop (.addr t)

/-- An operation on another module (R34, R379). -/
def corePod (hart t m a : Nat) : CoreOp → Act CoreRes
  | .load n | .ncLoad n | .fetch n => do let bs ← podLoad (.core hart) none t m a n; pure (.value (leNat bs))
  | .store bs | .ncStore bs => do podStore (.core hart) none t m a bs; pure .pending
  | .cboZero => do podStore (.core hart) none (t / 64 * 64) m (a / 64 * 64) (List.replicate 64 0#8); pure .pending
  | _ => do
    let d ← devGet
    if podOk d m then pure .done else stop (.addr t)

/-- An operation on the commander's memory (R35, R379). -/
def coreHost (hart a : Nat) : CoreOp → Act CoreRes
  | .load n | .ncLoad n | .fetch n => do let bs ← hostLoad (.core hart) (some (hart / 48)) false none 0xFFFF a n; pure (.value (leNat bs))
  | .store bs | .ncStore bs => do hostStore none (some (hart / 48)) false 0xFF 0xFFFF a bs; pure .done
  | .cboZero => do hostStore none (some (hart / 48)) false 0xFF 0xFFFF (a / 64 * 64) (List.replicate 64 0#8); pure .done
  | _ => do
    let d ← devGet
    if d.pcie.busMaster then pure .done else stop (.addr (a + 2 ^ 55))

/-- An operation of a hart on a tagged physical address. -/
def coreAct (hart : Nat) (mode : CoreMode) (t : Nat) (op : CoreOp) : Act CoreRes := do
  let d ← devGet
  let away := d.installed (hart / 48) = false ∨ opIsAmo op = true ∨ opIsLrSc op = true
  if op = .fenceI then do
    devMod fun d => { d with icache := d.icache.filter fun (e : (Nat × Nat) × List Byte) => e.1.1 ≠ hart }
    pure .done
  else
  let here := fun (a : Nat) => match place a with
    | .mmio off => coreMmio hart mode t off op
    | _ => coreLocal d hart t a op
  match untag t with
  | .bad => stop (.addr t)
  | .localAddr a => here a
  | .pod m a => if m = modNumber d then here a else if away then stop (.addr t) else corePod hart t m a op
  | .host a => if away then stop (.addr t) else coreHost hart a op

/-! ### Requests at a sorting office, a base die and the directory -/

/-- A sorting office serves an access (R20, R21, R24, R400); none while it is held (R71, R144). It comes from the port of the
module-level dies: the request names no partition (log entry 51). A register's write is posted (R7). -/
def sortServe (d : Dev) (x : Nat) (r : SortReq) : Option Dev :=
  let a := r.addr
  let p := homeOf a
  if a / 2048 % 2 ≠ x ∨ r.len = 0 then some d else
  match r.ctx with
  | some (c, g) => if d.edgeGen (96 + 5 * x + p) c ≠ g then some (d.officeDeadLetter p c g) else go p a
  | none => go p a
where
  go (p a : Nat) : Option Dev :=
    match place a with
    | .mmio off =>
      let store := r.write.isSome
      let who := fun (d : Dev) => { devWho none with ctx := (r.ctx.getD (0, 0)).1, gen := (d.ctx (r.ctx.getD (0, 0)).1).gen }
      if r.ctx.isSome ∧ engineBarred off store then some ((d.stopIncident (who d) (.addr a)).send .memError)
      else match (mmioCross 4 off r.len store).run d with
      | (.error (.wait _), _) => none
      | (.error _, d) => some (d.send (.officeDown x))
      | (.ok _, d) => match r.write with
        | none => some (d.send (.officeReply x (natLe r.len (mmioRead d off r.len))))
        | some bs => match imsicAt off with
          | some (h, f) => some (if bs.length = 4 ∧ !blockDark d off true then d.setip h f (leNat bs) else d)
          | none => some (d.postWrite (.registerWrite
              (match r.ctx with | some (c, _) => .engine c 4 18 0x10 none 0xFF | none => .clerk) off bs.length (BitVec.ofNat 64 (leNat bs))))
    | _ =>
      if d.down p then some ((d.count (.sortDownAnswers x) 1).send (.officeDown x))
      else match r.write with
      | none => match (localLoad none a r.len).run d with
        | (.ok bs, d) => some (d.send (.officeReply x bs))
        | (.error (.wait _), _) => none
        | (.error _, d) => some (d.send .memError)
      | some bs => match (localStore none a bs).run d with
        | (.ok _, d) => some d
        | (.error (.wait _), _) => none
        | (.error _, d) => some (d.send .memError)

/-- A piece of a request within one granule, served as the aligned 64-byte bursts that cover it (R136): the ECC outcome is
that of each piece, at the stack on which it lies (R143). -/
def Dev.pieceEcc (d : Dev) (p a len : Nat) (e : EccOutcome) : Dev :=
  match e with
  | .clean => d
  | .corrected => d.count (.memEccCorr p (pcLoc (d.regN (.memSegIset p)) a).stack) 1
  | .uncorrectable =>
    let bs := (linesOf a len).map (· / 64)
    { d with mem := { d.mem with bad := (bs.filter fun b => !d.mem.bad.contains b) ++ d.mem.bad } }

/-- A base die serves an access piece by piece (R136), corrects and counts, or returns an error (R143, R145). -/
def burstServe (d : Dev) (r : MemReq) : Option Dev :=
  match place r.addr with
  | .slab p =>
    let len := match r.write with | some bs => bs.length | none => r.len
    match homeCheck d p r.addr len r.write.isSome with
    | some (.wait _) => none
    | some _ => some (d.send .memError)
    | none =>
      if slabBase (p + 1) < r.addr + len then some d else
      match r.write with
      | some bs => some { d with mem := d.mem.write r.addr bs }
      | none =>
        let d := d.each (granulePieces r.addr len) fun d pc => d.pieceEcc p pc.1 pc.2 r.ecc
        some (d.send (if r.ecc = .uncorrectable then .memError else .memReply (d.mem.read r.addr len)))
  | _ => some d

/-- A request of another module at its target, through the L-die of partition p (R34, R343). The answer of a failed one
carries an error in bit 47 of the header, its code and partition in the body (log entry 10). -/
def podServe (d : Dev) (p : Nat) (f : Frame) : Option Dev :=
  let a := bitsN f.hdr 45 0
  let len := if field f.body 0 8 = parcelBytes then parcelBytes else min 256 (field f.body 0 8)
  let answer := fun (d : Dev) (err : Nat) (bs : List Byte) =>
    d.route { kind := if bs.length = parcelBytes then 3 else 2, vc := 2, dl := 0, src := modNumber d, dst := f.src, key := a / 2048, body := bs,
              hdr := f.hdr % 2 ^ 47 + err * 2 ^ 47 + bitsN f.hdr 63 48 * 2 ^ 48 }
  let src : Src := some (p, 22)
  let act : Act (List Byte) :=
    match place a with
    | .mmio _ => stop (.addr a)
    | _ => if bitN f.hdr 46 then do localStore src a f.body; pure [] else localLoad src a len
  match act.run d with
  | (.ok bs, d) => some (answer d 0 bs)
  | (.error (.wait _), _) => none
  | (.error (.mem _ _), d) => some (answer d 1 (natLe 4 2 ++ natLe 4 0))
  | (.error (.down q _), d) => some (answer d 1 (natLe 4 3 ++ natLe 4 q))
  | (.error _, d) => some (answer d 1 (natLe 4 1 ++ natLe 4 0))

/-- Requests that let an agent store to the line, or store to it: an OBJECT_DIR or HISTORY_TABLE region takes none (R147,
R249). -/
def dirStores : DirReq → Bool
  | .own _ | .writeBack _ _ | .uncachedWrite _ | .uncachedPartial _ _ | .uncachedAmo _ _ => true
  | .read _ | .evict _ | .uncachedRead => false

/-- The directory's answer to a request (R384). -/
def dirAct (p line : Nat) (r : DirReq) : Act Unit := do
  let d ← devGet
  if dirStores r && !exists_ d line 64 true then stop (.addr line) else
  match r with
  | .read ag => let _ ← acquire p ag line false; pure ()
  | .own ag => let _ ← acquire p ag line true; pure ()
  | .writeBack ag bs => devMod fun d => match lineOf d p ag line with
    | some l => if l.st = 3 then { d with mem := d.mem.write line (slice bs 0 64), lines := d.lines.filter (· ≠ l) } else d
    | none => d
  | .evict ag => devMod fun d => match lineOf d p ag line with
    | some l => if l.st ≤ 2 then { d with lines := d.lines.filter (· ≠ l) } else d
    | none => d
  | .uncachedRead => do let bs ← localLoad (some (p, 19)) line 64; devMod (·.send (.memReply bs))
  | .uncachedWrite bs => if bs.length = 64 then localStore (some (p, 19)) line bs else pure ()
  | .uncachedPartial off bs => if off + bs.length ≤ 64 then localStore (some (p, 19)) (line + off) bs else pure ()
  | .uncachedAmo off op =>
    if opIsAmo op = true ∧ off + (opLen op) ≤ 64 then do
      let bs ← localLoad (some (p, 19)) (line + off) (opLen op)
      localStore (some (p, 19)) (line + off) (natLe (opLen op) (opAmo op (leNat bs)))
      devMod (·.send (.memReply bs))
    else pure ()

/-- The module-local bytes of a tagged address. -/
def localRange (d : Dev) (t len : Nat) : Nat × Nat :=
  match untag t with
  | .localAddr a => (a, len)
  | .pod m a => (a, if m = modNumber d then len else 0)
  | _ => (0, 0)

/-- The module-local bytes that a held request asks for. -/
def heldOn (d : Dev) : Held → Nat × Nat
  | .core _ _ t op => localRange d (if opIsCbo op then t / 64 * 64 else t) (opLen op)
  | .bar2Read a len => (a, len)
  | .bar2Write a bs => (a, bs.length)
  | .office _ r => (r.addr, r.len)
  | .burst _ => (0, 0)
  | .cmd _ _ off len _ => (mmioBase + off, len)
  | .hdie a bs => (a, bs.length)
  | .dir _ line _ => (line, 64)
  | .pod _ f => (bitsN f.hdr 45 0, if bitN f.hdr 46 then f.body.length else field f.body 0 8)
  | .own _ t bs _ => localRange d t bs.length
  | .obj _ a bs _ => (a, bs.length)

/-- The requester of a held request: kind and number. -/
def heldFrom : Held → Nat × Nat
  | .core h _ _ _ => (0, h)
  | .bar2Read _ _ | .bar2Write _ _ => (1, 0)
  | .office x r => (2, 2 * ((r.ctx.map (·.1 + 1)).getD 0) + x)
  | .burst _ => (3, 0)
  | .cmd _ v _ _ _ => match v with
    | .core h _ => (0, h)
    | .bar0 | .bar4 => (1, 0)
    | .clerk => (4, 0)
    | .engine _ p n k _ _ => (9, 65536 * p + 256 * n + k)
  | .hdie a _ => (10, homeOf a)
  | .dir p _ _ => (5, p)
  | .pod _ f => (6, f.src)
  | .own p _ _ _ => (7, p.getD 4)
  | .obj p _ _ _ => (8, p)

/-- A request of the commander's on a BAR. -/
def Held.fromBar (h : Held) : Bool := h.isBar || match h with | .bar2Read _ _ => true | _ => false

/-- A request stays behind another: both ask for one line of coherent memory, served in arrival order (R384); one requester asks
for one 2 KiB granule (R21); the commander's request follows a write of its own (R375). -/
def heldBehind (d : Dev) (h k : Held) : Bool :=
  let x := heldOn d h
  let y := heldOn d k
  (h.fromBar && k.isBar) || (coherent x.1 && (linesOf x.1 x.2).any (linesOf y.1 y.2).contains) ||
  (heldFrom h = heldFrom k && (granules x.1 x.2).any (granules y.1 y.2).contains)

/-- A store of a letter that its object's directory had held fails: the letter ends as it does for any store, with the stage that
made it (R127, R145, R152). -/
def Dev.heldFails (d : Dev) (p : Nat) (l : Option (LetterId × Nat)) (e : Stop) : Dev :=
  match l.bind fun (y : LetterId × Nat) => findLetter d y.1 with
  | none => d.stopIncident (devWho (some p)) e
  | some x =>
    let stage := (l.map (·.2)).getD 0xFF
    let d := d.stopIncident { letterWho x (some p) 19 0x10 with stage := stage } e
    let (st, dt) := stopStatus stage e
    if x.result.isNone then d.finish x.id st dt else d.worsen x.id st dt

/-- A store that a directory held reaches a copy of its object, or waits for the memory there (R144, R145, R152). -/
def Dev.heldStore (d : Dev) (p a : Nat) (bs : List Byte) (l : Option (LetterId × Nat)) : Dev :=
  let hold := { d with held := d.held ++ [.obj p a bs l] }
  let behind := d.held.any fun h => match h with
    | .obj q b cs _ => p = q && (granules a bs.length).any (granules b cs.length).contains
    | _ => false
  if behind then hold else
  match (localStore (some (p, 19)) a bs).run d with
  | (.ok _, d) => d
  | (.error (.wait _), _) => hold
  | (.error e, d) => d.heldFails p l e

/-- Perform a request; none while it has to wait. -/
def perform (d : Dev) (h : Held) : Option Dev :=
  if d.held.any (heldBehind d h) then none else
  match h with
  | .cmd p _ _ _ i => if d.installing p then none else some (d.postWrite i)
  | .hdie a bs => if heldLine d a bs.length then none else some (homeStore d a bs)
  | .own p t bs note =>
    match (physStoreAs (match note with | some l => .notify l t | none => .loader) (devWho p) t bs).run d with
    | (.ok _, d) => some d
    | (.error (.wait _), _) => none
    | (.error _, d) => some (match note with | some l => d.notifyFault l t | none => d)
  | .obj p a bs l =>
    match (localStore (some (p, 19)) a bs).run d with
    | (.ok _, d) => some d
    | (.error (.wait _), _) => none
    | (.error e, d) => some (d.heldFails p l e)
  | .bar2Read a len => let d' := d.bar2Read a len; if d'.held = d.held ++ [h] then none else some d'
  | .bar2Write a bs => let d' := d.bar2Write a bs; if d'.held = d.held ++ [h] then none else some d'
  | .office x r => sortServe d x r
  | .burst r => burstServe d r
  | .pod p f => podServe d p f
  | .dir p line r => match (dirAct p line r).run d with
    | (.ok _, d) => some d
    | (.error (.wait _), _) => none
    | (.error _, d) => some (d.send .memError)
  | .core hart mode t op =>
    if d.fld (.partCoreStatus (hart / 48) (hart % 48)) 1 0 ≠ 1 then some d else
    match (coreAct hart mode t op).run d with
    | (.ok (.value v), d) => some (d.send (.coreValue hart v))
    | (.ok .done, d) => some (d.send (.coreDone hart))
    | (.ok .pending, d) => some d
    | (.error (.wait 2), d) => some d
    | (.error (.wait _), _) => none
    | (.error _, d) => some (d.send (.coreFault hart (opCauseAt d hart t op)))

/-- A line's hold defers a request that has just arrived: counted at its home (R390). -/
def Dev.defers (d : Dev) (h : Held) : Dev :=
  let x := heldOn d h
  match h with
  | .dir p line r => d.keepDefers ((dirAct p line r).run d).2
  | .core hart mode t op => d.keepDefers ((coreAct hart mode t op).run d).2
  | _ => if coherent x.1 ∧ heldLine d x.1 x.2 then d.count64 (.cohHoldDefers (homeOf x.1)) 1 else d

/-- Take a request: performed, or held in order. A hold that defers it is counted. -/
def Dev.take (d : Dev) (h : Held) : Dev :=
  match perform d h with
  | some d => d
  | none =>
    let d := if d.held.any (heldBehind d h) then d else d.defers h
    let d := match h with
      | .core hart _ _ _ => d.send (.coreWait hart)
      | _ => d
    { d with held := d.held ++ [h] }

/-- Try the held requests again, in their order. -/
def Dev.release (d : Dev) : Dev :=
  d.held.foldl (fun d h => match perform d h with
    | some d => d
    | none => { d with held := d.held ++ [h] }) { d with held := [] }

/-! ### Commands -/

/-- A read through the BAR2 aperture: the address that a request has when it is received stands, whatever becomes of
GATE_APERTURE_BASE (R41), and it passes no earlier write (R375). An AtomicOp completes with Unsupported Request (R371). -/
def execBar2Read (off : Nat) (req : BarRequest) (s : State) : Host.Outcome State Fault Refusal :=
  .next (s.onDev fun d => match req with
    | .read len => if !apertureOn d off len ∨ 4096 < len then d else d.take (.bar2Read (apertureAddr d off) len)
    | .atomic len =>
      if !apertureOn d off len ∨ 4096 < len then d
      else { d with pcie := { d.pcie with aer := d.pcie.aer ||| 2 ^ 20 } }.send .unsupported)

/-- A write through the BAR2 aperture (R41, R42, R375). -/
def execBar2Write (off : Nat) (data : List Byte) (s : State) : Host.Outcome State Fault Refusal :=
  .next (s.onDev fun d => if !apertureOn d off data.length then d else d.take (.bar2Write (apertureAddr d off) data))

/-- A request at the directory of partition p (R384, R385). -/
def execDirectoryRequest (p line : Nat) (r : DirReq) (s : State) : Host.Outcome State Fault Refusal :=
  .next (s.onDev fun d =>
    if 4 ≤ p ∨ line % 64 ≠ 0 ∨ !coherent line ∨ homeOf line ≠ p ∨ !exists_ d line 64 false ∨ d.resetting p then d
    else d.take (.dir p line r))

/-- The hold of a line ends (R386): deferred snoops are answered in arrival order. -/
def execSnoopHoldExpire (p agent line : Nat) (s : State) : Host.Outcome State Fault Refusal :=
  .next (s.onDev fun d => match lineOf d p agent line with
    | some l => if l.hold then { d with lines := d.lines.map fun x => if x = l then { x with hold := false } else x }.release else d
    | none => d)

/-- A 32-bit write of an identity to an interrupt file (R382). -/
def execImsicSetipnum (via : Via) (hart : Nat) (file : ImsicFile) (ident : W32) (s : State) : Host.Outcome State Fault Refusal :=
  .next (s.onDev fun d => if 192 ≤ hart then d else
    let off := 0x10000000 + hart / 48 * 0x1000000 + 0x40000 + (match file with | .machine => 0 | .supervisor => 0x40000 | .guest => 0x80000) + 0x1000 * (hart % 48)
    d.via via .open_ off 4 (.imsicSetipnum via hart file ident) fun d => if blockDark d off true then d else d.setip hart file ident.toNat)

/-- A hart is released (R381, R463): it starts at once when its boot address is in its own post hall, else once its partition
is TRAINED; in DROWSE at its exit (R427). A HALTED hart stays so. -/
def Dev.coreRun (d : Dev) (p i : Nat) : Dev :=
  let d := d.setBit (.partCoreCtrl p i) 0 true
  if d.fld (.partCoreStatus p i) 1 0 = 0 ∧ powerState d ≠ 2 ∧ mayBoot d p then
    d.hartStart p i
  else d

/-- Lines of an agent leave its cache, dirty ones written back. -/
def Dev.flushAgent (d : Dev) (p ag : Nat) : Dev :=
  let mine := d.lines.filter fun l => l.part = p ∧ l.agent = ag
  let d := d.each mine Dev.writeBack
  { d with lines := d.lines.filter fun l => ¬ (l.part = p ∧ l.agent = ag) }

/-- What a hart keeps privately is gone. -/
def Dev.forgetHart (d : Dev) (hart : Nat) : Dev :=
  { d with reservations := mapErase d.reservations hart,
           icache := d.icache.filter fun (e : (Nat × Nat) × List Byte) => e.1.1 ≠ hart,
           remotes := d.remotes.filter (·.who ≠ .core hart),
           held := d.held.filter fun h => match h with | .core k _ _ _ => k ≠ hart | _ => true }

/-- RUN = 0: dirty lines are written back, caches invalidated, the hart held in reset (R381). -/
def Dev.coreHold (d : Dev) (p i : Nat) : Dev :=
  let d := (d.setBit (.partCoreCtrl p i) 0 false).flushAgent p i
  (((d.forgetHart (48 * p + i)).setFld (.partCoreStatus p i) 1 0 0).setBit (.cohAgents p) i false).release

def execPartCoreRun (via : Via) (p i : Nat) (s : State) : Host.Outcome State Fault Refusal :=
  .next (s.onDev fun d => if 4 ≤ p ∨ 48 ≤ i then d else d.viaReg via .high (.partCoreCtrl p i) (.partCoreRun via p i) fun d => d.coreRun p i)

def execPartCoreHold (via : Via) (p i : Nat) (s : State) : Host.Outcome State Fault Refusal :=
  .next (s.onDev fun d => if 4 ≤ p ∨ 48 ≤ i then d else d.viaReg via .high (.partCoreCtrl p i) (.partCoreHold via p i) fun d => d.coreHold p i)

/-- An access at a base die (R136, R143): each piece within a granule is served, held or failed by itself. -/
def execMemoryRequest (r : MemReq) (s : State) : Host.Outcome State Fault Refusal :=
  .next (s.onDev fun d => d.each (granulePieces r.addr (match r.write with | some bs => bs.length | none => r.len)) fun d pc =>
    d.take (.burst { r with addr := pc.1, len := pc.2, write := r.write.map fun bs => slice bs (pc.1 - r.addr) pc.2 }))

/-- Training of a partition's stacks ends: TRAINED, or DEGRADED with the channels that failed, numbered
32 stack + channel (R455 step 9, R458, R462, R463). Stacks that leave self-refresh do not train (R460). -/
def execStackTrainingDone (p : Nat) (lost : List Nat) (s : State) : Host.Outcome State Fault Refusal :=
  .next (s.onDev fun d =>
    if 4 ≤ p ∨ !d.stepFour ∨ d.bit .gateBoot (8 + p) then d else
    let lost := if d.trains.contains p then lost else []
    let d := d.setBit .gateBoot (8 + p) true
    let d := if lost = [] then d.setBit (.memStatus p) 0 true
      else d.each lost fun d n => d.loseChannel p (n / 32 % 8) (n % 32)
    let d := if lost = [] then d.startHeldHarts p else d
    (d.memReadyCheck.each (List.range 256) Dev.mbxReady).release)

end Sys2Proof.Machine
end

