-- ==== Sys2Proof/Machine/Embedding.lean ====
section
/-! DEFINITION. The embedding engines: lists, shards, the row cache, gathers, row updates, journals (R273-R302, R499). -/

namespace Sys2Proof.Machine

/-! ### Objects that words name (R300) -/

/-- FORMAT with the enclosure offset of an operand word. -/
def wordFormat {α : Type} (i : Nat) : Act α := stop (.fail 1 (8 * i))

/-- Every word lies in the enclosure and names a lodged object (first row of R300), then holds no reserved bit. A word
of a matrix may name a stash handle. -/
def needObjs (x : Letter) (ws mats : List Nat) : Act Unit := do
  forA (ws ++ mats) fun i => do let _ ← needWord x i; pure ()
  forA ws fun i => do let _ ← getObj (wordObj (x.word i)); pure ()
  forA (mats.filter fun i => !isHandle (wordObj (x.word i))) fun i => do let _ ← getObj (wordObj (x.word i)); pure ()
  forA (ws ++ mats) fun i => if bitsN (x.word i) 63 56 ≠ 0 then wordFormat i else pure ()

/-- The object of word i holds at least n bytes. -/
def needSize (x : Letter) (i n : Nat) : Act Unit := do
  let o ← getObj (wordObj (x.word i))
  if o.size < n then wordFormat i else pure ()

/-- Load from the object of word i. -/
def wordLoad (x : Letter) (w : Who) (i off len : Nat) : Act (List Byte) := objLoad w (wordObj (x.word i)) off len

def up64 (n : Nat) : Nat := ceilDiv n 64 * 64
def u32s (bs : List Byte) (n : Nat) : List Nat := (List.range n).map fun i => field bs (4 * i) 4
def u64s (bs : List Byte) (n : Nat) : List Nat := (List.range n).map fun i => field bs (8 * i) 8
def maxEntries : Nat := 4194304

/-- Bytes that an engine leaves in a scratch object in a layout of its own: free values. -/
def scratch (w : Who) (id len : Nat) : Act Unit := do
  let d ← devGet
  devMod fun d => d.draw.2
  objStore w id 0 ((List.range len).map fun i => Config.freeByte d.tick i)

/-! ### Lists (R278, R279, R285) -/

/-- A batch list (R278); `feats` are (COLOFF, ROW_LEN), `offs` the bag offsets. -/
structure BatchList where
  samples : Nat
  cols : Nat
  feats : List (Nat × Nat)
  offs : List Nat
  ents : List Nat
  wts : List Nat

def BatchList.nf (b : BatchList) : Nat := b.feats.length
def BatchList.bags (b : BatchList) : Nat := b.samples * b.nf
def BatchList.bagSize (b : BatchList) (i : Nat) : Nat := b.offs.getD (i + 1) 0 - b.offs.getD i 0
def BatchList.feat (b : BatchList) (bag : Nat) : Nat × Nat := b.feats.getD (bag % b.nf) (0, 0)
/-- The bag of each entry. -/
def BatchList.owners (b : BatchList) : List Nat := (List.range b.bags).flatMap fun i => List.replicate (b.bagSize i) i

def nonDecreasing : List Nat → Bool
  | a :: b :: r => a ≤ b && nonDecreasing (b :: r)
  | _ => true

/-- Read and check a batch list. -/
def readBatch (x : Letter) (w : Who) (i : Nat) : Act BatchList := do
  needSize x i 64
  let h ← wordLoad x w i 0 64
  let s := field h 0 4
  let f := field h 4 2
  let n := field h 8 4
  let c := field h 0xC 4
  let wtd := bitN (field h 6 1) 0
  let atO := up64 (0x40 + 4 * f)
  let atE := up64 (atO + 4 * (s * f + 1))
  let atW := up64 (atE + 8 * n)
  let o ← getObj (wordObj (x.word i))
  if s = 0 ∨ f = 0 ∨ 256 < f ∨ 1 < field h 6 1 ∨ field h 7 1 ≠ 0 ∨ maxEntries < n ∨ c = 0 ∨ 65535 < c ∨ !zeroRange h 0x10 48 ∨
     o.size < (if wtd then atW + 4 * n else atE + 8 * n) then wordFormat i else do
  let fb ← wordLoad x w i 0x40 (4 * f)
  let ob ← wordLoad x w i atO (4 * (s * f + 1))
  let eb ← wordLoad x w i atE (8 * n)
  let wb ← if wtd then wordLoad x w i atW (4 * n) else pure []
  let b : BatchList := { samples := s, cols := c, feats := (u32s fb f).map fun v => (bitsN v 15 0, bitsN v 31 16),
                         offs := u32s ob (s * f + 1), ents := u64s eb n,
                         wts := if wtd then u32s wb n else List.replicate n one32.toNat }
  let tables := fun (k : Nat) => (((b.ents.drop (b.offs.getD k 0)).take (b.bagSize k)).map fun e => bitsN e 47 40).eraseDups
  if b.offs.head? ≠ some 0 ∨ b.offs.getLast? ≠ some n ∨ !nonDecreasing b.offs ∨ b.ents.any (fun e => 2 ^ 48 ≤ e) ∨
     b.feats.any (fun v => c < v.1 + v.2) ∨ (List.range b.bags).any (fun k => 1 < (tables k).length) then wordFormat i
  else pure b

/-- An entry of an exchange list with the segment that it lies in. -/
structure Ent where
  key : Nat
  bag : Nat
  wt : W32
  seg : Nat

def dataBase : Nat := 0x8040

/-- TOTAL and the directory of an exchange list as (OFFSET, COUNT). -/
def readDir (x : Letter) (w : Who) (i : Nat) : Act (Nat × List (Nat × Nat)) := do
  needSize x i dataBase
  let h ← wordLoad x w i 0 dataBase
  if !zeroRange h 4 60 then wordFormat i else
  pure (field h 0 4, (List.range 4096).map fun n => (field h (0x40 + 8 * n) 4, field h (0x44 + 8 * n) 4))

/-- Segments lie in ascending order without gaps. -/
def dirOk : Nat → List (Nat × Nat) → Option Nat
  | at_, [] => some at_
  | at_, (o, c) :: r => if c ≠ 0 ∧ o ≠ at_ then none else dirOk (at_ + c) r

/-- Read and check an exchange list of entries. -/
def readEntries (x : Letter) (w : Who) (i : Nat) : Act (List Ent) := do
  let (n, dir) ← readDir x w i
  if maxEntries < n ∨ dirOk 0 dir ≠ some n then wordFormat i else do
  needSize x i (dataBase + 16 * n)
  let b ← wordLoad x w i dataBase (16 * n)
  let segs := dir.zipIdx.flatMap fun e => List.replicate e.1.2 e.2
  let es := segs.zipIdx.map fun e =>
    ({ key := field b (16 * e.2) 8, bag := field b (16 * e.2 + 8) 4, wt := BitVec.ofNat 32 (field b (16 * e.2 + 12) 4), seg := e.1 } : Ent)
  if es.any fun e => 2 ^ 48 ≤ e.key then wordFormat i else pure es

/-- The directory of an exchange list, from each segment's count and bytes; OFFSET counts units of `unit` bytes. -/
def dirBytes (unit : Nat) : Nat → List (Nat × List Byte) → List Byte
  | _, [] => []
  | o, (n, b) :: r => natLe 4 (o / unit) ++ natLe 4 n ++ dirBytes unit (o + b.length) r

/-- The bytes of an exchange list from its 4,096 segments. -/
def listBytes (unit : Nat) (segs : List (Nat × List Byte)) : List Byte :=
  natLe 4 ((segs.map (·.1)).sum) ++ List.replicate 60 0#8 ++ dirBytes unit 0 segs ++ segs.flatMap (·.2)

/-- Consecutive entries of one bag of one segment. -/
def bagsOf : List (Nat × Ent) → List (List (Nat × Ent))
  | [] => []
  | e :: r => match bagsOf r with
    | (f :: g) :: rest => if e.2.seg = f.2.seg ∧ e.2.bag = f.2.bag then (e :: f :: g) :: rest else [e] :: (f :: g) :: rest
    | rest => [e] :: rest

/-- The runs object of SORT (R285): unique keys with FIRST and COUNT, PERM, UIDX. -/
structure RunsObj where
  uniq : List (Nat × Nat × Nat)
  perm : List Nat
  uidx : List Nat

def runsAt (n u : Nat) : Nat × Nat := let p := up64 (0x40 + 16 * u); (p, up64 (p + 4 * n))

/-- Merge runs of equal keys of the sorted entries into unique rows. -/
def mergeRuns : Nat → List Nat → List (Nat × Nat × Nat)
  | _, [] => []
  | i, k :: r => match mergeRuns (i + 1) r with
    | (k', f, c) :: rest => if k' = k then (k, i, c + 1) :: rest else (k, i, 1) :: (k', f, c) :: rest
    | [] => [(k, i, 1)]

def readRuns (x : Letter) (w : Who) (i n : Nat) : Act RunsObj := do
  needSize x i 64
  let h ← wordLoad x w i 0 64
  let u := field h 4 4
  let (p, q) := runsAt n u
  if field h 0 4 ≠ n ∨ n < u ∨ !zeroRange h 8 56 then wordFormat i else do
  needSize x i (q + 4 * n)
  let ub ← wordLoad x w i 0x40 (16 * u)
  let pb ← wordLoad x w i p (4 * n)
  let qb ← wordLoad x w i q (4 * n)
  let r : RunsObj := { uniq := (List.range u).map fun k => (field ub (16 * k) 8, field ub (16 * k + 8) 4, field ub (16 * k + 12) 4),
                       perm := u32s pb n, uidx := u32s qb n }
  if r.uniq.any (fun e => n < e.2.1 + e.2.2) ∨ r.perm.any (n ≤ ·) ∨ r.uidx.any (u ≤ ·) then wordFormat i else pure r

/-! ### Shards (R273-R277) -/

/-- A shard, moment or accumulator object by its header (R274). -/
structure Shard where
  id : Nat
  fmt : EFmt
  frank : Nat
  rowLen : Nat
  table : Nat
  owner : Nat
  module : Nat
  m1 : Nat
  m2 : Nat
  first : Nat
  rows : Nat
  deriving DecidableEq, Repr

/-- FORMAT is one that a shard may have (R274). -/
def shardFmt (h : List Byte) : Option EFmt :=
  match EFmt.ofCode (field h 0 1) with
  | some f => if f = .fp8e4 ∨ f = .bf16 ∨ f = .fp32 then some f else none
  | none => none

/-- The fields of a header, whether or not it keeps R274; one with no format of a shard is taken as FP32. -/
def Shard.fields (id : Nat) (h : List Byte) : Shard :=
  { id := id, fmt := (shardFmt h).getD .fp32, frank := field h 2 2, rowLen := field h 4 2, table := field h 6 1, owner := field h 7 1,
    module := field h 8 1, m1 := field h 0xC 4, m2 := field h 0x10 4, first := field h 0x18 8, rows := field h 0x20 8 }

def Shard.ofBytes (id : Nat) (h : List Byte) : Option Shard := (shardFmt h).map fun _ => Shard.fields id h

def Shard.rowBytes (s : Shard) : Nat := s.rowLen * (s.fmt.bits / 8)
def Shard.rowOff (s : Shard) (r : Nat) : Nat := 0x1000 + r * s.rowBytes
def Shard.stampOff (s : Shard) (r : Nat) : Nat := 0x1000 + s.rows * s.rowBytes + r
def Shard.stamped (s : Shard) : Bool := s.fmt = .fp8e4
/-- The moment objects that the header names and calls VALID. -/
def Shard.m1? (s : Shard) : Option Nat := if bitN s.m1 24 then some (bitsN s.m1 23 0) else none
def Shard.m2? (s : Shard) : Option Nat := if bitN s.m2 24 then some (bitsN s.m2 23 0) else none

/-- The checks of R274 and R275; `acc` admits an accumulator's ROW_LEN of 1. -/
def shardOk (s : Shard) (h : List Byte) (o : Obj) (acc : Bool) : Bool :=
  !o.hasSide && field h 1 1 = 0 && zeroRange h 9 3 && zeroRange h 0x14 4 && zeroRange h 0x28 0xFD8 &&
  (if s.stamped then frankOk s.frank else s.frank = 0x3F80) &&
  ((64 ≤ s.rowLen && s.rowLen ≤ 1024 && s.rowLen % 64 = 0) || (acc && s.rowLen = 1)) &&
  s.owner < 16 && bitsN s.m1 31 25 = 0 && bitsN s.m2 31 25 = 0 && 1 ≤ s.rows &&
  decide (0x1000 + s.rows * (s.rowBytes + if s.stamped then 1 else 0) ≤ o.size)

/-- Read and check a header; one that breaks R274 is a memory error of kind 3 (R275, R300). -/
def readShard (w : Who) (id : Nat) (acc : Bool) : Act Shard := do
  let d ← devGet
  match mapGet? d.objs id with
  | none => stop (.mem 0 3)
  | some o =>
    if o.size < 0x1000 then stop (.mem o.loadBase 3) else do
    let h ← objLoad w id 0 0x1000
    match Shard.ofBytes id h with
    | some s => if shardOk s h o acc then pure s else stop (.mem o.loadBase 3)
    | none => stop (.mem o.loadBase 3)

/-- The shards that lodged objects hold: no moment or accumulator that another header names. How an owner's engine finds
the shard of a row is not in the spec (DEDUCED). Objects whose header keeps FORMAT, ROW_LEN and ROWS come first; behind them those
whose header does not, so that a row that only such a header covers finds it, and its reader the error (R275). -/
def shardsIn (d : Dev) : List Shard :=
  let all := sortBy (fun (a b : Bool × Shard) => a.2.id ≤ b.2.id) (d.objs.filterMap fun e =>
    if e.2.hasSide ∨ e.2.size < 0x1000 then none else
    let h := homeView d e.2.loadBase 64
    let s := Shard.fields e.1 h
    some ((shardFmt h).isSome && 64 ≤ s.rowLen && 1 ≤ s.rows, s))
  let good := (all.filter (·.1)).map (·.2)
  let named := good.flatMap fun s => s.m1?.toList ++ s.m2?.toList
  (good ++ (all.filter fun e => !e.1).map (·.2)).filter fun s => !named.contains s.id

/-- The shard of a key and its local row (R285). -/
def locate (ss : List Shard) (key : Nat) : Option (Shard × Nat) :=
  (ss.find? fun s => s.table = bitsN key 47 40 ∧ s.first ≤ bitsN key 39 0 ∧ bitsN key 39 0 < s.first + s.rows).map
    fun s => (s, bitsN key 39 0 - s.first)

/-- The E-tile of a stage is the owner that a header names (R277). -/
def ownedBy (d : Dev) (p node : Nat) (s : Shard) : Bool := s.owner = 4 * p + (node - 12) && s.module = modNumber d

/-- The shard of a key, where one holds it and its header keeps R274: until then ROW_LEN says nothing about the lists (R300). -/
def goodShard (d : Dev) (key : Nat) : Option Shard :=
  (locate (shardsIn d) key).bind fun e => (mapGet? d.objs e.1.id).bind fun o =>
    if (shardFmt (homeView d o.loadBase 64)).isSome ∧ shardOk e.1 (homeView d o.loadBase 0x1000) o false then some e.1 else none

/-- The rows of unique keys with their checked shards: outside every shard, another owner, a bad header, in the order of
R300. -/
def ownRows (x : Letter) (p : Nat) (r : Rec) (keys : List Nat) : Act (List (Shard × Nat)) := do
  let d ← devGet
  let found := keys.map (locate (shardsIn d))
  if found.any (·.isNone) then stop (.fail 0x10 (stIndex r)) else
  let rows := found.filterMap id
  if rows.any fun e => !ownedBy d p (stNode r) e.1 then stop (.fail 0x21 0) else do
  forA ((rows.map fun e => e.1.id).eraseDups) fun s => do let _ ← readShard (stageWho x p r) s false; pure ()
  pure rows

/-- Decode a row (R275, R205): its values and how many saturated. -/
def decodeRow (s : Shard) (payload : List Byte) (stamp : Nat) : List (W32 × Bool) :=
  (List.range s.rowLen).map fun k =>
    let c := s.fmt.elemCode payload k
    match s.fmt with
    | .fp32 => (BitVec.ofNat 32 c, false)
    | .bf16 => (BitVec.ofNat 32 (c * 65536), false)
    | _ => scaleTo32 (s.fmt.raw c) (stampVal stamp) (frankVal s.frank)

/-- Encode a row (R295): payload, stamp and saturations. `rnd` gives each element's rounding. -/
def encodeRow (s : Shard) (rnd : Nat → Rnd) (vs : List W32) : List Byte × Nat × Nat :=
  let st := if s.stamped then
      let (m, e) := amaxOf (vs.map f32)
      let (fm, fe) := frankVal s.frank
      stampFor m (448 * fm) (e - fe)
    else 0
  let sc : Nat × Int := if s.stamped then ((stampVal st).1 * (frankVal s.frank).1, (stampVal st).2 + (frankVal s.frank).2) else (1, 0)
  let cs := vs.zipIdx.map fun v => convert s.fmt sc 0 (rnd v.2) (f32 v.1)
  (packCodes s.fmt (cs.map (·.code)), st, (cs.filter (·.sat)).length)

def loadRow (w : Who) (s : Shard) (r : Nat) : Act (List Byte × Nat) := do
  let pl ← objLoad w s.id (s.rowOff r) s.rowBytes
  let st ← if s.stamped then objLoad w s.id (s.stampOff r) 1 else pure []
  pure (pl, leNat st)

/-! ### The row cache (R288, R289) -/

/-- Bytes of an E-tile's ROW_CACHE regions. -/
def cacheRoom (d : Dev) (p t : Nat) : Nat := ((regions d p t 4).map (·.2)).sum

/-- Look a row up. A line that the cache holds may have been replaced meanwhile: a free choice. -/
def Dev.cacheGet (d : Dev) (p t shard row : Nat) : Option CacheLine × Dev :=
  let hit := fun (c : CacheLine) => c.part = p && c.node = t && c.shard = shard && c.row = row
  let d' := d.draw.2
  match d.rowCache.find? hit with
  | some c => if Config.rowReplaced d.tick then (none, { d' with rowCache := d.rowCache.filter fun c => !hit c })
              else (some c, { d' with rowCache := c :: d.rowCache.filter fun c => !hit c })
  | none => (none, d')

/-- The most recently used lines that fit. -/
def keepLines : Nat → List CacheLine → List CacheLine
  | _, [] => []
  | n, c :: r => if c.payload.length ≤ n then c :: keepLines (n - c.payload.length) r else []

/-- Fill the cache with a row, least recently used lines going. -/
def Dev.cachePut (d : Dev) (c : CacheLine) : Dev :=
  let own := fun (e : CacheLine) => e.part = c.part && e.node = c.node
  let mine := c :: d.rowCache.filter fun e => own e && !(e.shard = c.shard && e.row = c.row)
  { d with rowCache := keepLines (cacheRoom d c.part c.node) mine ++ d.rowCache.filter fun e => !own e }

/-- Write through: a line that holds the row takes the new bytes. -/
def Dev.cacheWrite (d : Dev) (p t shard row : Nat) (payload : List Byte) (stamp : Nat) : Dev :=
  { d with rowCache := d.rowCache.map fun c =>
      if c.part = p ∧ c.node = t ∧ c.shard = shard ∧ c.row = row then { c with payload := payload, stamp := stamp } else c }

/-- Discard an E-tile's cache. -/
def Dev.cacheDrop (d : Dev) (p t : Nat) : Dev := { d with rowCache := d.rowCache.filter fun c => ¬ (c.part = p ∧ c.node = t) }

/-! ### Stage helpers -/

def eOpt (r : Rec) (i : Nat) : Nat := recU r (16 + i) 1
def embCount (x : Letter) (p : Nat) (r : Rec) (sat nf : Nat) : Act Unit :=
  devMod fun d => d.convCounts x.id (.embSat p (stNode r) x.ctx) (.embNonfinite p (stNode r) x.ctx) sat nf
/-- SEND: signal OUT_A when the output is complete (R280, R281). -/
def signal (x : Letter) (p : Nat) (r : Rec) (send : Bool) : Act Unit :=
  if send then sendItem x.id p (stOutA r) (.token 0) else pure ()

/-! ### The sorting engine (R284-R286) -/

/-- An entry of the shard map (R276). -/
structure MapEnt where
  first : Nat
  table : Nat
  owner : Nat

def readMap (x : Letter) (w : Who) (i : Nat) : Act (List MapEnt) := do
  needSize x i 64
  let h ← wordLoad x w i 0 64
  let n := field h 0 4
  if n = 0 ∨ 65536 < n ∨ !zeroRange h 4 60 then wordFormat i else do
  needSize x i (64 + 16 * n)
  let b ← wordLoad x w i 64 (16 * n)
  if (List.range n).any fun k => bitsN (field b (16 * k) 8) 63 60 ≠ 0 ∨ field b (16 * k + 11) 1 ≠ 0 ∨ field b (16 * k + 12) 4 ≠ 0 then
    wordFormat i
  else pure ((List.range n).map fun k =>
    let v := field b (16 * k) 8
    ⟨bitsN v 39 0, bitsN v 47 40, 16 * bitsN v 55 48 + 4 * bitsN v 57 56 + bitsN v 59 58⟩)

/-- The owner of a row: the last entry of its table at or below it (R276). -/
def ownerOf (m : List MapEnt) (e : Nat) : Option Nat :=
  ((m.filter fun a => a.table = bitsN e 47 40 ∧ a.first ≤ bitsN e 39 0).getLast?).map (·.owner)

/-- SPLIT (R284). -/
def split (x : Letter) (p : Nat) (r : Rec) : Act Unit := do
  let w := stageWho x p r
  let wi := eOpt r 1
  let wm := eOpt r 2
  let wo := eOpt r 3
  needObjs x ([wi, wm, wo, eOpt r 4].filter (· ≠ 0xFF)) []
  let b ← readBatch x w wi
  let m ← readMap x w wm
  needSize x wo (dataBase + 16 * b.ents.length)
  let own := b.ents.map (ownerOf m)
  if own.any (·.isNone) then stop (.fail 0x10 (stIndex r)) else do
  let out := ((b.ents.zip b.owners).zip (b.wts.zip own)).map fun e =>
    (e.2.2.getD 0, natLe 8 e.1.1 ++ natLe 4 e.1.2 ++ natLe 4 e.2.1)
  let segs := (List.range 4096).map fun n => let l := out.filter fun e => e.1 = n; (l.length, l.flatMap (·.2))
  objStore w (wordObj (x.word wo)) 0 (listBytes 16 segs)
  devMod fun d => d.wrap (.embSortProgress p (stNode r)) b.ents.length
  signal x p r (bitN (eOpt r 5) 0)

/-- Passes of a SORT of n entries: 1 + the base-8 logarithm of its runs, rounded up (R286). -/
def sortPasses (n : Nat) : Nat :=
  let runs := ceilDiv n 65536
  if runs ≤ 1 then 1 else if runs ≤ 8 then 2 else 3

/-- SORT (R285): stable by key, equal keys merged. The headers in which it looks rows up are checked like any reader's (R275). -/
def sortStage (x : Letter) (p : Nat) (r : Rec) : Act Unit := do
  let w := stageWho x p r
  let wi := eOpt r 1
  let wo := eOpt r 3
  let ww := eOpt r 4
  needObjs x [wi, wo, ww] []
  let es ← readEntries x w wi
  let n := es.length
  let sorted := sortBy (fun a b => a.1.key ≤ b.1.key) es.zipIdx
  let uniq := mergeRuns 0 (sorted.map (·.1.key))
  let (pa, ua) := runsAt n uniq.length
  needSize x wo (ua + 4 * n)
  needSize x ww (32 * n)
  let d ← devGet
  let found := uniq.map fun u => locate (shardsIn d) u.1
  if found.any (·.isNone) then stop (.fail 0x10 (stIndex r)) else do
  forA (((found.filterMap id).map fun e => e.1.id).eraseDups) fun s => do let _ ← readShard w s false; pure ()
  let uOf := fun (key : Nat) => (uniq.findIdx? (·.1 = key)).getD 0
  let pad := fun (l : List Byte) (k : Nat) => l ++ List.replicate (k - l.length) 0#8
  let b := natLe 4 n ++ natLe 4 uniq.length ++ List.replicate 56 0#8 ++
    uniq.flatMap fun u => natLe 8 u.1 ++ natLe 4 u.2.1 ++ natLe 4 u.2.2
  let b := pad b pa ++ sorted.flatMap fun e => natLe 4 e.2
  let b := pad b ua ++ es.flatMap fun e => natLe 4 (uOf e.key)
  if 65536 < n then scratch w (wordObj (x.word ww)) (32 * n) else pure ()
  objStore w (wordObj (x.word wo)) 0 b
  devMod fun d => d.wrap (.embSortProgress p (stNode r)) (sortPasses n * n)
  signal x p r (bitN (eOpt r 5) 0)

/-! ### The gather/pool engine (R287-R292) -/

/-- Fetch unique rows through the cache (R287, R288): payload and stamp of each, and which were missed. -/
def fetchRows (w : Who) (p t : Nat) (cache : Bool) : List (Shard × Nat) → Act (List ((List Byte × Nat) × Bool))
  | [] => pure []
  | (s, r) :: rest => do
    let d ← devGet
    let use := cache && decide (0 < cacheRoom d p t)
    let (hit, d') := if use then d.cacheGet p t s.id r else (none, d)
    devMod fun _ => d'
    let one ← match hit with
      | some c => pure ((c.payload, c.stamp), false)
      | none => do
        let v ← loadRow w s r
        if use then devMod fun d => d.cachePut ⟨p, t, s.id, r, v.1, v.2⟩ else pure ()
        pure (v, true)
    let more ← fetchRows w p t cache rest
    pure (one :: more)

/-- Count the reads of phase one (R287, R302). -/
def Dev.countReads (d : Dev) (p t : Nat) (cache : Bool) (cmin : Nat) (rows : List (Shard × Nat)) (missed : List Bool) : Dev :=
  let miss := (rows.zip missed).filterMap fun e => if e.2 then some e.1 else none
  let base := fun (s : Shard) => ((mapGet? d.objs s.id).map (·.loadBase)).getD 0
  let gs := miss.map fun e => (base e.1 + e.1.rowOff e.2) / 2048
  let whole := gs.eraseDups.filter fun g => 0 < cmin ∧ cmin ≤ (gs.filter (· = g)).length
  let single := (gs.filter fun g => !whole.contains g).length
  let lines := (miss.filterMap fun e => if e.1.stamped then some ((base e.1 + e.1.stampOff e.2) / 64) else none).eraseDups
  let d := if cache then (d.count64 (.embCacheHits p t) (rows.length - miss.length)).count64 (.embCacheMisses p t) miss.length else d
  ((d.count64 (.embGranuleReads p t) whole.length).count64 (.embRowReads p t) single).count64 (.embStampReads p t) lines.length

/-- Convert the values of a record to OUT_FORMAT: bytes, saturations, non-finite elements. FP32 to FP32 is a bit copy and counts
nothing (R206, R219). -/
def recordVals (f : EFmt) (rnd : Nat → Rnd) (vs : List W32) : List Byte × Nat × Nat :=
  if f = .fp32 then (vs.flatMap fun v => natLe 4 v.toNat, 0, 0) else
  let cs := vs.zipIdx.map fun v => convert f (1, 0) 0 (rnd v.2) (f32 v.1)
  (packCodes f (cs.map (·.code)), (cs.filter (·.sat)).length, (cs.filter (·.nonfin)).length)

/-- A record: header, values, padding (R279). -/
def recordBytes (bag n : Nat) (vals : List Byte) : List Byte :=
  let b := natLe 4 bag ++ natLe 4 n ++ List.replicate 8 0#8 ++ vals
  b ++ List.replicate (up64 b.length - b.length) 0#8

/-- The bytes of a record list from records in segment order. -/
def recordList (recs : List (Nat × List Byte)) : List Byte :=
  listBytes 64 ((List.range 4096).map fun n => let l := recs.filter fun e => e.1 = n; (l.length, l.flatMap (·.2)))

def outFmt (r : Rec) : EFmt := if eOpt r 7 = 8 then .bf16 else .fp32

/-- Pool one bag in inbound order (R290). -/
def poolBag (weighted : Bool) (len : Nat) (es : List (W32 × List W32)) : List W32 :=
  es.foldl (fun acc e => acc.zipIdx.map fun a =>
    let v := e.2.getD a.2 0#32
    if weighted then fma e.1 v a.1 else fadd a.1 v) (List.replicate len 0#32)

/-- GATHER_POOL (R287, R290). -/
def gatherPool (x : Letter) (p : Nat) (r : Rec) : Act Unit := do
  let w := stageWho x p r
  let t := stNode r
  let wa := eOpt r 2
  let wb := eOpt r 3
  let wc := eOpt r 4
  let wo := eOpt r 5
  needObjs x [wa, wb, wc, wo] []
  let es ← readEntries x w wa
  let ru ← readRuns x w wb es.length
  let d ← devGet
  let keys := ru.uniq.map (·.1)
  let known := keys.map (goodShard d)
  let widest := ((known.filterMap id).map Shard.rowBytes).foldl max 0
  let room := 64 + keys.length * (widest + 64)
  needSize x wc room
  let idx := es.zip ru.uidx
  let groups := bagsOf (idx.map fun e => (e.2, e.1))
  let lensOf := fun (g : List (Nat × Ent)) => g.filterMap fun e => (known.getD e.1 none).map (·.rowLen)
  let lenOf := fun (g : List (Nat × Ent)) => ((lensOf g).head?).getD 0
  if groups.any (fun g => (lensOf g).any fun n => n ≠ lenOf g) then wordFormat wa else do
  let f := outFmt r
  needSize x wo (dataBase + (groups.map fun g => up64 (16 + lenOf g * (f.bits / 8))).sum)
  let rows ← ownRows x p r keys
  let cache := bitN (eOpt r 8) 0
  let got ← fetchRows w p t cache rows
  devMod fun d => d.countReads p t cache (eOpt r 6) rows (got.map (·.2))
  scratch w (wordObj (x.word wc)) room
  let vals := (rows.zip got).map fun e => decodeRow e.1.1 e.2.1.1 e.2.1.2
  let recs := groups.map fun (g : List (Nat × Ent)) =>
    let acc := poolBag (eOpt r 1 = 2) (lenOf g) (g.map fun e => (e.2.wt, (vals.getD e.1 []).map (·.1)))
    let (b, sat, nf) := recordVals f (fun _ => .rne) acc
    let first := match g with | e :: _ => (e.2.seg, e.2.bag) | [] => (0, 0)
    ((first.1, recordBytes first.2 g.length b), sat, nf)
  let dec := (vals.map satsOf).sum
  objStore w (wordObj (x.word wo)) 0 (recordList (recs.map (·.1)))
  embCount x p r (dec + (recs.map (·.2.1)).sum) ((recs.map (·.2.2)).sum)
  devMod fun d => d.wrap (.embGatherProgress p t) (keys.length + es.length)
  signal x p r (bitN (eOpt r 8) 1)

/-- The format of the records that a stage reads: OUT_FORMAT of the route's stage that writes them (R279; the lists carry
no format, DEDUCED). -/
def recordFmt (d : Dev) (x : Letter) (mode : Nat) : EFmt :=
  (((stagesOf d x.route).find? fun q => stKind q.2 = 4 ∧ eOpt q.2 0 = mode).map fun q => outFmt q.2).getD .fp32

/-- A record that has been read. -/
structure RecIn where
  seg : Nat
  bag : Nat
  count : Nat
  vals : List W32

/-- Read the records of one segment one after another; `len` gives ROW_LEN by bag. Answers where the segment ends. -/
def readSeg (x : Letter) (w : Who) (i : Nat) (f : EFmt) (len : Nat → Option Nat) (seg : Nat) : Nat → Nat → Act (List RecIn × Nat)
  | 0, at_ => pure ([], at_)
  | k + 1, at_ => do
    needSize x i (at_ + 16)
    let h ← wordLoad x w i at_ 16
    let bag := field h 0 4
    match len bag with
    | none => wordFormat i
    | some n =>
      if !zeroRange h 8 8 then wordFormat i else do
      let size := up64 (16 + n * (f.bits / 8))
      needSize x i (at_ + size)
      let b ← wordLoad x w i (at_ + 16) (n * (f.bits / 8))
      let vs := (List.range n).map fun j => let c := f.elemCode b j; if f = .bf16 then BitVec.ofNat 32 (c * 65536) else BitVec.ofNat 32 c
      let (more, e) ← readSeg x w i f len seg k (at_ + size)
      pure (⟨seg, bag, field h 4 4, vs⟩ :: more, e)

/-- Read a record list. A record of another length shows where its segment does not end where the next directory entry begins, the
segments lying without gaps (R279, R291). DEDUCED: after the last segment the OFFSET of an empty entry marks the end of the data,
unless it is zero, as a list that software wrote may have it (log entry 54). -/
def readRecords (x : Letter) (w : Who) (i : Nat) (f : EFmt) (len : Nat → Nat → Option Nat) : Act (List RecIn) := do
  let (_, dir) ← readDir x w i
  let segs := (dir.zipIdx.filter fun e => e.1.2 ≠ 0)
  let parts ← mapA segs.zipIdx fun e => do
    let start := dataBase + 64 * e.1.1.1
    let (rs, fin) ← readSeg x w i f (len e.1.2) e.1.2 e.1.1.2 start
    match segs[e.2 + 1]?, dir[e.1.2 + 1]? with
    | some nx, _ => if fin ≠ dataBase + 64 * nx.1.1 then wordFormat i else pure rs
    | none, some last => if last.1 ≠ 0 ∧ fin ≠ dataBase + 64 * last.1 then wordFormat i else pure rs
    | none, none => pure rs
  pure parts.flatten

/-- The pooled matrix of an object lies within it (R300). -/
def needMatrix (x : Letter) (i rows cols : Nat) : Act Unit := do
  let w := x.word i
  if isHandle (wordObj w) then pure () else do
  let o ← getObj (wordObj w)
  if o.size < 4096 * (wordFirst w + ceilDiv rows 128 * ceilDiv cols 8) then wordFormat i else pure ()

/-- Write an FP32 matrix in the layout of R170. -/
def writeMatrix (x : Letter) (p : Nat) (r : Rec) (i rows cols : Nat) (val : Nat → Nat → W32) : Act Unit := do
  let per := ceilDiv cols 8
  let op := x.word i
  forA (List.range (ceilDiv rows 128 * per)) fun k => do
    let rt := k / per
    let c := k % per
    let lanes := min 128 (rows - 128 * rt)
    let src := (List.range 1024).map fun e =>
      if e / 8 < lanes ∧ c * 8 + e % 8 < cols then (⟨val (128 * rt + e / 8) (c * 8 + e % 8), true⟩ : SrcElem) else ⟨0#32, false⟩
    let o := convertParcel { fmt := .fp32, cls := 0, purpose := 0, key := 0, obj := wordObj op, parcel := wordFirst op + k, count := false }
      (lanes * 8) src
    parcelStore (stageWho x p r) (stLayer r) (wordObj op) (wordFirst op + k) (ceilDiv rows 128 * per) o.payload o.side.toBytes

/-- COMBINE (R291). -/
def combine (x : Letter) (p : Nat) (r : Rec) : Act Unit := do
  let w := stageWho x p r
  let wa := eOpt r 2
  let wb := eOpt r 3
  let wo := eOpt r 5
  needObjs x [wa, wb] [wo]
  let b ← readBatch x w wb
  needMatrix x wo b.samples b.cols
  let d ← devGet
  let recs ← readRecords x w wa (recordFmt d x 0) fun _ bag => if bag < b.bags then some (b.feat bag).2 else none
  let pooled := (List.range b.bags).map fun bag =>
    let mine := recs.filter fun e => e.bag = bag
    let sum := poolBag false (b.feat bag).2 (mine.map fun e => (one32, e.vals))
    let total := (mine.map (·.count)).sum
    if eOpt r 1 = 1 ∧ mine ≠ [] then sum.map fun v => fdiv v (f32OfNat total) else sum
  let val := fun (m c : Nat) =>
    match b.feats.zipIdx.find? fun f => f.1.1 ≤ c ∧ c < f.1.1 + f.1.2 with
    | some (f, k) => (pooled.getD (m * b.nf + k) []).getD (c - f.1) 0#32
    | none => 0#32
  writeMatrix x p r wo b.samples b.cols val
  devMod fun d => d.wrap (.embGatherProgress p (stNode r)) recs.length
  signal x p r (bitN (eOpt r 8) 1)

/-- SCATTER (R292). -/
def scatter (x : Letter) (p : Nat) (r : Rec) : Act Unit := do
  let w := stageWho x p r
  let wa := eOpt r 2
  let wb := eOpt r 3
  let wc := eOpt r 4
  let wo := eOpt r 5
  needObjs x [wa, wb, wo] [wc]
  let seedW := if bitN (eOpt r 8) 2 then wo + 1 else 0xFF
  if seedW ≠ 0xFF then do let _ ← needWord x seedW; pure () else pure ()
  let b ← readBatch x w wa
  let es ← readEntries x w wb
  if es.any fun e => b.bags ≤ e.bag then wordFormat wb else do
  needMatrix x wc b.samples b.cols
  let f := outFmt r
  let groups := bagsOf (es.map fun e => (0, e))
  let bagOf := fun (g : List (Nat × Ent)) => (g.head?.map fun e => (e.2.seg, e.2.bag)).getD (0, 0)
  let lenOf := fun (g : List (Nat × Ent)) => (b.feat (bagOf g).2).2
  needSize x wo (dataBase + (groups.map fun g => up64 (16 + lenOf g * (f.bits / 8))).sum)
  let d ← devGet
  let key := seedKey d x seedW
  let obj := wordObj (x.word wo)
  let parcels ← mapA ((groups.map fun g => (bagOf g).2 / b.nf / 128).eraseDups) fun rt => do
    let (_, ps) ← matParcels x w wc b.cols rt 0 b.cols
    if ps.any fun (e : Nat × Parcel) => e.2.fmt ≠ .fp32 then stop (.mem (parcelAddr d w (wordObj (x.word wc)) (wordFirst (x.word wc))) 4) else pure ps
  let ps := parcels.flatten
  let starts := groups.zipIdx.map fun g => ((groups.take g.2).map lenOf).sum
  let recs := (groups.zip starts).map fun (g : List (Nat × Ent) × Nat) =>
    let (seg, bag) := bagOf g.1
    let (off, n) := b.feat bag
    let vs := (List.range n).map fun k =>
      let v := (matElem 8 b.cols ps (bag / b.nf) (off + k)).1
      if eOpt r 1 = 1 then fdiv v (f32OfNat (b.bagSize bag)) else v
    let (bytes, sat, nf) := recordVals f (fun k => .stoch (draw key (g.2 + k) obj 5)) vs
    ((seg, recordBytes bag g.1.length bytes), sat, nf)
  objStore w obj 0 (recordList (recs.map (·.1)))
  embCount x p r ((recs.map (·.2.1)).sum) ((recs.map (·.2.2)).sum)
  devMod fun d => d.wrap (.embGatherProgress p (stNode r)) recs.length
  signal x p r (bitN (eOpt r 8) 1)

/-! ### Journals (R296-R299) -/

/-- What an entry holds beside the shard's row: the moment rows, or the accumulator (R296). -/
structure Moments where
  m1 : Option Shard
  m2 : Option Shard

def readMoments (w : Who) (s : Shard) : Act Moments := do
  let a ← match s.m1? with | some o => do let v ← readShard w o false; pure (some v) | none => pure none
  let b ← match s.m2? with | some o => do let v ← readShard w o true; pure (some v) | none => pure none
  pure ⟨a, b⟩

/-- The objects whose rows an entry keeps, the shard first. -/
def Moments.all (m : Moments) (s : Shard) : List Shard := s :: (m.m1.toList ++ m.m2.toList)
def entryLen (s : Shard) (m : Moments) : Nat := up64 (64 + ((m.all s).map (·.rowBytes)).sum)

/-- EMB_JOURNAL of an E-tile and context. -/
def journalActive (d : Dev) (p t c : Nat) : Bool := d.bit (.embJournal p t c) 24

/-- Empty a journal (R298): USED, ENTRIES and ACTIVE become 0. -/
def journalEmpty (w : Who) (j : Nat) : Act Unit := do
  objStore w j 8 (List.replicate 12 0#8)
  let f ← objLoad w j 0x15 1
  objStore w j 0x15 (natLe 1 (leNat f / 2 * 2))

/-- Offsets of a journal's entries. -/
def journalEntries (w : Who) (j : Nat) : Nat → Nat → Nat → Act (List Nat)
  | 0, _, _ => pure []
  | k + 1, at_, lim =>
    if lim ≤ at_ then pure [] else do
    let n := field (← objLoad w j (at_ + 0x14) 4) 0 4
    let more ← journalEntries w j k (at_ + max n 64) lim
    pure (at_ :: more)

def journalList (w : Who) (j : Nat) : Act (List Nat) := do
  let h ← objLoad w j 0 64
  journalEntries w j (field h 8 8 / 64 + 1) 0x40 (0x40 + field h 8 8)

/-- Put rows and stamps back from the bytes of an entry. -/
def restoreRows (w : Who) (p t row : Nat) : List (Shard × Nat) → List Byte → Act Unit
  | [], _ => pure ()
  | (s, st) :: rest, b => do
    let pl := slice b 0 s.rowBytes
    objStore w s.id (s.rowOff row) pl
    if s.stamped then objStore w s.id (s.stampOff row) (natLe 1 st) else pure ()
    devMod fun d => d.cacheWrite p t s.id row pl st
    restoreRows w p t row rest (b.drop s.rowBytes)

/-- Apply one entry. -/
def restoreEntry (w : Who) (p t j at_ : Nat) : Act Unit := do
  let h ← objLoad w j at_ 64
  let s ← readShard w (bitsN (field h 0 4) 23 0) false
  let m ← readMoments w s
  let b ← objLoad w j (at_ + 64) (((m.all s).map (·.rowBytes)).sum)
  let st := fun (i : Nat) => field h (0x10 + i) 1
  restoreRows w p t (field h 8 8) ((s, st 0) :: ((m.m1.map fun v => (v, st 1)).toList ++ (m.m2.map fun v => (v, st 2)).toList)) b
  devMod fun d => d.wrap (.embUpdateProgress p t) 1

/-- Roll a journal back: entries in reverse order, then the journal is emptied (R298). -/
def rollback (w : Who) (p t j : Nat) : Act Unit := do
  let es ← journalList w j
  forA es.reverse (restoreEntry w p t j)
  journalEmpty w j
  devMod fun d => d.count (.embRollbacks p t) 1

/-- The requester of a journal's end on an E-tile. -/
def journalWho (p t c gen : Nat) : Who := ⟨some p, t, 5, 0, c, gen, none, 0xFF, 0xFFFF⟩

/-- The end of a step on one E-tile: false while its partition is in reset or an access must wait. A journal that cannot
be reached otherwise stays ACTIVE. UPDATE_STATE shows a rollback that waits (R302). -/
def Dev.journalEnd (d : Dev) (commit : Bool) (c p t : Nat) : Bool × Dev :=
  if !journalActive d p t c then (true, d)
  else if d.resetting p then (false, d)
  else
    let j := d.fld (.embJournal p t c) 23 0
    let w := journalWho p t c (d.ctx c).gen
    let shows := fun (d : Dev) (k : Nat) => if commit ∨ halted d p t 2 ∨ (runOn d p t 2).isSome then d else d.engState p t 2 k
    match (if commit then journalEmpty w j else rollback w p t j).run d with
    | (.ok _, d') => (true, shows (d'.setReg (.embJournal p t c) 0#64) 0)
    | (.error (.wait _), d') => (false, shows { d with remotes := d'.remotes, nextTag := d'.nextTag, out := d'.out } 2)
    | (.error _, d') => (true, shows d' 0)

/-- The end of a step on every E-tile; false while one of them is not done (R298). -/
def Dev.journalsEnd (d : Dev) (commit : Bool) (c : Nat) : Bool × Dev :=
  ((List.range 16).map fun i => (i / 4, 12 + i % 4)).foldl (fun a e =>
    let (ok, d) := a.2.journalEnd commit c e.1 e.2
    (a.1 && ok, d)) (true, d)

/-! ### The row-update engine (R293-R295, R297) -/

/-- The opcode that a context's state expects next (R304). -/
def expected (d : Dev) (c : Nat) : Nat :=
  match stepState d c with
  | 0 => if d.bit (.gateStep c) 6 then 0x15 else 0x10
  | 1 => 0x11
  | 2 | 3 => 0x12
  | _ => 0

/-- The gradient of a unique row (R293). -/
def rowGrad (len : Nat) (terms : List (W32 × List W32)) : List W32 :=
  terms.foldl (fun g t => g.zipIdx.map fun a => fadd a.1 (fmul t.1 (t.2.getD a.2 0#32))) (List.replicate len 0#32)

/-- What an optimiser makes of a row: new rows of the shard and its moments, in the order of `Moments.all`, and the
non-finite elements that it writes (R294). -/
def optimise (adam : Bool) (lr eps b1 b2 : W32) (g : List W32) (olds : List (List W32)) : List (List W32) × Nat :=
  let w := olds.getD 0 []
  let at_ := fun (l : List W32) (k : Nat) => l.getD k 0#32
  let nonfin := fun (ls : List (List W32)) => (ls.map fun l => (l.filter fun v => !finite32 v).length).sum
  if adam then
    let m := g.zipIdx.map fun a => fma b1 (at_ (olds.getD 1 []) a.2) (fmul (fsub one32 b1) a.1)
    let v := g.zipIdx.map fun a => fma b2 (at_ (olds.getD 2 []) a.2) (fmul (fsub one32 b2) (fmul a.1 a.1))
    let w := w.zipIdx.map fun a => fma (fneg lr) (fmul (at_ m a.2) (frsqrt (fadd (at_ v a.2) eps))) a.1
    ([w, m, v], nonfin [w, m, v])
  else
    let s := g.foldl (fun acc e => fma e e acc) 0#32
    let acc := fadd (at_ (olds.getLast?.getD []) 0) (fdiv s (f32OfNat g.length))
    let a := fmul lr (frsqrt (fadd acc eps))
    let w := w.zipIdx.map fun e => fma (fneg a) (at_ g e.2) e.1
    ([w] ++ (olds.drop 1).dropLast ++ [[acc]], nonfin [w, [acc]])

/-- The moments that the optimiser needs; otherwise MEMORY_ERROR (R294). -/
def momentsOk (adam : Bool) (s : Shard) (m : Moments) : Bool :=
  match m.m2 with
  | none => false
  | some b =>
    if adam then (match m.m1 with | some a => a.rowLen = s.rowLen && b.rowLen = s.rowLen && s.rows ≤ a.rows && s.rows ≤ b.rows | none => false)
    else b.fmt = .fp32 && b.rowLen = 1 && s.rows ≤ b.rows

/-- Journal one row, then update it (R294, R295, R297). -/
def updateRow (x : Letter) (p : Nat) (r : Rec) (adam : Bool) (hyper : W32 × W32 × W32 × W32) (j : Nat) (key : Nat)
    (e : (Shard × Nat) × Moments × List W32) : Act Unit := do
  let w := stageWho x p r
  let t := stNode r
  let ((s, row), m, g) := e
  let objs := m.all s
  let olds ← mapA objs fun o => loadRow w o row
  let n := entryLen s m
  let st := fun (o : Option Shard) => match o with
    | some o => ((objs.zip olds).find? fun v => v.1.id = o.id).map (fun v => v.2.2) |>.getD 0
    | none => 0
  let head := natLe 4 s.id ++ natLe 4 0 ++ natLe 8 row ++ natLe 1 (st (some s)) ++ natLe 1 (st m.m1) ++ natLe 1 (st m.m2) ++
    natLe 1 0 ++ natLe 4 n ++ List.replicate 40 0#8
  let h ← objLoad w j 0 64
  objStore w j (0x40 + field h 8 8) (slice (head ++ olds.flatMap (·.1)) 0 n)
  objStore w j 8 (natLe 8 (field h 8 8 + n) ++ natLe 4 (field h 0x10 4 + 1))
  devMod fun d => d.addFld (.embJournal p t x.ctx) 63 32 1
  let dec := (objs.zip olds).map fun v => decodeRow v.1 v.2.1 v.2.2
  let (lr, eps, b1, b2) := hyper
  let (news, nf) := optimise adam lr eps b1 b2 g (dec.map fun l => l.map (·.1))
  let rndOf := fun (o : Shard) (k : Nat) =>
    if o.id = s.id ∨ !adam then Rnd.rne
    else Rnd.stoch (draw key (row * s.rowLen + k) o.id (if some o.id = m.m1.map (·.id) then 6 else 7))
  let outs := (objs.zip news).map fun v => (v.1, encodeRow v.1 (rndOf v.1) v.2)
  forA (outs.filter fun v => adam || v.1.id = s.id || some v.1.id = m.m2.map (·.id)) fun v => do
    objStore w v.1.id (v.1.rowOff row) v.2.1
    if v.1.stamped then objStore w v.1.id (v.1.stampOff row) (natLe 1 v.2.2.1) else pure ()
    devMod fun d => d.cacheWrite p t v.1.id row v.2.1 v.2.2.1
  embCount x p r ((dec.map satsOf).sum + (outs.map (·.2.2.2)).sum) nf
  devMod fun d => d.wrap (.embUpdateProgress p t) 1

/-- A row update (R293-R297). Records have no extent while a row's shard is not known: its error comes first (R300). -/
def rowUpdate (adam : Bool) (x : Letter) (p : Nat) (r : Rec) : Act Unit := do
  let w := stageWho x p r
  let t := stNode r
  let wi := eOpt r 1
  let wr := eOpt r 2
  let wg := eOpt r 3
  let wh := eOpt r 4
  let wj := eOpt r 5
  needObjs x [wi, wr, wg, wj] []
  let h1 ← needWord x wh
  let h2 ← if adam then needWord x (wh + 1) else pure 0
  if eOpt r 6 ≠ 0xFF then do let _ ← needWord x (eOpt r 6); pure () else pure ()
  let es ← readEntries x w wi
  let ru ← readRuns x w wr es.length
  needSize x wj 64
  let d ← devGet
  let keys := ru.uniq.map (·.1)
  let known := keys.map (goodShard d)
  if known.any (·.isNone) then do let _ ← ownRows x p r keys; pure () else do
  let lens := (known.filterMap id).map (·.rowLen)
  let lenOf := fun (seg bag : Nat) => ((es.zip ru.uidx).find? fun e => e.1.seg = seg ∧ e.1.bag = bag).map fun e => lens.getD e.2 0
  let recs ← readRecords x w wg (recordFmt d x 2) lenOf
  let terms := ru.uniq.map fun u => (List.range u.2.2).map fun i =>
    let e := es[ru.perm.getD (u.2.1 + i) 0]?
    e.bind fun e => (recs.find? fun v => v.seg = e.seg ∧ v.bag = e.bag).map fun v => (e.wt, v.vals)
  if terms.any fun l => l.any (·.isNone) then wordFormat wg else do
  let rows ← ownRows x p r keys
  let moms ← mapA rows fun e => do
    let m ← readMoments w e.1
    if momentsOk adam e.1 m then pure m else do
      let d ← devGet
      stop (.mem (((mapGet? d.objs e.1.id).map (·.loadBase)).getD 0) 3)
  let c := x.ctx
  let j := wordObj (x.word wj)
  let d ← devGet
  if stepState d c ≠ 1 ∨ x.bracket ≠ 1 then stop (.fail 0x30 (expected d c)) else do
  let jh ← objLoad w j 0 64
  let act := journalActive d p t c
  if act ∧ (d.fld (.embJournal p t c) 23 0 ≠ j ∨ field jh 0 8 ≠ stepOpen d c) then stop (.fail 0x30 (expected d c)) else do
  let used := if act then field jh 8 8 else 0
  let need := ((rows.zip moms).map fun e => entryLen e.1.1 e.2).sum
  let o ← getObj j
  if o.size < 64 + used + need then stop (.fail 0x22 p) else do
  if !act then do
    objStore w j 0 (natLe 8 (stepOpen d c) ++ natLe 8 0 ++ natLe 4 0 ++ natLe 1 c ++ natLe 1 1 ++ List.replicate 42 0#8)
    devMod fun d => d.setReg (.embJournal p t c) (BitVec.ofNat 64 (j + 2 ^ 24))
  else pure ()
  let w32 := fun (v hi lo : Nat) => BitVec.ofNat 32 (bitsN v hi lo)
  let hyper := (w32 h1 31 0, w32 h1 63 32, w32 h2 31 0, w32 h2 63 32)
  let grads := (rows.zip terms).map fun e => rowGrad e.1.1.rowLen (e.2.filterMap id)
  forA ((rows.zip (moms.zip grads)).map fun e => (e.1, e.2.1, e.2.2)) (updateRow x p r adam hyper j (seedKey d x (eOpt r 6)))

/-- RECOVER (R299): every entry's shard is checked, lodged and owned first and then its headers, before any row is written (R300). -/
def recoverStage (x : Letter) (p : Nat) (r : Rec) : Act Unit := do
  let w := stageWho x p r
  let t := stNode r
  let wj := eOpt r 5
  let wh := eOpt r 4
  needObjs x [wj] []
  let rw_ ← needWord x wh
  if 2 ≤ rw_ then wordFormat wh else do
  needSize x wj 64
  let d ← devGet
  let c := x.ctx
  if stepState d c ≠ 0 ∨ d.bit (.gateStep c) 6 = true ∨ journalActive d p t c = true then stop (.fail 0x30 (expected d c)) else do
  let j := wordObj (x.word wj)
  let h ← objLoad w j 0 64
  if !bitN (field h 0x15 1) 0 then pure () else do
  let es ← journalList w j
  let ids ← mapA es fun at_ => do let sh ← objLoad w j at_ 4; pure (bitsN (leNat sh) 23 0)
  forA ids.eraseDups fun id => do
    let d ← devGet
    match mapGet? d.objs id with
    | some o => if ownedBy d p t (Shard.fields id (homeView d o.loadBase 64)) then pure () else stop (.fail 0x21 0)
    | none => stop (.fail 0x21 0)
  forA ids.eraseDups fun id => do
    let s ← readShard w id false
    let _ ← readMoments w s
    pure ()
  if bitN rw_ 0 then journalEmpty w j else rollback w p t j

/-! ### Commands (R284-R302) -/

/-- A gather/pool stage waits while a cache invalidation does (R289). -/
def Dev.gatherShot (d : Dev) (l : LetterId) (stage mode : Nat) (a : Letter → Nat → Rec → Act Unit) : Dev :=
  match stageAt d l stage [4] with
  | some (x, p, r) =>
    if eOpt r 0 = mode ∧ d.bit (.embStatus p (stNode r)) 6 ∧ (runOf d l stage).isNone then d.waitStage x r
    else d.oneShot l stage [4] (fun r => eOpt r 0 = mode) 1 a
  | none => d

def execSplit (l : LetterId) (stage : Nat) (s : State) : Host.Outcome State Fault Refusal :=
  .next (s.onDev fun d => d.oneShot l stage [3] (fun r => eOpt r 0 = 0) 1 split)
def execSort (l : LetterId) (stage : Nat) (s : State) : Host.Outcome State Fault Refusal :=
  .next (s.onDev fun d => d.oneShot l stage [3] (fun r => eOpt r 0 = 1) 1 sortStage)
def execGatherPool (l : LetterId) (stage : Nat) (s : State) : Host.Outcome State Fault Refusal :=
  .next (s.onDev fun d => d.gatherShot l stage 0 gatherPool)
def execCombine (l : LetterId) (stage : Nat) (s : State) : Host.Outcome State Fault Refusal :=
  .next (s.onDev fun d => d.gatherShot l stage 1 combine)
def execScatter (l : LetterId) (stage : Nat) (s : State) : Host.Outcome State Fault Refusal :=
  .next (s.onDev fun d => d.gatherShot l stage 2 scatter)
def execAdagrad (l : LetterId) (stage : Nat) (s : State) : Host.Outcome State Fault Refusal :=
  .next (s.onDev fun d => d.oneShot l stage [5] (fun r => eOpt r 0 = 0) 1 (rowUpdate false))
def execAdam (l : LetterId) (stage : Nat) (s : State) : Host.Outcome State Fault Refusal :=
  .next (s.onDev fun d => d.oneShot l stage [5] (fun r => eOpt r 0 = 1) 1 (rowUpdate true))
def execRecover (l : LetterId) (stage : Nat) (s : State) : Host.Outcome State Fault Refusal :=
  .next (s.onDev fun d => d.oneShot l stage [5] (fun r => eOpt r 0 = 2) 2 recoverStage)

def isEtile (p t : Nat) : Bool := p < 4 && 12 ≤ t && t < 16

/-- EMB_CTRL.CACHE_INVAL: the invalidation waits for the gather/pool engine (R289). -/
def execCacheInval (via : Via) (p t : Nat) (s : State) : Host.Outcome State Fault Refusal :=
  .next (s.onDev fun d => if !isEtile p t then d else
    d.viaReg via .open_ (.embCtrl p t) (.cacheInval via p t) fun d => (d.setBit (.embCtrl p t) 1 true).setBit (.embStatus p t) 6 true)

/-- The invalidation takes effect: no gather/pool stage runs on the tile (R289). -/
def execCacheInvalApply (p t : Nat) (s : State) : Host.Outcome State Fault Refusal :=
  .next (s.onDev fun d => if isEtile p t ∧ d.bit (.embStatus p t) 6 = true ∧ (runOn d p t 1).isNone = true then
    ((d.cacheDrop p t).setBit (.embStatus p t) 6 false).setBit (.embCtrl p t) 1 false else d)

/-- EMB_CTRL.CLEAR_COUNTS (R302). -/
def execEmbClearCounts (via : Via) (p t : Nat) (s : State) : Host.Outcome State Fault Refusal :=
  .next (s.onDev fun d => if !isEtile p t then d else
    d.viaReg via .open_ (.embCtrl p t) (.embClearCounts via p t) fun d => d.clearCounts (.embSat p t) (.embNonfinite p t))

/-- An ECC error in the sort store (R301). -/
def execEmbeddingEccError (p t : Nat) (corrected : Bool) (s : State) : Host.Outcome State Fault Refusal :=
  .next (s.onDev fun d => if !isEtile p t then d else
    if corrected then d.count (.embEccCorr p t) 1 else d.engineFault p t 0 0x104 (.embStatus p t) 7)

end Sys2Proof.Machine
end

