-- ==== Sys2Proof/Machine/Reduction.lean ====
section
/-! DEFINITION. The mailbag engine: accumulation of gradients, reduction channels and exact reduction in BFX32 (R312, R313,
R354-R366, R368). -/

namespace Sys2Proof.Machine

/-! ### Records and options (R57, R354) -/

def redRecs (d : Dev) (p : Nat) : List Rec := ((mapGet? d.parts p).map (·.reduction)).getD []
def rdChan (r : Rec) : Nat := recU r 0 1
def rdOp (r : Rec) : Nat := recU r 1 1
def rdPos (r : Rec) : Nat := recU r 2 2
def rdMailbag (r : Rec) : Nat := recU r 4 4
def rdObj (r : Rec) : Nat := bitsN (recU r 8 4) 23 0
def rdElems (r : Rec) : Nat := recU r 0xC 4
def rdGroups (r : Rec) : Nat := ceilDiv (rdElems r) 1024
def findRed (d : Dev) (p mailbag : Nat) : Option Rec := (redRecs d p).find? fun r => rdMailbag r = mailbag
/-- Records of a channel: their number is the length of a cycle (R356). -/
def chanRecs (d : Dev) (p ch : Nat) : List Rec := (redRecs d p).filter fun r => rdChan r = ch

def mMode (r : Rec) : Nat := recU r 16 1
def mFlag (r : Rec) (i : Nat) : Bool := bitN (recU r 17 1) i
def mWordMb (r : Rec) : Nat := recU r 18 1
def mWordSeed (r : Rec) : Nat := recU r 19 1
def mMailbag (r : Rec) : Nat := recU r 20 4

/-- The dimensions that a mailbag crosses, in the rotated order of R358; a dimension of size 1 adds nothing. -/
def redDims (d : Dev) (r : Rec) : List Nat :=
  ([0, 1, 2].map fun i => (rdMailbag r + i) % 3).filter fun k => bitN (recU r 0x10 1) k && decide (1 < dimSize d k)
/-- Contributing modules (R358). -/
def redN (d : Dev) (r : Rec) : Nat := ((redDims d r).map (dimSize d)).foldl (· * ·) 1
/-- H, the headroom (R361). -/
def headroom (n : Nat) : Nat := if n ≤ 1 then 0 else Nat.log2 (n - 1) + 1

/-- The STEP that frames of a context carry: its open step, or zero (R364). -/
def curStep (d : Dev) (c : Nat) : Nat := if stepState d c = 0 then 0 else stepOpen d c

/-! ### Channels (R356) -/

def bagRec (d : Dev) (b : Bag) : Rec := (findRed d b.part b.mailbag).getD []
def sameBag (b : Bag) (p c mb : Nat) : Bool := b.part = p && b.ctx = c && b.mailbag = mb
def findBag (d : Dev) (p c mb : Nat) : Option Bag := d.bags.find? fun b => sameBag b p c mb
def Dev.setBag (d : Dev) (b : Bag) : Dev :=
  { d with bags := d.bags.map fun x => if sameBag x b.part b.ctx b.mailbag then b else x }

/-- The head of a context's cycle on a channel: the lowest position that has not gone (R356). -/
def headPos (d : Dev) (p ch c : Nat) : Nat := mapGet d.cycles (p, ch, c) 0
def isHead (d : Dev) (b : Bag) : Bool := !b.gone && rdPos (bagRec d b) = headPos d b.part b.chan b.ctx

/-- RED_CHAN shows a context's cycle: its head position, the mailbag of that position, and whether a mailbag of the channel is in
flight (R370). -/
def Dev.redChanSync (d : Dev) (p ch c : Nat) : Dev :=
  let head := ((chanRecs d p ch).find? fun r => rdPos r = headPos d p ch c).map rdMailbag
  let d := (d.setFld (.redChan p ch) 15 0 (headPos d p ch c)).setFld (.redChan p ch) 21 16 c
  (d.setBit (.redChan p ch) 22 (d.bags.any fun b => b.part = p && b.chan = ch && b.active && !b.done)).setFld (.redChan p ch) 63 32 (head.getD 0)

/-- The next position of a cycle of n records that has not gone yet: those whose mailbag was over before the head reached them are
passed at once (R356, R359). -/
def passOn (past : List ((Nat × Nat × Nat) × Nat)) (k : Nat × Nat × Nat) (n : Nat) : Nat → Nat → Nat × List ((Nat × Nat × Nat) × Nat)
  | 0, pos => (pos, past)
  | f + 1, pos => if past.contains (k, pos) then passOn (past.filter (· ≠ (k, pos))) k n f (if n ≤ pos + 1 then 0 else pos + 1) else (pos, past)

/-- The head of a context's cycle moves on, and the context's next mailbag queues behind those that are at their heads already
(R356). -/
def Dev.cycleOn (d : Dev) (b : Bag) : Dev :=
  let n := (chanRecs d b.part b.chan).length
  let k := (b.part, b.chan, b.ctx)
  let pos := headPos d b.part b.chan b.ctx + 1
  let (pos, past) := passOn d.redPast k n n (if n ≤ pos then 0 else pos)
  let d := { d with cycles := mapSet d.cycles k pos, redPast := past }
  let up := d.bags.filter fun x => x.part = b.part ∧ x.chan = b.chan ∧ x.ctx = b.ctx ∧ isHead d x = true
  { d with bags := d.bags.filter (fun x => !up.contains x) ++ up }

/-- A mailbag is over on this module. The head moves on with it when it stands there; a mailbag that ends before its turn leaves
its position to be passed in order (R356, R359). -/
def Dev.bagGone (d : Dev) (b : Bag) : Dev :=
  let head := isHead d b
  let key := ((b.part, b.chan, b.ctx), rdPos (bagRec d b))
  let d := { d with bags := d.bags.filter fun x => !sameBag x b.part b.ctx b.mailbag,
                    redEarly := d.redEarly.filter fun e => ¬ (e.part = b.part ∧ e.ctx = b.ctx ∧ e.mailbag = b.mailbag),
                    redFails := d.redFails.filter fun e => ¬ (e.1.1 = b.part ∧ e.1.2.1 = b.ctx ∧ e.1.2.2.1 = b.mailbag),
                    redBad := d.redBad.filter (· ≠ (b.part, b.ctx, b.mailbag)) }
  let d := if b.gone then d else if head then d.cycleOn b else { d with redPast := key :: d.redPast }
  d.redChanSync b.part b.chan b.ctx

/-- Frames of a mailbag have not left yet: they wait for a port or for a group credit (R356, R357). -/
def bagQueued (d : Dev) (b : Bag) : Bool :=
  let mine := fun (f : Frame) => f.kind = 4 && f.src = modNumber d && bitsN f.hdr 5 0 = b.ctx % 64 && field f.body 0 4 = b.mailbag
  d.ports.any (fun p => p.2.queue.any mine) || d.redWait.any fun e => mine e.2.2.2

/-- A mailbag has completed on this module: SEND's token, and its letter's receipt may follow (R354, R359). It stays at the
channel's head while frames of it have not left (R356). -/
def Dev.bagDone (d : Dev) (b : Bag) : Dev :=
  let d := if bagQueued d b then (d.setBag { b with done := true, active := true }).redChanSync b.part b.chan b.ctx else d.bagGone b
  let d := d.redState b.part
  match findLetter d b.letter with
  | none => d
  | some x =>
    let d := match findStage d x.route b.stage with
      | some (p, r) => if stKind r = 8 ∧ mMode r = 1 ∧ mFlag r 0 then d.emit x.id p (stOutA r) (.token 0) else d
      | none => d
    if x.opcode = 1 then d.letterDone x.id else d

/-- The token that SEND's mailbag sends when it completes has room; until then the mailbag stands (R77, R354). -/
def bagRoom (d : Dev) (b : Bag) : Bool :=
  match (findLetter d b.letter).bind fun x => findStage d x.route b.stage with
  | some (p, r) => !(stKind r = 8 && mMode r = 1 && mFlag r 0) || tokenRoom d b.letter p (stOutA r)
  | none => true

/-- The groups of a mailbag that are not stored are undefined once it has failed (R359). -/
def Dev.loseGroups (d : Dev) (b : Bag) : Dev :=
  let r := bagRec d b
  match mapGet? d.objs (rdObj r) with
  | none => d
  | some o =>
    let (k, d) := d.draw
    let left := (List.range (rdGroups r)).filter fun g => !b.grps.any fun x => x.g = g && x.phase = 3
    let m := left.foldl (fun m g => (m.undefine (o.loadBase + 4096 * g) (o.loadBase + 4096 * g + 4096) k).undefine
      (o.loadBase + o.size + 512 * g) (o.loadBase + o.size + 512 * g + 512) k) d.mem
    { d with mem := m }

/-- A mailbag fails: its letter completes with REDUCE_FAILED and the channel moves on (R359). -/
def Dev.bagFail (d : Dev) (b : Bag) : Dev :=
  let d := (d.loseGroups b).finish b.letter 0x32 b.chan
  let d := { d with redFailed := mapSet d.redFailed (b.part, b.ctx, b.mailbag) b.step }
  ((d.bagGone b).setBit (.redChan b.part b.chan) 23 true).redState b.part

/-- Queue a mailbag; one that another module has reported bad fails at once (R356, R362). -/
def Dev.queueBag (d : Dev) (b : Bag) : Dev :=
  let d := { d with bags := d.bags ++ [b], redFailed := mapErase d.redFailed (b.part, b.ctx, b.mailbag) }
  if d.redBad.contains (b.part, b.ctx, b.mailbag) then d.bagFail b else d

/-- Discard a context's cycles, groups and exchanges (R356, R368). -/
def Dev.redDrop (d : Dev) (c : Nat) : Dev :=
  let d := { d with bags := d.bags.filter (·.ctx ≠ c), cycles := d.cycles.filter (fun e => e.1.2.2 ≠ c),
                    redPast := d.redPast.filter (fun e => e.1.2.2 ≠ c), redEarly := d.redEarly.filter (·.ctx ≠ c), redSent := d.redSent.filter (·.ctx ≠ c),
                    redWait := d.redWait.filter (fun e => bitsN e.2.2.2.hdr 5 0 ≠ c % 64),
                    redFails := d.redFails.filter (fun e => e.1.2.1 ≠ c), redFailed := d.redFailed.filter (fun e => e.1.2.1 ≠ c),
                    redBad := d.redBad.filter (fun e => e.2.1 ≠ c), exchs := d.exchs.filter (·.ctx ≠ c),
                    xcounts := d.xcounts.filter (·.ctx ≠ c), xready := d.xready.filter (·.ctx ≠ c) }
  d.each ((List.range 4).flatMap fun p => (List.range 8).map fun k => (p, k)) fun d e =>
    if d.reg (.redChan e.1 e.2) ≠ 0#64 ∧ d.fld (.redChan e.1 e.2) 21 16 = c then d.redChanSync e.1 e.2 c else d

/-- Discard a partition's channels, store and queues (R368). -/
def Dev.redDropPart (d : Dev) (p : Nat) : Dev :=
  { d with bags := d.bags.filter (·.part ≠ p), cycles := d.cycles.filter (fun e => e.1.1 ≠ p),
           redPast := d.redPast.filter (fun e => e.1.1 ≠ p),
           redEarly := d.redEarly.filter (·.part ≠ p), redSent := d.redSent.filter (·.part ≠ p),
           redWait := d.redWait.filter (fun e => (findRed d p (field e.2.2.2.body 0 4)).isNone),
           redFails := d.redFails.filter (fun e => e.1.1 ≠ p), redFailed := d.redFailed.filter (fun e => e.1.1 ≠ p),
           redBad := d.redBad.filter (fun e => e.1 ≠ p), exchs := d.exchs.filter (·.part ≠ p) }

/-! ### Accumulation (R312, R355) -/

/-- The array stages whose drains a mailbag stage takes. -/
def producers (d : Dev) (x : Letter) (p : Nat) (r : Rec) : List Rec :=
  ((stagesOf d x.route).filter fun q => stKind q.2 = 0 ∧ chanEnd d q.1 (stOutA q.2) = chanEnd d p (stInA r)).map (·.2)

/-- An earlier letter of the mailbox has not finished its additions into the same object (R312). -/
def earlierGrad (d : Dev) (x : Letter) (p mb : Nat) : Bool :=
  (d.letters.takeWhile fun y => y.id ≠ x.id).any fun y =>
    y.id.mbx = x.id.mbx && y.ctx = x.ctx && y.opcode = 1 && y.result.isNone &&
    (stagesOf d y.route).any fun q => q.1 = p && stKind q.2 = 8 && mMode q.2 = 0 && mMailbag q.2 = mb &&
      !y.stages.contains (stIndex q.2)

/-- Parcels of the object that a tile touches, with the tile's column of each (R170, R184). -/
def tileParcels (m n tile : Nat) : List (Nat × Nat) :=
  let nt := tile / ceilDiv m 128
  let per := ceilDiv n 8
  ((List.range 16).filter fun k => 16 * nt + k < per).map fun k => (tile % ceilDiv m 128 * per + 16 * nt + k, 8 * k)

/-- Store or add one parcel of a tile: a group of 1,024 elements (R184, R312). -/
def addParcel (w : Who) (obj i : Nat) (first : Bool) (vals : List W32) : Act Unit := do
  let vals ← if first then pure vals else do
    let q ← readParcel w obj i
    if q.fmt ≠ .fp32 then do let d ← devGet; stop (.mem (parcelAddr d w obj i) 4) else
    pure (vals.zipIdx.map fun v => fadd (decodeElem q.fmt q.side q.payload v.2).1 v.1)
  let (pl, sd) := drainParcel false obj i 1024 vals
  parcelStore w 0xFFFF obj i 0 pl sd

/-- GRAD takes the next tile off its channel (R312, R313, R355). -/
def gradStep (x : Letter) (p : Nat) (r : Rec) (q : Run) : Act Unit := do
  let w := stageWho x p r
  let flags ← needWord x (mWordMb r)
  if 4 ≤ flags then stop (.fail 1 (8 * mWordMb r)) else do
  let d ← devGet
  match (producers d x p r).head?, findRed d p (mMailbag r) with
  | some a, some rd => do
    let (m, n, _) := dimsOf x a
    if earlierGrad d x p (mMailbag r) then stop (.wait 1) else
    match d.chan x.id p (stInA r) with
    | .tile t vals :: rest => do
      let ps := tileParcels m n t
      forA ps fun e => addParcel w (rdObj rd) e.1 (bitN flags 0)
        ((List.range 1024).map fun k => vals.getD (k / 8 * 128 + e.2 + k % 8) 0#32)
      let last := q.pos + 1 = tileCount m n
      devMod fun d =>
        let d := (d.setChan x.id p (stInA r) rest).setRun x.id (stIndex r) fun q => { q with pos := q.pos + 1 }
        let d := if bitN flags 1 ∧ !mFlag r 2 then
            let b := (findBag d p x.ctx (mMailbag r)).getD
              { part := p, chan := rdChan rd, ctx := x.ctx, gen := x.gen, step := curStep d x.ctx, mailbag := mMailbag r,
                letter := x.id, stage := stIndex r, key := if mWordSeed r = 0xFF then 0 else x.word (mWordSeed r),
                active := false, ready := [], grps := [], gone := false, done := false }
            let b := { b with ready := b.ready ++ (ps.map (·.1)).filter fun g => g < rdGroups rd && !b.ready.contains g }
            if (findBag d p x.ctx (mMailbag r)).isSome then d.setBag b else d.queueBag b
          else d
        d
      if last ∧ bitN flags 1 ∧ mFlag r 0 then sendItem x.id p (stOutA r) (.token 0) else pure ()
      if last then devMod fun d => d.stageDone x (stIndex r) else pure ()
    | _ => stop (.wait 1)
  | _, _ => stop (.wait 1)

/-- SEND: every group is ready when the stage starts (R355). -/
def sendStage (x : Letter) (p : Nat) (r : Rec) : Act Unit := do
  let d ← devGet
  if mFlag r 1 then
    match takeToken d x.id p (stInB r) with
    | none => stop (.wait 1)
    | some (_, d') => devMod fun _ => d'
  else pure ()
  match findRed d p (mMailbag r) with
  | none => pure ()
  | some rd => do
    let seed ← if mWordSeed r = 0xFF then pure 0 else needWord x (mWordSeed r)
    devMod fun d => d.queueBag
      { part := p, chan := rdChan rd, ctx := x.ctx, gen := x.gen, step := curStep d x.ctx, mailbag := mMailbag r,
        letter := x.id, stage := stIndex r, key := seed, active := false, ready := List.range (rdGroups rd), grps := [], gone := false, done := false }

/-! ### Words, residues and frames (R360-R364) -/

/-- e(x) of a finite element; none for NaN and Inf (R360). -/
def expOf (v : W32) : Option Nat :=
  let e := v.toNat / 2 ^ 23 % 256
  if e = 255 then none else some (if v.toNat % 2 ^ 31 = 0 then 0 else max e 1)

/-- A 1,024-bit mask as 128 bytes. -/
def maskBytes (bs : List Bool) : List Byte :=
  (List.range 128).map fun i => BitVec.ofNat 8 (((List.range 8).map fun j => if bs.getD (8 * i + j) false then 2 ^ j else 0).sum)
def maskBit (m : List Byte) (k : Nat) : Bool := bitN (field m (k / 8) 1) (k % 8)
def noMask : List Byte := List.replicate 128 0#8

/-- u = 2^(G - 157 + H), by its exponent (R361). -/
def unitOf (g h : Nat) : Int := (g : Int) - 157 + h

/-- Convert an element to a word: the word and whether it saturated (R361). -/
def bfxWord (g h key obj e : Nat) (masked : Bool) (v : W32) : W32 × Bool :=
  if g = 0 ∨ masked then (0#32, false) else
  match f32 v with
  | .fin neg m x =>
    let q := roundInt neg m 1 (x - unitOf g h) (.stoch (draw key e obj 8))
    let (q, s) := if q = 2 ^ (31 - h) then (q - 1, true) else (q, false)
    (if neg then BitVec.ofInt 32 (-(q : Int)) else BitVec.ofNat 32 q, s)
  | _ => (0#32, false)

/-- A word's residue: its signed value modulo 255 (R362). -/
def residue (w : W32) : Nat := (w.toInt % 255).toNat

/-- The result of a summed word: S x u rounded to FP32, and whether it saturated (R363). -/
def bfxResult (g h : Nat) (masked : Bool) (w : W32) : W32 × Bool :=
  if masked then (nan32, false) else
  let s := w.toInt
  let v := toF32 (.fin (s < 0) s.natAbs (unitOf g h))
  if v.toNat % 2 ^ 31 = 0x7F800000 then (if s < 0 then 0xFF7FFFFF#32 else maxF32, true) else (v, false)

/-- Bytes 0x00-0x17 of a summary or group frame (R364). -/
def legHead (d : Dev) (b : Bag) (g pass dim : Nat) (l : Load) (op : Nat) : List Byte :=
  natLe 4 b.mailbag ++ natLe 4 g ++ natLe 1 l.exp ++ natLe 1 (if op = 0 then headroom (redN d (bagRec d b)) else 0) ++ natLe 1 pass ++
  natLe 1 dim ++ natLe 2 l.contrib ++ natLe 2 0 ++ natLe 8 b.step

/-- A phase-one summary (152 bytes) or a GROUP frame (5,312 bytes) (R364, R365). -/
def legBody (d : Dev) (b : Bag) (g phase pass dim : Nat) (l : Load) (op : Nat) : List Byte :=
  let h := legHead d b g pass dim l op
  if phase = 1 then h ++ slice l.mask 0 128
  else h ++ List.replicate 40 0#8 ++ slice l.mask 0 128 ++ l.words.flatMap (fun w => natLe 4 w.toNat) ++
    (if op = 0 then l.words.map fun w => BitVec.ofNat 8 (residue w) else List.replicate 1024 0#8)

/-- Send round a ring: the live port of the direction that the group takes, else any way (R350, R358). -/
def Dev.ringSend (d : Dev) (dim dir g : Nat) (f : Frame) : Dev :=
  let l := livePorts d dim dir
  match l[g % l.length]? with
  | some n => d.enqueue n f
  | none => d.route f

/-- Group frames of this module that a neighbour has not acknowledged, on a channel, a dimension and a direction: each holds one of
the 16 group credits. The spec names no message that brings a group credit back; the model takes the link's acknowledgement for
the receiver's consumption of the frame (DESIGN CHOICE, log entry 55; R357). -/
def groupCredits (d : Dev) (ch dim dir : Nat) : Nat :=
  let mine := fun (f : Frame) => f.kind = 4 && f.src = modNumber d && field f.body 0xB 1 % 4 = dim && f.key % 2 = dir &&
    (List.range 4).any fun p => ((findRed d p (field f.body 0 4)).map rdChan) = some ch
  (d.ports.map fun p => (p.2.queue.filter mine).length + (p.2.replay.filter fun t => mine t.2.2).length).sum

/-- Send a group frame, or hold it until a group credit returns (R357). -/
def Dev.groupSend (d : Dev) (ch dim dir : Nat) (f : Frame) : Dev :=
  if 16 ≤ groupCredits d ch dim dir ∨ d.redWait.any (fun e => e.1 = ch ∧ e.2.1 = dim ∧ e.2.2.1 = dir) then
    { d with redWait := d.redWait ++ [(ch, dim, dir, f)] }
  else d.ringSend dim dir f.key f

/-- Group frames that wait go as credits return, in order (R357). -/
def Dev.redPump (d : Dev) : Dev :=
  let ws := d.redWait
  if ws = [] then d else ({ d with redWait := [] } : Dev).each ws fun d e => d.groupSend e.1 e.2.1 e.2.2.1 e.2.2.2

/-- Send a leg of a group to the next module in the ring; group frames are kept (R358, R362). -/
def Dev.sendLeg (d : Dev) (b : Bag) (g phase pass dim : Nat) (l : Load) : Dev :=
  let op := rdOp (bagRec d b)
  let body := legBody d b g phase pass dim l op
  let dir := g % 2
  match neighbour d (modNumber d) dim dir with
  | none => d
  | some dst =>
    let f : Frame := { kind := if phase = 1 then 2 else 4, vc := 3, dl := 0, src := modNumber d, dst := dst,
                       hdr := b.ctx % 64 + b.gen % 4096 * 2 ^ 6, key := g, body := body }
    let d := if phase = 1 then d else
      { d with redSent := ⟨b.part, b.ctx, b.mailbag, g, pass, dim, dir, body⟩ ::
          d.redSent.filter fun s => ¬ (s.part = b.part ∧ s.ctx = b.ctx ∧ s.mailbag = b.mailbag ∧ s.g = g ∧ s.pass = pass ∧ s.dim = dim) }
    if phase = 1 then d.ringSend dim dir g f else d.groupSend b.chan dim dir f

/-- Combine two partials: maximum and OR in phase one, exact sums, or the maximum of OP 1 (R360, R361, R365). -/
def Load.join (op phase : Nat) (a b : Load) : Load :=
  let c := a.contrib + b.contrib
  if phase = 1 then { a with exp := max a.exp b.exp, mask := (a.mask.zip b.mask).map fun e => e.1 ||| e.2, contrib := c }
  else { a with words := (a.words.zip b.words).map fun e => if op = 0 then e.1 + e.2 else fmax e.1 e.2, contrib := c }

/-- An adder's check (R362): the residues of the two words, which each word has carried since it was converted or checked, add up
to the residue of the sum. -/
def Load.addOk (a b s : Load) : Bool :=
  ((a.words.zip b.words).zip s.words).all fun e => residue e.2 = (residue e.1.1 + residue e.1.2) % 255

/-! ### The path of a group (R358) -/

/-- The ring position at which a group's sum is complete in a dimension. -/
def homeAt (d : Dev) (dim g : Nat) : Nat := Config.ringHome dim g % dimSize d dim
/-- The position at which its reduce-scatter starts: the one after its home in the direction of travel. -/
def startAt (d : Dev) (dim g : Nat) : Nat :=
  let n := dimSize d dim
  if g % 2 = 0 then (homeAt d dim g + 1) % n else (homeAt d dim g + n - 1) % n
/-- The next position in the ring. -/
def nextAt (d : Dev) (dim g : Nat) : Nat :=
  let n := dimSize d dim
  let c := coord d (modNumber d) dim
  if g % 2 = 0 then (c + 1) % n else (c + n - 1) % n

def Dev.setGrp (d : Dev) (p c mb : Nat) (g : Grp) : Dev :=
  match findBag d p c mb with
  | some b => d.setBag { b with grps := b.grps.map fun x => if x.g = g.g then g else x }
  | none => d

/-- Take an early frame of a group. -/
def takeEarly (d : Dev) (b : Bag) (g phase pass : Nat) (dims : List Nat) : Option (Early × Dev) :=
  (d.redEarly.find? fun e => e.part = b.part ∧ e.ctx = b.ctx ∧ e.mailbag = b.mailbag ∧ e.g = g ∧ e.phase = phase ∧ e.pass = pass ∧
    e.step = b.step ∧ dims.contains e.dim).map fun e => (e, { d with redEarly := d.redEarly.filter (· ≠ e) })

/-- The letter's requester on a bag's C-tile. -/
def bagWho (d : Dev) (b : Bag) : Who :=
  ⟨some b.part, 18, 8, 0, b.ctx, b.gen, some b.letter, b.stage, ((findLetter d b.letter).map (·.route)).getD 0xFFFF⟩

def redCount (b : Bag) (sat nf : Nat) : Act Unit :=
  devMod fun d => d.convCounts b.letter (.redSat b.part b.ctx) (.redNonfinite b.part b.ctx) sat nf

/-- The FP32 values of a group's parcel. -/
def groupVals (w : Who) (obj g : Nat) : Act (List W32) := do
  let q ← readParcel w obj g
  if q.fmt ≠ .fp32 then do let d ← devGet; stop (.mem (parcelAddr d w obj g) 4)
  else pure ((List.range 1024).map fun i => (decodeElem q.fmt q.side q.payload i).1)

/-- Store a group's result (R363, R365). -/
def storeGroup (b : Bag) (g : Grp) (l : Load) : Act Unit := do
  let d ← devGet
  let r := bagRec d b
  let h := headroom (redN d r)
  let one := g.one.getD l
  let out := l.words.zipIdx.map fun e =>
    if rdOp r = 0 then bfxResult one.exp h (maskBit one.mask e.2) e.1 else (e.1, false)
  let (pl, sd) := drainParcel false (rdObj r) g.g 1024 (out.map (·.1))
  parcelStore (bagWho d b) 0xFFFF (rdObj r) g.g 0 pl sd
  redCount b ((out.filter (·.2)).length) 0

/-- Give a group its words for phase two (R361). -/
def toWords (b : Bag) (g : Grp) (one : Load) : Act Load := do
  let d ← devGet
  let r := bagRec d b
  let vs ← groupVals (bagWho d b) (rdObj r) g.g
  let h := headroom (redN d r)
  let key := (d.ctx b.ctx).seed.toNat ^^^ (b.key % 2 ^ 56 + modNumber d * 2 ^ 56)
  let ws := vs.zipIdx.map fun e => bfxWord one.exp h key (rdObj r) (1024 * g.g + e.2) (maskBit one.mask e.2) e.1
  redCount b ((ws.filter (·.2)).length) 0
  pure ⟨one.exp, one.mask, ws.map (·.1), 1⟩

/-- A finished phase goes round the rings of all-gather (R358): `j` is the index of the dimension in which it arrived. -/
def Dev.spread (d : Dev) (b : Bag) (g : Nat) (phase : Nat) (ds : List Nat) (j : Nat) (l : Load) : Dev :=
  let d := match ds[j]? with
    | some k => if nextAt d k g = homeAt d k g then d else d.sendLeg b g phase 1 k l
    | none => d
  d.each (ds.take j).reverse fun d k => d.sendLeg b g phase 1 k l

/-! ### Checks and replays (R362) -/

/-- Send a message over a mailbag's path: to both neighbours in each of its dimensions (R362). -/
def Dev.overPath (d : Dev) (r : Rec) (m : Msg) : Dev :=
  d.each ((redDims d r).flatMap fun k => [(k, 0), (k, 1)]) fun d e =>
    match neighbour d (modNumber d) e.1 e.2 with
    | some dst => d.postcard dst m
    | none => d

/-- An incident of a mailbag's letter on its C-tile. -/
def bagInc (b : Bag) (cls d0 d1 : Nat) : Inc :=
  { cls := cls, eng := 8, ctx := some (b.ctx, b.gen), die := dieOf b.part 18, part := some b.part, seq := b.letter.seq,
    mbx := b.letter.mbx, stage := b.stage, d0 := d0, d1 := d1 }

/-- One failure of a check: counted and reported (R362). -/
def Dev.residueErr (d : Dev) (b : Bag) (gi elem : Nat) : Dev :=
  (d.count (.redResidueErr b.part) 1).raise (bagInc b 0x203 b.mailbag (gi + elem % 1024 * 2 ^ 32))

/-- A mailbag is bad: the module floods it and ends it here (R359, R362). -/
def Dev.bagBad (d : Dev) (b : Bag) : Dev := (d.overPath (bagRec d b) (.mailbagFailed b.ctx b.mailbag)).bagFail b

/-- A check fails: counted, reported, and replayed or, the third time, the mailbag is bad (R362). -/
def Dev.redFail (d : Dev) (b : Bag) (gi elem pass dim src : Nat) : Dev :=
  let d := d.residueErr b gi elem
  let before := mapGet d.redFails (b.part, b.ctx, b.mailbag, gi) 0
  let fails := (((b.grps.find? (·.g = gi)).map (·.fails)).getD 0) + before + 1
  let d := match b.grps.find? (·.g = gi) with
    | some g => d.setGrp b.part b.ctx b.mailbag { g with fails := g.fails + 1 }
    | none => { d with redFails := mapSet d.redFails (b.part, b.ctx, b.mailbag, gi) (before + 1) }
  if 3 ≤ fails then d.bagBad b
  else d.postcard src (.groupNak b.ctx b.mailbag gi pass dim)

/-- An adder's check fails: it repeats the addition from its held inputs, twice more with the same result, and the mailbag is bad
(R362). -/
def Dev.adderFail (d : Dev) (b : Bag) (gi elem : Nat) : Dev :=
  (((d.residueErr b gi elem).residueErr b gi elem).residueErr b gi elem |>.count (.redReplays b.part) 2).bagBad b

/-- Move a group on as far as it can go. A frame that came before the group had its G is checked against it here (R362). -/
def stepGroup (p c mb gi : Nat) : Nat → Act Unit
  | 0 => pure ()
  | k + 1 => do
    let d ← devGet
    match (findBag d p c mb).bind fun b => (b.grps.find? (·.g = gi)).map fun g => (b, g) with
    | none => pure ()
    | some (b, g) => do
      let r := bagRec d b
      let op := rdOp r
      let ds := redDims d r
      let badExp := fun (g : Grp) (l : Load) => decide (g.phase = 2 ∧ op = 0) && g.one.any fun o => o.exp ≠ l.exp
      -- a finished phase: its result is known here
      let finishPhase := fun (l : Load) (j : Nat) => do
        devMod fun d => (d.spread b gi g.phase ds j l).wrap (.redProgress p) 1
        if g.phase = 1 then do
          let ws ← toWords b g l
          devMod fun d => d.setGrp p c mb { g with phase := 2, lvl := 0, val := some ws, one := some l }
          stepGroup p c mb gi k
        else do
          storeGroup b g l
          devMod fun d => d.setGrp p c mb { g with phase := 3, val := none }
      if g.phase = 3 then pure () else
      match g.val with
      | some v =>
        match ds[g.lvl]? with
        | none => finishPhase v ds.length
        | some dim =>
          if coord d (modNumber d) dim = startAt d dim gi then do
            devMod fun d => (d.sendLeg b gi g.phase 0 dim v).setGrp p c mb { g with val := none }
            stepGroup p c mb gi k
          else
            match takeEarly d b gi g.phase 0 [dim] with
            | none => pure ()
            | some (e, d') => do
              devMod fun _ => d'.wrap (.redProgress p) 1
              let s := Load.join op g.phase v e.load
              if badExp g e.load then devMod fun d => d.redFail b gi 0 0 dim e.src
              else if g.phase = 2 ∧ op = 0 ∧ Load.addOk v e.load s = false then
                devMod fun d => d.adderFail b gi ((s.words.zipIdx.findSome? fun x =>
                  if residue x.1 = (residue (v.words.getD x.2 0#32) + residue (e.load.words.getD x.2 0#32)) % 255 then none else some x.2).getD 0)
              else if coord d (modNumber d) dim = homeAt d dim gi then do
                devMod fun d => d.setGrp p c mb { g with lvl := g.lvl + 1, val := some s }
                stepGroup p c mb gi k
              else do
                devMod fun d => (d.sendLeg b gi g.phase 0 dim s).setGrp p c mb { g with val := none }
                stepGroup p c mb gi k
      | none =>
        match takeEarly d b gi g.phase 1 ds with
        | none => pure ()
        | some (e, d') => do
          devMod fun _ => d'
          if badExp g e.load then devMod fun d => d.redFail b gi 0 1 e.dim e.src else
          finishPhase e.load ((ds.findIdx? (· = e.dim)).getD 0)

/-- Every group of a mailbag is stored. -/
def bagComplete (d : Dev) (b : Bag) : Bool :=
  (List.range (rdGroups (bagRec d b))).all fun g => b.grps.any fun x => x.g = g && x.phase = 3

/-- This module has no further phase-two frame to send for a group: its result has gone round, or nothing is left but a result that
goes no further (R356, R358). -/
def grpSent (d : Dev) (b : Bag) (g : Grp) : Bool :=
  g.phase = 3 || (g.phase = 2 && g.val.isNone && g.lvl = 0 && match (redDims d (bagRec d b)).head? with
    | some k => nextAt d k g.g = homeAt d k g.g
    | none => true)

/-- Every phase-two frame that this module sends for a mailbag has left (R356). -/
def bagLeft (d : Dev) (b : Bag) : Bool :=
  (List.range (rdGroups (bagRec d b))).all (fun k => b.grps.any fun g => g.g = k && grpSent d b g) && !bagQueued d b

/-- A mailbag whose every group is stored completes, once its token has room. -/
def Dev.bagTry (d : Dev) (b : Bag) : Dev := if bagComplete d b && bagRoom d b then d.bagDone b else d

/-- The heads of the channels move on past the mailbags whose frames have left (R356), and mailbags whose token has room by now
complete. -/
def Dev.redAdvance (d : Dev) : Dev :=
  let d := d.each (d.bags.filter fun b => b.active && !b.done && b.grps ≠ []) Dev.bagTry
  d.each (d.bags.filter fun b => b.active && !b.gone) fun d b =>
    if b.done ∧ bagQueued d b = false then (d.bagGone b).redState b.part
    else if b.done = false ∧ rdOp (bagRec d b) ≠ 2 ∧ b.grps ≠ [] ∧ bagLeft d b = true then
      ((d.setBag { b with gone := true }).cycleOn b).redChanSync b.part b.chan b.ctx
    else d

/-- Run an action of a mailbag's letter and complete the mailbag when it can. -/
def Dev.bagAct (d : Dev) (b : Bag) (a : Act Unit) : Dev :=
  d.runAct (bagWho d b) b.letter a (fun d => d.redAdvance.redState b.part) id

/-- Phase one, or the words of OP 1, of the groups that are ready; OP 1 converts nothing and counts nothing (R219, R360, R363,
R365). -/
def startGroups (b : Bag) (new : List Nat) : Act Unit :=
  forA new fun gi => do
    let d ← devGet
    if (findBag d b.part b.ctx b.mailbag).isNone then pure () else do
    let r := bagRec d b
    let vs ← groupVals (bagWho d b) (rdObj r) gi
    let g : Grp := if rdOp r = 0 then
        { g := gi, phase := 1, lvl := 0, one := none, fails := 0,
          val := some ⟨(vs.filterMap expOf).foldl max 0, maskBytes (vs.map fun v => (expOf v).isNone), [], 1⟩ }
      else { g := gi, phase := 2, lvl := 0, one := none, fails := 0, val := some ⟨0, noMask, vs, 1⟩ }
    redCount b 0 (if rdOp r = 0 then (vs.filter fun v => (expOf v).isNone).length else 0)
    devMod fun d => match findBag d b.part b.ctx b.mailbag with
      | some b => d.setBag { b with grps := b.grps ++ [g] }
      | none => d
    stepGroup b.part b.ctx b.mailbag gi 16

/-- The mailbag that a channel serves next: the one in flight, else the first at its head (R356). -/
def nextBag (d : Dev) (p ch : Nat) : Option Bag :=
  (d.bags.find? fun b => b.part = p ∧ b.chan = ch ∧ b.active ∧ !b.gone ∧ !b.done).orElse fun _ =>
    d.bags.find? fun b => b.part = p ∧ b.chan = ch ∧ isHead d b ∧ b.ready ≠ []

/-- A mailbag takes the channel (R356, R370). -/
def Dev.activate (d : Dev) (b : Bag) : Dev :=
  let d := (d.setBag { b with active := true }).setReg (.redChan b.part b.chan)
    (BitVec.ofNat 64 (rdPos (bagRec d b) + b.ctx % 64 * 2 ^ 16 + 2 ^ 22 + b.mailbag % 2 ^ 32 * 2 ^ 32))
  d.redState b.part

/-! ### Arriving frames (R351, R362, R364) -/

/-- The context, generation and STEP of a frame are current (R364). -/
def redCurrent (d : Dev) (ctx gen step : Nat) : Bool :=
  (d.ctx ctx).state = 1 && (d.ctx ctx).gen = gen && step = curStep d ctx

/-- This module still expects such a frame of a group in the step that it carries; a frame already consumed is discarded (R351). -/
def expects (d : Dev) (b : Bag) (gi phase pass dim step : Nat) : Bool :=
  !b.done && !(d.redEarly.any fun e => e.part = b.part ∧ e.ctx = b.ctx ∧ e.mailbag = b.mailbag ∧ e.g = gi ∧ e.phase = phase ∧
    e.pass = pass ∧ e.dim = dim ∧ e.step = step) &&
  match b.grps.find? (·.g = gi) with
  | none => true
  | some g => phase > g.phase || (phase = g.phase && (pass = 1 || (g.val.isSome && ((redDims d (bagRec d b)).drop g.lvl).contains dim)))

/-- A frame of a mailbag that has not been queued here fails its check: counted, reported and replayed, and the third time the
mailbag is bad before it has begun (R362). -/
def Dev.earlyFail (d : Dev) (p ctx gen mb gi elem pass dim src : Nat) (r : Rec) : Dev :=
  let d := (d.count (.redResidueErr p) 1).raise
    { cls := 0x203, eng := 8, ctx := some (ctx, gen), die := dieOf p 18, part := some p, d0 := mb, d1 := gi + elem % 1024 * 2 ^ 32 }
  let fails := mapGet d.redFails (p, ctx, mb, gi) 0 + 1
  let d := { d with redFails := mapSet d.redFails (p, ctx, mb, gi) fails }
  if 3 ≤ fails then { d with redBad := (p, ctx, mb) :: d.redBad }.overPath r (.mailbagFailed ctx mb)
  else d.postcard src (.groupNak ctx mb gi pass dim)

/-- A summary or group frame reaches its C-tile. One that is not current is counted, whatever it names and whether or not the engine
is halted (R364); an engine that is halted or in reset takes no other. A frame of a mailbag that has gone in the current cycle has been consumed before
(R351). -/
def Dev.redArrive (d : Dev) (p ctx gen src phase : Nat) (body : List Byte) : Dev :=
  if !redCurrent d ctx gen (field body 0x10 8) then d.count (.redStale p) 1
  else if engineOut d p 18 0 then d
  else match findRed d p (field body 0 4) with
  | none => d
  | some r =>
    let mb := field body 0 4
    let gi := field body 4 4
    let pass := field body 0xA 1
    let dim := field body 0xB 1 % 4
    let l : Load := { exp := field body 8 1, mask := slice body (if phase = 1 then 0x18 else 0x40) 128, contrib := field body 0xC 2,
                      words := if phase = 1 then [] else (List.range 1024).map fun k => BitVec.ofNat 32 (field body (0xC0 + 4 * k) 4) }
    let badElem := if phase = 1 ∨ rdOp r ≠ 0 then none else
      l.words.zipIdx.findSome? fun e => if residue e.1 = field body (0x10C0 + e.2) 1 then none else some e.2
    let keep := fun (d : Dev) => { d with redEarly := d.redEarly ++ [⟨p, ctx, mb, gi, phase, pass, dim, src, l, field body 0x10 8⟩] }
    match findBag d p ctx mb with
    | none =>
      if rdPos r < headPos d p (rdChan r) ctx then d else
      (match badElem with
      | some e => d.earlyFail p ctx gen mb gi e pass dim src r
      | none => keep d)
    | some b =>
      if !expects d b gi phase pass dim (field body 0x10 8) then d else
      let wrongExp := phase = 2 ∧ rdOp r = 0 ∧ ((b.grps.find? (·.g = gi)).bind (·.one)).any fun o => o.exp ≠ l.exp
      match badElem with
      | some e => d.redFail b gi e pass dim src
      | none => if wrongExp then d.redFail b gi 0 pass dim src else (keep d).bagAct b (stepGroup p ctx mb gi 16)

/-! ### Commands -/

/-- GRAD takes one tile (R355). With WAIT_TOKEN it starts only on a token on IN_B (R354). -/
def execMailbagGrad (l : LetterId) (stage : Nat) (s : State) : Host.Outcome State Fault Refusal :=
  .next (s.onDev fun d => match stageAt d l stage [8] with
    | some (x, p, r) => if mMode r ≠ 0 ∨ ((runOf d l stage).isNone ∧ earlierGrad d x p (mMailbag r)) then d
        else if (runOf d l stage).isNone ∧ mFlag r 1 then
          if canStart d x p r = false then d.waitStage x r else
          match takeToken d x.id p (stInB r) with
          | some (_, d) => d.stepStage l stage 8 1 gradStep
          | none => d.waitStage x r
        else d.stepStage l stage 8 1 gradStep
    | none => d)

/-- SEND queues its mailbag (R355). -/
def execMailbagSend (l : LetterId) (stage : Nat) (s : State) : Host.Outcome State Fault Refusal :=
  .next (s.onDev fun d => d.oneShot l stage [8] (fun r => mMode r = 1) 1 sendStage)

/-- RED_CTRL.CLEAR_COUNTS (R370). -/
def execRedClearCounts (via : Via) (p : Nat) (s : State) : Host.Outcome State Fault Refusal :=
  .next (s.onDev fun d => if 4 ≤ p then d else d.viaReg via .open_ (.redCtrl p) (.redClearCounts via p) fun d => d.clearCounts (.redSat p) (.redNonfinite p))

/-- An ECC error in the group store (R368): one that cannot be corrected halts the engine, whatever stands in the store. -/
def execMailbagEccError (p : Nat) (corrected : Bool) (s : State) : Host.Outcome State Fault Refusal :=
  .next (s.onDev fun d => if 4 ≤ p then d else
    if corrected then d.count (.redEccCorr p) 1
    else match runLetter d p 18 0, d.bags.find? fun b => b.part = p ∧ b.active with
      | some _, _ => d.engineFault p 18 0 0x105 (.redStatus p) 4
      | none, some b => ((d.raise (bagInc b 0x105 0 0)).setBit (.redStatus p) 4 true).engState p 18 0 3
      | none, none => ((d.raise { cls := 0x105, eng := 8, die := dieOf p 18, part := some p }).setBit (.redStatus p) 4 true).engState p 18 0 3)

/-- A phase-one summary arrives (R360). -/
def execPhaseOneSummaryReceive (p ctx gen src : Nat) (body : List Byte) (s : State) : Host.Outcome State Fault Refusal :=
  .next (s.onDev fun d => if body.length = 152 then d.redArrive p ctx gen src 1 body else d)

/-- A group frame arrives (R361-R364). -/
def execGroupFrameReceive (p ctx gen src : Nat) (body : List Byte) (s : State) : Host.Outcome State Fault Refusal :=
  .next (s.onDev fun d => if body.length = 5312 then d.redArrive p ctx gen src 2 body else d)

/-- A NAK for a group: the kept frame is sent again (R362), with a group credit of its own (R357). -/
def execGroupNakReceive (p ctx mailbag group pass dim : Nat) (s : State) : Host.Outcome State Fault Refusal :=
  .next (s.onDev fun d => match d.redSent.find? fun e => e.part = p ∧ e.ctx = ctx ∧ e.mailbag = mailbag ∧ e.g = group ∧ e.pass = pass ∧ e.dim = dim with
    | some e => match neighbour d (modNumber d) e.dim e.dir with
      | some dst => (d.count (.redReplays p) 1).groupSend (((findRed d p mailbag).map rdChan).getD 0) e.dim e.dir
          ⟨4, 3, 0, modNumber d, dst, ctx % 64 + (d.ctx ctx).gen % 4096 * 2 ^ 6, group, e.frame⟩
      | none => d
    | none => d)

/-- Another module reports a mailbag bad: it is passed on once and ends here (R359, R362). A report of a mailbag that has failed
here in the same step is an echo. -/
def execMailbagFailedReceive (p ctx mailbag : Nat) (s : State) : Host.Outcome State Fault Refusal :=
  .next (s.onDev fun d => match findRed d p mailbag with
    | none => d
    | some r =>
      if d.redBad.contains (p, ctx, mailbag) ∨ mapGet? d.redFailed (p, ctx, mailbag) = some (curStep d ctx) then d else
      match findBag d p ctx mailbag with
      | some b => (d.overPath r (.mailbagFailed ctx mailbag)).bagFail b
      | none => { d with redBad := (p, ctx, mailbag) :: d.redBad }.overPath r (.mailbagFailed ctx mailbag))

end Sys2Proof.Machine
end

