-- ==== Sys2Proof/Machine/Exchange.lean ====
section
/-! DEFINITION. The embedding all-to-all (R367). -/

namespace Sys2Proof.Machine

/-! ### Options and numbers (R277, R354) -/

def xSrc (r : Rec) : Nat := recU r 24 1
def xDst (r : Rec) : Nat := recU r 25 1
def xKind (r : Rec) : Nat := recU r 26 1
def xDims (r : Rec) : Nat := recU r 27 1 % 8
def xSlot (r : Rec) : Nat := recU r 28 1
/-- Owner number of an E-tile slot (R277). -/
def ownerNo (m p s : Nat) : Nat := 16 * m + 4 * p + s

/-- Modules whose coordinates equal this module's outside the dimensions of a mask, in ascending number. -/
def subspace (d : Dev) (dims : Nat) : List Nat :=
  sortNat (((membersOf d).map fun r => recU r 0 1).filter fun m => [0, 1, 2].all fun k => bitN dims k || coord d m k = coord d (modNumber d) k)

/-- The EXCHANGE stage of a route, an XKIND and an E-tile of this module. -/
def xStage (d : Dev) (route kind p s : Nat) : Option Rec :=
  ((stagesOf d route).find? fun q => q.1 = p ∧ stKind q.2 = 8 ∧ mMode q.2 = 2 ∧ xKind q.2 = kind ∧ xSlot q.2 = s).map (·.2)

def Exch.key (e : Exch) : LetterId × Nat := (e.letter, e.stage)
def findExch (d : Dev) (k : LetterId × Nat) : Option Exch := d.exchs.find? fun e => e.key = k
def Dev.setExch (d : Dev) (e : Exch) : Dev := { d with exchs := d.exchs.map fun x => if x.key = e.key then e else x }
def Exch.own (d : Dev) (e : Exch) : Nat := ownerNo (modNumber d) e.part e.xslot

/-- A run of an E-tile's exchange on this module. -/
def exchOf (d : Dev) (ctx route kind run p s : Nat) : Option Exch :=
  d.exchs.find? fun e => e.ctx = ctx ∧ e.route = route ∧ e.kind = kind ∧ e.run = run ∧ e.part = p ∧ e.xslot = s

/-! ### Segments (R279) -/

/-- Bytes of a unit of OFFSET. -/
def xUnit (kind : Nat) : Nat := if kind = 0 then 16 else 64

/-- Where segment n of a list lies and how long it is. The length of a record segment runs to the next segment. -/
def segBytes (kind : Nat) (dir : List (Nat × Nat)) (room n : Nat) : Nat × Nat :=
  let (o, c) := dir.getD n (0, 0)
  if c = 0 then (0, 0)
  else if kind = 0 then (16 * o, 16 * c)
  else
    let next := (dir.drop (n + 1)).findSome? fun e => if e.2 ≠ 0 then some e.1 else none
    let fin := match next with
      | some v => v
      | none => let v := (dir.getD (n + 1) (0, 0)).1; if o < v then v else room / 64
    (64 * o, 64 * (fin - o))

def exchRec (d : Dev) (e : Exch) : Rec := ((findStage d e.route e.stage).map (·.2)).getD []
def exchWho (e : Exch) : Who := ⟨some e.part, 18, 8, 0, e.ctx, e.gen, some e.letter, e.stage, e.route⟩
def exchWord (d : Dev) (e : Exch) (i : Nat) : Nat := ((findLetter d e.letter).map fun x => x.word i).getD 0

/-- The directory of a run's outbound list, and the room for its data. -/
def outDir (d : Dev) (e : Exch) : Act (List (Nat × Nat) × Nat) := do
  let id := wordObj (exchWord d e (xSrc (exchRec d e)))
  let o ← getObj id
  let h ← objLoad (exchWho e) id 0 dataBase
  pure ((List.range 4096).map fun n => (field h (0x40 + 8 * n) 4, field h (0x44 + 8 * n) 4), o.size - dataBase)

/-- Side area of a data frame (R367). -/
def xSide (e : Exch) (src dst bytes off : Nat) : List Byte :=
  let b := natLe 2 e.route ++ natLe 1 e.kind ++ natLe 1 0 ++ natLe 2 src ++ natLe 2 dst ++ natLe 4 e.run ++ natLe 4 bytes ++ natLe 8 off ++
    natLe 1 e.ctx ++ natLe 1 0 ++ natLe 2 e.gen
  slice b 0 512

/-- Cut a segment into pieces of up to 4,096 bytes. -/
def xPieces (n : Nat) : List (Nat × Nat) := (List.range (ceilDiv n 4096)).map fun k => (4096 * k, min 4096 (n - 4096 * k))

/-- Hold a piece for an owner of this module until its segment is placed. -/
def Dev.xDeposit (d : Dev) (ctx route kind run p s src off : Nat) (bs : List Byte) : Dev :=
  match exchOf d ctx route kind run p s with
  | some e => d.setExch { e with pend := e.pend ++ [(src, off, bs)] }
  | none => d

/-- Send a run's data to one owner (R367 step 3). -/
def xSendTo (e : Exch) (o : Nat) : Act Unit := do
  let d ← devGet
  let (dir, room) ← outDir d e
  let (at_, n) := segBytes e.kind dir room o
  let id := wordObj (exchWord d e (xSrc (exchRec d e)))
  let src := e.own d
  forA (xPieces n) fun pc => do
    let bs ← objLoad (exchWho e) id (dataBase + at_ + pc.1) pc.2
    devMod fun d =>
      if o / 16 = modNumber d then d.xDeposit e.ctx e.route e.kind e.run (o / 4 % 4) (o % 4) src pc.1 bs
      else d.route ⟨3, 3, 0, modNumber d, o / 16, e.ctx % 64 + e.gen % 4096 * 2 ^ 6, pc.1 / 4096,
        slice bs 0 4096 ++ xSide e src o pc.2 pc.1⟩
  devMod fun d => match findExch d e.key with
    | some e => (d.setExch { e with sent := o :: e.sent }).wrap (.redProgress e.part) 1
    | none => d

/-- Sources of an exchange: every E-tile of the subspace. -/
def sources (d : Dev) (e : Exch) : List Nat :=
  (subspace d (xDims (exchRec d e))).flatMap fun m => (List.range 16).map fun i => 16 * m + i

/-- Place the segments in ascending source order: TOTAL and the directory (R367 step 2). -/
def xPlace (e : Exch) : Act Unit := do
  let d ← devGet
  let r := exchRec d e
  let id := wordObj (exchWord d e (xDst r))
  let segs := (List.range 4096).map fun n => mapGet e.counts n (0, 0)
  let o ← getObj id
  if o.size < dataBase + (segs.map (·.2)).sum then stop (.fail 1 (8 * xDst r)) else do
  let dir := (segs.foldl (fun (a : Nat × List Byte) s =>
    (a.1 + s.2, a.2 ++ natLe 4 (a.1 / xUnit e.kind) ++ natLe 4 s.1)) (0, [])).2
  objStore (exchWho e) id 0 (natLe 4 ((segs.map (·.1)).sum) ++ List.replicate 60 0#8 ++ dir)
  devMod fun d => d.setExch { e with placed := true }

/-- Write the pieces that wait. One that comes from another partition of this module travels through the sorting office of the
address at which it is written (R20, R367); a piece that comes twice rewrites the same bytes (R351). -/
def xFlush (e : Exch) : Act Unit := do
  let d ← devGet
  let id := wordObj (exchWord d e (xDst (exchRec d e)))
  let o ← getObj id
  forA e.pend fun pc => do
    let base := ((List.range pc.1).map fun n => (mapGet e.counts n (0, 0)).2).sum
    if pc.1 / 16 = modNumber d then act2 fun d => crossing d (pc.1 / 4 % 4) e.part (o.base + dataBase + base + pc.2.1) pc.2.2.length true
    else pure ()
    objStore (exchWho e) id (dataBase + base + pc.2.1) pc.2.2
  devMod fun d => d.setExch
    { e with pend := [], got := (e.got ++ e.pend.map fun pc => (pc.1, pc.2.1, pc.2.2.length)).eraseDups }

/-- A frame of the run's data is still unacknowledged on a port. -/
def xUnacked (d : Dev) (e : Exch) : Bool :=
  let mine := fun (f : Frame) => f.kind = 3 && f.vc = 3 && f.src = modNumber d && slice f.body 4096 12 = (xSide e (e.own d) (field f.body 4102 2) 0 0).take 12
  d.ports.any fun p => p.2.queue.any mine || p.2.replay.any fun t => mine t.2.2

/-- An owner of this module has written all that it was sent by a run. -/
def ownWritten (d : Dev) (e : Exch) (o : Nat) : Bool :=
  match exchOf d e.ctx e.route e.kind e.run (o / 4 % 4) (o % 4) with
  | some t => t.pend.all fun pc => pc.1 ≠ e.own d
  | none => true

/-- Every non-empty segment has been sent and acknowledged as written, and the inbound list is complete (R367 step 4). An owner of
this module has written its segment; for another module's the spec names no end-to-end acknowledgement of an exchange frame, and
the link's stands for it (DESIGN CHOICE, log entry 55). -/
def xComplete (d : Dev) (e : Exch) (dir : List (Nat × Nat)) : Bool :=
  e.placed && e.pend = [] && (dir.zipIdx.all fun s => s.1.2 = 0 || e.sent.contains s.2) && !xUnacked d e &&
  (dir.zipIdx.all fun s => s.1.2 = 0 || s.2 / 16 ≠ modNumber d || ownWritten d e s.2) &&
  e.counts.all fun c => ((e.got.filter fun g => g.1 = c.1).map (·.2.2)).sum = c.2.2

/-- The token of TOKEN_OUT has room (R77). -/
def xRoom (d : Dev) (e : Exch) : Bool := !mFlag (exchRec d e) 0 || tokenRoom d e.letter e.part (stOutA (exchRec d e))

/-- The stage completes: its token, and the engine is done with it. -/
def Dev.xDone (d : Dev) (e : Exch) : Dev :=
  match findLetter d e.letter, findStage d e.route e.stage with
  | some x, some (p, r) =>
    let d := { d with exchs := d.exchs.filter fun y => y.key ≠ e.key }
    let d := if mFlag r 0 then d.emit x.id p (stOutA r) (.token 0) else d
    (d.stageDone x e.stage).redState e.part
  | _, _ => d

/-- Do what a run can do now: send to owners that are ready, place, write, complete. -/
def xRun (k : LetterId × Nat) : Act Unit := do
  let d ← devGet
  match findExch d k with
  | none => pure ()
  | some e => do
    let (dir, _) ← outDir d e
    forA (e.ready.filter fun o => !e.sent.contains o && (dir.getD o (0, 0)).2 ≠ 0) (xSendTo e)
    let d ← devGet
    match findExch d k with
    | none => pure ()
    | some e => do
      if !e.placed ∧ (sources d e).all (fun s => (mapGet? e.counts s).isSome) then xPlace e else pure ()
      let d ← devGet
      match findExch d k with
      | none => pure ()
      | some e => do
        if e.placed ∧ e.pend ≠ [] then xFlush e else pure ()
        devMod fun d => match findExch d k with
          | some e => if xComplete d e dir && xRoom d e then d.xDone e else d
          | none => d

def Dev.xPump (d : Dev) : Dev :=
  let go := fun (d : Dev) => d.each (d.exchs.map (·.key)) fun d k => match findExch d k with
    | some e => if engineOut d e.part 18 0 then d else d.runAct (exchWho e) e.letter (xRun k) (fun d => d.redState e.part) id
    | none => d
  go (go d)

/-! ### Messages (R367) -/

/-- No stage of the route and kind takes the counts: the module has none, or a count is for an owner without one. -/
def xRefuses (d : Dev) (route kind : Nat) (counts : List (Nat × Nat)) : Bool :=
  ((List.range 16).all fun i => (xStage d route kind (i / 4) (i % 4)).isNone) ||
  counts.zipIdx.any fun c => c.1.1 ≠ 0 && (xStage d route kind (c.2 / 4 % 4) (c.2 % 4)).isNone

/-- A count postcard was refused: its source's letter completes with ADDRESS_FAULT (R367). -/
def Dev.xRefused (d : Dev) (ctx route kind run source : Nat) : Dev :=
  match exchOf d ctx route kind run (source / 4 % 4) (source % 4) with
  | some e => d.finish e.letter 0x10 e.stage
  | none => d

/-- The counts of one source for this module's sixteen owners. -/
def Dev.xCounts (d : Dev) (ctx route kind run source : Nat) (counts : List (Nat × Nat)) : Dev :=
  d.each counts.zipIdx fun d c =>
    let p := c.2 / 4 % 4
    let s := c.2 % 4
    match exchOf d ctx route kind run p s with
    | some e => d.setExch { e with counts := mapSet e.counts source c.1 }
    | none => { d with xcounts := d.xcounts ++ [⟨ctx, route, kind, run, ownerNo 0 p s, source, c.1.1, c.1.2⟩] }

/-- READY of an owner for a source of this module. -/
def Dev.xReadyFor (d : Dev) (ctx route kind run owner source : Nat) : Dev :=
  match exchOf d ctx route kind run (source / 4 % 4) (source % 4) with
  | some e => d.setExch { e with ready := owner :: e.ready }
  | none => { d with xready := d.xready ++ [⟨ctx, route, kind, run, source % 16, owner, 0, 0⟩] }

/-- An EXCHANGE stage starts: counts to every module of the subspace, READY to every source (R367). -/
def xStart (x : Letter) (p : Nat) (r : Rec) : Act Unit := do
  let d ← devGet
  if mFlag r 1 then
    match takeToken d x.id p (stInB r) with
    | none => stop (.wait 1)
    | some (_, d') => devMod fun _ => d'
  else pure ()
  let ws ← objWord x (xSrc r)
  let wd ← objWord x (xDst r)
  let _ ← getObj (wordObj wd)
  let o ← getObj (wordObj ws)
  let run := mapGet d.xruns (x.ctx, x.route, stIndex r) 0
  let e0 : Exch := ⟨x.id, stIndex r, p, xSlot r, xKind r, x.route, x.ctx, x.gen, run, [], false, [], [], [], []⟩
  if o.size < dataBase then stop (.fail 1 (8 * xSrc r)) else do
  let (dir, room) ← outDir d e0
  let mods := subspace d (xDims r)
  if dir.zipIdx.any fun s => s.1.2 ≠ 0 ∧ !mods.contains (s.2 / 16) then stop (.fail 1 (8 * xSrc r)) else do
  let me := e0.own d
  let countsFor := fun (m : Nat) => (List.range 16).map fun i => ((dir.getD (16 * m + i) (0, 0)).2, (segBytes e0.kind dir room (16 * m + i)).2)
  if (countsFor (modNumber d)).zipIdx.any fun c => c.1.1 ≠ 0 ∧ (xStage d x.route e0.kind (c.2 / 4 % 4) (c.2 % 4)).isNone then
    stop (.fail 0x10 (stIndex r))
  else
  devMod fun d =>
    let d := { d with xruns := mapSet d.xruns (x.ctx, x.route, stIndex r) (run + 1) }
    let mineC := fun (n : XNote) => n.ctx = x.ctx && n.route = x.route && n.kind = e0.kind && n.run = run && n.dst = me % 16
    let e := { e0 with counts := (d.xcounts.filter mineC).map fun n => (n.src, n.items, n.bytes),
                       ready := (d.xready.filter mineC).map (·.src) }
    let d := { d with exchs := d.exchs ++ [e], xcounts := d.xcounts.filter fun n => !mineC n, xready := d.xready.filter fun n => !mineC n }
    let d := d.setRun x.id (stIndex r) fun q => { q with parked := true }
    let d := d.each mods fun d m =>
      if m = modNumber d then d.xCounts x.ctx x.route e0.kind run me (countsFor m)
      else d.postcard m (.exchangeCounts x.ctx x.route e0.kind run me (countsFor m))
    let d := d.each mods fun d m => d.each (List.range 16) fun d i =>
      if m = modNumber d then d.xReadyFor x.ctx x.route e0.kind run me (16 * m + i)
      else d.postcard m (.ready x.ctx x.route e0.kind run me (16 * m + i))
    d.redState p

/-! ### Commands -/

/-- An EXCHANGE stage starts, or goes on with what has arrived (R367). -/
def execExchange (l : LetterId) (stage : Nat) (s : State) : Host.Outcome State Fault Refusal :=
  .next (s.onDev fun d => match stageAt d l stage [8] with
    | none => d
    | some (x, p, r) =>
      if mMode r ≠ 2 then d
      else if (findExch d (l, stage)).isSome then d.xPump
      else
        let go := fun (d : Dev) => (d.stageAct x p r (xStart x p r) id).xPump
        if (runOf d l stage).isSome then (if engineOut d p 18 0 then d else go d)
        else if canStart d x p r then go (d.startStage x p r 1)
        else d.waitStage x r)

/-- A count postcard arrives (R367 step 1). One without a matching stage is refused: it goes back to its source, which
knows it by its own owner number. -/
def execCountPostcardReceive (ctx route xkind run source : Nat) (counts : List (Nat × Nat)) (s : State) :
    Host.Outcome State Fault Refusal :=
  .next (s.onDev fun d =>
    if source / 16 = modNumber d then d.xRefused ctx route xkind run source
    else if xRefuses d route xkind (counts.take 16) then d.postcard (source / 16) (.exchangeCounts ctx route xkind run source counts)
    else (d.xCounts ctx route xkind run source (counts.take 16)).xPump)

/-- READY arrives (R367 step 2). -/
def execReadyReceive (ctx route xkind run owner source : Nat) (s : State) : Host.Outcome State Fault Refusal :=
  .next (s.onDev fun d => if source / 16 ≠ modNumber d then d else (d.xReadyFor ctx route xkind run owner source).xPump)

/-- A data frame arrives: its 4,096 bytes and side area; a frame of another generation is a dead letter at the courier's edge (R367,
R368, R401). -/
def execExchangeFrameReceive (body : List Byte) (s : State) : Host.Outcome State Fault Refusal :=
  .next (s.onDev fun d =>
    let side := fun (off len : Nat) => field body (4096 + off) len
    let dst := side 6 2
    let ctx := side 0x18 1 % 64
    if body.length ≠ 4608 ∨ dst / 16 ≠ modNumber d then d
    else if (d.ctx ctx).gen ≠ side 0x1A 2 then d.courierDead (dst / 4 % 4) ctx (side 0x1A 2) else
    let d := d.wrap (.redProgress (dst / 4 % 4)) 1
    (d.xDeposit ctx (side 0 2) (side 2 1) (side 8 4) (dst / 4 % 4) (dst % 4) (side 4 2) (side 0x10 8)
      (slice body 0 (min 4096 (side 0xC 4)))).xPump)

end Sys2Proof.Machine
end

