-- ==== Sys2Proof/Machine/Mailbox.lean ====
section
/-! DEFINITION. Mailboxes, doorbells, postmarks, receipts and the letters that run no stage
(R103-R130). -/

namespace Sys2Proof.Machine

/-! ### Doorbells -/

def Dev.mb (d : Dev) (n : Nat) : Mbx := mapGet d.mbx n Mbx.reset
def Dev.mbState (d : Dev) (n : Nat) : Nat := d.fld (.mbxStatus n) 2 0

/-- A doorbell write of `size` bytes that reached mailbox n's doorbell (R111). -/
def Dev.bell (d : Dev) (n : Nat) (aligned : Bool) (v : Nat) : Dev :=
  let tail := bitsN v 47 32
  let st := d.mbState n
  if !aligned ∨ bitsN v 55 48 ≠ n ∨ bitsN v 63 56 ≠ 0 ∨ st = 0 ∨ st = 3 then d.setBit (.mbxStatus n) 9 true
  else
    let head := d.fld (.mbxHead n) 15 0
    if 2 ^ d.fld (.mbxCfg n) 3 0 < (tail + 65536 - head) % 65536 then
      (d.setBit (.mbxStatus n) 10 true).raise { readerInc d n 2 with d0 := tail + head * 2 ^ 16 }
    else if tail = d.fld (.mbxTail n) 15 0 then d
    else
      { d with mbx := mapSet d.mbx n { d.mb n with bell := BitVec.ofNat 32 v } }.setFld (.mbxTail n) 15 0 tail

/-- A 64-bit doorbell write through BAR0 or MBX_DOORBELL (R110, R111). Either crosses the offices to the mailbox's partition (R20,
R130): held while that is installed (R71). -/
def execDoorbell (src : BellSrc) (size : Nat) (value : W64) (s : State) : Host.Outcome State Fault Refusal :=
  .next (s.onDev fun d =>
    match src with
    | .bar0 page off =>
      if !barsOn d ∨ d.recovery = true ∨ 256 ≤ page ∨ 8 ≤ off then d else
      let r : Reg := .mbxDoorbell page
      let go := fun (d : Dev) => d.bell page (off = 0 ∧ size = 8) value.toNat
      let hold := { d with held := d.held ++ [.cmd (mmioPort r.info.offset) .bar0 r.info.offset 8 (.doorbell src size value)] }
      if barWait d then hold else
      match crossing d 4 (mmioPort r.info.offset) (mmioBase + r.info.offset) 8 true with
      | (.ok _, d) => go d
      | (.error (.wait _), _) => hold
      | (.error _, _) => go d
    | .mmio v n => if 256 ≤ n then d else
      d.viaReg v .noEngine (.mbxDoorbell n) (.doorbell src size value) fun d => d.bell n (size = 8) value.toNat)

/-! ### The format check (R104, R106, R108 step 1) -/

/-- Where the operands of an opcode end (R106, R107). -/
def operandEnd : Nat → Option Nat
  | 0x01 => some 0 | 0x02 => some 0x18 | 0x03 => some 8 | 0x04 => some 0x10 | 0x05 => some 8 | 0x06 => some 0x20
  | 0x07 => some 8 | 0x08 => some 0 | 0x10 => some 0x10 | 0x11 => some 0x10 | 0x12 => some 8 | 0x13 => some 8
  | 0x14 => some 8 | 0x15 => some 8 | 0x20 => some 0x18 | 0x21 => some 0 | 0x30 => some 8 | 0x31 => some 8
  | 0x3F => some 0 | _ => none

/-- The first check of a list that fails, with its DETAIL. -/
def firstBad : List (Bool × Nat) → Option Nat
  | [] => none
  | (ok, k) :: cs => if ok then firstBad cs else some k

/-- The checks on the header, by ascending offset. -/
def headerChecks (h : List Byte) : List (Bool × Nat) :=
  let op := field h 0 1
  let enc := field h 0x18 2
  let opEnd := (operandEnd op).getD 0
  let body := opEnd + enc
  let encOk := match op with
    | 0x01 => enc % 8 = 0 && enc ≤ 480
    | 0x20 => enc ≤ 456
    | 0x3F => enc ≤ 480
    | _ => enc = 0
  [(bitsN (field h 1 1) 7 2 = 0, 1), (bitsN (field h 2 1) 7 6 = 0, 2),
   (bitsN (field h 3 1) 7 2 = 0 && field h 3 1 = (if body ≤ 96 then 0 else ceilDiv (body - 96) 128), 3), (bitsN (field h 4 2) 15 12 = 0, 4),
   (bitsN (field h 6 2) 15 12 = 0 && (op = 0x01 || op = 0x14 || field h 6 2 = 0), 6),
   (field h 0x10 8 % 32 = 0, 0x10), (encOk, 0x18), (zeroRange h 0x1A 6, 0x1A)]

/-- The reserved fields of a header alone, for an opcode that is not in the table (R6, R104). -/
def headerReserved (h : List Byte) : List (Bool × Nat) :=
  [(bitsN (field h 1 1) 7 2 = 0, 1), (bitsN (field h 2 1) 7 6 = 0, 2), (bitsN (field h 3 1) 7 2 = 0, 3),
   (bitsN (field h 4 2) 15 12 = 0, 4), (bitsN (field h 6 2) 15 12 = 0, 6), (zeroRange h 0x1A 6, 0x1A)]

/-- The checks on the operands, by ascending body offset. A CTX_OPEN whose ENC_LEN is not twice its NROUTES reports NROUTES as
the bad field; the spec does not say which of the two is (log entry 22). -/
def operandChecks (op enc : Nat) (b : List Byte) : List (Bool × Nat) :=
  let obj : Bool × Nat := (field b 0 8 < 2 ^ 24, 0)
  match op with
  | 0x02 => [(field b 0 4 < 0xFF0000, 0), (field b 4 1 ≤ 3, 4), (field b 5 1 ≤ 1, 5), (field b 6 1 < 4, 6),
             (field b 7 1 = 0, 7)]
  | 0x03 => [obj]
  | 0x04 | 0x05 => [(field b 0 8 < 0xFF0000, 0)]
  | 0x06 => [(let n := field b 0 8; 64 ≤ n && n ≤ 2 ^ 32 && n % 64 = 0, 0), (field b 0x18 8 ≤ 3, 0x18)]
  | 0x07 => [(field b 0 8 ≤ 1, 0)]
  | 0x10 => [(field b 8 8 < 2 ^ 32 && bitsN (field b 8 8) 30 24 = 0, 8)]
  | 0x11 => [(field b 0xC 4 ≤ 1, 0xC)]
  | 0x20 => [(let r := field b 8 8; tableOk r, 8),
             (let n := field b 0x10 8; 1 ≤ n && n ≤ 228 && enc = 2 * n, 0x10)]
  | 0x30 | 0x31 => [(field b 0 1 ≤ 3, 0), (field b 6 2 = 0, 6)]
  | _ => []

/-- The first non-zero reserved byte of the body. -/
def bodyTail (b : List Byte) (from_ : Nat) : List (Bool × Nat) :=
  match (List.range (b.length - from_)).find? fun i => field b (from_ + i) 1 ≠ 0 with
  | some i => [(false, from_ + i)]
  | none => []

/-- R108 step 1: FORMAT with the offset of the first bad field, or BAD_OPCODE with the opcode. -/
def formatCheck (bytes : List Byte) : Option (Nat × Nat) :=
  let op := field bytes 0 1
  let enc := field bytes 0x18 2
  let b := bytes.drop 32
  match operandEnd op with
  | none =>
    match firstBad (headerReserved bytes) with
    | some k => some (1, k)
    | none => some (2, op)
  | some e =>
    match firstBad (headerChecks bytes ++ operandChecks op enc b ++ bodyTail b (e + enc)) with
    | some k => some (1, k)
    | none => none

/-! ### The checks of R108, steps 2 to 5 -/

/-- The route list of a CTX_OPEN body. -/
def openRoutes (b : List Byte) : List Nat := (List.range (field b 0x10 1)).map fun i => field b (0x18 + 2 * i) 2

/-- The loader's targets while it installs. -/
def installTargets (d : Dev) : Option Nat := if d.fld .structStatus 2 0 = 5 then some d.loader.mask else none

/-- R108 step 4 for a route. -/
def routeCheck (d : Dev) (c route : Nat) : Option (Nat × Nat) :=
  if d.modImage.isNone then
    match installTargets d with
    | some m => some (0xA, m)
    | none => some (7, 0xF)
  else match findRoute d route with
    | none => some (8, route)
    | some r =>
      let boot := (maskParts (rtParts r)).filter fun p => d.fld .structPartState (4 * p + 3) (4 * p) = 0
      let busy := (maskParts (rtParts r)).filter d.installing
      if boot ≠ [] then some (7, partsMask boot)
      else if route ∉ (d.ctx c).routes then some (9, route)
      else if busy ≠ [] then some (0xA, partsMask busy)
      else none

/-- R108 step 4 for CTX_OPEN (R70). -/
def openCheck (d : Dev) (rs : List Nat) : Option (Nat × Nat) :=
  match rs.find? fun r => (findRoute d r).isNone with
  | some r => some (8, r)
  | none =>
    match installTargets d with
    | some m =>
      let held := (rs.flatMap fun r => maskParts (((findRoute d r).map rtParts).getD 0)).filter fun p => bitN m p
      if held = [] then none else some (0xA, partsMask held)
    | none => none

/-- R108 step 5. -/
def bracketCheck (d : Dev) (c op route : Nat) : Option (Nat × Nat) :=
  let fwd := ((findRoute d route).map rtForwardOnly).getD false
  let inside := (mapGet? d.evals c).isSome
  if op = 0x01 ∧ fwd ≠ inside then some (0xB, 0)
  else if op = 0x14 ∧ !fwd then some (0xB, 0)
  else none

/-- R108 steps 2 to 5. -/
def letterCheck (d : Dev) (n op c gen route : Nat) (body : List Byte) : Option (Nat × Nat) :=
  let priv := d.bit (.mbxCfg n) 5
  let cx := d.ctx c
  if !priv ∧ (op = 0x20 ∨ op = 0x30 ∨ op = 0x31 ∨ c ≠ d.fld (.mbxCfg n) 11 6) then some (3, 0)
  else if op = 0x20 then
    if cx.state ≠ 0 then some (6, cx.state)
    else if gen ≠ cx.gen then some (5, cx.gen)
    else openCheck d (openRoutes body)
  else if cx.state ≠ 1 then some (4, cx.state)
  else if gen ≠ cx.gen then some (5, cx.gen)
  else if op = 0x01 ∨ op = 0x14 then (routeCheck d c route).orElse fun _ => bracketCheck d c op route
  else none

/-- Start the letter of an opcode, if it may start: the checks of R108 come first, and a letter that fails one ends with
its status and executes nothing. A letter that has to wait is not started, and its die has counted nothing. A letter that
may not start leaves everything as it is (log entry 4). -/
def Dev.onLetter (d : Dev) (l : LetterId) (op : Nat) (f : Letter → Dev → Dev) : Dev :=
  match findLetter d l with
  | none => d
  | some x =>
    if x.opcode ≠ op ∨ mayStart d x = false then d else
    match letterCheck d l.mbx op x.ctx x.gen x.route x.body with
    | some (st, dt) => d.finish l st dt
    | none =>
      let t := f x (d.startLetter x)
      if (findLetter t l).any fun y => !y.started && y.result.isNone then { t with dies := d.dies } else t

/-- As `onLetter`, for work that may have to wait for data: a letter that has started goes on. -/
def Dev.onLetterOn (d : Dev) (l : LetterId) (op : Nat) (f : Letter → Dev → Dev) : Dev :=
  match findLetter d l with
  | some x => if x.started ∧ x.result.isNone ∧ x.opcode = op then f x d else d.onLetter l op f
  | none => d

/-! ### Fetching (R112-R116) -/

/-- A fetched letter's bytes, or how the fetch failed: 1 address fault, 2 partition down, 3 uncorrectable error. -/
def fetchSlots (d : Dev) (n : Nat) (slots : List (List Byte)) (error : Option FetchError) :
    Except (Option Nat) (List Byte) × Dev :=
  let base := d.regN (.mbxBase n)
  let sz := 2 ^ d.fld (.mbxCfg n) 3 0
  let head := d.fld (.mbxHead n) 15 0
  match untag base with
  | .host _ =>
    match error with
    | some .addressFault => (.error (some 1), d)
    | some .partitionDown => (.error (some 2), d)
    | some .uncorrectable => (.error (some 3), d)
    | none =>
      if !d.pcie.busMaster then (.error (some 1), d) else
      let k := field (slots.getD 0 []) 3 1 % 4
      (.ok ((List.range (k + 1)).flatMap fun i => slice (slots.getD i []) 0 128), d)
  | _ =>
    let who := devWho (some (match readerPart d n with | some p => p | none => 4))
    let who := match readerPart d n with | some _ => who | none => { who with part := none }
    let act : Act (List Byte) := do
      let first ← physLoad who (base + head % sz * 128) 128
      let rest ← mapA ((List.range (field first 3 1 % 4)).map (· + 1)) fun i => physLoad who (base + (head + i) % sz * 128) 128
      pure (first ++ rest.flatten)
    match act.run d with
    | (.ok bs, d') => (.ok bs, d')
    | (.error (.wait _), _) => (.error none, d)
    | (.error (.down _ _), d') => (.error (some 2), d')
    | (.error (.mem _ _), d') => (.error (some 3), d')
    | (.error _, d') => (.error (some 1), d')

/-- CHECK of R113 over a letter's bytes with POSTMARK read as zero. -/
def checkOf (bytes : List Byte) : Nat := (crc16 (patch bytes 0xC (natLe 4 0))).toNat

/-- The postmark check of R114. -/
def postmarkOk (d : Dev) (n : Nat) (bytes : List Byte) : Bool :=
  let head := d.fld (.mbxHead n) 15 0
  let left := (d.fld (.mbxTail n) 15 0 + 65536 - head) % 65536
  let k := 1 + field bytes 3 1 % 4
  let seq := field bytes 8 4
  let pm := field bytes 0xC 4
  seq = d.regN (.mbxSeq n) && pm = seq ^^^ checkOf bytes && k ≤ left && (k ≠ left || pm = (d.mb n).bell.toNat)

/-- Accept a letter: HEAD and SEQ advance. Step 1 of R108 rests on its bytes alone and is made at once; steps 2 to 5 are
made when it starts (R108, R112, R119). -/
def Dev.accept (d : Dev) (n : Nat) (bytes : List Byte) : Dev :=
  let k := 1 + field bytes 3 1 % 4
  let seq := field bytes 8 4
  let d := d.setFld (.mbxHead n) 15 0 (d.fld (.mbxHead n) 15 0 + k)
  let d := d.setFld (.mbxSeq n) 31 0 (seq + 1)
  let d := { d with mbx := mapSet d.mbx n { d.mb n with attempts := 0 } }
  let body := bytes.drop 32
  let op := field bytes 0 1
  let c := field bytes 2 1 % 64
  let gen := field bytes 4 2 % 4096
  let route := field bytes 6 2 % 4096
  let x : Letter :=
    { id := ⟨n, seq⟩, opcode := op, flags := field bytes 1 1, ctx := c, gen := gen, route := route,
      postmark := BitVec.ofNat 32 (field bytes 0xC 4), rcpt := field bytes 0x10 8, encLen := field bytes 0x18 2,
      body := body, started := false, result := none, sat := 0, nonfin := 0, dead := 0, skipped := false,
      readThrough := false, stages := [], pcieLast := none, pcieStage := 0xFF, regions := [], zeroReads := 0, flushErr := none, podAcks := 0,
      usesHost := false, usesPod := false, bracket := 0 }
  if x.rcpt % 32 ≠ 0 then
    d.raise { readerInc d n 3 with seq := seq, d0 := 1, d1 := x.rcpt }
  else
    let d := { d with letters := d.letters ++ [x] }
    match formatCheck bytes with
    | some (s, t) => d.finish x.id s t
    | none => d

/-- One attempt of a series (R114, R115). Fetching goes on, so ARM clears (R130). -/
def Dev.attempt (d : Dev) (n : Nat) (slots : List (List Byte)) (error : Option FetchError) : Dev :=
  let d := d.setBit (.mbxCtrl n) 1 false
  let fail := fun (d : Dev) (how : Nat) (pm : Nat) =>
    let k := (d.mb n).attempts + 1
    let d := { d with mbx := mapSet d.mbx n { d.mb n with attempts := k } }
    if k < 8 then d else
    let d := (d.setBit (.mbxStatus n) 8 true).setFld (.mbxStatus n) 2 0 4
    d.raise { readerInc d n 1 with d0 := d.fld (.mbxHead n) 15 0 + d.regN (.mbxSeq n) * 2 ^ 32,
                                   d1 := (d.mb n).bell.toNat + pm * 2 ^ 32, d2 := how }
  match fetchSlots d n slots error with
  | (.error none, _) => d
  | (.error (some how), d) => fail d how 0
  | (.ok bytes, d) => if postmarkOk d n bytes then d.accept n bytes else fail d 0 (field bytes 0xC 4)

/-- The reader may fetch from mailbox n (R112, R116, R117, R397). -/
def mayFetch (d : Dev) (n : Nat) : Bool :=
  d.mbState n = 2 && d.fld (.mbxHead n) 15 0 ≠ d.fld (.mbxTail n) 15 0 &&
  (d.letters.filter fun x => x.id.mbx = n).length < 16 && !d.resetting (n / 64) && powerState d ≠ 2

/-- The reader fetches a letter (R114). -/
def execLetterFetch (n : Nat) (slots : List (List Byte)) (error : Option FetchError) (s : State) :
    Host.Outcome State Fault Refusal :=
  .next (s.onDev fun d => if mayFetch d n ∧ (d.mb n).attempts = 0 then d.attempt n slots error else d)

/-- The retry delay of a failed check expires (R115). -/
def execLetterFetchRetry (n : Nat) (slots : List (List Byte)) (error : Option FetchError) (s : State) :
    Host.Outcome State Fault Refusal :=
  .next (s.onDev fun d => if mayFetch d n ∧ (d.mb n).attempts ≠ 0 then d.attempt n slots error else d)

/-- Setting MBX_CTRL.ENABLE (R117). -/
def execMbxEnable (via : Via) (n : Nat) (s : State) : Host.Outcome State Fault Refusal :=
  .next (s.onDev fun d => if 256 ≤ n then d else d.viaReg via .noEngine (.mbxCtrl n) (.mbxEnable via n) fun d =>
    (fnRequest (d.setBit (.mbxCtrl n) 0 true) (.mailbox n) ⟨true, none⟩).mbxReady n)

/-- Clearing MBX_CTRL.ENABLE (R117). -/
def execMbxDisable (via : Via) (n : Nat) (s : State) : Host.Outcome State Fault Refusal :=
  .next (s.onDev fun d => if 256 ≤ n then d else d.viaReg via .noEngine (.mbxCtrl n) (.mbxDisable via n) fun d =>
    (fnRequest (d.setBit (.mbxCtrl n) 0 false) (.mailbox n) ⟨false, none⟩).mbxReady n)

/-- Setting MBX_CTRL.ARM: a LATE mailbox returns to ENABLED with a fresh series (R116). -/
def execMbxArm (via : Via) (n : Nat) (s : State) : Host.Outcome State Fault Refusal :=
  .next (s.onDev fun d => if 256 ≤ n then d else d.viaReg via .noEngine (.mbxCtrl n) (.mbxArm via n) fun d =>
    if d.mbState n = 4 then
      { (d.setBit (.mbxCtrl n) 1 true).setFld (.mbxStatus n) 2 0 2 with
        mbx := mapSet d.mbx n { d.mb n with attempts := 0 } }
    else d)

/-! ### Letters that run no stage -/

/-- NOTE writes a SUCCESS receipt only (R107). -/
def execNote (l : LetterId) (s : State) : Host.Outcome State Fault Refusal :=
  .next (s.onDev fun d => d.onLetter l 0x3F fun x d => d.finish x.id 0 0)

/-- A FENCE starts when every earlier letter has its receipt; INVAL drops cached translations (R120). -/
def execFence (l : LetterId) (s : State) : Host.Outcome State Fault Refusal :=
  .next (s.onDev fun d => d.onLetter l 0x07 fun x d =>
    let d := if bitN (x.opnd 0 1) 0 then d.dropTlb x.ctx else d
    d.finish x.id 0 0)

/-- Stores that letter e still waits for become x's: at other modules, and at object directories. -/
def Dev.handOver (d : Dev) (e x : LetterId) : Dev :=
  let pod := fun (t : PodStore) => match t.who with | .letter l st => if l = e then { t with who := .letter x st } else t | _ => t
  let hand := fun (m : Option (LetterId × Nat)) => m.map fun k => if k.1 = e then (x, k.2) else k
  let st := fun (h : Option (LetterId × Nat) × Nat × List Byte) => (hand h.1, h.2)
  let on := fun (h : Held) => match h with | .obj p a bs m => .obj p a bs (hand m) | h => h
  { d with podStores := d.podStores.map pod, held := d.held.map on,
           objs := d.objs.map fun (o : Nat × Obj) => (o.1, { o.2 with held := o.2.held.map st }) }

/-- A SEAL completes the stores of the context's receipted letters on every path, by flushing what RECEIPT_EARLY
letters left (R123, R124). -/
def execSeal (l : LetterId) (s : State) : Host.Outcome State Fault Refusal :=
  .next (s.onDev fun d => d.onLetter l 0x08 fun x d =>
    let mine := d.early.filter (·.ctx = x.ctx)
    let d := { d with early := d.early.filter (·.ctx ≠ x.ctx) }
    let d := d.each mine fun d e =>
      let d := match e.pcieLast with | some a => modifyLetter d x.id (fun y => { y with pcieLast := some a }) | none => d
      let d := d.each e.regions fun d r => d.trackRegion x.id r.stage r.chan r.last
      let d := d.handOver e.id x.id
      modifyLetter d x.id fun y => { y with podAcks := y.podAcks + e.podAcks }
    d.finish x.id 0 0)

/-- Copy in blocks of 4,096 bytes at most. -/
def copyBlocks (w : Who) : Nat → Nat → Nat → Nat → Act Unit
  | 0, _, _, _ => pure ()
  | k + 1, src, dst, len => do
    if len = 0 then pure () else
    let n := min len 4096
    let bs ← virtLoad w src n
    virtStore w dst bs
    copyBlocks w k (src + n) (dst + n) (len - n)

/-- COPY by the update engine of partition PART (R107). Under the boot table no engine can be started (R18): the letter completes with
NO_STRUCTURE, DETAIL the partition (R127; DEDUCED, log entry 58). It waits while the engine is out or power-gated (R396, R397, R427). -/
def execCopy (l : LetterId) (s : State) : Host.Outcome State Fault Refusal :=
  .next (s.onDev fun d => d.onLetterOn l 0x06 fun x d =>
    let p := x.opnd 0x18 1
    let len := x.opnd 0 8
    if fnState d (.engine p 18 1) ≠ 2 ∨ fnState d (.partition p) ≠ 2 then d.finish x.id 0x40 0 else
    if !d.installed p ∧ !d.installing p then d.finish x.id 7 (partsMask [p]) else
    if (runOn d p 18 1).isSome ∨ ringAhead d x.id p 18 1 ∨ engineOut d p 18 1 ∨ d.installing p ∨ powerState d ≠ 0 ∨ d.power.transition.isSome then d else
    d.runAct (letterWho x (some p) 18 9) x.id
      (copyBlocks (letterWho x (some p) 18 9) (ceilDiv len 4096) (x.opnd 8 8) (x.opnd 0x10 8) len)
      (fun d => (d.wrap (.redUpdProgress p) (ceilDiv len 4096)).finish x.id 0 0) id)

/-- CTX_OPEN opens a CLOSED context: seed, root, routes; its counters and step state are zeroed (R97, R101, R302,
R370). -/
def execCtxOpen (l : LetterId) (s : State) : Host.Outcome State Fault Refusal :=
  .next (s.onDev fun d => d.onLetter l 0x20 fun x d =>
    let c := x.ctx
    let cx := d.ctx c
    let d := d.setCtx c { cx with state := 1, seed := BitVec.ofNat 64 (x.opnd 0 8), root := x.opnd 8 8,
                                  routes := openRoutes x.body }
    ((d.dropTlb c).openCounts c).finish x.id 0 0)

/-- The function that FN_ENABLE and FN_DISABLE name (R107). -/
def letterFn (x : Letter) : Option FnId :=
  let part := x.opnd 1 1
  let node := x.opnd 2 1
  let kind := x.opnd 3 1
  let idx := x.opnd 4 2
  let onNode := match kind with
    | 0 | 1 | 2 => node < 12
    | 3 | 4 | 5 => 12 ≤ node && node < 16
    | 6 | 7 => 16 ≤ node && node < 18
    | 8 | 9 => node = 18
    | _ => false
  match x.opnd 0 1 with
  | 0 => if idx < 256 then some (.mailbox idx) else none
  | 1 => if part < 4 ∧ onNode = true ∧ idx < (if kind = 0 then 4 else 1) then some (.engine part node (slotOf kind idx)) else none
  | 2 => if part < 4 then some (.partition part) else none
  | _ => if idx < 16 then some (.port idx) else none

/-- FN_ENABLE and FN_DISABLE queue a request (R127, R408). The ENABLE bit of a mailbox's or port's control register
follows, as a write of that register would set it. -/
def fnLetter (x : Letter) (enable : Bool) (d : Dev) : Dev :=
  match letterFn x with
  | none => d.finish x.id 0x40 0
  | some f =>
    let d := match f with
      | .mailbox n => d.setBit (.mbxCtrl n) 0 enable
      | .port n => d.setBit (.crrPortCtrl n) 0 enable
      | _ => d
    let d := fnRequest d f ⟨enable, some x.id⟩
    match f with
    | .mailbox n => d.mbxReady n
    | _ => d

def execFnEnable (l : LetterId) (s : State) : Host.Outcome State Fault Refusal :=
  .next (s.onDev fun d => d.onLetter l 0x30 fun x d => fnLetter x true d)

def execFnDisable (l : LetterId) (s : State) : Host.Outcome State Fault Refusal :=
  .next (s.onDev fun d => d.onLetter l 0x31 fun x d => fnLetter x false d)

/-- A write of CRR_PORT_CTRL.ENABLE (R408). -/
def execCrrPortEnableWrite (via : Via) (port : Nat) (enable : Bool) (s : State) : Host.Outcome State Fault Refusal :=
  .next (s.onDev fun d => if 16 ≤ port then d else d.viaReg via .open_ (.crrPortCtrl port) (.crrPortEnableWrite via port enable) fun d =>
    fnRequest (d.setBit (.crrPortCtrl port) 0 enable) (.port port) ⟨enable, none⟩)

/-- A queued transition completes (R409). -/
def execFnTransitionDone (fn : FnId) (s : State) : Host.Outcome State Fault Refusal :=
  .next (s.onDev fun d => if fnExists fn then fnDone d fn else d)

/-! ### Receipts (R122-R126, R118) -/

/-- The 32 bytes of a receipt (R125). -/
def receiptBytes (x : Letter) (status detail stamp : Nat) : List Byte :=
  natLe 4 x.id.seq ++ natLe 4 x.postmark.toNat ++ natLe 4 (min x.sat 0xFFFFFFFF) ++ natLe 4 x.nonfin ++ natLe 8 stamp ++
  natLe 2 (min x.dead 0xFFFF) ++ natLe 2 detail ++ natLe 2 status ++
  natLe 1 ((if bitN x.flags 0 then 1 else 0) + (if x.skipped then 2 else 0) + (if x.readThrough then 4 else 0)) ++
  natLe 1 (x.ctx % 64 + 128)

/-- Store the receipt in its two writes, through the bound context or physically (R105, R126). -/
def receiptStore (d : Dev) (x : Letter) (bs : List Byte) : Act Unit :=
  let n := x.id.mbx
  let w : Who := ⟨readerPart d n, 19, 0x10, 0, d.fld (.mbxCfg n) 11 6, (d.ctx (d.fld (.mbxCfg n) 11 6)).gen, none, 0xFF, 0xFFFF⟩
  let wt := Waiter.receipt x.id (field bs 0x1C 2) x.rcpt
  if d.bit (.mbxCfg n) 5 then do
    physStoreAs wt w x.rcpt (slice bs 0 0x1C)
    physStoreAs wt w (x.rcpt + 0x1C) (slice bs 0x1C 4)
  else if (d.ctx w.ctx).state ≠ 1 then stop (.trans x.rcpt 0)
  else do
    virtStoreAs wt w x.rcpt (slice bs 0 0x1C)
    virtStoreAs wt w (x.rcpt + 0x1C) (slice bs 0x1C 4)

/-- The interrupt after a receipt with NOTIFY (R118); a write that has to wait is held (R71, R144). -/
def Dev.notify (d : Dev) (x : Letter) : Dev :=
  let n := x.id.mbx
  let v := d.fld (.mbxCfg n) 26 16
  match readerPart d n with
  | none => d.msix v
  | some p =>
    let a := d.regN (.mbxNotify n)
    let hold := { d with held := d.held ++ [.own (some p) a (natLe 4 v) (some x.id)] }
    if ownHeld d (some p) a then hold else
    match (physStoreAs (.notify x.id a) (devWho (some p)) a (natLe 4 v)).run d with
    | (.ok _, d) => d
    | (.error (.wait _), _) => hold
    | (.error _, d) => d.notifyFault x.id a

/-- A store of a letter is held at an object directory, or on its way from there (R152). -/
def heldStores (d : Dev) (l : LetterId) : Bool :=
  (d.objs.any fun (o : Nat × Obj) => o.2.held.any fun h => h.1.map (·.1) = some l) ||
  d.held.any fun h => match h with | .obj _ _ _ m => m.map (·.1) = some l | _ => false

/-- Write the receipt of an ended letter and let it go. A receipt whose store has to wait is written later, and nothing has
happened yet (R71, R144). -/
def Dev.receipt (d0 : Dev) (x : Letter) (status detail : Nat) : Dev :=
  let (st, d) := d0.stamp (readerDie d0 x.id.mbx)
  let d := { d with letters := d.letters.filter (·.id ≠ x.id),
                    remotes := d.remotes.filter fun r => match r.who with
                      | .letter l _ => l ≠ x.id || r.data.isNone
                      | _ => true }
  let d := if bitN x.flags 0 ∧ (x.pcieLast.isSome ∨ x.regions ≠ [] ∨ x.podAcks ≠ 0 ∨ heldStores d x.id = true) then { d with early := d.early ++ [x] } else d
  match (receiptStore d x (receiptBytes x status detail st)).run d with
  | (.ok _, d) => if bitN x.flags 1 then d.notify x else d
  | (.error (.wait _), _) => d0
  | (.error _, d) => d.raise { readerInc d x.id.mbx 3 with seq := x.id.seq, d0 := status, d1 := x.rcpt }

/-- A CTX_TEAR's receipt follows those of the letters that it stopped (R129): they have ended, their receipts are due. -/
def tearWaits (d : Dev) (x : Letter) : Bool :=
  x.opcode = 0x21 && d.letters.any fun y => y.ctx = x.ctx && y.gen = x.gen && y.id ≠ x.id && y.result.isSome

/-- Every store of a letter is complete, so its receipt is written (R122, R123). -/
def letterEnds (l : LetterId) (s : State) : Host.Outcome State Fault Refusal :=
  .next (s.onDev fun d =>
    match findLetter d l with
    | none => d
    | some x => match x.result with
      | none => d
      | some (st, dt) =>
        if d.resetting (l.mbx / 64) ∨ tearWaits d x then d
        else if bitN x.flags 0 ∨ (x.zeroReads = 0 ∧ x.podAcks = 0 ∧ heldStores d l = false) then (d.receipt x st dt).mbxReady l.mbx else d)

end Sys2Proof.Machine
end

