-- ==== Sys2Proof/Machine/Steps.lean ====
section
/-! DEFINITION. Epochs (R88), the training step (R303-R337): step letters, the norm, the dense update, tied weights, commit and
abort. -/

namespace Sys2Proof.Machine

/-! ### Epochs (R87, R88) -/

/-- A die number of a partition-level die: its partition. -/
def dieParts (die : Nat) : Option Nat := if die < 96 then some (die / 24) else none

/-- A die is in reset: its partition is being reset, or is held in reset by a failed authentication (R397, R438). -/
def dieInReset (d : Dev) (n : Nat) : Bool :=
  match dieParts n with
  | some p => d.resetting p || d.bit .gateBoot (12 + p)
  | none => false

/-- The dies that an epoch marker has to reach: every die that is not in reset (R88). -/
def markerDies (d : Dev) : List Nat := (List.range 100).filter fun n => !dieInReset d n

/-- Broadcast an epoch. -/
def Dev.epochSend (d : Dev) (e : Nat) : Dev :=
  (({ d with epochMarker := some (e, markerDies d) }).setFld .gateEpoch 23 0 e).setBit .gateEpoch 31 true

/-- Set an epoch: broadcast at once, or held while a marker is in flight; a further write replaces the held value. -/
def Dev.epochSet (d : Dev) (e : Nat) : Dev :=
  let e := e % 2 ^ 24
  if d.epochMarker.isSome then ({ d with epochHeld := some e }).setFld .gateEpoch 23 0 e else d.epochSend e

/-- A die latches an epoch and sets its count to zero. -/
def Dev.latchEpoch (d : Dev) (die e : Nat) : Dev := { d with dies := mapSet d.dies die (e, 0) }

def execGateEpochWrite (via : Via) (value : W32) (s : State) : Host.Outcome State Fault Refusal :=
  .next (s.onDev fun d => d.viaReg via .open_ .gateEpoch (.gateEpochWrite via value) fun d => d.epochSet (value.toNat % 2 ^ 24))

/-- The marker reaches a die. -/
def execEpochMarkerArrive (die : Nat) (s : State) : Host.Outcome State Fault Refusal :=
  .next (s.onDev fun d => match d.epochMarker with
    | some (e, left) => if left.contains die then ({ d with epochMarker := some (e, left.filter (· ≠ die)) }).latchEpoch die e else d
    | none => d)

/-- Every die that is not in reset has acknowledged: PENDING clears, or the held epoch is broadcast. -/
def execEpochMarkerDone (s : State) : Host.Outcome State Fault Refusal :=
  .next (s.onDev fun d => match d.epochMarker with
    | some (_, left) =>
      if left.any fun n => !dieInReset d n then d else
      match d.epochHeld with
      | some h => { d with epochHeld := none }.epochSend h
      | none => ({ d with epochMarker := none }).setBit .gateEpoch 31 false
    | none => d)

/-! ### Parameter sets (R324-R326) -/

def uOpt (r : Rec) : Nat := recU r 17 1
def uObj (r : Rec) : Nat := recU r 20 3

/-- UPDATE stages of a context's routes in a partition, in ascending route and stage (R320). -/
def updateStages (d : Dev) (c p : Nat) : List Rec :=
  (sortNat (d.ctx c).routes).eraseDups.flatMap fun rt =>
    sortBy (fun a b => stIndex a ≤ stIndex b) (((stagesOf d rt).filter fun q => q.1 = p ∧ isUpdate q.2).map (·.2))

def updateParts (d : Dev) (c : Nat) : List Nat := (List.range 4).filter fun p => updateStages d c p ≠ []

/-- The requester of an UPDATE stage under STEP_UPDATE. -/
def updWho (x : Letter) (p : Nat) (r : Rec) : Who := ⟨some p, 18, 9, 0, x.ctx, x.gen, some x.id, stIndex r, stRoute r⟩

/-- A parameter set: its header, and entries (R325). -/
structure ParamSet where
  lr : W32
  eps : W32
  b1 : W32
  b2 : W32
  lrwd : W32
  ents : List Rec

/-- An object word of an entry: identifier when VALID. -/
def verObj (e : Rec) (off : Nat) : Option Nat := let w := recU e off 4; if bitN w 24 then some (bitsN w 23 0) else none

/-- Load a parameter set; none when its header or an entry holds a bad field (R326). -/
def loadParams (w : Who) (id : Nat) : Act (Option ParamSet) := do
  let o ← getObj id
  if o.size < 64 then pure none else do
  let h ← objLoad w id 0 64
  let n := field h 0 4
  if n = 0 ∨ 16384 < n ∨ !zeroRange h 4 4 ∨ !zeroRange h 0x1C 36 ∨ o.size < 64 + 64 * n then pure none else do
  let b ← objLoad w id 64 (64 * n)
  let es := (List.range n).map fun i => slice b (64 * i) 64
  let f := fun (off : Nat) => BitVec.ofNat 32 (field h off 4)
  if es.any fun e => (List.range 7).any (fun i => bitsN (recU e (4 * i) 4) 31 25 ≠ 0) ∨ 4 ≤ recU e 0x26 1 ∨ !zeroRange e 0x27 25 then pure none
  else pure (some ⟨f 8, f 0xC, f 0x10, f 0x14, f 0x18, es⟩)

/-- The two versions of an object are VALID, lodged and different. -/
def pairOk (d : Dev) (e : Rec) (off : Nat) : Bool :=
  match verObj e off, verObj e (off + 4) with
  | some a, some b => a ≠ b && (mapGet? d.objs a).isSome && (mapGet? d.objs b).isSome
  | _, _ => false

def zero32 (v : W32) : Bool := v.toNat % 2 ^ 31 = 0

/-- The checks of one entry (R326). -/
def entryOk (d : Dev) (opt : Nat) (ps : ParamSet) (e : Rec) : Bool :=
  let opts := ((findLayer d (recU e 0x24 2)).map lyOpts).getD 0
  pairOk d e 0 && (match verObj e 0x18 with | some g => (mapGet? d.objs g).isSome | none => false) &&
  (if opt = 1 then pairOk d e 8 && pairOk d e 0x10 else (zero32 ps.b1 || pairOk d e 8)) &&
  [8, 0x10].all (fun o => match verObj e o, verObj e (o + 4) with | some a, some b => a ≠ b | _, _ => true) &&
  !bitN opts 0 && !bitN opts 2 && (bitN (recU e 0x26 1) 1 = bitN opts 1)

/-- The checks of every parameter set of a context; a failure carries its UPDATE stage's index (R326). -/
def checkParams (x : Letter) (parts : List Nat) : Act Unit :=
  forA parts fun p => do
    let d ← devGet
    forA (updateStages d x.ctx p) fun r => actAs (updWho x p r) do
      let ps ← loadParams (updWho x p r) (uObj r)
      let bad := match ps with | some q => q.ents.any fun e => !entryOk d (uOpt r) q e | none => true
      if bad then stop (.mem (parcelAddr d (updWho x p r) (uObj r) 0) 3) else pure ()

/-! ### The norm (R320, R322) -/

/-- One level of the pairwise tree. -/
def pairUp : List W64 → List W64
  | a :: b :: r => dadd a b :: pairUp r
  | l => l
def treeSum : Nat → List W64 → W64
  | 0, l => l.getD 0 0#64
  | k + 1, l => treeSum k (pairUp l)

/-- Parcels of an FP32 matrix. -/
def gradParcels (rows cols : Nat) : Nat := ceilDiv rows 128 * ceilDiv cols 8

/-- Add a GRAD object's parcels to a partial (R320); answers the non-finite elements met. -/
def normGrad (w : Who) (id n : Nat) : List Nat → W64 → Act (W64 × Nat)
  | [], acc => pure (acc, 0)
  | i :: is, acc => do
    let vs ← groupVals w id i
    let (s, k) ← normGrad w id n is (dadd acc (treeSum 10 (vs.map dsquare)))
    pure (s, k + (vs.filter fun v => !finite32 v).length)

/-- A partition's partial (R320). -/
def normPart (x : Letter) (p : Nat) : Act W64 := do
  let d ← devGet
  let go := fun (acc : W64) (r : Rec) (e : Rec) => do
    if bitN (recU e 0x26 1) 0 then
      let n := gradParcels (recU e 0x20 4) (recU e 0x1C 4)
      let (s, nf) ← normGrad (updWho x p r) ((verObj e 0x18).getD 0) n (List.range n) acc
      devMod fun d => (d.addCounts x.id 0 nf).wrap (.redUpdProgress p) n
      pure s
    else pure acc
  let rec entries (r : Rec) : List Rec → W64 → Act W64
    | [], acc => pure acc
    | e :: es, acc => do let a ← go acc r e; entries r es a
  let rec stages : List Rec → W64 → Act W64
    | [], acc => pure acc
    | r :: rs, acc => do
      let a ← actAs (updWho x p r) do
        let ps ← loadParams (updWho x p r) (uObj r)
        entries r ((ps.map (·.ents)).getD []) acc
      stages rs a
  stages (updateStages d x.ctx p) 0#64

/-- The OP 2 records of the module, ascending by partition (R366). -/
def normRecs (d : Dev) : List (Nat × Rec) :=
  (List.range 4).flatMap fun p => ((redRecs d p).filter fun r => rdOp r = 2).map fun r => (p, r)

/-- The partition and record of the context's OP 2 mailbag: of the lowest partition that holds one (R366). -/
def normRec (d : Dev) : Option (Nat × Rec) := (normRecs d).head?

/-- A norm value of 8 bytes goes from one partition's C-tile to another's through a sorting office (R20, R366). -/
def normCross (d : Dev) (src tgt : Nat) : Except Stop Unit × Dev := crossing d src tgt (2048 * (Config.normOffice src tgt % 2)) 8 true

/-- The module's partial: ((P0 + P1) + P2) + P3 (R320), collected on the C-tile that holds the OP 2 record from the partitions with
UPDATE stages (R366). -/
def normModule (x : Letter) (parts : List Nat) : Act W64 := do
  let ps ← mapA [0, 1, 2, 3] (normPart x)
  let d ← devGet
  match normRec d with
  | some (p0, _) => forA parts fun p => act2 fun d => normCross d p p0
  | none => pure ()
  match ps with
  | [a, b, c, e] => pure (dadd (dadd (dadd a b) c) e)
  | _ => pure 0#64

/-- The clip factor (R322). -/
def clipFactor (clip : W32) (norm : W64) : W32 :=
  if !zero32 clip ∧ (f32 clip).lt (f64 norm) then BitVec.ofNat 32 ((f32 clip).divTo fp32 (f64 norm)) else one32

/-! ### The dense update (R327, R328) -/

/-- All parcels of a ROWS x COLS matrix, of one width (R169). -/
def wholeMatrix (w : Who) (id rows cols : Nat) : Act (Nat × List (Nat × Parcel)) := do
  let q0 ← readParcel w id 0
  let wd := q0.fmt.width
  let ps ← mapA (List.range (ceilDiv rows 128 * ceilDiv cols wd)) fun i => do
    let q ← readParcel w id i
    if q.fmt.width ≠ wd then do let d ← devGet; stop (.mem (parcelAddr d w id i) 4) else pure (i, q)
  pure (wd, ps)

/-- One element's update: w, m, v from g (R327). -/
def updElem (opt : Nat) (ps : ParamSet) (w m v g : W32) : W32 × W32 × W32 :=
  let dd := fma (fneg ps.lrwd) w w
  if opt = 1 then
    let m := fma ps.b1 m (fmul (fsub one32 ps.b1) g)
    let v := fma ps.b2 v (fmul (fsub one32 ps.b2) (fmul g g))
    (fma (fneg ps.lr) (fmul m (frsqrt (fadd v ps.eps))) dd, m, v)
  else if zero32 ps.b1 then (fma (fneg ps.lr) g dd, m, v)
  else
    let m := fma ps.b1 m g
    (fma (fneg ps.lr) m dd, m, v)

/-- Copy a parcel of a masked tile (R328). -/
def copyParcel (w : Who) (dst i : Nat) (q : Parcel) : Act Unit :=
  parcelStore w 0xFFFF dst i 0 q.payload { q.side with obj := dst }.toBytes

/-- Write one version's parcels: new values, or copies in masked tiles. `pur` is 0 for weights (R328). -/
def writeVersion (x : Letter) (w : Who) (c key dst rows cols wd pur : Nat) (ps : List (Nat × Parcel)) (open_ : Nat → Nat → Bool)
    (val : Nat → Nat → W32) : Act Unit :=
  forA ps fun e => do
    let (i, q) := e
    let per := ceilDiv cols wd
    let rt := i / per
    let cc := i % per
    if !open_ rt (cc * wd / 128) then copyParcel w dst i q
    else do
      let cls := if pur = 0 then 1 else 4
      if !(classTargets cls).contains q.fmt then do let d ← devGet; stop (.mem (parcelAddr d w dst i) 4) else do
      let lanes := min 128 (rows - 128 * rt)
      let src := (List.range (128 * wd)).map fun k =>
        if k / wd < lanes ∧ cc * wd + k % wd < cols then (⟨val (128 * rt + k / wd) (cc * wd + k % wd), true⟩ : SrcElem) else ⟨0#32, false⟩
      let o := convertParcel { fmt := q.fmt, cls := cls, purpose := pur, key := key, obj := dst, parcel := i, count := false } (lanes * wd) src
      parcelStore w 0xFFFF dst i 0 o.payload o.side.toBytes
      let p := w.part.getD 0
      let nf := (src.filter fun s => s.valid && !finite32 s.bits).length
      devMod fun d => (d.addCounts x.id o.sat nf).count (.redSat p c) o.sat
    devMod fun d => d.wrap (.redUpdProgress (w.part.getD 0)) 1

/-- Update one entry of a parameter set (R327, R328). -/
def updateEntry (x : Letter) (p : Nat) (r : Rec) (ps : ParamSet) (clip : W32) (step : Nat) (e : Rec) : Act Unit := do
  let w := updWho x p r
  let d ← devGet
  let c := x.ctx
  let ver := d.fld (.gateStep c) 3 3
  let rows := recU e 0x1C 4
  let cols := recU e 0x20 4
  let src := fun (off : Nat) => (verObj e (off + 4 * ver)).getD 0
  let dst := fun (off : Nat) => (verObj e (off + 4 * (1 - ver))).getD 0
  let useM := uOpt r = 1 || !zero32 ps.b1
  let useV := uOpt r = 1
  let (ww, wp) ← wholeMatrix w (src 0) rows cols
  let (mw, mp) ← if useM then wholeMatrix w (src 8) rows cols else pure (8, [])
  let (vw, vp) ← if useV then wholeMatrix w (src 0x10) rows cols else pure (8, [])
  let gid := (verObj e 0x18).getD 0
  let gp ← mapA (List.range (gradParcels cols rows)) fun i => do let q ← readParcel w gid i; pure (i, q)
  if gp.any fun q => q.2.fmt ≠ .fp32 then stop (.mem (parcelAddr d w gid 0) 4) else do
  let mask ← if bitN (recU e 0x26 1) 1 then
      match findLayer d (recU e 0x24 2) with
      | some ly => do
        let b ← objLoad w (lyMaskObj ly) 0 (ceilDiv (ceilDiv cols 128 * ceilDiv rows 128) 8)
        pure (some b)
      | none => pure none
    else pure none
  let open_ := fun (nt mt : Nat) => match mask with
    | some b => let t := nt * ceilDiv cols 128 + mt; bitN (field b (t / 8) 1) (t % 8)
    | none => true
  let sats := ((List.range rows).map fun o => ((List.range cols).filter fun i => open_ (o / 128) (i / 128) = true).map fun i =>
    ((if (matElem ww cols wp o i).2 then 1 else 0) + (if useM ∧ (matElem mw cols mp o i).2 then 1 else 0) +
     (if useV ∧ (matElem vw cols vp o i).2 then 1 else 0))).flatten.sum
  devMod fun d => (d.addCounts x.id sats 0).count (.redSat p c) sats
  let el := fun (o i : Nat) =>
    let g0 := (matElem 8 rows gp i o).1
    let g := if clip = one32 then g0 else fmul g0 clip
    updElem (uOpt r) ps (matElem ww cols wp o i).1 (matElem mw cols mp o i).1 (matElem vw cols vp o i).1 g
  let key := (d.ctx c).seed.toNat ^^^ step
  writeVersion x w c key (dst 0) rows cols ww 0 wp open_ fun o i => (el o i).1
  if useM then writeVersion x w c key (dst 8) rows cols mw 3 mp open_ fun o i => (el o i).2.1 else pure ()
  if useV then writeVersion x w c key (dst 0x10) rows cols vw 4 vp open_ fun o i => (el o i).2.2 else pure ()

/-- The update of every partition of a module (R329). -/
def denseUpdate (x : Letter) (u : Upd) (norm : W64) : Act Unit :=
  forA u.parts fun p => do
    let d ← devGet
    forA (updateStages d x.ctx p) fun r => actAs (updWho x p r) do
      let ps ← loadParams (updWho x p r) (uObj r)
      match ps with
      | some q => forA q.ents (updateEntry x p r q (clipFactor u.clip norm) (stepOpen d x.ctx))
      | none => pure ()

/-! ### Step letters (R304) -/

def Dev.stepOrder (d : Dev) (x : Letter) : Dev := d.finish x.id 0x30 (expected d x.ctx)

/-- Exchange runs of a context so far (R367). -/
def xrunsOf (d : Dev) (c : Nat) : Map (Nat × Nat × Nat) Nat := d.xruns.filter fun (e : (Nat × Nat × Nat) × Nat) => e.1.1 = c

/-- STEP_BEGIN opens the step; its epoch operand acts as a write of GATE_EPOCH (R88, R304, R469). -/
def execStepBegin (l : LetterId) (s : State) : Host.Outcome State Fault Refusal :=
  .next (s.onDev fun d => d.onLetter l 0x10 fun x d =>
    let c := x.ctx
    let step := x.opnd 0 8
    if !cascadeOpen d then d.finish x.id 0x30 0
    else if stepState d c ≠ 0 ∨ d.bit (.gateStep c) 6 = true ∨
        (d.bit (.gateStep c) 7 = true ∧ step ≠ (d.regN (.gateStepCommitted c) + 1) % 2 ^ 64) then d.stepOrder x
    else
      let d := (d.setStepState c 1).setReg (.gateStepOpen c) (BitVec.ofNat 64 step)
      let d := d.setBit (.gateStep c) 4 false
      let d := { d with decisions := d.decisions.filter fun (e : (Nat × Nat) × Bool) => e.1.1 ≠ c, stepParts := mapSet d.stepParts c [],
                        redEarly := d.redEarly.filter fun e => e.ctx ≠ c ∨ e.step = step,
                        xbase := xrunsOf d c ++ d.xbase.filter fun (e : (Nat × Nat × Nat) × Nat) => e.1.1 ≠ c }
      let d := { d with floods := [], post := { d.post with polls := d.post.polls.filter fun q => ¬ (q.ctx = c ∧ q.step = step ∧ q.decided.isSome) } }
      let d := if x.opnd 8 4 / 2 ^ 31 = 1 then d.epochSet (x.opnd 8 3) else d
      d.finish x.id 0 0)

def findUpd (d : Dev) (c : Nat) : Option Upd := d.updates.find? (·.ctx = c)
def Dev.setUpd (d : Dev) (u : Upd) : Dev := { d with updates := d.updates.map fun v => if v.ctx = u.ctx then u else v }

/-- The norm is known: GATE_NORM takes it, and a non-finite one without SKIP_ON_NONFINITE asks for an abort (R320, R323). -/
def Dev.normKnown (d : Dev) (c : Nat) (s : W64) : Dev :=
  match findUpd d c with
  | none => d
  | some u =>
    let n := dsqrt s
    let d := (d.setUpd { u with norm := some n }).setReg (.gateNorm c) n
    if !finite64 n ∧ !u.skip then d.abortReq c else d

/-- Members whose partials the norm takes, ascending (R320). -/
def normMembers (d : Dev) : List Nat := sortNat ((membersOf d).map fun r => recU r 0 1)

/-- Every member's partial has arrived: S, summed in ascending module number, goes to the other partitions' C-tiles, and the OP 2
mailbag of every one of them is over (R320, R366). -/
def Dev.normTry (d : Dev) (c : Nat) : Dev :=
  match findUpd d c with
  | none => d
  | some u =>
    let ms := normMembers d
    if u.norm.isSome ∨ !(ms.all fun m => (mapGet? u.partials m).isSome) then d else
    let d := d.normKnown c (ms.foldl (fun s m => dadd s (mapGet u.partials m 0#64)) 0#64)
    let d := match normRec d with
      | some (p0, _) => Dev.each d ((u.parts ++ (normRecs d).map fun (e : Nat × Rec) => e.1).eraseDups) fun (d : Dev) (q : Nat) => (normCross d p0 q).2
      | none => d
    Dev.each d (d.bags.filter fun (b : Bag) => b.ctx = c ∧ rdOp (bagRec d b) = 2) fun (d : Dev) (b : Bag) => (d.bagGone b).redState b.part

/-- Forward a partial along the rings of all-gather (R358, R366): it came from module m. -/
def Dev.normSpread (d : Dev) (r : Rec) (c m : Nat) (v : W64) : Dev :=
  let ds := (redDims d r).reverse
  let own := modNumber d
  let at_ := ds.foldl (fun (a : Nat × Nat) k => (a.1 + 1, if coord d m k ≠ coord d own k then a.1 else a.2)) (0, ds.length)
  let j := if m = own then 0 else at_.2
  d.each (ds.drop j).zipIdx fun d e =>
    let n := dimSize d e.1
    let next := (coord d own e.1 + 1) % n
    if e.2 = 0 ∧ m ≠ own ∧ next = coord d m e.1 then d else
    match neighbour d own e.1 0 with
    | some dst => d.ringSend e.1 0 0
        ⟨2, 3, 0, own, dst, c % 64 + (d.ctx c).gen % 4096 * 2 ^ 6, 0, (Msg.normPartial m c (stepOpen d c) v).bytes⟩
    | none => d

/-- A member's partial that arrives before STEP_UPDATE has started here: an early POSTCARD of the mailbag. -/
def earlyPartial (p mb ctx m step : Nat) (v : W64) : Early :=
  ⟨p, ctx, mb, 0, 1, 1, 0, m, ⟨0, [], [v.setWidth 32, (v >>> 32).setWidth 32], 1⟩, step⟩

/-- The partials that arrived early (R366). -/
def earlyPartials (d : Dev) (p mb ctx : Nat) : Map Nat W64 :=
  (d.redEarly.filter fun e => e.part = p ∧ e.ctx = ctx ∧ e.mailbag = mb ∧ e.step = curStep d ctx).foldl
    (fun acc e => mapSet acc e.src (e.load.words.getD 1 0#32 ++ e.load.words.getD 0 0#32)) []

/-- The OP 2 mailbag starts: the module's own partial goes out (R366). -/
def Dev.normStart (d : Dev) (b : Bag) : Dev :=
  match findUpd d b.ctx with
  | none => d
  | some u =>
    let own := modNumber d
    let d := d.setUpd { u with partials := mapSet u.partials own u.own }
    (d.normSpread (bagRec d b) b.ctx own u.own).normTry b.ctx

/-- STEP_UPDATE: the checks of R322 and R326, the stash released, the norm pass; its mailbag then carries the norm, and the OP 2
mailbags of the other partitions wait for it (R318, R320, R366). It takes its engines in ring order (R119), and waits while its context is
held (R406) or its engines are power-gated (R427). -/
def execStepUpdate (l : LetterId) (s : State) : Host.Outcome State Fault Refusal :=
  .next (s.onDev fun d => d.onLetterOn l 0x11 fun x d =>
    let c := x.ctx
    let clip := BitVec.ofNat 32 (x.opnd 8 4)
    let parts := updateParts d c
    if x.started ∧ ((findUpd d c).isSome ∨ stepState d c ≠ 1) then d
    else if stepState d c ≠ 1 ∨ stepOpen d c ≠ x.opnd 0 8 then d.stepOrder x
    else if 0x7F800000 ≤ clip.toNat then d.finish x.id 1 0x28
    else if parts.any fun p => fnState d (.engine p 18 1) ≠ 2 ∨ fnState d (.partition p) ≠ 2 then d.finish x.id 0x40 0
    else if powerState d ≠ 0 ∨ d.power.transition.isSome then d.unstart x.id
    else if parts.any fun p => (runOn d p 18 1).isSome ∨ engineOut d p 18 1 = true ∨ soloOk d p 18 1 c = false ∨
        d.bit (.fltHold p) c = true ∨ ringAhead d x.id p 18 1 = true then d.unstart x.id
    else
      let d0 := d
      let d := ((d.setStepState c 2).setBit (.gateStep c) 5 false).releaseStash fun k => k.2.1 = c
      let d := d.each parts fun d p =>
        let d := ({ d with runs := d.runs ++ [(⟨x.id, 0xFF, p, 18, 1, c, false, 0, [], []⟩ : Run)] }).engState p 18 1 1
        (d.stepPart c p).each (updateStages d c p) fun d _ => d.event (dieOf p 18)
      d.runAct (letterWho x none 18 9) x.id (do
          checkParams x parts
          let own ← normModule x parts
          devMod fun d =>
            let early := ((normRec d).map fun e => earlyPartials d e.1 (rdMailbag e.2) c).getD []
            let u : Upd := ⟨x.id, c, clip, bitN (x.opnd 0xC 4) 0, parts, own, early, none⟩
            let d := { d with updates := d.updates ++ [u] }
            if (normRecs d).isEmpty then d.normKnown c own
            else d.each (normRecs d) fun d e => let (p, r) := e; d.queueBag
                { part := p, chan := rdChan r, ctx := c, gen := x.gen, step := x.opnd 0 8, mailbag := rdMailbag r, letter := x.id,
                  stage := 0xFF, key := 0, active := false, ready := [0], grps := [], gone := false, done := false })
        id fun d => { d0 with remotes := d.remotes, nextTag := d.nextTag, out := d.out, ports := d.ports })

/-- A channel starts its next mailbag, or further groups of the one in flight (R356, R360, R365, R366, R469); in named-fault mode
when no other context is on the engine (R407). -/
def execPhaseOneStart (p ch : Nat) (s : State) : Host.Outcome State Fault Refusal :=
  .next (s.onDev fun d => match nextBag d p ch with
    | none => d
    | some b =>
      let r := bagRec d b
      let op := rdOp r
      if engineOut d p 18 0 ∨ !cascadeOpen d ∨ (d.bit (.fltCtrl p) 0 = true ∧ aloneOn d p 18 0 b.ctx = false) then d else
      let d := d.activate b
      let b := { b with active := true }
      if op = 2 then
        (if (normRec d).map (·.1) ≠ some p ∨ (findUpd d b.ctx).any fun u => (mapGet? u.partials (modNumber d)).isSome then d
         else d.normStart b)
      else if redN d r ≤ 1 then (if (List.range (rdGroups r)).all b.ready.contains ∧ bagRoom d b then d.bagDone b else d)
      else d.bagAct b (startGroups b (b.ready.filter fun g => !b.grps.any (·.g = g))))

/-- A member's partial arrives; one that comes before the context's STEP_UPDATE is kept for it (R364, R366). -/
def execNormPartialReceive (ctx gen step m : Nat) (value : W64) (s : State) : Host.Outcome State Fault Refusal :=
  .next (s.onDev fun d => match normRec d, findUpd d ctx with
    | some (p, r), some u =>
      if !redCurrent d ctx gen step then d.count (.redStale p) 1
      else if (mapGet? u.partials m).isSome then d
      else (((d.setUpd { u with partials := mapSet u.partials m value }).wrap (.redProgress p) 1).normSpread r ctx m value).normTry ctx
    | some (p, r), none =>
      if !redCurrent d ctx gen step then d.count (.redStale p) 1
      else if stepState d ctx ≠ 1 ∨ (mapGet? (earlyPartials d p (rdMailbag r) ctx) m).isSome then d
      else (({ d with redEarly := d.redEarly ++ [earlyPartial p (rdMailbag r) ctx m step value] } : Dev).wrap (.redProgress p) 1).normSpread r ctx m value
    | none, _ => d)

/-- The local update completes: the dense update, or what a non-finite norm asks for (R323, R327-R329). -/
def execUpdateLocalDone (ctx : Nat) (s : State) : Host.Outcome State Fault Refusal :=
  .next (s.onDev fun d => match findUpd d ctx with
    | none => d
    | some u => match u.norm, findLetter d u.letter with
      | some n, some x =>
        if stepState d ctx ≠ 2 then d
        else if !finite64 n then
          if !u.skip then d else
          let (ok, d') := d.journalsEnd false ctx
          if !ok then d' else
          let d := (d'.setStepState ctx 3).setBit (.gateStep ctx) 5 true
          (modifyLetter d x.id fun y => { y with skipped := true }).finish x.id 0 0
        else if u.parts.any fun p => halted d p 18 1 then d
        else d.runAct (letterWho x none 18 9) x.id (denseUpdate x u n) (fun d => (d.setStepState ctx 3).finish x.id 0 0) id
      | _, _ => d)

/-- STEP_COMMIT sends UPDATE_DONE (R331); its receipt waits for the decision. -/
def execStepCommit (l : LetterId) (s : State) : Host.Outcome State Fault Refusal :=
  .next (s.onDev fun d => d.onLetter l 0x12 fun x d =>
    let c := x.ctx
    if stepState d c ≠ 3 ∨ stepOpen d c ≠ x.opnd 0 8 then d.stepOrder x
    else
      let d := d.setStepState c 4
      d.postcard (postmasterOf d) (.updateDone (modNumber d) c (stepOpen d c) (d.fld (.gateStep c) 5 5) (d.reg (.gateNorm c))))

/-- STEP_ABORT sends ABORT_REQ; its receipt waits for the decision (R334, R335). -/
def execStepAbort (l : LetterId) (s : State) : Host.Outcome State Fault Refusal :=
  .next (s.onDev fun d => d.onLetter l 0x13 fun x d =>
    let c := x.ctx
    if stepState d c = 0 ∨ 5 ≤ stepState d c ∨ stepOpen d c ≠ x.opnd 0 8 then d.stepOrder x else d.abortReq c)

/-- EVAL_BEGIN opens a bracket on the committed version (R304, R337). -/
def execEvalBegin (l : LetterId) (s : State) : Host.Outcome State Fault Refusal :=
  .next (s.onDev fun d => d.onLetter l 0x14 fun x d =>
    let c := x.ctx
    if stepState d c ≠ 0 ∨ d.bit (.gateStep c) 6 = true ∨ d.bit (.gateStep c) 7 = false ∨ d.regN (.gateStepCommitted c) ≠ x.opnd 0 8 then
      d.stepOrder x
    else ({ d with evals := mapSet d.evals c (x.opnd 0 8) }.setBit (.gateStep c) 6 true).finish x.id 0 0)

/-- EVAL_END closes the bracket once every letter begun in it has its receipt (R337). -/
def execEvalEnd (l : LetterId) (s : State) : Host.Outcome State Fault Refusal :=
  .next (s.onDev fun d => match findLetter d l with
    | none => d
    | some y =>
      if d.letters.any fun z => z.bracket = 2 ∧ z.ctx = y.ctx then d else
      d.onLetter l 0x15 fun x d =>
        if mapGet? d.evals x.ctx = some (x.opnd 0 8) then
          ({ d with evals := mapErase d.evals x.ctx }.setBit (.gateStep x.ctx) 6 false).finish x.id 0 0
        else d.stepOrder x)

/-! ### The postmaster (R332, R353) -/

def findPoll (d : Dev) (c step : Nat) : Poll := (d.post.polls.find? fun q => q.ctx = c ∧ q.step = step).getD ⟨c, step, [], none⟩
def Dev.setPoll (d : Dev) (q : Poll) : Dev :=
  { d with post := { d.post with polls := q :: d.post.polls.filter fun r => ¬ (r.ctx = q.ctx ∧ r.step = q.step) } }

/-- Decide a step once: the decision goes out on every OPEN port, and to this module itself (R332). -/
def Dev.decide_ (d : Dev) (c step : Nat) (commit : Bool) : Dev :=
  let q := findPoll d c step
  if q.decided.isSome then d else
  let m : Msg := if commit then .commit c step else .abort c step
  ((d.setPoll { q with decided := some commit }).flood m none).postcard (modNumber d) m

def execUpdateDoneReceive (m ctx step : Nat) (skipped : Bool) (norm : W64) (s : State) : Host.Outcome State Fault Refusal :=
  .next (s.onDev fun d =>
    let q := findPoll d ctx step
    if !isPostmaster d ∨ q.decided.isSome ∨ !isMember d m then d else
    let q := { q with votes := mapSet q.votes m (skipped, norm) }
    let d := d.setPoll q
    if q.votes.any fun v => v.2 ≠ (skipped, norm) then d.decide_ ctx step false
    else if (normMembers d).all fun k => (mapGet? q.votes k).isSome then d.decide_ ctx step true
    else d)

def execAbortReqReceive (m ctx step : Nat) (s : State) : Host.Outcome State Fault Refusal :=
  .next (s.onDev fun d => if isPostmaster d ∧ isMember d m then d.decide_ ctx step false else d)

/-- A decision arrives for the first time: it is passed on (R332). -/
def Dev.decided (d : Dev) (port c step : Nat) (commit : Bool) (act : Dev → Dev) : Dev :=
  if (mapGet? d.decisions (c, step)).isSome then d else
  let d := { d with decisions := mapSet d.decisions (c, step) commit }
  act (d.flood (if commit then .commit c step else .abort c step) (some port))

/-- COMMIT: the commit actions begin (R333). -/
def execCommitReceive (port ctx step : Nat) (s : State) : Host.Outcome State Fault Refusal :=
  .next (s.onDev fun d => d.decided port ctx step true fun d =>
    if stepState d ctx = 4 ∧ stepOpen d ctx = step then d.setStepState ctx 5 else d)

/-- ABORT: letters of the step stop, the stash is released, the reduction cycles restart (R334, R356, R367). -/
def Dev.abortBegin (d : Dev) (c : Nat) : Dev :=
  let d := d.setStepState c 6
  let d := d.each (d.letters.filter fun x => x.ctx = c ∧ x.opcode = 1 ∧ (x.bracket = 1 ∨ !x.started)) fun d x => d.finish x.id 0x31 0
  let d := d.each (d.letters.filter fun x => x.ctx = c ∧ x.opcode = 0x11 ∧ x.started ∧ x.result.isNone) fun d x => d.dropWork x.id
  let d := (d.redDrop c).releaseStash fun k => k.2.1 = c
  let d := { d with xruns := d.xruns.map fun (e : (Nat × Nat × Nat) × Nat) => if e.1.1 = c then (e.1, mapGet d.xbase e.1 0) else e }
  d.each (List.range 4) Dev.redState

def execAbortReceive (port ctx step : Nat) (s : State) : Host.Outcome State Fault Refusal :=
  .next (s.onDev fun d => d.decided port ctx step false fun d =>
    if 1 ≤ stepState d ctx ∧ stepState d ctx ≤ 4 ∧ stepOpen d ctx = step then d.abortBegin ctx else d)

/-- Step letters of a context that wait for the decision. -/
def stepLetters (d : Dev) (c op : Nat) : List LetterId :=
  (d.letters.filter fun x => x.ctx = c ∧ x.opcode = op ∧ x.started ∧ x.result.isNone).map (·.id)

/-- The commit actions complete (R333, R335): journals, version, step, receipts. -/
def execCommitActionsDone (ctx : Nat) (s : State) : Host.Outcome State Fault Refusal :=
  .next (s.onDev fun d =>
    if stepState d ctx ≠ 5 then d else
    let (ok, d) := d.journalsEnd true ctx
    if !ok then d else
    let d := if d.bit (.gateStep ctx) 5 then d else d.setBit (.gateStep ctx) 3 (!d.bit (.gateStep ctx) 3)
    let d := (d.setReg (.gateStepCommitted ctx) (d.reg (.gateStepOpen ctx))).setBit (.gateStep ctx) 7 true
    let d := d.releaseStash fun k => k.2.1 = ctx
    let d := { d with letters := d.letters.map fun (x : Letter) => if x.ctx = ctx ∧ x.bracket = 1 then { x with bracket := 0 } else x }
    let d := d.each (stepLetters d ctx 0x12) fun d l => d.finish l 0 0
    let d := d.each (stepLetters d ctx 0x13) fun d l => d.finish l 0x30 0
    (d.setStepState ctx 0).setBit (.gateStep ctx) 4 false)

/-- The abort actions complete (R334): journals rolled back, receipts. -/
def execAbortActionsDone (ctx : Nat) (s : State) : Host.Outcome State Fault Refusal :=
  .next (s.onDev fun d =>
    if stepState d ctx ≠ 6 then d else
    let (ok, d) := d.journalsEnd false ctx
    if !ok then d else
    let d := d.each (stepLetters d ctx 0x11 ++ stepLetters d ctx 0x12) fun d l => d.finish l 0x31 0
    let d := d.each (stepLetters d ctx 0x13) fun d l => d.finish l 0 0
    ((d.addFld (.gateStep ctx) 63 32 1).setStepState ctx 0).setBit (.gateStep ctx) 4 false)

/-! ### Tied weights (R311, R324) -/

/-- Add one slot to the running sums of a parcel. -/
def addSlots (w : Who) (i : Nat) : List Nat → List W32 → Act (List W32)
  | [], acc => pure acc
  | s :: ss, acc => do
    let vs ← groupVals w s i
    addSlots w i ss ((acc.zip vs).map fun e => fadd e.1 e.2)

/-- A TIE_SUM stage (R311). -/
def tieSum (x : Letter) (p : Nat) (r : Rec) : Act Unit := do
  let w := stageWho x p r
  let d ← devGet
  match takeToken d x.id p (stInA r) with
  | none => stop (.wait 1)
  | some (_, d') => do
    devMod fun _ => d'
    let h ← objLoad w (uObj r) 0 64
    let n := field h 0 4
    let rows := field h 4 4
    let cols := field h 8 4
    if n < 2 ∨ 64 < n ∨ !zeroRange h 0xC 52 then stop (.mem (parcelAddr d w (uObj r) 0) 3) else do
    let b ← objLoad w (uObj r) 0x40 (4 * n)
    match (u32s b n).map fun v => bitsN v 23 0 with
    | s1 :: rest => do
      forA (List.range (gradParcels rows cols)) fun i => do
        let v0 ← groupVals w s1 i
        let vs ← addSlots w i rest v0
        let (pl, sd) := drainParcel false s1 i (min 128 (rows - 128 * (i / ceilDiv cols 8)) * 8) vs
        parcelStore w 0xFFFF s1 i 0 pl sd
        devMod fun d => d.wrap (.redUpdProgress p) 1
      sendItem x.id p (stOutA r) (.token 0)
    | [] => pure ()

def execTieSum (l : LetterId) (stage : Nat) (s : State) : Host.Outcome State Fault Refusal :=
  .next (s.onDev fun d => d.oneShot l stage [9] (fun r => recU r 16 1 = 1) 1 tieSum)

/-! ### RUN_ROUTE (R304, R317, R337, R406, R409) -/

/-- The operand words that a stage stores through. -/
def writeWords (d : Dev) (r : Rec) : List Nat :=
  let o := fun i => recU r (16 + i) 1
  (match stKind r with
  | 0 => if aDrain r = 0 then [aWordOut r] else []
  | 1 => if bitN (o 0) 1 then [o 5] else []
  | 3 => [o 3, o 4]
  | 4 => [o 4, o 5]
  | 5 => [o 5]
  | 6 => match mapGet? d.objs (recU r 16 3) with
    | some ob => let c := homeView d ob.loadBase 256
      (usedOuts c).filterMap fun (e : Nat × CardOut) => if e.2.store then some (vBase r + e.2.word) else none
    | none => []
  | 7 => [o 8, o 9]
  | 8 => if o 0 = 2 then [o 9] else []
  | _ => []).filter (· ≠ 0xFF)

/-- The operand words that a stage's options name as object words (R181, R220, R234, R245, R280-R282, R354). -/
def objWords (d : Dev) (r : Rec) : List Nat :=
  let o := fun i => recU r (16 + i) 1
  (match stKind r with
  | 0 => [o 4, o 5, o 6]
  | 1 => [o 4, o 5]
  | 2 => [o 0]
  | 3 => [o 1, o 2, o 3, o 4]
  | 4 => [o 2, o 3, o 4, o 5]
  | 5 => if o 0 = 2 then [o 5] else [o 1, o 2, o 3, o 5]
  | 7 => [o 4, o 5, o 6, o 7, o 8, o 9]
  | _ => readWords d r ++ writeWords d r).filter (· ≠ 0xFF)

/-- The operand words that a stage's options name as dimensions words. -/
def dimsWords (d : Dev) (r : Rec) : List Nat :=
  match stKind r with
  | 0 => [aWordDims r]
  | 1 => [recU r 22 1]
  | 2 => [recU r 17 1]
  | 6 => match mapGet? d.objs (recU r 16 3) with
    | some ob => [vBase r + field (homeView d ob.loadBase 256) 0x20 1]
    | none => []
  | _ => []

/-- The first operand word of a letter in which a bit is set that a stage of its route reserves: such a letter is not executed
(R6, R181, R354). -/
def reservedWord (d : Dev) (x : Letter) : Option Nat :=
  let rs := ((stagesOf d x.route).map (·.2)).filter fun r => !isUpdate r
  (List.range x.nWords).find? fun i =>
    (bitsN (x.word i) 63 56 ≠ 0 && rs.any fun r => (objWords d r).contains i) ||
    (bitN (x.word i) 63 && rs.any fun r => (dimsWords d r).contains i) ||
    (decide (4 ≤ x.word i) && rs.any fun r => stKind r = 8 && mMode r = 0 && mWordMb r = i)

/-- The engines and partitions of a route are ENABLED (R409). -/
def routeEnabled (d : Dev) (route : Nat) : Bool :=
  (stagesOf d route).all fun q => fnState d (.partition q.1) = 2 && fnState d (.engine q.1 (stNode q.2) (slotOf (stKind q.2) (stArr q.2))) = 2

/-- The first operand word of a letter that names a stash handle, among those its stages use. -/
def handleWord (d : Dev) (x : Letter) : Option Nat :=
  ((stagesOf d x.route).flatMap fun q => readWords d q.2 ++ writeWords d q.2).find? fun i => isHandle (wordObj (x.word i))

/-- A handle that a stage reads is DROPPED (R317). -/
def handleDropped (d : Dev) (x : Letter) : Bool :=
  (handleReads d x).any fun h => match mapGet? d.stash (h.1, x.ctx, h.2) with | some e => e.base.isNone | none => false

/-- A letter of RUN_ROUTE starts: its stages may run from now on. One with a reserved bit in an operand word is not executed (R6). In IDLE it first brings the module back to ACTIVE; DROWSE is left on
request only (R427). -/
def execRunRoute (l : LetterId) (s : State) : Host.Outcome State Fault Refusal :=
  .next (s.onDev fun d => d.onLetter l 0x01 fun x d =>
    let c := x.ctx
    let fwd := ((findRoute d x.route).map rtForwardOnly).getD false
    if (reservedWord d x).isSome then d.finish x.id 1 (8 * (reservedWord d x).getD 0)
    else if powerState d ≠ 0 ∨ d.power.transition.isSome then
      (if powerState d = 1 ∧ d.power.transition.isNone then d.powerBegin 0 else d).unstart x.id
    else if (stagesOf d x.route).any fun q => d.bit (.fltHold q.1) c then d.unstart x.id
    else if !routeEnabled d x.route then d.finish x.id 0x40 0
    else if stepState d c = 6 then d.finish x.id 0x31 0
    else
      let br := if (mapGet? d.evals c).isSome then 2 else if stepState d c = 1 then 1 else 0
      match decide (fwd = true), handleWord d x with
      | true, some i => d.finish x.id 1 (8 * i)
      | _, _ =>
        if handleDropped d x then d.finish x.id 0x21 4 else
        (modifyLetter d x.id fun y => { y with bracket := br }).letterDone x.id)

end Sys2Proof.Machine
end

