-- ==== Sys2Proof/Machine/Teardown.lean ====
section
/-! DEFINITION. Domain edges, generation markers and the end of a teardown (R97, R129, R400-R405). -/

namespace Sys2Proof.Machine

/-! ### Edges (R400): 0-95 fabric ports, 24 p + node; 96-105 sorting-office ports, 96 + 5 x + q; 106 the gate; 107-114 courier
edges, 107 + 2 p + L-die -/

/-- The partition of an edge, if it lies in one. -/
def edgePart (e : Nat) : Option Nat :=
  if e < 96 then some (e / 24)
  else if e < 106 then (if (e - 96) % 5 < 4 then some ((e - 96) % 5) else none)
  else if e = 106 then none else some ((e - 107) / 2)

/-- Edges that are not in reset. -/
def edgesUp (d : Dev) : List Nat :=
  (List.range 115).filter fun e => match edgePart e with | some p => !d.resetting p | none => true

/-- The gate changes a context's generation and state, and sends the marker (R97, R400). An edge keeps what it has latched
until the marker reaches it. -/
def Dev.advanceGen (d : Dev) (c st : Nat) : Dev :=
  let x := d.ctx c
  let g := (x.gen + 1) % 4096
  let es := edgesUp d
  let old := es.filterMap fun e => if (mapGet? d.edges (e, c)).isNone then some ((e, c), (x.gen, x.state)) else none
  ({ d with edges := d.edges ++ old, markers := d.markers ++ [(⟨c, g, st, es⟩ : GenMarker)] }).setCtx c { x with gen := g, state := st }

/-- A marker reaches an edge, which latches it. -/
def execGenerationMarkerArrive (ctx edge : Nat) (s : State) : Host.Outcome State Fault Refusal :=
  .next (s.onDev fun d => match d.markers.find? fun m => m.ctx = ctx ∧ m.left.contains edge with
    | none => d
    | some m =>
      let d := { d with edges := mapSet d.edges (edge, ctx) (m.gen, m.state) }
      let left := m.left.filter (· ≠ edge)
      { d with markers := (d.markers.map fun k => if k = m then { k with left := left } else k).filter (·.left ≠ []) })

/-- Every edge has latched a generation; edges in reset latch the table as they leave it. -/
def latched (d : Dev) (c g : Nat) : Bool :=
  d.markers.all fun m => ¬ (m.ctx = c ∧ m.gen = g) ∨ m.left.all fun e => match edgePart e with | some p => d.resetting p | none => false

/-- Edges of a partition latch the current table as they leave reset. -/
def Dev.edgesReturn (d : Dev) (p : Nat) : Dev :=
  { d with edges := d.edges.filter fun (e : (Nat × Nat) × Nat × Nat) => edgePart e.1.1 ≠ some p,
           markers := (d.markers.map fun m => { m with left := m.left.filter fun e => edgePart e ≠ some p }).filter (·.left ≠ []) }

/-! ### Teardown (R404, R405) -/

/-- An object that a teardown evicts is still on its way out. -/
def leaving (d : Dev) (id : Nat) : Bool :=
  match mapGet? d.objs id with
  | some o => o.state = 3 || (o.state = 1 && o.pins = [])
  | none => false

/-- Letters of the torn generation whose receipts are not written yet (R129, R404 step 3). -/
def tearOwes (d : Dev) (r : Drain) (l : LetterId) : Bool := d.letters.any fun y => y.ctx = r.ctx && y.gen = r.oldGen && y.id ≠ l

/-- The last step of a teardown, once every marker has returned: journals rolled back, memory released, the context CLOSED. -/
def Dev.tearTry (d : Dev) (r : Drain) : Dev :=
  match r.tear with
  | none => d
  | some l =>
    if r.paths ≠ [] ∨ !latched d r.ctx ((r.oldGen + 1) % 4096) ∨ r.objs.any (leaving d) ∨ tearOwes d r l then d else
    let (ok, d) := d.journalsEnd false r.ctx
    if !ok then d else
    let d := (d.dropTlb r.ctx).releaseStash fun k => k.2.1 = r.ctx
    let d := { d with drains := d.drains.filter (· ≠ r), evals := mapErase d.evals r.ctx }
    (d.setCtx r.ctx { d.ctx r.ctx with state := 0 }).finish l 0 0

def Dev.tearAll (d : Dev) : Dev := d.each d.drains Dev.tearTry

/-- Reads that flush the upstream and intake paths of a teardown serve as their markers (R404). -/
def tearFlushed (d : Dev) (r : Drain) : Bool :=
  match r.tear.bind (findLetter d) with
  | some x => x.zeroReads = 0
  | none => true

/-- A drain marker returns on one path. -/
def execDrainMarkerReturn (ctx : Nat) (path : DrainPath) (s : State) : Host.Outcome State Fault Refusal :=
  .next (s.onDev fun d => match d.drains.find? fun r => r.ctx = ctx ∧ r.paths.contains path with
    | none => d.tearAll
    | some r =>
      if (path = .upstream ∨ path = .intake) ∧ !tearFlushed d r then d else
      let r' := { r with paths := r.paths.filter (· ≠ path) }
      let d := if path = .courier then
          d.each (d.podStores.filter fun s => s.ctx = some (r.ctx, r.oldGen)) fun d s => d.storeEnds s none
        else d
      { d with drains := d.drains.map fun k => if k = r then r' else k }.tearAll)

/-- The bit of a path in a TEARDOWN_BOUND record (R412). -/
def pathBit : DrainPath → Nat
  | .fabric => 1 | .memory => 2 | .courier => 4 | .upstream => 8 | .intake => 16

/-- The 200 us bound ends step 5 with markers outstanding (R405); receipts wait for no store any more, and what comes back later is a dead
letter: a pod store's response finds its store without a letter. -/
def execTeardownBound (ctx : Nat) (s : State) : Host.Outcome State Fault Refusal :=
  .next (s.onDev fun d => match d.drains.find? fun r => r.ctx = ctx ∧ r.tear.isSome ∧ r.paths ≠ [] with
    | none => d
    | some r =>
      let d := d.raise { cls := 0x284, eng := 0x20, die := dieGate, part := none, ctx := some (ctx, r.oldGen),
                         d0 := (r.paths.map pathBit).sum }
      let mine := (d.letters.filter (·.ctx = ctx)).map (·.id)
      let d := { d with
        letters := d.letters.map fun (x : Letter) => if x.ctx = ctx then { x with zeroReads := 0, podAcks := 0 } else x,
        podStores := d.podStores.map fun (t : PodStore) => match t.who with
          | .letter l _ => if mine.contains l then { t with who := .loader } else t
          | _ => t,
        drains := d.drains.map fun k => if k = r then { k with paths := [] } else k }
      d.tearAll)

end Sys2Proof.Machine
end

