-- ==== Sys2Proof/Machine/Objects.lean ====
section
/-! DEFINITION. The object directory (R146-R156): lodging, promotion, eviction and pins; interleave sets (R135). -/

namespace Sys2Proof.Machine

/-! ### The directory -/

/-- Entries that a partition's directory holds room for (R55). -/
def dirCapacity (d : Dev) (p : Nat) : Nat := match dirRegion d p with | some r => r.2 / 64 | none => 0

/-- Partitions that hold a directory (R146). -/
def dirParts (d : Dev) : List Nat := (List.range 4).filter fun p => (dirRegion d p).isSome

/-- The entries of a partition's directory in use. -/
def dirUsed (d : Dev) (p : Nat) : List Nat := d.objs.filterMap fun (o : Nat × Obj) => mapGet? o.2.slots p

/-- The slab segments that a stacked-tier object has bytes in (R135). -/
def segments (o : Obj) : List Nat :=
  if o.tier = 0 then
    let a := o.base % 2 ^ 40
    (List.range 16).filter fun s => a < (s + 1) * 2 ^ 36 ∧ s * 2 ^ 36 < a + o.footprint
  else []

/-- MEM_SEG_USED and HALL_OBJ_STATUS follow the directory (R135, R163). -/
def Dev.objStatus (d : Dev) (p : Nat) : Dev :=
  let mine := (d.objs.filter fun (o : Nat × Obj) => o.2.home = p).map fun (o : Nat × Obj) => o.2
  let used := (List.range 16).filter fun s => mine.any fun o => (segments o).contains s
  (d.setFld (.memSegUsed p) 15 0 (used.map fun s => 2 ^ s).sum).setFld (.hallObjStatus p) 21 0 mine.length

/-- Give an object an entry in a directory: which free one is the H-die's choice (Config.freeSlot). -/
def Dev.dirAdd (d : Dev) (id : Nat) (o : Obj) (p : Nat) : Obj × Dev :=
  let used := dirUsed d p
  let free := (List.range (dirCapacity d p)).filter fun k => !used.contains k
  let (t, d) := d.draw
  match free[Config.freeSlot t % free.length]? with
  | some k => ({ o with slots := mapSet o.slots p k }, d.dirWrite p k (dirEntry id o (p = o.home)))
  | none => (o, d)

/-- Enter an object in the directories of the given partitions (R146). -/
def Dev.dirAddAll (d : Dev) (id : Nat) : Obj → List Nat → Obj × Dev
  | o, [] => (o, d)
  | o, p :: ps => let (o, d) := d.dirAdd id o p; d.dirAddAll id o ps

/-- Remove every entry of an object (R151). -/
def Dev.dirRemove (d : Dev) (id : Nat) : Dev :=
  match mapGet? d.objs id with
  | none => d
  | some o =>
    let d := d.each o.slots fun d e => d.dirWrite e.1 e.2 (List.replicate 64 0#8)
    { d with objs := mapErase d.objs id }.objStatus o.home

/-! ### SRAM footprints (R150) -/

/-- SRAM that objects hold: SRAM-tier objects and the copies of others. -/
def sramExtents (d : Dev) : List (Nat × Nat) :=
  d.objs.filterMap fun (o : Nat × Obj) =>
    if o.2.tier = 1 then some (o.2.base, o.2.footprint) else if o.2.state ≠ 0 then some (o.2.sram, o.2.footprint) else none

/-- A range lies in the open space of one die of a partition (R55). -/
def openSpace (d : Dev) (p a len : Nat) : Bool :=
  match place a with
  | .window q w off =>
    q = p && w < 20 && off + len ≤ sramSize w &&
    (carves d p).all fun r => carveNode r ≠ w || off + len ≤ carveOff r || carveOff r + carveLen r ≤ off
  | _ => false

/-- The TIER 1 checks of R150: status and DETAIL of the first that fails. -/
def sramCheck (d : Dev) (p a len : Nat) : Option (Nat × Nat) :=
  if a % 4096 ≠ 0 ∨ !openSpace d p a len then some (0x10, 0)
  else if (sramExtents d).any fun e => a < e.1 + e.2 ∧ e.1 < a + len then some (0x22, p)
  else none

/-- The checks of LODGE, in order (R150). -/
def lodgeCheck (d : Dev) (id : Nat) (o : Obj) : Option (Nat × Nat) :=
  if !d.installed o.home then some (7, 2 ^ o.home)
  else if d.down o.home then some (0x14, o.home)
  else match mapGet? d.objs id with
  | some e => some (0x21, e.state)
  | none =>
    let bad :=
      if o.tier = 0 then
        if o.base % 4096 ≠ 0 ∨ place o.base ≠ .slab o.home ∨ o.size = 0 ∨ o.size % (if o.hasSide then 4096 else 64) ≠ 0 ∨
            slabBase (o.home + 1) < o.base + o.footprint ∨
            (segments o).any (fun s => d.bit (.memSegIset o.home) s ≠ bitN o.iset 0) then some (0x10, 0)
        else none
      else if bitN o.iset 0 then some (0x10, 0) else sramCheck d o.home o.base o.footprint
    match bad with
    | some e => some e
    | none => ((dirParts d).find? fun p => dirCapacity d p ≤ (dirUsed d p).length).map fun p => (0x22, p)

/-- LODGE (R149, R150). -/
def execLodge (l : LetterId) (s : State) : Host.Outcome State Fault Refusal :=
  .next (s.onDev fun d => d.onLetter l 0x02 fun x d =>
    let id := x.opnd 0 3
    let tier := x.opnd 5 1
    let base := x.opnd 0x10 8
    let o : Obj := ⟨x.opnd 4 1, tier, x.opnd 6 1, x.opnd 8 8, base, (if tier = 1 then 2 else 0), false, (if tier = 1 then base else 0),
      [], [], [], [], [], []⟩
    match lodgeCheck d id o with
    | some (st, dt) => d.finish x.id st dt
    | none =>
      let (o, d) := d.dirAddAll id o (dirParts d)
      ({ d with objs := mapSet d.objs id o }.objStatus o.home).finish x.id 0 0)

/-- A running letter reads or writes a stash entry of its context. -/
def stashBusy (d : Dev) (c h : Nat) : Bool :=
  d.letters.any fun y => y.started && y.result.isNone && y.opcode = 1 && y.ctx = c &&
    (stagesOf d y.route).any fun q => (readWords d q.2 ++ writeWords d q.2).any fun i => wordObj (y.word i) = h

/-- UNLODGE of a stash handle releases the context's entries (R318); the spec names no code for the state of an entry
that is in use. -/
def unlodgeStash (x : Letter) (h : Nat) (d : Dev) : Dev :=
  let hit := fun (k : Nat × Nat × Nat) => k.2.1 = x.ctx && k.2.2 = h
  if d.stash.all fun e => !hit e.1 then d.finish x.id 0x20 0
  else if stashBusy d x.ctx h then
    let (k, d) := d.draw
    d.finish x.id 0x21 ((Config.freeWord k).toNat % 65536)
  else (d.releaseStash hit).finish x.id 0 0

/-- The object that a letter names: unknown, or its home is in reset or degraded (R151, R156). -/
def Dev.withObj (d : Dev) (x : Letter) (f : Nat → Obj → Dev) : Dev :=
  let id := x.opnd 0 3
  match mapGet? d.objs id with
  | none => d.finish x.id 0x20 0
  | some o => if d.down o.home then d.finish x.id 0x14 o.home else f id o

/-- UNLODGE (R151, R318). -/
def execUnlodge (l : LetterId) (s : State) : Host.Outcome State Fault Refusal :=
  .next (s.onDev fun d => d.onLetter l 0x03 fun x d =>
    if isHandle (x.opnd 0 3) then unlodgeStash x (x.opnd 0 3) d else
    d.withObj x fun id o =>
      if o.tier = 1 ∨ (o.state = 0 ∧ o.pins = []) then (d.dirRemove id).finish x.id 0 0
      else d.finish x.id 0x21 o.state)

/-! ### Promotion and eviction (R152-R155) -/

/-- A PROMOTE acts on an ABSENT object: its DEST is checked and the copy starts (R153). -/
def Dev.promoteStart (d : Dev) (id : Nat) (o : Obj) (l : LetterId) (c dest : Nat) : Dev :=
  match sramCheck d o.home dest o.footprint with
  | some (st, dt) => d.finish l st dt
  | none => d.putObj id { o with state := 1, sram := dest, pins := [c], joiners := [l], dirty := false }

/-- PROMOTE by a context (R153). A pin added to a copy in flight cancels the eviction that had been asked for: the receipt of
that EVICT is due with the copy (R154). -/
def Dev.promote (d : Dev) (id : Nat) (l : LetterId) (c dest : Nat) : Dev :=
  match mapGet? d.objs id with
  | none => d.finish l 0x20 0
  | some o =>
    let pin := if o.pins.contains c then o.pins else o.pins ++ [c]
    if o.tier = 1 then d.finish l 0x21 o.state
    else match o.state with
    | 0 => d.promoteStart id o l c dest
    | 1 => d.putObj id { o with pins := pin, joiners := o.joiners ++ o.evicts ++ [l], evicts := [] }
    | 2 => (d.putObj id { o with pins := pin }).finish l 0 0
    | _ => d.putObj id { o with waiting := o.waiting ++ [(l, c, dest)] }

def execPromote (l : LetterId) (s : State) : Host.Outcome State Fault Refusal :=
  .next (s.onDev fun d => d.onLetter l 0x04 fun x d =>
    d.withObj x fun id _ => d.promote id x.id x.ctx (x.opnd 8 8))

/-- Clear a context's pin; with the last one a RESIDENT object starts to leave (R154). `l` is the EVICT letter. -/
def Dev.unpin (d : Dev) (id c : Nat) (l : Option LetterId) : Dev :=
  let done := fun (d : Dev) => match l with | some l => d.finish l 0 0 | none => d
  match mapGet? d.objs id with
  | none => d
  | some o =>
    if !o.pins.contains c then done d else
    let pins := o.pins.filter (· ≠ c)
    let o := { o with pins := pins }
    if pins ≠ [] then done (d.putObj id o)
    else if o.state = 2 then d.putObj id { o with state := 3, evicts := l.toList }
    else if o.state = 1 then d.putObj id { o with evicts := o.evicts ++ l.toList }
    else done (d.putObj id o)

/-- EVICT by a context (R154). -/
def execEvict (l : LetterId) (s : State) : Host.Outcome State Fault Refusal :=
  .next (s.onDev fun d => d.onLetter l 0x05 fun x d =>
    d.withObj x fun id o => if o.tier = 1 then d.finish x.id 0x21 o.state else d.unpin id x.ctx (some x.id))

/-- Letters that waited for an object end. -/
def Dev.finishAll (d : Dev) (ls : List LetterId) (status detail : Nat) : Dev := d.each ls fun d l => d.finish l status detail

/-- The held stores reach one copy in their order (R152). -/
def Dev.applyHeld (d : Dev) (home base : Nat) (hs : List (Option (LetterId × Nat) × Nat × List Byte)) : Dev :=
  d.each hs fun d h => d.heldStore home (base + h.2.1) h.2.2 h.1

/-- The held stores are lost: their letters end, whatever their stages have come to (R127, R156). -/
def Dev.heldEnds (d : Dev) (hs : List (Option (LetterId × Nat) × Nat × List Byte)) (status detail : Nat) : Dev :=
  d.each hs fun d h => match h.1.bind fun (y : LetterId × Nat) => findLetter d y.1 with
    | some x => if x.result.isNone then d.finish x.id status detail else d.worsen x.id status detail
    | none => d

/-- The copies between the tiers, in parcel order, by the update engine of the home partition (R151-R154). -/
def copyObj (o : Obj) (src dst : Nat) : Act Unit := do
  let bs ← localLoad (some (o.home, 18)) src o.footprint
  localStore (some (o.home, 18)) dst bs

/-- The update engine's progress (R370). -/
def Dev.copied (d : Dev) (o : Obj) : Dev := d.wrap (.redUpdProgress o.home) (ceilDiv o.size 4096)

/-- Waiting PROMOTEs act on an object that has become ABSENT (R153). -/
def Dev.promoteWaiting (d : Dev) (id : Nat) (ws : List (LetterId × Nat × Nat)) : Dev :=
  d.each ws fun d w => match findLetter d w.1 with
    | some x => if x.result.isNone then d.promote id w.1 w.2.1 w.2.2 else d
    | none => d

/-- The object becomes ABSENT; held stores go to the stacked copy (R152, R154). -/
def Dev.absent (d : Dev) (id : Nat) (o : Obj) : Dev :=
  let o' := { o with state := 0, sram := 0, dirty := false, pins := [], held := [], joiners := [], waiting := [], evicts := [] }
  let d := (d.putObj id o').applyHeld o.home o.base o.held
  d.promoteWaiting id o.waiting

/-- A copy meets an error: its letters end with MEMORY_ERROR, and the object is ABSENT (the spec states no state). -/
def Dev.copyFails (d : Dev) (id : Nat) (o : Obj) (e : Stop) (ls : List LetterId) : Dev :=
  let d := d.stopIncident ⟨some o.home, 18, 9, 0, 0, 0, none, 0xFF, 0xFFFF⟩ e
  let (st, dt) := stopStatus 0xFF e
  (d.finishAll ls st dt).absent id o

/-- The copy to SRAM completes (R153, R154). -/
def execPromoteCopyDone (obj : Nat) (s : State) : Host.Outcome State Fault Refusal :=
  .next (s.onDev fun d => match mapGet? d.objs obj with
    | none => d
    | some o =>
      if o.state ≠ 1 then d else
      match (copyObj o o.base o.sram).run d with
      | (.error (.wait _), _) => d
      | (.error e, d) => d.copyFails obj o e (o.joiners ++ o.evicts)
      | (.ok _, d) =>
        let o' := { o with state := 2, dirty := o.held ≠ [], held := [], joiners := [] }
        let d := ((d.copied o).applyHeld o.home o.sram o.held).finishAll o.joiners 0 0
        if o.pins = [] then d.putObj obj { o' with state := 3 }
        else ((d.putObj obj { o' with evicts := [] }).finishAll o.evicts 0 0).tearAll)

/-- Write-back and free complete (R154). -/
def execEvictWritebackDone (obj : Nat) (s : State) : Host.Outcome State Fault Refusal :=
  .next (s.onDev fun d => match mapGet? d.objs obj with
    | none => d
    | some o =>
      if o.state ≠ 3 then d else
      match (if o.dirty then copyObj o o.sram o.base else pure ()).run d with
      | (.error (.wait _), _) => d
      | (.error e, d) => d.copyFails obj o e o.evicts
      | (.ok _, d) => ((if o.dirty then d.copied o else d).finishAll o.evicts 0 0).absent obj o |>.tearAll)

/-- A partition reset ends every SRAM copy of its objects, and with it the operations on them (R156). -/
def Dev.objectsReset (d : Dev) (p : Nat) : Dev :=
  d.each (d.objs.filter fun (o : Nat × Obj) => o.2.home = p ∧ o.2.tier = 0 ∧ o.2.state ≠ 0) fun d e =>
    let o := e.2
    let d := (d.finishAll (o.joiners ++ o.evicts ++ o.waiting.map (·.1)) 0x14 p).heldEnds o.held 0x14 p
    d.putObj e.1 { o with state := 0, sram := 0, dirty := false, pins := [], held := [], joiners := [], waiting := [], evicts := [] }

/-- CTX_TEAR clears every pin of a context as an EVICT would (R155). -/
def Dev.clearPins (d : Dev) (c : Nat) : Dev := d.each d.objs fun d (e : Nat × Obj) => d.unpin e.1 c none

/-! ### Interleave sets (R135) -/

/-- A write of MEM_SEG_ISET leaves segments in use alone; the bytes of a changed segment are undefined. -/
def execMemSegIsetWrite (via : Via) (p : Nat) (value : W32) (s : State) : Host.Outcome State Fault Refusal :=
  .next (s.onDev fun d => if 4 ≤ p then d else d.viaReg via .open_ (.memSegIset p) (.memSegIsetWrite via p value) fun d =>
    let flip := (List.range 16).filter fun i => !d.bit (.memSegUsed p) i ∧ d.bit (.memSegIset p) i ≠ bitN value.toNat i
    d.each flip fun d i =>
      let (k, d) := d.draw
      let lo := slabBase p + i * 2 ^ 36
      { d with mem := d.mem.undefine lo (lo + 2 ^ 36) k }.setBit (.memSegIset p) i (bitN value.toNat i))

end Sys2Proof.Machine
end

