-- ==== Sys2Proof/Machine/Courier.lean ====
section
/-! DEFINITION. Courier links and the cascade: frames that arrive, retry, retraining, opening, admission and member loss
(R340-R353, R465-R470). -/

namespace Sys2Proof.Machine

/-! ### Frames that arrive (R344, R345, R350) -/

/-- A corrupted or out-of-order frame is discarded, and one NAK names the first LSEQ still needed. -/
def Dev.nakOnce (d : Dev) (n : Nat) : Dev :=
  let p := d.port n
  if p.nakSent then d else (d.setPort n { p with nakSent := true }).control n 2 [p.expect]

/-- The key of a forwarded frame (R350). -/
def frameKey (f : Frame) : Nat :=
  if f.vc = 1 ∨ f.vc = 2 then bitsN f.hdr 45 11
  else if f.kind = 4 ∨ (f.vc = 3 ∧ f.kind = 2) then field f.body 4 4
  else if f.vc = 3 then field f.body (4096 + 0x10) 8 / 4096
  else 0

/-- The L-die forwards a frame towards its destination, on the way round a ring that it came by; it crosses a sorting office when its outgoing port lies in
another partition (R350). -/
def Dev.forward (d : Dev) (n : Nat) (f : Frame) : Dev :=
  let f := { f with key := frameKey f }
  match outPortFrom d (some n) f.dst f.key with
  | none => if f.vc = 1 then d.noWay f else d
  | some m =>
    let d := if m / 4 ≠ n / 4 ∧ (f.vc = 1 ∨ f.vc = 2) then d.wrap (.sortPortBytes (5 * bitsN f.hdr 11 11 + m / 4)) f.body.length else d
    d.enqueue m f

/-- The edge of a port checks the generation recorded with the TAG (R400). -/
def courierStale (d : Dev) (n : Nat) (c : Option (Nat × Nat)) : Option (Nat × Nat) :=
  match c with
  | some (c, g) => if d.edgeGen (107 + 2 * (n / 4) + n % 4 / 2) c ≠ g then some (c, g) else none
  | none => none

/-- A pod response: a duplicate without an outstanding TAG is discarded (R351). -/
def Dev.podAnswer (d : Dev) (n : Nat) (f : Frame) : Dev :=
  let a := bitsN f.hdr 45 0
  let hit := fun (tag t : Nat) => tag % 2 ^ 16 = bitsN f.hdr 63 48 && untag t = .pod f.src a
  let err := bitN f.hdr 47
  let code := field f.body 0 4
  let part := field f.body 4 4
  if bitN f.hdr 46 then
    match d.podStores.find? fun s => hit s.tag s.addr with
    | none => d
    | some s => match courierStale d n s.ctx with
      | some (c, g) => (d.courierDead (n / 4) c g).storeEnds s none
      | none => d.storeEnds s (if err then some (podStop s.addr code part) else none)
  else
    match d.remotes.find? fun r => r.data.isNone && hit r.tag r.addr with
    | none => d
    | some r => match courierStale d n r.ctx with
      | some (c, g) => { d.courierDead (n / 4) c g with remotes := d.remotes.filter (·.tag ≠ r.tag) }
      | none => d.loadEnds r (if err then .error (podStop r.addr code part) else .ok f.body)

/-- A frame that its port has accepted. The messages of VC 0 and the frames of VC 3 act as commands of their own. -/
def Dev.deliver (d : Dev) (n : Nat) (f : Frame) : Dev :=
  if f.dst ≠ modNumber d then d.forward n f
  else if f.vc = 1 ∧ f.kind ≠ 4 then d.take (.pod (n / 4) f)
  else if f.vc = 2 ∧ f.kind ≠ 4 then d.podAnswer n f
  else d

/-- A frame on an open port (R344). The LACK of a CONTROL frame counts as that of any other; what its subtype asks for is a
command of its own. -/
def Dev.frameIn (d : Dev) (n : Nat) (bytes : List Byte) : Dev :=
  if d.portState n ≠ 3 ∧ d.portState n ≠ 6 then d else
  match Frame.parse bytes with
  | none => d.nakOnce n
  | some (f, lseq, lack) =>
    let d := (d.ackUpTo n lack).redPump.redAdvance
    if f.kind = 1 then d else
    let p := d.port n
    if lseq = p.expect then
      let d := d.setPort n { p with expect := (lseq + 1) % 4096, nakSent := false }
      ((d.control n 1 [lseq]).control n 3 [f.cls, 1]).deliver n f
    else if 2048 ≤ (lseq + 4096 - p.expect) % 4096 then d.control n 1 [(p.expect + 4095) % 4096]
    else d.nakOnce n

/-- CRR_PORT_FEC_CORR and CRR_PORT_FEC_UNCORR count codewords while the port signals (R369). -/
def Dev.fecCount (d : Dev) (n corrected uncorrectable : Nat) : Dev :=
  if d.portState n = 0 ∨ (corrected = 0 ∧ uncorrectable = 0) then d
  else (d.count64 (.crrPortFecCorr n) corrected).addFld (.crrPortFecUncorr n) 31 0 uncorrectable

def execFrameReceive (port : Nat) (frame : RxFrame) (s : State) : Host.Outcome State Fault Refusal :=
  .next (s.onDev fun d =>
    if port < 16 then (d.fecCount port frame.corrected frame.uncorrectable).frameIn port frame.bytes else d)

/-- A port that carries link management of its session: OPEN, or still disabling. -/
def inSession (d : Dev) (n : Nat) : Bool := n < 16 && (d.portState n = 3 || d.portState n = 6)

def execAckReceive (port lseq : Nat) (s : State) : Host.Outcome State Fault Refusal :=
  .next (s.onDev fun d => if inSession d port then (d.ackUpTo port (lseq % 4096)).redPump.redAdvance else d)

/-- A NAK acknowledges what precedes it; the sender resends from it (R344). -/
def execNakReceive (port lseq : Nat) (s : State) : Host.Outcome State Fault Refusal :=
  .next (s.onDev fun d =>
    if inSession d port then ((d.ackUpTo port ((lseq + 4095) % 4096)).resendFrom port (lseq % 4096)).resendCheck port |>.redPump.redAdvance else d)

/-- Credits of a class return (R345); the frame's LACK acknowledges (R344). -/
def execCreditReceive (ctl : CtlFrame) (cls count : Nat) (s : State) : Host.Outcome State Fault Refusal :=
  .next (s.onDev fun d =>
    let port := ctl.port
    if inSession d port ∧ cls ≤ 6 then
      let d := d.ackUpTo port (ctl.lack % 4096)
      let p := d.port port
      let c := mapGet p.credits cls (classPlaces cls)
      (d.setPort port { p with credits := mapSet p.credits cls (min (classPlaces cls) (c + count)) }).pump port (p.queue.length + 1) |>.redPump.redAdvance
    else d)

/-- A KEEPALIVE shows that the far end is there (R346), and its LACK acknowledges (R344). -/
def execKeepaliveReceive (ctl : CtlFrame) (s : State) : Host.Outcome State Fault Refusal :=
  .next (s.onDev fun d => if inSession d ctl.port then (d.ackUpTo ctl.port (ctl.lack % 4096)).redPump.redAdvance else d)

/-- The oldest frame that is not acknowledged. -/
def oldest (d : Dev) (n : Nat) : Option Nat := ((d.port n).replay.head?).map (·.1)

def execReplayTimeout (port : Nat) (s : State) : Host.Outcome State Fault Refusal :=
  .next (s.onDev fun d => match oldest d port with
    | some q => if inSession d port then (d.resendFrom port q).resendCheck port else d
    | none => d)

def execKeepaliveTimer (port : Nat) (s : State) : Host.Outcome State Fault Refusal :=
  .next (s.onDev fun d => if port < 16 ∧ d.portState port = 3 then d.control port 4 [] else d)

def execReceiveTimeout (port : Nat) (s : State) : Host.Outcome State Fault Refusal :=
  .next (s.onDev fun d => if port < 16 then d.retrainPort port else d)

/-- Setting CRR_PORT_CTRL.RETRAIN: the bit stays set while an OPEN port retrains, else it clears at once (R346). -/
def execRetrain (via : Via) (port : Nat) (s : State) : Host.Outcome State Fault Refusal :=
  .next (s.onDev fun d => if 16 ≤ port then d else d.viaReg via .open_ (.crrPortCtrl port) (.retrain via port) fun d =>
    if d.portState port = 3 then (d.setBit (.crrPortCtrl port) 1 true).retrainPort port else d)

/-- Retraining succeeds: the session goes on, from the oldest unacknowledged frame (R346). -/
def execPortRetrainDone (port : Nat) (s : State) : Host.Outcome State Fault Refusal :=
  .next (s.onDev fun d =>
    if 16 ≤ port ∨ d.portState port ≠ 4 ∨ (d.port port).cabled = false then d else
    let d := (d.setPortState port 3).setBit (.crrPortCtrl port) 1 false
    let p := d.port port
    let d := d.setPort port { p with replay := p.replay.map fun (e : Nat × Nat × Frame) => (e.1, 0, e.2.2), nakSent := false }
    let d := match oldest d port with | some q => d.resendFrom port q | none => d
    d.pump port (p.queue.length + 1))

/-- A retrain has failed: the port is DOWN, its frames go another way, the postmaster is told (R346, R351, R352). -/
def execPortDown (port : Nat) (s : State) : Host.Outcome State Fault Refusal :=
  .next (s.onDev fun d =>
    if 16 ≤ port ∨ d.portState port ≠ 4 then d else
    let peer := d.fld (.crrPortStatus port) 15 8
    let d := d.rewire fun d => ((((d.setPortState port 5).setBit (.crrPortStatus port) 4 true).setBit (.crrPortCtrl port) 1 false).requeue port true)
    let d := d.clearSession port false
    let d := d.raise { cls := 0x200, eng := 0x13, idx := port, die := lDie port, part := some (port / 4), d0 := port + peer * 256 }
    if d.modImage.isNone then d else
    (d.setPort port { d.port port with downReported := true }).postcard (postmasterOf d) (.portDown (modNumber d) port))

/-! ### Opening (R347, R348, R465, R466) -/

/-- A structure lets the port say HELLO (R465). -/
def helloReady (d : Dev) (n : Nat) : Bool := d.modImage.isSome && d.installed (n / 4) && d.portRole n % 4 ≠ 3

/-- Bytes 0-7 of STRUCT_CASCADE_DIGEST. -/
def cascadeDigest8 (d : Dev) : List Byte := natLe 4 (d.regN (.structCascadeDigest 0)) ++ natLe 4 (d.regN (.structCascadeDigest 1))

/-- HELLO: module number, port number, role byte, digest bytes. -/
def Dev.hello (d : Dev) (n : Nat) : Dev :=
  (d.setPortState n 2).control n 6 ([modNumber d, n, d.portRole n] ++ (cascadeDigest8 d).map (·.toNat))

/-- The first HELLO of a CLOSED port that may open. -/
def Dev.helloFirst (d : Dev) (n : Nat) : Dev :=
  if d.portState n = 1 ∧ (d.port n).linkUp = true ∧ (d.port n).backoff = false ∧ helloReady d n = true then
    (d.setPort n { d.port n with tries := 0, agreed := false, acked := false }).hello n
  else d

/-- JOIN, as soon as a route to the postmaster exists (R468). -/
def Dev.join (d : Dev) : Dev :=
  if d.fld .gateCascade 1 0 = 0 ∨ (membersOf d).length ≤ 1 then d
  else d.admission (postmasterOf d) (.join (modNumber d) Config.serial (cascadeDigest8 d))

/-- The port is OPEN: both directions start at LSEQ 0 (R348, R352, R466, R468). -/
def Dev.openUp (d : Dev) (n : Nat) : Dev :=
  let p := d.port n
  if p.agreed ∧ p.acked ∧ d.portState n = 2 then
    let d := d.setPort n { Port.reset with cabled := p.cabled, linkUp := true, agreed := true, acked := true }
    let d := d.rewire fun d => d.setPortState n 3
    let d := if p.downReported then d.postcard (postmasterOf d) (.portUp (modNumber d) n) else d
    d.join
  else d

/-- Link training of a cabled port completes (R455 step 8). -/
def execPortLinkTrained (port : Nat) (s : State) : Host.Outcome State Fault Refusal :=
  .next (s.onDev fun d =>
    if 16 ≤ port ∨ (d.portState port ≠ 1 ∧ d.portState port ≠ 5) ∨ d.resetting (port / 4) then d else
    if !(d.port port).cabled ∨ (d.port port).linkUp then d else
    let d := if d.portState port = 5 then (d.clearSession port false).setPortState port 1 else d
    let d := d.setPort port { d.port port with linkUp := true }
    if helloReady d port then d.helloFirst port else d.control port 5 [])

/-- While no structure is installed, the port sends CLOSED (R348, R465). -/
def execClosedFrameTimer (port : Nat) (s : State) : Host.Outcome State Fault Refusal :=
  .next (s.onDev fun d =>
    if port < 16 ∧ d.portState port = 1 ∧ (d.port port).linkUp = true ∧ !(d.modImage.isSome && d.installed (port / 4)) then
      d.control port 5 []
    else d)

/-- The wait b begins (R465). -/
def Dev.startBackoff (d : Dev) (n : Nat) : Dev :=
  if n < 16 ∧ d.portState n = 2 then d.setPort n { d.port n with backoff := true } else d

def execClosedReceive (port : Nat) (s : State) : Host.Outcome State Fault Refusal := .next (s.onDev (·.startBackoff port))
def execHelloTimeout (port : Nat) (s : State) : Host.Outcome State Fault Refusal := .next (s.onDev (·.startBackoff port))

/-- The wait b ends: HELLO again, and k increases. -/
def execHelloBackoffExpire (port : Nat) (s : State) : Host.Outcome State Fault Refusal :=
  .next (s.onDev fun d =>
    let p := d.port port
    if port < 16 ∧ d.portState port = 2 ∧ p.backoff = true then (d.setPort port { p with backoff := false, tries := p.tries + 1 }).hello port
    else d)

/-- The far end's HELLO is the one that R347 asks for. -/
def helloAgrees (d : Dev) (n m role : Nat) (digest : List Byte) : Bool :=
  portPeer d n = some m && role % 4 = d.portRole n % 4 && role / 4 % 2 ≠ d.portRole n / 4 % 2 &&
  role / 8 % 8 = d.portRole n / 8 % 8 && slice digest 0 8 = cascadeDigest8 d

/-- A HELLO is checked at once (R466), or shows a mismatch (R348). -/
def execHelloReceive (port m peerPort role : Nat) (digest : List Byte) (s : State) : Host.Outcome State Fault Refusal :=
  .next (s.onDev fun d =>
    if 16 ≤ port ∨ d.portState port ≠ 2 then d else
    let p := d.port port
    if helloAgrees d port m role digest then
      let d := (d.setFld (.crrPortStatus port) 15 8 m).setFld (.crrPortStatus port) 19 16 peerPort
      let d := d.setPort port { p with agreed := true, tries := 0, backoff := false }
      ((d.control port 7 []).hello port).openUp port
    else
      let seen := d.bit (.crrPortStatus port) 3
      let d := (d.setBit (.crrPortStatus port) 3 true).setPortState port 1
      let d := d.setPort port { p with agreed := false, acked := false, backoff := true, mismatch := some (m, peerPort, role) }
      if seen ∧ p.mismatch = some (m, peerPort, role) then d else
      d.raise { cls := 0x201, eng := 0x13, idx := port, die := lDie port, part := some (port / 4),
                d0 := d.portRole port + m % 256 * 2 ^ 8 + peerPort % 16 * 2 ^ 16 + role % 256 * 2 ^ 24 })

/-- Every 10 ms after a mismatch, HELLO again (R348). -/
def execMismatchRetry (port : Nat) (s : State) : Host.Outcome State Fault Refusal :=
  .next (s.onDev fun d =>
    let p := d.port port
    if port < 16 ∧ d.portState port = 1 ∧ p.backoff = true then (d.setPort port { p with backoff := false }).helloFirst port else d)

def execHelloAckReceive (port : Nat) (s : State) : Host.Outcome State Fault Refusal :=
  .next (s.onDev fun d =>
    if port < 16 ∧ d.portState port = 2 then (d.setPort port { d.port port with acked := true }).openUp port else d)

/-! ### Cables (R473) -/

/-- An insertion starts training and then the opening sequence. -/
def execCableInsert (port : Nat) (s : State) : Host.Outcome State Fault Refusal :=
  .next (s.onDev fun d =>
    if 16 ≤ port then d else
    let d := d.setPort port { d.port port with cabled := true }
    if d.portState port = 5 then (d.clearSession port false).setPortState port 1 else d)

/-- A removal acts as a loss of signal: an OPEN port retrains (R346). -/
def execCableRemove (port : Nat) (s : State) : Host.Outcome State Fault Refusal :=
  .next (s.onDev fun d =>
    if 16 ≤ port then d else
    let d := d.setPort port { d.port port with cabled := false }
    match d.portState port with
    | 3 => d.retrainPort port
    | 1 | 2 => (d.clearSession port false).setPortState port 1
    | _ => d)

/-! ### Admission (R467-R470) -/

/-- The cascade opens on this module with the admitted members of a bitmap. -/
def Dev.cascadeOpens (d : Dev) (bitmap : Nat) : Dev :=
  let d := d.each (List.range 8) fun d k => d.setReg (.gateMembers k) (BitVec.ofNat 64 (bitmap / 2 ^ (32 * k) % 2 ^ 32))
  (d.setFld .gateCascade 24 16 ((List.range 256).filter fun m => bitN bitmap m).length).setFld .gateCascade 1 0 2

/-- Pass a flooded message on when it comes for the first time (R332). -/
def Dev.passOn (d : Dev) (port : Nat) (m : Msg) : Bool × Dev :=
  if d.floods.contains m.bytes then (false, d)
  else (true, { d with floods := m.bytes :: d.floods }.flood m (some port))

/-- The postmaster's own view of its members. -/
def Dev.showMembers (d : Dev) : Dev :=
  let ms := d.post.admitted.map (·.1)
  let d := d.each (List.range 8) fun d k =>
    d.setReg (.gateMembers k) (BitVec.ofNat 64 (((ms.filter fun m => m / 32 = k).map fun m => 2 ^ (m % 32)).sum))
  d.setFld .gateCascade 24 16 ms.length

def bitmapOf (d : Dev) : Nat := (d.post.admitted.map fun (e : Nat × Nat) => 2 ^ e.1).sum

/-- A member is lost: MEMBER_LOST floods, and every undecided step is aborted (R352). -/
def Dev.memberLost (d : Dev) (m : Nat) : Dev :=
  let d := { d with post := { d.post with lost := m :: d.post.lost.filter (· ≠ m) } }.flood (.memberLost m) none
  let own := (List.range 64).filterMap fun c =>
    if 1 ≤ stepState d c ∧ stepState d c ≤ 4 ∧ d.post.polls.all (fun q => ¬ (q.ctx = c ∧ q.step = stepOpen d c)) then some (c, stepOpen d c) else none
  let open_ := (d.post.polls.filter (·.decided.isNone)).map fun q => (q.ctx, q.step)
  d.each (open_ ++ own) fun d e => d.decide_ e.1 e.2 false

/-- ADMIT, and CASCADE_OPEN to everyone once all are admitted, or to a returning member alone (R468, R470). -/
def Dev.answerJoin (d : Dev) (m : Nat) : Dev :=
  let d := d.admission m (.admitted m)
  let msg := Msg.cascadeOpen (bitmapOf d)
  if d.post.opened then d.admission m msg
  else if (membersOf d).all fun r => (mapGet? d.post.admitted (recU r 0 1)).isSome then
    ({ d with post := { d.post with opened := true } }.flood msg none).admission (modNumber d) msg
  else d

/-- The postmaster handles a JOIN (R468, R470). -/
def Dev.joinIn (d : Dev) (m serial : Nat) (digest : List Byte) : Dev :=
  if slice digest 0 8 ≠ cascadeDigest8 d then d.admission m (.refuse m serial 1) else
  match mapGet? d.post.admitted m with
  | some other =>
    if other = serial then d.answerJoin m else
    let both := fun (d : Dev) (k : Nat) => (d.flood (.refuse m k 2) none).admission (modNumber d) (.refuse m k 2)
    let d := both (both d other) serial
    let d := { d with post := { d.post with admitted := mapErase d.post.admitted m } }.showMembers
    if d.post.opened then d.memberLost m else d
  | none =>
    let d := { d with post := { d.post with admitted := mapSet d.post.admitted m serial, lost := d.post.lost.filter (· ≠ m) } }
    d.showMembers.answerJoin m

def execJoinReceive (m serial : Nat) (digest : List Byte) (s : State) : Host.Outcome State Fault Refusal :=
  .next (s.onDev fun d => if isPostmaster d then d.joinIn m serial digest else d)

/-- 1 ms without an answer: JOIN again. -/
def execJoinResend (s : State) : Host.Outcome State Fault Refusal :=
  .next (s.onDev fun d => if d.joined ∨ d.fld .gateCascade 1 0 ≠ 1 then d else d.join)

/-- ADMIT: the last JOIN was not refused. -/
def execAdmitReceive (m : Nat) (s : State) : Host.Outcome State Fault Refusal :=
  .next (s.onDev fun d =>
    if d.fld .gateCascade 1 0 = 0 ∨ m ≠ modNumber d then d
    else ({ d with joined := true }.setBit .gateCascade 2 false).setFld .gateCascade 4 3 0)

/-- REFUSE acts only on the module whose number and serial number it carries; cause 2 is flooded on. -/
def execRefuseReceive (port m serial cause : Nat) (s : State) : Host.Outcome State Fault Refusal :=
  .next (s.onDev fun d =>
    if d.fld .gateCascade 1 0 = 0 then d else
    let (first, d) := if cause = 2 then d.passOn port (.refuse m serial 2) else (true, d)
    if m ≠ modNumber d ∨ serial ≠ Config.serial then d else
    let d := ({ d with joined := true }.setFld .gateCascade 1 0 1).setBit .gateCascade 2 true
    let d := d.setFld .gateCascade 4 3 cause
    if cause = 2 ∧ first = true then d.raise { cls := 0x202, eng := 0x20, die := dieGate, part := none, d0 := m } else d)

/-- CASCADE_OPEN: the cascade is open, and the message goes on. A refused member stays in JOINING. -/
def execCascadeOpenReceive (port bitmap : Nat) (s : State) : Host.Outcome State Fault Refusal :=
  .next (s.onDev fun d =>
    if d.fld .gateCascade 1 0 = 0 then d else
    let d := { d with floods := d.floods.filter fun b => field b 0 8 = 3 }
    let (_, d) := d.passOn port (.cascadeOpen bitmap)
    if d.bit .gateCascade 2 then d else { d with joined := true }.cascadeOpens bitmap)

/-! ### Member loss (R352) -/

/-- The ports of other members that face a member, as (module, port). -/
def facing (d : Dev) (m : Nat) : List (Nat × Nat) :=
  (membersOf d).flatMap fun r =>
    (List.range 16).filterMap fun n =>
      let role := recU r (8 + n) 1
      if role % 4 < 3 ∧ neighbour d (recU r 0 1) (role % 4) (role / 4 % 2) = some m then some (recU r 0 1, n) else none

/-- The postmaster records a port that has gone down. -/
def execPortDownReceive (m port : Nat) (s : State) : Host.Outcome State Fault Refusal :=
  .next (s.onDev fun d =>
    if !isPostmaster d ∨ !isMember d m ∨ 16 ≤ port then d else
    let d := { d with post := { d.post with down := if d.post.down.contains (m, port) then d.post.down else (m, port) :: d.post.down } }
    d.each (membersOf d) fun d r =>
      let k := recU r 0 1
      let fs := facing d k
      if fs ≠ [] ∧ fs.all (d.post.down.contains ·) ∧ !d.post.lost.contains k then d.memberLost k else d)

/-- A port reported up no longer counts. A member whose port faces the reporter again is not lost any more. -/
def execPortUpReceive (m port : Nat) (s : State) : Host.Outcome State Fault Refusal :=
  .next (s.onDev fun d =>
    if !isPostmaster d ∨ !isMember d m then d else
    let down := d.post.down.filter (· ≠ (m, port))
    let back := fun (k : Nat) => !(facing d k).all (down.contains ·) && (mapGet? d.post.admitted k).isSome
    { d with post := { d.post with down := down, lost := d.post.lost.filter fun k => !back k } })

/-- A flooded MEMBER_LOST goes on. -/
def execMemberLostReceive (port m : Nat) (s : State) : Host.Outcome State Fault Refusal :=
  .next (s.onDev fun d => (d.passOn port (.memberLost m)).2)

end Sys2Proof.Machine
end

