-- ==== Sys2Proof/Machine/Image.lean ====
section
/-! DEFINITION. Structure images: their bytes, and the checks of the loader that read them (R43-R65, R501, R502). -/

namespace Sys2Proof.Machine

/-- A failure: cause code (R64), SECTION and RECORD (R502). -/
abbrev LoadFail := Nat × Nat × Nat

/-- The lowest code among the rules that are broken (R63). -/
def lowest (cs : List (Bool × Nat)) : Option Nat := ((cs.filter (·.1)).map (·.2)).min?

/-! ### Header and directory (R44-R46) -/

/-- A section: its place in the directory, type, partition, record count and bytes. -/
structure Sect where
  idx : Nat
  typ : Nat
  part : Nat
  cnt : Nat
  data : List Byte
  deriving DecidableEq, Repr

def imgPresent (b : List Byte) : Nat := field b 0x26 1 % 16
def imgSig (b : List Byte) : Nat := field b 0xC 4
/-- The image digest: bytes 0 to SIG_OFFSET - 1 (R61). -/
def structDigest (b : List Byte) : List Byte := shake256 (b.take (imgSig b))

/-- Step 2 of R63: the header. -/
def headerFail (len minor : Nat) (b : List Byte) : Option Nat :=
  if field b 8 4 ≠ len ∨ imgSig b + 2048 ≠ len then some 2
  else if field b 0 4 ≠ 0x41524F4B then some 3
  else if field b 4 2 ≠ 1 ∨ minor < field b 6 2 then some 4
  else if 16 ≤ field b 0x26 1 ∨ !zeroRange b 0x27 217 then some 5
  else none

/-- Step 3 of R63: the anchor and the signature (R61). -/
def signatureFail (sec : Sec) (valid : Nat) (b : List Byte) : Option Nat :=
  let s := imgSig b
  let n := field b (s + 2) 2
  if n = 0 ∨ 1462 < n then some 6 else
  match anchorOf sec valid (field b s 2) with
  | none => some 7
  | some (key, _) => if falconVerify key (structDigest b) (slice b (s + 4) n) then none else some 6

def dirOff (b : List Byte) : Nat := field b 0x20 4
def dirCount (b : List Byte) : Nat := field b 0x24 2
def dirEnd (b : List Byte) : Nat := dirOff b + 32 * dirCount b
def dirRec (b : List Byte) (i : Nat) : Rec := slice b (dirOff b + 32 * i) 32
def entOff (e : Rec) : Nat := recU e 4 4
def entLen (e : Rec) : Nat := recU e 8 4

def moduleType (t : Nat) : Bool := (1 ≤ t && t ≤ 5) || t = 0xF0
def partType (t : Nat) : Bool := 0x10 ≤ t && t ≤ 0x15

/-- The rules of one directory entry: reserved bytes, partition, bounds, overlaps with earlier entries, type. An empty section strictly
inside another counts as an overlap: DESIGN CHOICE (log entry 57), R45 does not say whether an empty section can overlap. -/
def entryFail (b : List Byte) (i : Nat) : Option Nat :=
  let e := dirRec b i
  let t := recU e 0 2
  let p := recU e 2 1
  let overlaps := (List.range i).any fun j =>
    let o := dirRec b j
    entOff o < entOff e + entLen e && entOff e < entOff o + entLen o
  lowest [(recU e 3 1 ≠ 0 || !zeroRange e 0x10 16, 5),
    ((moduleType t && p ≠ 0xFF) || (partType t && !(p < 4 && bitN (imgPresent b) p)), 8),
    (entOff e % 64 ≠ 0 || imgSig b < entOff e + entLen e || overlaps, 8),
    (!(moduleType t || partType t), 9)]

/-- Types that must occur (R46). -/
def required (b : List Byte) : List (Nat × Nat) :=
  [(1, 0xFF), (2, 0xFF), (5, 0xFF)] ++
  (maskParts (imgPresent b)).flatMap fun p => [0x10, 0x11, 0x12, 0x13, 0x14].map fun t => (t, p)

/-- A byte that belongs to a part of the image (R45, R61). -/
def covered (b : List Byte) (i : Nat) : Bool :=
  let s := imgSig b
  i < 256 || (dirOff b ≤ i && i < dirEnd b) || (s ≤ i && i < s + 4 + field b (s + 2) 2) ||
  (List.range (dirCount b)).any fun k => let e := dirRec b k; entOff e ≤ i && i < entOff e + entLen e

/-- Step 4 of R63. A directory that reaches into the first section is a failure of its own placement (R45, R502). -/
def directoryFail (b : List Byte) : Option LoadFail :=
  let es := List.range (dirCount b)
  let key := fun (i : Nat) => (recU (dirRec b i) 0 2, recU (dirRec b i) 2 1)
  if dirOff b % 64 ≠ 0 ∨ dirOff b < 0x100 ∨ dirCount b = 0 ∨ 256 < dirCount b ∨ imgSig b < dirEnd b then some (8, 0xFF, 0) else
  if es.any fun i => entOff (dirRec b i) < dirEnd b then some (8, 0xFF, 0) else
  (es.findSome? fun i => (entryFail b i).map fun c => (c, i, 0)).orElse fun _ =>
  (es.findSome? fun i => if (key i).1 ≠ 0xF0 ∧ (List.range i).any (fun j => key j = key i) then some (9, i, 0) else none).orElse fun _ =>
  (if (required b).all fun k => es.any fun i => key i = k then none else some (9, 0xFF, 0)).orElse fun _ =>
  if (List.range b.length).all fun i => b.getD i 0#8 = 0#8 || covered b i then none else some (5, 0xFF, 0)

def sections (b : List Byte) : List Sect :=
  (List.range (dirCount b)).map fun i =>
    let e := dirRec b i
    ⟨i, recU e 0 2, recU e 2 1, recU e 0xC 4, slice b (entOff e) (entLen e)⟩

def recSize (t : Nat) : Nat := if t = 5 then 256 else if t = 0x11 then 1088 else 32

/-- Records of a section; those of CASCADE follow its header. -/
def Sect.recs (s : Sect) : List Rec :=
  if s.typ = 0xF0 then [] else
  let h := if s.typ = 1 then 128 else 0
  (List.range s.cnt).map fun i => slice s.data (h + recSize s.typ * i) (recSize s.typ)

/-- LENGTH and COUNT agree (RECORD_SIZE). -/
def Sect.sizeOk (s : Sect) : Bool :=
  s.typ = 0xF0 || (s.data.length = (if s.typ = 1 then 128 else 0) + recSize s.typ * s.cnt && (s.cnt = 1 || (s.typ ≠ 5 && s.typ ≠ 0x11)))

def findSect (ss : List Sect) (t p : Nat) : Option Sect := ss.find? fun s => s.typ = t ∧ s.part = p
def sectRecs (ss : List Sect) (t p : Nat) : List Rec := ((findSect ss t p).map Sect.recs).getD []

/-! ### Step 5: records alone (R63) -/

/-- The mode of dimension k in a CASCADE header. -/
def hdrMode (h : Rec) (k : Nat) : Nat := bitsN (recU h 5 1) (2 * k + 1) (2 * k)

def cascadeHdrFail (h : Rec) : Option Nat :=
  lowest [(64 ≤ recU h 5 1 || recU h 7 1 ≠ 0 || !zeroRange h 0x48 56, 5),
    (recU h 0 2 = 0 || 256 < recU h 0 2, 0x40),
    ([0, 1, 2].any fun k => let n := recU h (2 + k) 1
      n = 0 || 16 < n || ((n = 1) ≠ (hdrMode h k = 0)), 0x40)]

def memberFail (h r : Rec) : Option Nat :=
  lowest [(!zeroRange r 4 4 || !zeroRange r 0x18 8 || (List.range 16).any fun n => 64 ≤ recU r (8 + n) 1, 5),
    ([0, 1, 2].any fun k => recU h (2 + k) 1 ≤ recU r (1 + k) 1, 0x40)]

def routeFail (r : Rec) : Option Nat :=
  lowest [(16 ≤ recU r 2 1 || 4 ≤ recU r 3 1 || !zeroRange r 6 26, 5),
    (4096 ≤ recU r 0 2 || rtStages r = 0 || 64 < rtStages r || rtLookahead r = 0 || 4 < rtLookahead r, 0x11)]

/-- The option combinations of R51 that concern one record. -/
def layerFail (r : Rec) : Option Nat :=
  let o := lyOpts r
  let rank := lyRank r
  lowest [(32 ≤ o || 16 ≤ recU r 3 1 || recU r 7 1 ≠ 0 || !zeroRange r 0xE 18, 5),
    (lyNumber r = 0xFFFF || (bitN o 0 && (bitN o 1 || bitN o 2)) || (bitN o 1 && bitN o 2) ||
     (bitN o 1 && 1 < (maskParts (lyParts r)).length) || (!bitN o 1 && lyMaskObj r ≠ 0) ||
     (if bitN o 2 then rank < 32 || 256 < rank || rank % 32 ≠ 0 else rank ≠ 0), 0x48)]

def intakeFail (r : Rec) : Option Nat :=
  lowest [(recU r 1 1 ≠ 0 || 4096 ≤ recU r 2 2 || !zeroRange r 4 4 || 2 ^ 54 ≤ recU r 8 8 || 2 ^ 54 ≤ recU r 0x10 8 || !zeroRange r 0x18 8, 5),
    (7 < recU r 0 1 || recU r 0x10 8 < recU r 8 8, 0x4A)]

/-- The nodes of a KIND (R53). -/
def kindNode (kind node : Nat) : Bool :=
  match kind with
  | 0 | 1 | 2 => node < 12
  | 3 | 4 | 5 => 12 ≤ node && node < 16
  | 6 | 7 => 16 ≤ node && node < 18
  | 8 | 9 => node = 18
  | _ => false

/-- Option byte i of a stage. -/
def opt (r : Rec) (i : Nat) : Nat := recU r (16 + i) 1
def none16 (v : Nat) : Bool := v = 0xFFFF

/-- A reserved byte or bit of the OPTIONS is not zero (R180, R220, R234, R245, R280-R282, R324, R354). -/
def optReserved (r : Rec) : Bool :=
  let z := fun off len => !zeroRange r (16 + off) len
  match stKind r with
  | 0 => 8 ≤ opt r 0 || 4 ≤ opt r 1 || z 12 4
  | 1 => 8 ≤ opt r 0 || z 8 8
  | 2 => 2 ≤ opt r 2 || z 3 1 || z 8 8
  | 3 => 2 ≤ opt r 5 || z 6 10
  | 4 => z 9 7 || (match opt r 0 with
      | 0 => 4 ≤ opt r 8
      | 1 => opt r 8 ≠ 0 && opt r 8 ≠ 2
      | _ => 8 ≤ opt r 8 || bitN (opt r 8) 0)
  | 5 => z 7 9
  | 6 => z 12 4
  | 7 => 8 ≤ opt r 1 || 8 ≤ opt r 2 || z 11 1
  | 8 => 8 ≤ opt r 1 || 8 ≤ opt r 11 || z 13 3
  | 9 => z 2 2 || z 7 9
  | _ => false

/-- A target code permitted for a class (R206). -/
def targetFits (cls code : Nat) : Bool :=
  match EFmt.ofCode code with
  | some f => (classTargets cls).contains f
  | none => false

/-- A positive normal FP32 value. -/
def scaleOk (v : Nat) : Bool := 0x00800000 ≤ v && v < 0x7F800000

/-- ENGINE_RANGE rules of the OPTIONS that concern the record alone (R220, R246, R283, R324, R354). -/
def optRange (r : Rec) : Bool :=
  let ff := fun (is : List Nat) => is.any fun i => opt r i = 0xFF
  match stKind r with
  | 0 => 2 < opt r 2 || (bitN (opt r 0) 1 && opt r 5 = 0xFF)
  | 1 => !targetFits (opt r 2) (opt r 1) || !purposeOk (opt r 2) (opt r 3) || opt r 0 / 2 % 4 = 0 ||
      (bitN (opt r 0) 2 && none16 (stOutA r))
  | 3 => 1 < opt r 0 || ff [1, 3, 4] || (opt r 0 = 0 && ff [2]) || (bitN (opt r 5) 0 && none16 (stOutA r))
  | 4 => 2 < opt r 0 || 2 < opt r 1 || ff [2, 3, 5] || (opt r 0 ≠ 1 && ff [4]) || (if opt r 0 = 0 then 16 else 0) < opt r 6 ||
      !(opt r 7 = 9 || (opt r 7 = 8 && opt r 0 ≠ 1)) || (bitN (opt r 8) 1 && none16 (stOutA r))
  | 5 => 2 < opt r 0 || ff [4, 5] || (opt r 0 < 2 && ff [1, 2, 3]) || (opt r 0 = 2 && [1, 2, 3, 6].any fun i => opt r i ≠ 0xFF)
  | 7 => 5 < opt r 0 || !scaleOk (recU r 28 4) ||
      (opt r 0 = 0 && (!targetFits 0 (opt r 3) || opt r 2 / 2 % 4 = 0)) ||
      (opt r 0 = 1 && (!targetFits 2 (opt r 3) || bitN (opt r 2) 2)) ||
      (bitN (opt r 2) 0 && (opt r 0 ≠ 2 || none16 (stInA r) || none16 (stInB r))) || (bitN (opt r 2) 2 && none16 (stOutA r))
  | 8 => 2 < opt r 0 || (opt r 0 = 2 && (1 < opt r 10 || 3 < opt r 12)) || (opt r 0 = 0) = (opt r 2 = 0xFF) ||
      (bitN (opt r 1) 1 && none16 (stInB r)) || (bitN (opt r 1) 0 && none16 (stOutA r))
  | 9 => 1 < opt r 0 || (if opt r 0 = 0 then 1 else 0) < opt r 1 ||
      (opt r 0 = 0 && !(none16 (stInA r) && none16 (stInB r) && none16 (stOutA r) && none16 (stOutB r))) ||
      (opt r 0 = 1 && (none16 (stInA r) || none16 (stOutA r)))
  | _ => false

def stageFail (r : Rec) : Option Nat :=
  lowest [(optReserved r, 5),
    (!kindNode (stKind r) (stNode r) || (if stKind r = 0 then 3 else 0) < stArr r || optRange r, 0x10),
    (4096 ≤ stRoute r || 64 ≤ stIndex r, 0x11)]

/-- Channel records (R54). -/
def chNum (r : Rec) : Nat := recU r 0 2
def chRoute (r : Rec) : Nat := recU r 2 2
def chProd (r : Rec) : Nat := recU r 4 1
def chCons (r : Rec) : Nat := recU r 5 1
def chDepth (r : Rec) : Nat := recU r 6 2
def chFlag (r : Rec) (i : Nat) : Bool := bitN (recU r 8 1) i
def chPeer (r : Rec) : Nat := recU r 9 1
def chPeerNum (r : Rec) : Nat := recU r 10 2

/-- The rules of R54 over one record. A PRODUCER or CONSUMER that is neither 0 to 19 nor 0xFE is CHANNEL_REF: DESIGN CHOICE (log entry
57), R64 names no cause for it. -/
def channelFail (p : Nat) (r : Rec) : Option Nat :=
  let x := chFlag r 1
  let ends := (if chProd r = 0xFE then 1 else 0) + if chCons r = 0xFE then 1 else 0
  lowest [(8 ≤ recU r 8 1 || !zeroRange r 0xC 20, 5), (4096 ≤ chRoute r, 0x11),
    (4096 ≤ chNum r || ends ≠ (if x then 1 else 0) || !(chProd r < 20 || chProd r = 0xFE) || !(chCons r < 20 || chCons r = 0xFE) ||
     (if x then 4 ≤ chPeer r || chPeer r = p else chPeer r ≠ 0 || chPeerNum r ≠ 0), 0x12),
    (chDepth r < 2 || 1024 < chDepth r, 0x14)]

def regionNode (g node : Nat) : Bool :=
  match g with
  | 1 | 3 | 5 => node < 20
  | 2 => node < 12
  | 4 => 12 ≤ node && node < 16
  | 6 | 7 | 8 => node = 19
  | _ => false

def carveFail (r : Rec) : Option Nat :=
  let k := 0x10000
  let g := carveRegion r
  let n := carveLen r
  lowest [(!zeroRange r 2 2 || !zeroRange r 0xC 20, 5), (20 ≤ carveNode r, 0x10),
    (carveOff r % k ≠ 0 || n = 0 || n % k ≠ 0 || (carveNode r < 20 && sramSize (carveNode r) < carveOff r + n), 0x20),
    (!regionNode g (carveNode r) || (g = 2 && n ≠ 0x80000) || ((g = 4 || g = 6) && 0x2000000 < n) || (g = 8 && n < 0x100000), 0x22),
    (g = 6 && carveOff r + n ≠ 0x8000000, 0x24)]

def reductionFail (r : Rec) : Option Nat :=
  lowest [(recU r 0xB 1 ≠ 0 || 8 ≤ recU r 0x10 1 || !zeroRange r 0x11 15, 5),
    (7 < rdChan r || 2 < rdOp r || (rdOp r = 0 && rdElems r % 1024 ≠ 0), 0x43)]

def deliveryFail (r : Rec) : Option Nat :=
  lowest [(recU r 7 1 ≠ 0 || !zeroRange r 0x12 2 || !zeroRange r 0x18 8, 5), (20 ≤ recU r 0x10 1, 0x10),
    (4096 ≤ recU r 0 2, 0x11), (recU r 0xC 4 = 0, 0x49)]

def recordFail (s : Sect) (r : Rec) : Option Nat :=
  match s.typ with
  | 1 => memberFail s.data r
  | 2 => routeFail r
  | 3 => layerFail r
  | 4 => intakeFail r
  | 0x10 => carveFail r
  | 0x12 => stageFail r
  | 0x13 => channelFail s.part r
  | 0x14 => reductionFail r
  | 0x15 => deliveryFail r
  | _ => none

/-- The first record for which a check answers a code. -/
def firstRec (s : Sect) (f : Nat → Rec → Option Nat) : Option LoadFail :=
  s.recs.zipIdx.findSome? fun e => (f e.2 e.1).map fun c => (c, s.idx, e.2)

/-- Step 5 of R63 over one section. -/
def sectionFail (s : Sect) : Option LoadFail :=
  if !s.sizeOk then some (0xA, s.idx, 0) else
  (if s.typ = 1 then (cascadeHdrFail s.data).map fun c => (c, s.idx, 0xFFFF) else none).orElse fun _ =>
  firstRec s fun _ r => recordFail s r

/-! ### Step 6, pass 1: references (R501) -/

def partFrom (b : List Byte) (ss : List Sect) (p : Nat) : PartImage :=
  { id := slice b 0x10 16, carve := sectRecs ss 0x10 p, fabric := ((sectRecs ss 0x11 p).head?).getD [], stages := sectRecs ss 0x12 p,
    channels := sectRecs ss 0x13 p, reduction := sectRecs ss 0x14 p, delivery := sectRecs ss 0x15 p }

def modFrom (ss : List Sect) : ModImage :=
  { cascade := ((findSect ss 1 0xFF).map fun s => slice s.data 0 128).getD [], members := sectRecs ss 1 0xFF,
    routes := sectRecs ss 2 0xFF, layers := sectRecs ss 3 0xFF, intake := sectRecs ss 4 0xFF,
    plan := ((sectRecs ss 5 0xFF).head?).getD [] }

/-- What the checks see: the targeted partitions of the image (and partition `own` of the image), and the installed
partitions that are not targeted (R501). -/
structure Scene where
  mods : ModImage
  parts : List (Nat × PartImage)

def scene (d : Dev) (mask : Nat) (b : List Byte) (ss : List Sect) (own : Nat) : Scene :=
  ⟨modFrom ss, (List.range 4).filterMap fun p =>
    if bitN (imgPresent b) p ∧ (bitN mask p ∨ p = own) then some (p, partFrom b ss p)
    else if !bitN mask p ∧ d.installed p then (mapGet? d.parts p).map fun i => (p, i)
    else none⟩

def Scene.part (v : Scene) (p : Nat) : Option PartImage := mapGet? v.parts p
def Scene.route (v : Scene) (n : Nat) : Option Rec := v.mods.routes.find? fun r => rtNumber r = n
/-- Every partition of the route is present. -/
def Scene.full (v : Scene) (n : Nat) : Bool :=
  match v.route n with
  | some r => (maskParts (rtParts r)).all fun p => (v.part p).isSome
  | none => false
/-- Stages with their partitions. -/
def Scene.stages (v : Scene) : List (Nat × Rec) := v.parts.flatMap fun e => e.2.stages.map fun r => (e.1, r)
def Scene.chan (v : Scene) (p c : Nat) : Option Rec := (v.part p).bind fun i => i.channels.find? fun r => chNum r = c

/-- Stages at the producing (or consuming) end of a channel, in whichever partition that end lies; none when its
partition is absent. -/
def Scene.ends (v : Scene) (p c : Nat) (out : Bool) : Option (List (Nat × Rec)) :=
  match v.chan p c with
  | none => some []
  | some r =>
    let away := chFlag r 1 && (if out then chProd r else chCons r) = 0xFE
    let (q, k) := if away then (chPeer r, chPeerNum r) else (p, c)
    (v.part q).map fun i => (i.stages.filter fun st =>
      if out then stOutA st = k || stOutB st = k else stInA st = k || stInB st = k).map fun st => (q, st)

/-- A channel is fed by an array stage with a DRAIN value, as far as its producer is present. -/
def Scene.fed (v : Scene) (p c drain : Nat) : Bool :=
  match v.ends p c true with
  | none => true
  | some l => l.any fun st => stKind st.2 = 0 && opt st.2 2 = drain

/-- Whether an earlier record of a list holds the same number. -/
def seenBefore (l : List Rec) (k : Nat) (f : Rec → Nat) (r : Rec) : Bool := (l.take k).any fun q => f q = f r

/-- ENGINE_RANGE and CHANNEL_REF rules of options that name channels, stages or mailbags (R180, R183, R220, R321, R354). `tgt`:
the partition is a target, so that the rule of R501 applies to its SPLIT_PREV across partitions. -/
def optRefs (v : Scene) (tgt : Bool) (p k : Nat) (r : Rec) : List (Bool × Nat) :=
  let sts := ((v.part p).map (·.stages)).getD []
  let red := ((v.part p).map (·.reduction)).getD []
  match stKind r with
  | 0 =>
    if bitN (opt r 0) 1 then
      let sp := opt r 3
      let fed := match v.ends p (stInB r) true with
        | none => true
        | some l => l.any fun q => stRoute q.2 = stRoute r && stIndex q.2 = sp
      let absent := !v.full (stRoute r) && v.stages.all fun q => !(stRoute q.2 = stRoute r && stIndex q.2 = sp)
      let far := !tgt && match v.chan p (stInB r) with | some c => chFlag c 1 | none => false
      [(stIndex r ≤ sp || !(fed || absent || far), 0x12)]
    else []
  | 1 => [(!bitN (opt r 0) 0 && !v.fed p (stInA r) 1, 0x10)]
  | 2 =>
    let ok := fun (c : Nat) => match v.ends p c false with
      | some l => l ≠ [] && l.all fun q => stKind q.2 = 0 && q.1 = p && stNode q.2 = stNode r
      | none => false
    [(!ok (stOutA r) || (!none16 (stOutB r) && !ok (stOutB r)), 0x12)]
  | 8 =>
    if opt r 0 = 2 then
      let twice := v.stages.any fun q => q.1 = p && stKind q.2 = 8 && opt q.2 0 = 2 && stRoute q.2 = stRoute r &&
        opt q.2 12 = opt r 12 && opt q.2 10 = opt r 10 && stIndex q.2 < stIndex r
      [(twice || [0, 1, 2].any fun j => bitN (opt r 11) j && hdrMode v.mods.cascade j ≠ 3, 0x10)]
    else
      let named := (sts.take k).any fun q => stKind q = 8 && opt q 0 < 2 && mMailbag q = mMailbag r
      match red.find? fun x => rdMailbag x = mMailbag r with
      | none => [(true, 0x10)]
      | some x => [(named || (opt r 0 = 0 && (rdOp x ≠ 0 || !v.fed p (stInA r) 2)) || (opt r 0 = 1 && rdOp x = 2), 0x10)]
  | 9 => [(opt r 0 = 0 && (red.filter fun x => rdOp x = 2).length ≠ 1, 0x10)]
  | _ => []

/-- Stages ahead of a stage: earlier records, and for a target those of installed partitions and of earlier targets (R501). -/
def stagesAhead (mask : Nat) (ss : List Sect) (v : Scene) (s : Sect) (k : Nat) : List Rec :=
  if !bitN mask s.part then s.recs.take k else
  (v.stages.filter fun q => !bitN mask q.1 && q.1 ≠ s.part).map (·.2) ++
  ((ss.filter fun q => q.typ = 0x12 && q.idx < s.idx && (v.part q.part).isSome && bitN mask q.part).flatMap Sect.recs) ++ s.recs.take k

def stageRefs (mask : Nat) (ss : List Sect) (v : Scene) (s : Sect) (k : Nat) (r : Rec) : Option Nat :=
  let inDir := match v.route (stRoute r) with | some q => bitN (rtParts q) s.part | none => false
  let again := (stagesAhead mask ss v s k).any fun q => stRoute q = stRoute r && stIndex q = stIndex r
  let undef := [stInA r, stInB r, stOutA r, stOutB r].any fun c => !none16 c && (v.chan s.part c).isNone
  lowest ([(1024 ≤ k || !inDir || again, 0x11), (undef, 0x12)] ++ optRefs v (bitN mask s.part) s.part k r)

/-- An XPART record's peer is missing, or disagrees (R54); a missing one is accepted while a partition of the route is absent
(R501). -/
def peerFail (v : Scene) (p : Nat) (r : Rec) : Bool :=
  chFlag r 1 && match v.chan (chPeer r) (chPeerNum r) with
    | none => v.full (chRoute r)
    | some q => !chFlag q 1 || chPeer q ≠ p || chPeerNum q ≠ chNum r || chRoute q ≠ chRoute r || chDepth q ≠ chDepth r ||
        chFlag q 2 ≠ chFlag r 2 || (chProd q = 0xFE) = (chProd r = 0xFE)

/-- The pairing of XPART records is a check of R501: over targets and installed partitions. -/
def channelRefs (mask : Nat) (v : Scene) (s : Sect) (k : Nat) (r : Rec) : Option Nat :=
  let p := s.part
  let sts := ((v.part p).map (·.stages)).getD []
  let wrong := sts.any fun st =>
    ((stOutA st = chNum r || stOutB st = chNum r) && (stNode st ≠ chProd r || stRoute st ≠ chRoute r)) ||
    ((stInA st = chNum r || stInB st = chNum r) && (stNode st ≠ chCons r || stRoute st ≠ chRoute r))
  let peer := bitN mask p && peerFail v p r
  lowest [((v.route (chRoute r)).isNone, 0x11), (seenBefore s.recs k chNum r || wrong || peer, 0x12)]

/-- The stages that the image carries, for targets and others, and those of installed partitions that it does not hold. -/
def imageStages (d : Dev) (mask : Nat) (b : List Byte) (ss : List Sect) : List Rec :=
  ((ss.filter (·.typ = 0x12)).flatMap Sect.recs) ++
  ((List.range 4).filter fun p => d.installed p && !bitN mask p && !bitN (imgPresent b) p).flatMap fun p =>
    ((mapGet? d.parts p).map (·.stages)).getD []

/-- LAYER_OPTION (R51): the routes that name a layer are those of the whole image's stages. -/
def layerRefs (sts : List Rec) (v : Scene) (s : Sect) (k : Nat) (r : Rec) : Option Nat :=
  let o := lyOpts r
  let spans := sts.any fun q => stLayer q = lyNumber r && match v.route (stRoute q) with
    | some t => 1 < (maskParts (rtParts t)).length
    | none => false
  lowest [(seenBefore s.recs k lyNumber r || (bitN o 1 && spans) ||
    (bitN o 2 && (maskParts (lyParts r)).length ≤ 1 && !spans && recU v.mods.cascade 0 2 = 1) ||
    (bitN o 2 && v.mods.layers.all fun q => lyNumber q ≠ lyAdapter r), 0x48)]

def routeRefs (v : Scene) (s : Sect) (k : Nat) (r : Rec) : Option Nat :=
  let n := (v.stages.filter fun q => stRoute q.2 = rtNumber r).length
  lowest [(seenBefore s.recs k rtNumber r || rtStages r < n || (v.full (rtNumber r) && n ≠ rtStages r), 0x11)]

/-- REDUCTION records: order, mailbag numbers over the whole image and the installed partitions that it does not hold, DIMS, the
norm's record (R57, R58, R321, R349). -/
def reductionRefs (b : List Byte) (ss : List Sect) (v : Scene) (s : Sect) (k : Nat) (r : Rec) : Option Nat :=
  let h := v.mods.cascade
  let n := (s.recs.filter fun q => rdChan q = rdChan r).length
  let elsewhere := (v.parts.filter fun q => !bitN (imgPresent b) q.1).flatMap (·.2.reduction) ++
    (ss.filter fun q => q.typ = 0x14 && q.idx < s.idx).flatMap Sect.recs
  let dims := recU r 0x10 1
  let wide := ([0, 1, 2].filter fun j => 1 < recU h (2 + j) 1).foldl (fun m j => m + 2 ^ j) 0
  let upd := (((v.part s.part).map (·.stages)).getD []).any isUpdate
  lowest [(rdOp r = 2 && (!upd || rdElems r ≠ 1), 0x10),
    (n ≤ rdPos r || (s.recs.take k).any (fun q => rdChan q = rdChan r && rdPos q = rdPos r) ||
     seenBefore s.recs k rdMailbag r || elsewhere.any (fun q => rdMailbag q = rdMailbag r) ||
     (if rdOp r = 2 then dims ≠ wide else [0, 1, 2].any fun j => bitN dims j && (hdrMode h j = 0 || hdrMode h j = 2)), 0x43)]

/-- The PARCEL_BUFFER region of a delivery's destination (R60). -/
def deliveryRegion (v : Scene) (p : Nat) (r : Rec) : Option Rec :=
  (((v.part p).map (·.carve)).getD []).find? fun c => carveNode c = recU r 0x10 1 && carveRegion c = 1

/-- A DELIVERY's WINDOW_STAGE and layer are of its route, once every partition of the route is present (R501). -/
def windowFail (v : Scene) (r : Rec) : Bool :=
  let mine := v.stages.filter fun q => stRoute q.2 = recU r 0 2
  v.full (recU r 0 2) && !(mine.any (fun q => stIndex q.2 = recU r 0x11 1) && mine.any fun q => stLayer q.2 = recU r 2 2)

def deliveryRefs (mask : Nat) (v : Scene) (s : Sect) (r : Rec) : Option Nat :=
  let rt := recU r 0 2
  lowest [((v.route rt).isNone, 0x11), (bitN mask s.part && windowFail v r || (deliveryRegion v s.part r).isNone, 0x49)]

/-- Pass 1 over one section. -/
def refsFail (d : Dev) (mask : Nat) (b : List Byte) (ss : List Sect) (s : Sect) : Option LoadFail :=
  let v := scene d mask b ss s.part
  firstRec s fun k r => match s.typ with
    | 2 => routeRefs v s k r
    | 3 => layerRefs (imageStages d mask b ss) v s k r
    | 4 => lowest [((v.route (recU r 2 2 % 4096)).isNone, 0x11), (8 ≤ k || seenBefore s.recs k (fun q => recU q 0 1) r, 0x4A)]
    | 0x12 => stageRefs mask ss v s k r
    | 0x13 => channelRefs mask v s k r
    | 0x14 => reductionRefs b ss v s k r
    | 0x15 => deliveryRefs mask v s r
    | _ => none

/-- The load that makes every partition of a route present checks the installed records of the route too (R501): SPLIT_PREV, XPART
peers, windows. SECTION is the section that the image carries for that partition, 0xFF where it carries none: DESIGN CHOICE (log entry
57), R502 does not say where a failure of an installed record lies. -/
def keptFail (d : Dev) (mask : Nat) (b : List Byte) (ss : List Sect) : Option LoadFail :=
  let v := scene d mask b ss 4
  let first := fun (t p c : Nat) (rs : List Rec) (bad : Rec → Nat → Bool) =>
    (rs.zipIdx.find? fun e => bad e.1 e.2).map fun e => (c, ((findSect ss t p).map (·.idx)).getD 0xFF, e.2)
  ((List.range 4).filter fun p => d.installed p && !bitN mask p).findSome? fun p => (v.part p).bind fun i =>
    (first 0x12 p 0x12 i.stages fun r k => stKind r = 0 && v.full (stRoute r) && (optRefs v true p k r).any (·.1)).orElse fun _ =>
    (first 0x13 p 0x12 i.channels fun r _ => v.full (chRoute r) && peerFail v p r).orElse fun _ =>
    first 0x15 p 0x49 i.delivery fun r _ => windowFail v r

/-! ### Step 6, pass 2: channel graph -/

/-- Stages that a stage sends to over channels without BREAK. -/
def Scene.next (v : Scene) (q : Nat × Rec) : List (Nat × Rec) :=
  [stOutA q.2, stOutB q.2].flatMap fun c => match v.chan q.1 c with
    | some r => if chFlag r 0 then [] else (v.ends q.1 c false).getD []
    | none => []

/-- Stages reached in at most k steps. -/
def Scene.reach (v : Scene) : Nat → List (Nat × Rec) → List (Nat × Rec)
  | 0, l => l
  | k + 1, l => v.reach k ((l ++ l.flatMap v.next).eraseDups)

/-- A channel without BREAK lies on a cycle. -/
def onCycle (v : Scene) (p : Nat) (r : Rec) : Bool :=
  if chFlag r 0 then false else
  let froms := (v.ends p (chNum r) true).getD []
  let tos := (v.ends p (chNum r) false).getD []
  froms.any fun u => (v.reach 64 tos).contains u

def cycleFail (d : Dev) (mask : Nat) (b : List Byte) (ss : List Sect) (s : Sect) : Option LoadFail :=
  if s.typ = 0x13 then firstRec s fun _ r => if onCycle (scene d mask b ss s.part) s.part r then some 0x13 else none else none

/-! ### Step 6, pass 3: carve fit (R55, R502) -/

/-- Bytes of the queues that a node consumes in the first k + 1 channel records. -/
def queueBytes (chs : List Rec) (k node : Nat) : Nat := (((chs.take (k + 1)).filter fun r => chCons r = node).map fun r => chDepth r * 128).sum

def carveFit (v : Scene) (s : Sect) : Option LoadFail :=
  let cs := ((v.part s.part).map (·.carve)).getD []
  let has := fun (n g : Nat) => cs.any fun c => carveNode c = n && carveRegion c = g
  match s.typ with
  | 0x10 =>
    (firstRec s fun k r => if (cs.take k).any fun c => carveNode c = carveNode r && carveOff c < carveOff r + carveLen r &&
        carveOff r < carveOff c + carveLen c then some 0x21 else none).orElse fun _ =>
    if cs.any fun c => carveRegion c = 8 then none else some (0x25, s.idx, 0xFFFF)
  | 0x12 => firstRec s fun _ r =>
      let pre := match v.route (stRoute r) with | some t => rtPreemptible t | none => false
      if stNode r < 12 && pre && !has (stNode r) 2 then some 0x23 else none
  | 0x13 =>
    s.recs.zipIdx.findSome? fun e =>
      let n := chCons e.1
      if n = 0xFE then none
      else if !has n 5 then some (0x15, s.idx, 0xFFFF)
      else if ((cs.filter fun c => carveNode c = n && carveRegion c = 5).map carveLen).sum < queueBytes s.recs e.2 n then some (0x15, s.idx, e.2)
      else none
  | 0x15 => firstRec s fun _ r => match deliveryRegion v s.part r with
      | some c => if carveLen c < (recU r 0x14 4 + recU r 0xC 4) * 4608 then some 0x49 else none
      | none => some 0x49
  | _ => none

/-! ### Step 6, pass 4: the fabric (R56, R65) -/

/-- The grid of R56. -/
def fabricGrid : List Nat :=
  [24, 0, 1, 20, 19, 2, 3, 25] ++ [26, 4, 12, 16, 17, 13, 5, 27] ++ [28, 6, 14, 22, 23, 15, 7, 29] ++ [30, 8, 9, 21, 18, 10, 11, 31]

def adjacent (a b : Nat) : Bool :=
  if b = 32 then a = 19 else if b = 33 then a = 18 else
  let i := fabricGrid.idxOf a
  let j := fabricGrid.idxOf b
  j < 32 && ((i / 8 = j / 8 && (i % 8 + 1 = j % 8 || j % 8 + 1 = i % 8)) || (i % 8 = j % 8 && (i / 8 + 1 = j / 8 || j / 8 + 1 = i / 8)))

def hopByte (f : Rec) (s t : Nat) : Nat := recU f (34 * s + t) 1
/-- A byte names a neighbour, or 0xFE where the source is the destination, or 0xFF (R56). -/
def hopOk (f : Rec) (s t : Nat) : Bool := let v := hopByte f s t; v = 0xFF || (v = 0xFE && s = t) || (v < 34 && adjacent s v)

/-- Follow the path of a pair, of at most 16 hops: the cause when it fails. A byte that hands the traffic to an office's port which is
not its destination is FABRIC_UNREACHABLE: DESIGN CHOICE (log entry 57), R64 names no cause for it. -/
def pathFail (f : Rec) (t : Nat) : Nat → Nat → List Nat → Option Nat
  | 0, _, _ => some 0x31
  | k + 1, s, seen =>
    let v := hopByte f s t
    if s = t then (if v = 0xFE then none else some 0x30)
    else if v = 0xFF ∨ !hopOk f s t then some 0x30
    else if v = t then (if t < 32 then pathFail f t k v (s :: seen) else none)
    else if 32 ≤ v then some 0x30
    else if (s :: seen).contains v then some 0x31
    else pathFail f t k v (s :: seen)

/-- The pairs of R65. -/
def neededPair (chs : List Rec) (s t : Nat) : Bool :=
  (18 ≤ s && s ≤ 21) || [19, 20, 21, 32, 33].contains t ||
  chs.any fun r =>
    let so := if chFlag r 2 then 1 else 0
    if !chFlag r 1 then chProd r = s && chCons r = t
    else if chCons r = 0xFE then chProd r = s && t = 32 + so
    else s = 19 - so && chCons r = t

def fabricFail (i : PartImage) : Option (Nat × Nat) :=
  (List.range 1088).findSome? fun n =>
    let s := n / 34
    let t := n % 34
    if !hopOk i.fabric s t then some (0x30, n)
    else if neededPair i.channels s t then (pathFail i.fabric t (if t < 32 then 17 else 16) s []).map fun c => (c, n)
    else none

/-! ### Step 6, passes 5 and 6 (R48, R59) -/

def cascadeFail (own : Nat) (m : ModImage) (s : Sect) : Option LoadFail :=
  let h := m.cascade
  let n := recU h 0 2
  if n ≠ m.members.length ∨ recU h 2 1 * recU h 3 1 * recU h 4 1 ≠ n then some (0x40, s.idx, 0xFFFF) else
  (firstRec s fun k r => if (m.members.take k).any fun q => recU q 0 1 = recU r 0 1 || recU q 1 3 = recU r 1 3 then some 0x40 else none).orElse fun _ =>
  if m.members.all fun r => recU r 0 1 ≠ recU h 6 1 then some (0x40, s.idx, 0xFFFF)
  else if m.members.all fun r => recU r 0 1 ≠ own then some (0x41, s.idx, 0xFFFF)
  else none

def planFail (m : ModImage) (s : Sect) : Option LoadFail :=
  match s.typ with
  | 1 => if slice m.cascade 8 64 = shake256 m.plan then none else some (0x42, s.idx, 0xFFFF)
  | 0x14 => if shake256 s.data = slice m.plan (64 * s.part) 64 then none else some (0x42, s.idx, 0xFFFF)
  | _ => none

/-- Steps 4 to 6 of R63, in their order. -/
def validateFail (d : Dev) (mask : Nat) (b : List Byte) : Option LoadFail :=
  (directoryFail b).orElse fun _ =>
  let ss := sections b
  let each := fun (f : Sect → Option LoadFail) => ss.findSome? f
  (each sectionFail).orElse fun _ =>
  (each (refsFail d mask b ss)).orElse fun _ =>
  (keptFail d mask b ss).orElse fun _ =>
  (each (cycleFail d mask b ss)).orElse fun _ =>
  (each fun s => carveFit (scene d mask b ss s.part) s).orElse fun _ =>
  ((maskParts (imgPresent b)).findSome? fun p =>
    (fabricFail (partFrom b ss p)).map fun c => (c.1, ((findSect ss 0x11 p).map (·.idx)).getD 0xFF, c.2)).orElse fun _ =>
  (each fun s => if s.typ = 1 then cascadeFail (modNumber d) (modFrom ss) s else none).orElse fun _ =>
  each (planFail (modFrom ss))

end Sys2Proof.Machine
end

