-- ==== Sys2Proof/Machine/Loader.lean ====
section
/-! DEFINITION. The structure loader (R43, R62, R63, R66-R76, R148, R461, R464). -/

namespace Sys2Proof.Machine

/-- STRUCT_STATUS.STATE: 0 IDLE, 1 FETCH, 2 VERIFY, 3 VALIDATE, 4 CHECK, 5 INSTALL. -/
def Dev.loadState (d : Dev) : Nat := d.fld .structStatus 2 0
def Dev.setPState (d : Dev) (p n : Nat) : Dev := d.setFld .structPartState (4 * p + 3) (4 * p) n
/-- SORT_STATUS.HOLDING: accesses for the partition are held during install (R71). -/
def Dev.holding (d : Dev) (p : Nat) (b : Bool) : Dev := (d.setBit (.sortStatus 0) (4 + p) b).setBit (.sortStatus 1) (4 + p) b

/-! ### The end of a load (R62, R72, R76) -/

/-- A load ends: its cause, DONE or FAIL, the incident; the loader is IDLE. RECORD of a record numbered 65,536 or above is its
number modulo 65,536: DESIGN CHOICE (log entry 52), R76 gives the field 16 bits and no more. -/
def Dev.loadEnd (d : Dev) (fail : Option LoadFail) : Dev :=
  let mask := d.loader.mask
  let d := match fail with
    | none => d.setReg .structCause 0#64
    | some (c, s, r) => d.setReg .structCause (BitVec.ofNat 64 (c + s * 2 ^ 8 + r % 2 ^ 16 * 2 ^ 16))
  let d := (d.setBit .structStatus 8 fail.isNone).setBit .structStatus 9 fail.isSome
  let d := ((d.setFld .structStatus 2 0 0).setBit .structCtrl 4 false).setBit .structCtrl 5 false
  { d with loader := Loader.reset }.raise
    { cls := 0xC, eng := 0x21, die := dieGate, part := none, d0 := d.regN .structCause,
      d1 := mask + (if fail.isNone then 256 else 0) }

/-- A failure of R63 steps 1 to 3, of step 7, or ABORTED (R502); and INSTALL_FAULT, whose SECTION and RECORD R502 does not
list: DESIGN CHOICE (log entry 52). -/
def plainFail (c : Nat) : Option LoadFail := some (c, 0xFF, 0)

/-- No partition holds an image: no CASCADE section is installed, and the ports go back to CLOSED frames (R348). -/
def Dev.noStructure (d : Dev) : Dev :=
  let d := d.rewire fun d => d.each (List.range 16) fun d n =>
    let d := d.setReg (.crrPortRole n) 3#64
    if d.portState n = 0 ∨ d.portState n = 6 then d else (d.clearSession n (d.port n).linkUp).setPortState n 1
  let d := d.each (List.range 16) fun d i => d.setReg (.structCascadeDigest i) 0#64
  let d := d.each (List.range 8) fun d k => d.setReg (.gateMembers k) 0#64
  { d.setReg .gateCascade 0#64 with modImage := none, post := ⟨[], [], [], false, []⟩, joined := false, floods := [] }

/-- A partition goes back to the boot table (R72, R73). -/
def Dev.toBoot (d : Dev) (p : Nat) : Dev :=
  let d := { d.setPState p 0 with parts := mapErase d.parts p }
  let d := d.each (List.range 4) fun d i => d.setReg (.structImageId (4 * p + i)) 0#64
  let d := (d.setFld (.cohAgents p) 53 48 0).setReg (.hallObjCapacity p) 0#64
  let d := d.each (List.range 8) fun d k => d.setReg (.hallHistPool p k) 0#64
  d.holding p false

def Dev.bootAll (d : Dev) (ps : List Nat) : Dev :=
  let d := d.each ps Dev.toBoot
  if d.modImage.isSome ∧ (List.range 4).all (fun p => !d.installed p && !d.installing p) then d.noStructure else d

/-- Install fails: every target of the load is left on the boot table (R72). -/
def Dev.installFault (d : Dev) (p : Nat) : Dev :=
  if d.loadState = 5 ∧ bitN d.loader.mask p then ((d.bootAll (maskParts d.loader.mask)).loadEnd (plainFail 0x53)).release else d

/-! ### Starting a load (R63 step 1, R66-R68, R461) -/

/-- What is checked before any byte is fetched. -/
def sourceFail (d : Dev) : Option Nat :=
  let a := d.loader.src
  let n := d.loader.len
  if d.loader.mask = 0 then some 0x52
  else if a / 2 ^ 54 % 2 = 1 ∨ 2 ^ 56 ≤ a ∨ a % 4096 ≠ 0 then some 1
  else if n < 2304 ∨ 64 * 2 ^ 20 < n ∨ n % 64 ≠ 0 then some 2
  else none

/-- The bytes that module memory holds, modified copies of its lines included. -/
def peek (d : Dev) (a len : Nat) : List Byte :=
  ((d.lines.filter (·.st = 3)).foldl (fun (m : Mem) l => m.write l.addr l.data) d.mem).read a len

/-- The image as GO finds it in module memory: writes to the source afterwards have no effect (R67). -/
def sourceBytes (d : Dev) (t len : Nat) : List Byte :=
  match untag t with
  | .localAddr a => if exists_ d a len false then peek d a len else []
  | _ => []

/-- GO latches the source, the length and the targets (R67). -/
def execStructGo (via : Via) (mask : Nat) (s : State) : Host.Outcome State Fault Refusal :=
  .next (s.onDev fun d => d.viaReg via .high .structCtrl (.structGo via mask) fun d =>
    let d := d.setFld .structCtrl 3 0 mask
    if d.loadState ≠ 0 then d.setBit .structStatus 10 true else
    let d := { d.setBit .structCtrl 4 true with
      loader := ⟨d.regN .structSrcAddr, d.fld .structSrcLen 31 0, mask % 16, false, [], []⟩ }
    match sourceFail d with
    | some c => d.loadEnd (plainFail c)
    | none => { d with loader := { d.loader with image := sourceBytes d d.loader.src d.loader.len } }.setFld .structStatus 2 0 1)

/-- ABORT before INSTALL ends the load; in IDLE the bit clears at once, in INSTALL it is ignored. -/
def execStructAbort (via : Via) (s : State) : Host.Outcome State Fault Refusal :=
  .next (State.anchorResume (s.onDev fun d => d.viaReg via .high .structCtrl (.structAbort via) fun d =>
    if d.loadState = 0 then d
    else if d.loadState = 5 then d.setBit .structCtrl 5 true
    else d.loadEnd (plainFail 0x54)))

/-- MODNUM is written only while the loader is IDLE and no partition holds an image (R76, R464). -/
def execStructModuleNumberWrite (via : Via) (value : W32) (s : State) : Host.Outcome State Fault Refusal :=
  .next (s.onDev fun d => d.viaReg via .high .structModuleNumber (.structModuleNumberWrite via value) fun d =>
    if d.loadState ≠ 0 ∨ (List.range 4).any d.installed then d else d.setFld .structModuleNumber 7 0 value.toNat)

/-- A load waits in FETCH until MEM_READY, and while an anchor operation runs (R446, R461). -/
def execStructFetchStart (s : State) : Host.Outcome State Fault Refusal :=
  .next (s.onDev fun d =>
    let anchor := d.bit .secOpStatus 0 && d.secWait.isNone
    if d.loadState = 1 ∧ d.loader.fetching = false ∧ d.memReady ∧ !anchor then { d with loader := { d.loader with fetching := true } } else d)

/-- The image is staged: from module memory, as it was at GO, or as the completions of commander memory brought it; or the fetch fails. -/
def execStructFetchDone (image : List Byte) (error : Bool) (s : State) : Host.Outcome State Fault Refusal :=
  .next (State.anchorResume (s.onDev fun d =>
    if d.loadState ≠ 1 ∨ !d.loader.fetching then d else
    if error then d.loadEnd (plainFail 1) else
    let stage := fun (d : Dev) (bs : List Byte) => { d with loader := { d.loader with image := bs } }.setFld .structStatus 2 0 2
    match untag d.loader.src with
    | .host _ => if d.pcie.busMaster then stage d (slice image 0 d.loader.len) else d.loadEnd (plainFail 1)
    | .localAddr a => match (physLoad (devWho none) a d.loader.len).run d with
      | (.ok _, d) => stage d d.loader.image
      | (.error (.wait _), _) => d
      | (.error _, d) => d.loadEnd (plainFail 1)
    | _ => d.loadEnd (plainFail 1)))

/-! ### Checking (R63) -/

/-- Header and signature. -/
def execStructVerifyDone (s : State) : Host.Outcome State Fault Refusal :=
  .next (State.anchorResume (s.onDev fun d =>
    if d.loadState ≠ 2 then d else
    let b := d.loader.image
    match (headerFail d.loader.len (d.fld .structVersion 15 8) b).orElse fun _ => signatureFail s.sec (d.fld .secAnchorState 15 0) b with
    | some c => d.loadEnd (plainFail c)
    | none => d.setFld .structStatus 2 0 3))

/-- Directory, sections and cross-section rules. -/
def execStructValidateDone (s : State) : Host.Outcome State Fault Refusal :=
  .next (s.onDev fun d =>
    if d.loadState ≠ 3 then d else
    match validateFail d d.loader.mask d.loader.image with
    | some f => d.loadEnd (some f)
    | none => d.setFld .structStatus 2 0 4)

/-- A target partition is available (R64). -/
def available (d : Dev) (b : List Byte) (p : Nat) : Bool :=
  bitN (imgPresent b) p && !d.fenced p && !d.degraded p && !d.bit .gateBoot (12 + p)

/-- Partitions that are loaded and not targeted. -/
def keptParts (d : Dev) (mask : Nat) : List Nat := (List.range 4).filter fun p => d.installed p && !bitN mask p

/-- Records whose partitions include one of a set. -/
def meets (ps : List Nat) (mask : Nat) : Bool := ps.any fun p => bitN mask p

/-- The compatibility rules of a partition load (R69). A record of the new image that includes a kept partition and is not installed is
accepted: DESIGN CHOICE (log entry 57), R69 speaks of installed records alone. -/
def compatible (d : Dev) (mask : Nat) (new : ModImage) (v : Scene) : Bool :=
  match d.modImage with
  | none => true
  | some old =>
    let kept := keptParts d mask
    let partsOf := fun (n : Nat) => ((old.routes.find? fun r => rtNumber r = n).map rtParts).getD 0
    mask = 15 ||
    (old.cascade = new.cascade && old.members = new.members && old.plan = new.plan &&
     (old.routes.all fun r => !meets kept (rtParts r) || new.routes.contains r) &&
     (old.layers.all fun r => !meets kept (lyParts r) || new.layers.contains r) &&
     (old.intake.all fun r => !meets kept (partsOf (recU r 2 2 % 4096)) || new.intake.contains r) &&
     (maskParts mask).all fun p => (((v.part p).map (·.channels)).getD []).all fun r =>
       !(chFlag r 1 && kept.contains (chPeer r)) || ((v.chan (chPeer r) (chPeerNum r)).isSome && !peerFail v p r))

/-- The OBJECT_DIR record of a carve, with its place among the records. -/
def objDirRec (carve : List Rec) : Option (Rec × Nat) := carve.zipIdx.find? fun e => carveRegion e.1 = 8

/-- The region that an install gives the directory differs from the installed one (R148). -/
def objDirMoves (d : Dev) (p : Nat) (new : List Rec) : Bool :=
  let place := fun (c : List Rec) => (objDirRec c).map fun e => (carveOff e.1, carveLen e.1)
  place (carves d p) ≠ place new

/-- The record of a changed OBJECT_DIR region that cannot hold the objects that stay lodged (R148). -/
def objDirSmall (d : Dev) (mask : Nat) (v : Scene) : Option (Nat × Nat) :=
  let zeroed := (maskParts mask).filter fun p => match v.part p with | some i => objDirMoves d p i.carve | none => false
  let stay := (((List.range 4).filter fun p => !zeroed.contains p).map fun p => d.fld (.hallObjStatus p) 21 0).sum
  zeroed.findSome? fun p => ((v.part p).bind fun i => objDirRec i.carve).bind fun e =>
    if carveLen e.1 / 64 < stay then some (p, e.2) else none

/-- An open context uses a route with stages in a target (R70). -/
def contextsOpen (d : Dev) (mask : Nat) : Bool :=
  (List.range 64).any fun c => (d.ctx c).state ≠ 0 && (d.ctx c).routes.any fun r =>
    match findRoute d r with
    | some q => meets (maskParts mask) (rtParts q)
    | none => false

/-- Step 7 of R63. -/
def deviceFail (d : Dev) : Option LoadFail :=
  let b := d.loader.image
  let mask := d.loader.mask
  let ss := sections b
  let v := scene d mask b ss 4
  if !(maskParts mask).all (available d b) then plainFail 0x52
  else if !compatible d mask (modFrom ss) v then plainFail 0x50
  else match objDirSmall d mask v with
    | some (p, k) => some (0x50, ((findSect ss 0x10 p).map (·.idx)).getD 0xFF, k)
    | none => if contextsOpen d mask then plainFail 0x51 else none

/-- The partition that installs next runs on the boot table; accesses for it are held (R71). -/
def Dev.installBegin (d : Dev) (p : Nat) : Dev := (d.setPState p 2).holding p true

def execStructCheckDone (s : State) : Host.Outcome State Fault Refusal :=
  .next (s.onDev fun d =>
    if d.loadState ≠ 4 then d else
    match deviceFail d with
    | some f => d.loadEnd (some f)
    | none =>
      let todo := maskParts d.loader.mask
      let d := { d with loader := { d.loader with todo := todo } }.setFld .structStatus 2 0 5
      d.installBegin (todo.headD 0))

/-! ### Install (R71, R74, R148) -/

/-- The bytes of a CASCADE section, whose digest is reported. -/
def cascadeBytes (m : ModImage) : List Byte := m.cascade ++ m.members.flatten

/-- The module sections take effect. A CASCADE section that differs closes the ports and the cascade (R74). -/
def Dev.installModule (d : Dev) (m : ModImage) : Dev :=
  let same := match d.modImage with | some o => o.cascade = m.cascade && o.members = m.members | none => false
  if same then { d with modImage := some m } else
  let g := shake256 (cascadeBytes m)
  let d := { d with post := ⟨[], [], [], false, []⟩, joined := false, floods := [] }
  let d := d.rewire fun d =>
    let d := { d with modImage := some m }
    d.each (List.range 16) fun d n =>
      let role := ((memberRec d (modNumber d)).map fun r => recU r (8 + n) 1).getD 3
      let d := d.setReg (.crrPortRole n) (BitVec.ofNat 64 role)
      if d.portState n = 0 ∨ d.portState n = 6 then d else
      (d.clearSession n (d.port n).linkUp).setPortState n (if role % 4 = 3 then 0 else 1)
  let d := d.each (List.range 16) fun d i => d.setReg (.structCascadeDigest i) (BitVec.ofNat 64 (field g (4 * i) 4))
  let d := d.each (List.range 8) fun d k => d.setReg (.gateMembers k) 0#64
  let d := d.setReg .gateCascade (BitVec.ofNat 64 (1 + recU m.cascade 6 1 * 256))
  if m.members.length = 1 then
    { d with post := { d.post with admitted := [(modNumber d, Config.serial)], opened := true } }.cascadeOpens (2 ^ modNumber d)
  else d

/-- Regions of a post hall, as type, offset and length. -/
def hallRegions (c : List Rec) : List (Nat × Nat × Nat) :=
  (c.filter fun r => carveNode r = 19).map fun r => (carveRegion r, carveOff r, carveLen r)

/-- Zeroing at install: the tiles' SRAM, and the hall's regions that change, of which no cache keeps a copy (R71). -/
def Dev.installZero (d : Dev) (p : Nat) (old new : List Rec) : Dev :=
  let d := d.each (List.range 19) fun d w => { d with mem := d.mem.zero (windowBase p w) (windowBase p (w + 1)) }
  let a := hallRegions old
  let b := hallRegions new
  let changed := (a.filter fun r => !b.contains r) ++ b.filter fun r => !a.contains r
  d.each changed fun d r =>
    let lo := windowBase p 19 + r.2.1
    let hi := lo + r.2.2
    { d with mem := d.mem.zero lo hi, lines := d.lines.filter fun l => hi ≤ l.addr || l.addr < lo,
             reservations := d.reservations.filter fun (e : Nat × Nat) => hi ≤ e.2 || e.2 < lo }

/-- Objects homed in a partition whose directory is zeroed are unlodged (R148). -/
def Dev.unlodgeHome (d : Dev) (p : Nat) : Dev :=
  d.each (d.objs.filter fun (o : Nat × Obj) => o.2.home = p) fun d e =>
    ((d.heldEnds e.2.held 0x20 0).finishAll (e.2.joiners ++ e.2.evicts ++ e.2.waiting.map (·.1)) 0x20 0).dirRemove e.1

/-- Forwarding entries in a new directory for every object homed elsewhere that stays lodged: `gone` are the targets still to
come whose directories move; no entry of the old region stands (R148). -/
def Dev.forwardEntries (d : Dev) (p : Nat) (gone : List Nat) : Dev :=
  let d := { d with objs := d.objs.map fun (e : Nat × Obj) => (e.1, { e.2 with slots := mapErase e.2.slots p }) }
  d.each (d.objs.filter fun (e : Nat × Obj) => !gone.contains e.2.home) fun d (e : Nat × Obj) =>
    let (o, d) := d.dirAdd e.1 e.2 p
    { d with objs := mapSet d.objs e.1 o }

/-- The tables of a target take effect together (R71). -/
def Dev.installPart (d : Dev) (p : Nat) (i : PartImage) (gone : List Nat) : Dev :=
  let old := carves d p
  let moved := objDirMoves d p i.carve
  let d := if moved then d.unlodgeHome p else d
  let d := d.installZero p old i.carve
  let d := { d with parts := mapSet d.parts p i, rowCache := d.rowCache.filter (·.part ≠ p),
                    sums := d.sums.filter fun (e : (Nat × Nat × Nat) × List FV) => e.1.1 ≠ p }
  let d := if moved then d.forwardEntries p gone else d
  let d := d.each (List.range 4) fun d k => d.setReg (.structImageId (4 * p + k)) (BitVec.ofNat 64 (field i.id (4 * k) 4))
  let d := (d.setFld (.cohAgents p) 53 48 63).setReg (.hallObjCapacity p) (BitVec.ofNat 64 (dirCapacity d p))
  let d := d.each (List.range 8) fun d k => d.poolSync p k
  let d := (d.setPState p 1).holding p false
  d.each [4 * p, 4 * p + 1, 4 * p + 2, 4 * p + 3] Dev.helloFirst

/-- Install of the present target completes, or meets an uncorrectable error (R72). -/
def installDone (error : Bool) (s : State) : Host.Outcome State Fault Refusal :=
  .next (s.onDev fun d => match d.loader.todo with
    | [] => d
    | p :: rest =>
      if d.loadState ≠ 5 then d
      else if error then d.installFault p
      else
        let b := d.loader.image
        let mask := d.loader.mask
        let ss := sections b
        let d : Dev := if (maskParts mask).head? = some p then d.installModule (modFrom ss) else d
        let gone := rest.filter fun q => objDirMoves d q (partFrom b ss q).carve
        let d : Dev := { d.installPart p (partFrom b ss p) gone with loader := { d.loader with todo := rest } }
        let d := if (maskParts mask).head? = some p ∧ d.fld .gateCascade 1 0 = 1 ∧ d.joined = false then d.join else d
        match rest with
        | q :: _ => (d.installBegin q).release
        | [] => ((d.each (maskParts mask) fun d q => d.extend (3 + q) (structDigest b)).loadEnd none).release)

/-- An uncorrectable error in a partition's structure tables: it returns to the boot table and needs a new load (R73). The
running letters that have a stage in it end with MEMORY_ERROR; the spec states no status for them. -/
def tableError (p : Nat) (s : State) : Host.Outcome State Fault Refusal :=
  .next (s.onDev fun d =>
    if 4 ≤ p then d
    else if d.loadState = 5 ∧ bitN d.loader.mask p then d.installFault p
    else if !d.installed p then d
    else
      let d := d.each (lettersIn d p) fun d x =>
        (d.stopIncident { letterWho x (some p) 19 0x15 with route := x.route } (.mem (windowBase p 19) 1)).finish x.id 0x13 0xFF
      (d.bootAll [p]).release)

end Sys2Proof.Machine
end

