-- ==== Sys2Proof/Machine/Power.lean ====
section
/-! DEFINITION. Supplies and power states (R79, R394, R418-R420, R424, R427, R428, R161). -/

namespace Sys2Proof.Machine

/-! ### Limits on a partition's supply -/

/-- The bottom of N2's trim range. -/
def floorMv : Nat := 710

/-- Partitions in which a context has a stage running or parked. -/
def runParts (d : Dev) (c : Nat) : List Nat := (List.range 4).filter fun p => d.runs.any fun r => r.ctx = c ∧ r.part = p

/-- A reset that involves the partition is in progress (R394), a context reset that waits for its turn among them (R402). -/
def resetFloor (d : Dev) (p : Nat) : Bool :=
  d.partResets.any (·.part = p) || d.engResets.any (fun r => r.part = p ∧ !r.abandoned) ||
  d.drains.any (fun r => r.tear.isNone ∧ r.parts.contains p) ||
  d.advances.any (fun a => a.2 ≠ 0 ∧ (runParts d a.1).contains p)

/-- The least supply: 0.56 V, or the floor of a reset (R82, R394). -/
def leastMv (d : Dev) (p : Nat) : Nat := if resetFloor d p then floorMv else 560

/-- The Clerk raises a partition to the floor of a reset; supplies hold while it is stopped (R426). -/
def Dev.raiseFloor (d : Dev) (p : Nat) : Dev := if d.power.clerk && voltOf d p < floorMv then d.setVolt p floorMv else d

/-- The voltage that limits 1 and 3 of R418 permit. The cap of limit 2 acts step by step (R422). -/
def r418 (d : Dev) (p : Nat) : Nat :=
  let top := d.fld (.pwrPartCtrl p) 1 0
  let bottom := pointLo (min top (d.fld (.pwrPartCtrl p) 3 2))
  max (min (trimMv d p top) (heatMv d p)) (min bottom (heatMv d p))

/-- The supply that R418, R419 and R427 give a partition but for the cap: at N0 its nominal voltage, else r418. -/
def goalMv (d : Dev) (p : Nat) : Nat := if atN0 d p then min 600 (heatMv d p) else r418 d p

/-- CAPPED and HOT follow the supply and the limits (R423, R434): a supply that the cap does not hold is not capped. -/
def Dev.markPart (d : Dev) (p : Nat) : Dev :=
  let d := if goalMv d p ≤ voltOf d p then d.setBit (.pwrPartStatus p) 28 false else d
  (d.setBit (.pwrPartStatus p) 29 (limited d p)).setRate p

/-- The Clerk sets a supply, never below the least; while it is stopped supplies hold their values (R426). -/
def Dev.supply (d : Dev) (p mv : Nat) : Dev :=
  (if d.power.clerk then d.setVolt p (max mv (leastMv d p)) else d).markPart p

/-- A partition goes to N0 nominal (R419, R427): no higher than the cap holds it (R420). -/
def Dev.toN0 (d : Dev) (p : Nat) : Dev :=
  d.supply p (if d.bit (.pwrPartStatus p) 28 then min (goalMv d p) (voltOf d p) else goalMv d p)

/-! ### Power states (R427, R428) -/

/-- Every engine of a partition is IDLE, or with `halt` IDLE or HALTED. -/
def enginesIdle (d : Dev) (p : Nat) (halt : Bool) : Bool :=
  (List.range 19).all fun n => (List.range (slotCount n)).all fun t =>
    engStateOf d p n t = 0 || (halt && halted d p n t)

/-- The ports stop signalling; their ENABLE settings stay (R427). -/
def Dev.portsQuiet (d : Dev) : Dev :=
  d.each (List.range 16) fun d n => if d.portState n = 0 then d else
    (d.rewire fun d => (d.setPortState n 0).requeue n true).clearSession n false

/-- Entry into DROWSE (R161, R427). The Clerk's cap and thermal limits hold no partition there. -/
def Dev.drowse (d : Dev) : Dev :=
  let d := d.each d.lines Dev.writeBack
  let d := { d with lines := [], reservations := [], icache := [] }
  (d.each (List.range 4) fun d p => (d.setBit (.memStatus p) 3 true).setBit (.pwrPartStatus p) 28 false).portsQuiet

/-- Exit from DROWSE: tile SRAM reads zero, stacks and post halls answer again, ports reopen; harts that RUN was set for start, and
mailboxes that wait to be enabled are. -/
def Dev.undrowse (d : Dev) : Dev :=
  let d := d.each (List.range 4) fun d p =>
    { d with mem := d.mem.zero (windowBase p 0) (windowBase p 19) }.setBit (.memStatus p) 3 false
  let d := { d with rowCache := [], sums := [] }
  let d := d.each (List.range 16) fun d n =>
    if d.bit (.crrPortCtrl n) 0 ∧ d.portState n = 0 ∧ (d.modImage = none ∨ d.portRole n % 4 ≠ 3) then d.closePort n else d
  let d := d.each (List.range 4) fun d p => if mayBoot d p then d.startHeldHarts p else d
  (d.each (List.range 256) Dev.mbxReady).release

/-- The module is in a power state from now on. -/
def Dev.enterPower (d : Dev) (t : Nat) : Dev :=
  let s := powerState d
  let d := { d with power := { d.power with transition := none } }.setBit .pwrState 2 false
  let d := d.setFld .pwrState 1 0 t
  let d := if s = 2 ∧ t ≠ 2 then d.undrowse else d
  match t with
  | 0 => d.each (List.range 4) fun d p => d.supply p (r418 d p)
  | 1 => d.each (List.range 4) Dev.toN0
  | _ => d.drowse

/-- A partition reset first returns the module to ACTIVE (R428). -/
def Dev.toActive (d : Dev) : Dev :=
  if powerState d = 0 ∧ d.power.transition.isNone then d else
  ({ d with power := { d.power with heldReq := none } }.setBit .pwrState 3 false).enterPower 0

/-- An object keeps SRAM of a tile, or is on its way (R161). -/
def drowseBlocked (d : Dev) : Bool :=
  let tile := fun a => match place a with | .window _ w _ => w < 19 | _ => false
  d.objs.any fun (e : Nat × Obj) =>
    let o := e.2
    (o.tier = 0 && (o.state = 1 || o.state = 3 || (o.state = 2 && tile o.sram))) || (o.tier = 1 && tile o.base)

/-- Why a request is refused, as PWR_STATE.REFUSE. -/
def powerRefusal (d : Dev) (t : Nat) : Nat :=
  if t = 1 then (if (List.range 4).all fun p => enginesIdle d p false then 0 else 1)
  else if t = 2 then
    if (List.range 64).any fun c => (d.ctx c).state ≠ 0 then 2
    else if (List.range 192).any fun h => d.fld (.partCoreStatus (h / 48) (h % 48)) 1 0 ≠ 0 then 3
    else if (List.range 256).any fun n => d.fld (.mbxStatus n) 2 0 ≠ 0 then 4
    else if drowseBlocked d then 5 else 0
  else 0

/-- The Clerk acts on a request: refused, or its transition begins. -/
def Dev.powerApply (d : Dev) (t : Nat) : Dev :=
  if powerState d = t then d else
  match powerRefusal d t with
  | 0 => d.powerBegin t
  | k => d.setFld .pwrState 7 4 k

/-- A write of PWR_STATE_REQ with GO. Without the Clerk, GO stays. -/
def Dev.powerRequest (d : Dev) (v : Via) (t : Nat) (i : Instr) : Dev :=
  d.viaReg v .power .pwrStateReq i fun d =>
    let d := (d.setFld .pwrStateReq 1 0 t).setBit .pwrStateReq 31 true
    if !d.power.clerk then d else
    let d := d.setBit .pwrStateReq 31 false
    if d.power.transition.isSome then { d with power := { d.power with heldReq := some t } }.setBit .pwrState 3 true
    else d.powerApply t

def execPwrRequestActive (via : Via) (s : State) : Host.Outcome State Fault Refusal := .next (s.onDev (·.powerRequest via 0 (.pwrRequestActive via)))
def execPwrRequestIdle (via : Via) (s : State) : Host.Outcome State Fault Refusal := .next (s.onDev (·.powerRequest via 1 (.pwrRequestIdle via)))
def execPwrRequestDrowse (via : Via) (s : State) : Host.Outcome State Fault Refusal := .next (s.onDev (·.powerRequest via 2 (.pwrRequestDrowse via)))
def execPwrRequestOff (via : Via) (s : State) : Host.Outcome State Fault Refusal := .next (s.onDev (·.powerRequest via 3 (.pwrRequestOff via)))

/-- A transition completes; OFF removes the rails; a held request is applied. -/
def execPwrTransitionDone (s : State) : Host.Outcome State Fault Refusal :=
  .next (s.onDev fun d => match d.power.transition with
    | none => d
    | some t =>
      if t = 3 then d.railsOff true else
      let d := d.enterPower t
      match d.power.heldReq with
      | none => d
      | some r => ({ d with power := { d.power with heldReq := none } }.setBit .pwrState 3 false).powerApply r)

end Sys2Proof.Machine
end

