-- ==== Sys2Proof/Machine/Resets.lean ====
section
/-! DEFINITION. The reset ladder (R391-R407), generation advances, the loss of a coherent domain (R388, R389), and the enable
of incident rings (R411, R459). -/

namespace Sys2Proof.Machine

/-! ### Generation advances (R394, R398, R402-R404) -/

/-- A request of the context with generation g is outstanding at the gate (R402). -/
def genHeld (d : Dev) (c g : Nat) : Bool := d.remotes.any fun r => r.ctx = some (c, g) ∧ r.data.isNone ∧ r.addr < 2 ^ 54

/-- Stop a context's letters of the generation that has just ended: running ones end with the given status, the others as stale; an
unstarted letter of the next generation stays, a prefetched CTX_OPEN for example (R129, R394). -/
def Dev.stopLetters (d : Dev) (c status detail : Nat) (keep : Option LetterId) : Dev :=
  let g := (d.ctx c).gen
  d.each (d.letters.filter fun x => x.ctx = c ∧ x.result.isNone ∧ some x.id ≠ keep ∧ (x.started ∨ x.gen ≠ g)) fun d x =>
    if x.started then d.finish x.id status detail else d.finish x.id 5 g

/-- A context or teardown leaves nothing in the mailbag engines (R368). -/
def Dev.redClear (d : Dev) (c : Nat) : Dev := d.redDrop c |>.each (List.range 4) Dev.redState

/-- The courier paths on which pod stores of the context are outstanding. -/
def podPaths (d : Dev) (c : Nat) : List DrainPath :=
  if d.podStores.any fun s => match s.ctx with | some (k, _) => k = c | none => false then [.courier] else []

/-- A context reset takes effect: cause 1 register, 2 engine reset, 3 partition reset (R394, R403). -/
def Dev.ctxReset (d : Dev) (c cause : Nat) : Dev :=
  let old := (d.ctx c).gen
  let ps := runParts d c
  let d := d.each ps Dev.raiseFloor
  let d := (d.advanceGen c (d.ctx c).state).stopLetters c 0x51 cause none
  { d.redClear c with drains := d.drains ++ [(⟨c, none, old, cause, .memory :: podPaths d c, [], ps⟩ : Drain)] }

/-- Objects that only the context has pinned, so that a teardown evicts them (R155). -/
def soleObjs (d : Dev) (c : Nat) : List Nat :=
  (d.objs.filter fun (e : Nat × Obj) => e.2.tier = 0 ∧ e.2.pins = [c]).map fun (e : Nat × Obj) => e.1

/-- A teardown takes effect (R404): its letter is t. -/
def Dev.tear (d : Dev) (c : Nat) (t : LetterId) : Dev :=
  let old := (d.ctx c).gen
  let ps := runParts d c
  let mine := d.letters.filter (·.ctx = c) ++ d.early.filter (·.ctx = c)
  let up := (mine.filterMap (·.pcieLast)).getLast?
  let regs := mine.flatMap (·.regions)
  let objs := soleObjs d c
  let d := ((d.advanceGen c 2).stopLetters c 0x50 0 (some t)).redClear c
  let d := { (d.clearPins c).releasePools c with early := d.early.filter (·.ctx ≠ c) }
  let d := match up with | some a => d.zeroRead t a none | none => d
  let d := d.each regs fun d r => d.zeroRead t r.last (some r)
  let paths := [DrainPath.fabric, .memory] ++ podPaths d c ++ (if up.isSome then [DrainPath.upstream] else []) ++
    (if regs = [] then [] else [DrainPath.intake])
  { d with drains := d.drains ++ [(⟨c, some t, old, 0, paths, objs, ps⟩ : Drain)] }

/-- Perform an advance: cause 0 is a teardown, whose letter runs. -/
def Dev.genEffect (d : Dev) (c cause : Nat) : Dev :=
  if cause ≠ 0 then d.ctxReset c cause
  else match d.letters.find? fun x => x.ctx = c ∧ x.opcode = 0x21 ∧ x.started ∧ x.result.isNone with
    | some x => d.tear c x.id
    | none => d

/-- Ask for an advance: at once, or after the requests that hold the new generation (R402); a reset's floor holds from the request on
(R394). -/
def Dev.genRequest (d : Dev) (c cause : Nat) : Dev :=
  if genHeld d c (((d.ctx c).gen + 1) % 4096) ∨ d.advances.any (·.1 = c) then
    let d := if cause = 0 then d else d.each (runParts d c) Dev.raiseFloor
    { d with advances := d.advances ++ [(c, cause)] }
  else d.genEffect c cause

/-- An advance that waited takes effect (R402). -/
def execGenerationAdvance (ctx : Nat) (s : State) : Host.Outcome State Fault Refusal :=
  .next (s.onDev fun d => match d.advances.find? (·.1 = ctx) with
    | none => d
    | some a =>
      if genHeld d ctx (((d.ctx ctx).gen + 1) % 4096) then d else
      { d with advances := d.advances.erase a }.genEffect ctx a.2)

/-- CTX_TEAR (R97, R404). -/
def execCtxTear (l : LetterId) (s : State) : Host.Outcome State Fault Refusal :=
  .next (s.onDev fun d => d.onLetter l 0x21 fun x d =>
    (d.setCtx x.ctx { d.ctx x.ctx with state := 2 }).dropTlb x.ctx |>.genRequest x.ctx 0)

/-! ### Context reset (R403) -/

def Dev.ctxResetOver (d : Dev) : Dev := (d.setBit .gateCtxReset 30 false).setBit .gateCtxReset 31 false

/-- GATE_CTX_RESET with GO. -/
def execContextReset (via : Via) (ctx : Nat) (s : State) : Host.Outcome State Fault Refusal :=
  .next (s.onDev fun d => d.viaReg via .high .gateCtxReset (.contextReset via ctx) fun d =>
    if d.bit .gateCtxReset 30 then d else
    let c := ctx % 64
    let d := d.setFld .gateCtxReset 5 0 c
    if (d.ctx c).state ≠ 1 then d.ctxResetOver
    else ((d.setBit .gateCtxReset 30 true).setBit .gateCtxReset 31 true).genRequest c 1)

/-- Every edge has latched, the drains have returned, and the receipts of the stopped letters are written. -/
def drained (d : Dev) (r : Drain) : Bool :=
  r.paths = [] && latched d r.ctx ((r.oldGen + 1) % 4096) && d.letters.all fun x => ¬ (x.ctx = r.ctx ∧ x.gen = r.oldGen)

def execContextResetDone (ctx : Nat) (s : State) : Host.Outcome State Fault Refusal :=
  .next (s.onDev fun d => match d.drains.find? fun r => r.ctx = ctx ∧ r.tear.isNone with
    | none => d
    | some r =>
      if !drained d r then d else
      let new := (r.oldGen + 1) % 4096
      let d := { d with drains := d.drains.filter (· ≠ r) }
      let d := if r.cause = 1 then d.ctxResetOver else d
      d.raise { cls := 0x280, eng := 0x20, die := dieGate, part := none, ctx := some (ctx, new),
                d0 := r.oldGen + new * 2 ^ 16 + r.cause * 2 ^ 32 })

/-! ### Engine reset (R396, R398, R407) -/

/-- ENGINE and INDEX of an engine slot (R53, R410, R415). -/
def slotKind (node slot : Nat) : Nat × Nat :=
  if node < 12 then (if slot < 4 then (0, slot) else (slot - 3, 0))
  else if node < 16 then (3 + slot, 0) else if node < 18 then (6 + slot, 0) else (8 + slot, 0)

/-- Contexts with a stage on the engine: running or parked; for a mailbag engine also those with a mailbag in flight (R368). In
named-fault mode it is the one context that runs there (R407), an exchange and a mailbag in flight among what runs. -/
def suspects (d : Dev) (p node slot : Nat) (named : Bool) : List Nat :=
  let mailbag := node = 18 && slot = 0
  let cs := ((d.runs.filter fun r => r.part = p ∧ r.node = node ∧ r.slot = slot ∧ (!named || !r.parked || mailbag)).map (·.ctx) ++
    if mailbag then (d.bags.filter fun b => b.part = p && b.active && !b.done).map (·.ctx) else []).eraseDups
  if named then cs.take 1 else cs

/-- What a mailbag engine holds is discarded: mailbags under way, exchanges, the frames in its store and those it has kept to send again
(R368, R396). -/
def Dev.redDiscard (d : Dev) (p : Nat) : Dev :=
  let mine := d.bags.filter fun b => b.part = p ∧ b.active
  let d := { d with bags := d.bags.filter (fun b => !mine.contains b), exchs := d.exchs.filter (·.part ≠ p),
                    redEarly := d.redEarly.filter (·.part ≠ p), redSent := d.redSent.filter (·.part ≠ p) }
  (Dev.each d mine fun (d : Dev) (b : Bag) => d.redChanSync b.part b.chan b.ctx).redState p

/-- What an engine holds is discarded (R197, R224, R242, R269, R301, R396). -/
def Dev.engClear (d : Dev) (p node slot : Nat) : Dev :=
  let d := d.each (d.runs.filter fun r => r.part = p ∧ r.node = node ∧ r.slot = slot) Dev.dropRun
  let d := (d.engState p node slot 0).setWait p node slot 0
  if node < 12 ∧ slot < 4 then d.unpark p node slot
  else if node < 12 ∧ slot = 4 then (d.setBit (.frkStatus p node) 3 false).frkState p node
  else if node = 18 ∧ slot = 0 then d.redDiscard p
  else d

/-- Mask of a list of contexts. -/
def ctxMask (cs : List Nat) : Nat := (cs.eraseDups.map fun c => 2 ^ (c % 64)).sum

/-- The incident of an engine reset, by class. -/
def engInc (d : Dev) (r : EngReset) (cls : Nat) : Inc :=
  let k := slotKind r.node r.slot
  { cls := cls, eng := k.1, idx := k.2, die := dieOf r.part r.node, part := some r.part, named := r.named,
    ctx := (if r.named then (r.suspects.head?).map fun c => (c, (d.ctx c).gen) else none),
    d0 := r.node + r.slot * 32, d1 := ctxMask r.suspects }

def Dev.engBusy (d : Dev) (p : Nat) (b : Bool) : Dev := (d.setBit (.fltStatus p) 4 b).setBit (.fltEngReset p) 31 b

/-- A reset of the partition is in progress. -/
def inReset (d : Dev) (p : Nat) : Bool := d.partResets.any (·.part = p)

/-- A write of FLT_ENG_RESET with GO. -/
def execEngineReset (via : Via) (p node slot : Nat) (s : State) : Host.Outcome State Fault Refusal :=
  .next (s.onDev fun d => if 4 ≤ p then d else d.viaReg via .high (.fltEngReset p) (.engineReset via p node slot) fun d =>
    if d.bit (.fltStatus p) 4 then d else
    let n := node % 32
    let t := slot % 8
    let d := (d.setFld (.fltEngReset p) 4 0 n).setFld (.fltEngReset p) 7 5 t
    if slotCount n ≤ t then d else
    let d := d.engBusy p true
    let named := d.bit (.fltCtrl p) 0
    if inReset d p then
      let r : EngReset := ⟨p, n, t, [], false, false⟩
      { d with partResets := d.partResets.map fun k => if k.part = p then { k with absorbed := k.absorbed ++ [r] } else k }
    else
      let cs := suspects d p n t named
      let d := d.raiseFloor p
      let d := d.each (cs.filter fun c => (d.ctx c).state = 1) fun d c => d.genRequest c 2
      let r : EngReset := ⟨p, n, t, cs, named && cs ≠ [], false⟩
      { d.engClear p n t with engResets := d.engResets ++ [r] })

/-- The engine reset of a partition that is under way. -/
def engResetOf (d : Dev) (p : Nat) : Option EngReset := d.engResets.find? fun r => r.part = p ∧ !r.abandoned

/-- The reset is over when the advances that it asked for have been made (R396, R402). -/
def execEngineResetDone (p : Nat) (s : State) : Host.Outcome State Fault Refusal :=
  .next (s.onDev fun d => match engResetOf d p with
    | none => d
    | some r =>
      if d.advances.any fun a => a.2 = 2 ∧ r.suspects.contains a.1 then d else
      let d := { d with engResets := d.engResets.filter (· ≠ r) }.engClear p r.node r.slot
      let d := ((d.engBusy p false).addFld (.fltResets p) 15 0 1).raise (engInc d r 0x281)
      fnForce d (.engine p r.node r.slot))

/-- Quiesce is unfinished after 100 µs: the engine stays out until a partition reset. -/
def execEngineResetTimeout (p : Nat) (s : State) : Host.Outcome State Fault Refusal :=
  .next (s.onDev fun d => match engResetOf d p with
    | none => d
    | some r =>
      let d := { d with engResets := d.engResets.map fun k => if k = r then { k with abandoned := true } else k }
      ((d.engBusy p false).setBit (.fltStatus p) 5 true).raise (engInc d r 0x282))

/-! ### Partition reset (R389, R397, R398) -/

/-- Contexts whose generation a partition reset advances: a running letter with a stage there, or a stage parked there. -/
def resetCtxs (d : Dev) (p : Nat) : List Nat :=
  (((lettersIn d p).map (·.ctx)) ++ ((d.runs.filter fun r => r.part = p).map (·.ctx))).eraseDups.filter fun c => (d.ctx c).state = 1

/-- Steps that have run a stage in the partition, or have stash entries placed there, are spoiled (R306, R318). -/
def Dev.spoilPart (d : Dev) (p : Nat) : Dev :=
  d.each (List.range 64) fun d c =>
    if (mapGet d.stepParts c []).contains p ∨ d.stash.any fun e => e.1.1 = p ∧ e.1.2.1 = c ∧ e.2.base.isSome ∧ e.2.ovf = false then d.spoil c else d

/-- The cores stop (R389, R397): dirty lines are written back, or discarded when the domain is down. -/
def Dev.haltCores (d : Dev) (p : Nat) : Dev :=
  let mine := d.lines.filter (·.part = p)
  let d := if d.bit (.cohStatus p) 0 then d else d.each mine Dev.writeBack
  let d := { d with lines := d.lines.filter (·.part ≠ p) }
  d.each (List.range 48) fun d i =>
    let d := d.forgetHart (48 * p + i)
    if d.fld (.partCoreStatus p i) 1 0 = 1 then d.setFld (.partCoreStatus p i) 1 0 2 else d

/-- Tile SRAM: regions 2 to 5 (PIGEONHOLE, STASH, ROW_CACHE, CHANNEL_BUFFER) are zeroed, the rest of the tiles' windows and
the SRAM-tier objects are undefined (R156, R397). -/
def Dev.resetSram (d : Dev) (p : Nat) : Dev :=
  let (k, d) := d.draw
  let m := d.mem.undefine (windowBase p 0) (windowBase p 19) k
  let objs := d.objs.filter fun (o : Nat × Obj) => o.2.home = p ∧ o.2.tier = 1
  let m := objs.foldl (fun m o => m.undefine o.2.base (o.2.base + o.2.footprint) k) m
  let zs := (carves d p).filter fun r => 2 ≤ carveRegion r ∧ carveRegion r ≤ 5
  { d with mem := zs.foldl (fun m r => let b := windowBase p (carveNode r) + carveOff r; m.zero b (b + carveLen r)) m }

/-- Stash entries in the partition's STASH region become DROPPED (R318). -/
def Dev.dropStash (d : Dev) (p : Nat) : Dev :=
  { d with stash := d.stash.map fun (e : (Nat × Nat × Nat) × Stash) =>
      if e.1.1 = p ∧ e.2.base.isSome ∧ e.2.ovf = false then (e.1, { e.2 with base := none }) else e }.stashStatus p

/-- Engines, managers, caches and the directory are reset (R197, R269, R368, R397 step 5). -/
def Dev.resetDies (d : Dev) (p : Nat) : Dev :=
  let d := d.each ((List.range 19).flatMap fun n => (List.range (slotCount n)).map fun t => (n, t)) fun d e => d.engClear p e.1 e.2
  let d := { d with arrs := d.arrs.filter fun (e : (Nat × Nat × Nat) × ArrRun) => e.1.1 ≠ p,
                    parked := d.parked.filter fun (e : (Nat × Nat × Nat) × ArrRun) => e.1.1 ≠ p,
                    sums := d.sums.filter fun (e : (Nat × Nat × Nat) × List FV) => e.1.1 ≠ p,
                    delivs := d.delivs.filter (·.part ≠ p), rowCache := d.rowCache.filter (·.part ≠ p),
                    engResets := d.engResets.filter (·.part ≠ p) }
  let d := d.redDropPart p |>.each (List.range 8) fun d k => d.setReg (.redChan p k) 0#64
  (((d.dropReaders p).objectsReset p).dropStash p).redState p

/-- The partition's ports go down with it; what they held goes another way (R11, R351). -/
def Dev.resetPorts (d : Dev) (p : Nat) : Dev :=
  d.each [4 * p, 4 * p + 1, 4 * p + 2, 4 * p + 3] fun d n =>
    let d := if d.portState n = 6 then fnForce { d with ports := mapSet d.ports n { d.port n with replay := [], queue := [] } } (.port n) else d
    if d.portState n = 0 then d else
    (d.rewire fun d => ((d.setPortState n 1).setBit (.crrPortCtrl n) 1 false).requeue n true).clearSession n false

/-- Letters that an engine reset has stopped end with DETAIL 3 when a partition reset absorbs it (R394). -/
def Dev.absorb (d : Dev) (r : EngReset) : Dev :=
  { d with letters := d.letters.map fun (x : Letter) =>
      if r.suspects.contains x.ctx ∧ x.result = some (0x51, 2) then { x with result := some (0x51, 3) } else x }

/-- The incident of a partition reset. -/
def partInc (p cause mask : Nat) (complete : Bool) : Inc :=
  { cls := 0x283, eng := 0x20, die := dieOf p 19, part := some p, d0 := (if complete then 1 else 0) + cause * 2, d1 := mask }

/-- Steps 1 to 5 of R397. A reset of the partition that has come to its step 7, and meets the loss of the domain, begins anew (R388). -/
def Dev.partReset (d : Dev) (p cause : Nat) : Dev :=
  if d.partResets.any fun r => r.part = p ∧ r.fence then d else
  let old := (d.partResets.filter (·.part = p)).flatMap (·.absorbed)
  let d := { d with partResets := d.partResets.filter (·.part ≠ p) }.toActive
  let train := d.bit (.fltCtrl p) 2
  let d := ((d.setDown p true).setFld (.fltStatus p) 1 0 1).raise (partInc p cause 0 false)
  let d := (d.setBit (.fltCtrl p) 1 true).raiseFloor p
  let absorbed := old ++ (engResetOf d p).toList
  let cs := resetCtxs d p
  let d := d.spoilPart p
  let d := d.each cs fun d c => d.genRequest c 3
  let d := d.each absorbed Dev.absorb
  let d := (((d.haltCores p).resetDies p).resetSram p).resetPorts p
  { d.installFault p with partResets := d.partResets ++ [(⟨p, cause, train, true, cs, absorbed⟩ : PartReset)] }.release

/-- FLT_CTRL.PART_RESET, with TRAIN in the same write or before; or the reset that a domain's loss brings. -/
def execPartitionReset (via : Via) (p : Nat) (cause : ResetCause) (s : State) : Host.Outcome State Fault Refusal :=
  .next (s.onDev fun d => if 4 ≤ p then d else
    match cause with
    | .coherence => if d.bit (.cohStatus p) 0 ∧ !inReset d p then d.partReset p 2 else d
    | .training => d.viaReg via .high (.fltCtrl p) (.partitionReset via p cause) fun d => if inReset d p then d else (d.setBit (.fltCtrl p) 2 true).partReset p 3
    | .register => d.viaReg via .high (.fltCtrl p) (.partitionReset via p cause) fun d => if inReset d p then d else d.partReset p (if d.bit (.fltCtrl p) 2 then 3 else 1))

/-- The stacks of a partition have been trained anew (R417). -/
def Dev.forgetTraining (d : Dev) (p : Nat) : Dev :=
  { d with power := { d.power with trainedAt := d.power.trainedAt.filter fun (e : (Nat × Nat) × Nat) => e.1.1 ≠ p,
                                   sweeps := d.power.sweeps.filter fun (e : (Nat × Nat) × Nat) => e.1.1 ≠ p } }

/-- Channels that training has recovered; a partition with none lost any more is TRAINED (R145). -/
def Dev.retrainPart (d : Dev) (p : Nat) (recovered : List Nat) : Dev :=
  let was := d.degraded p
  let d := d.each recovered fun d n => d.setBit (.memChanLost p (n / 32 % 8)) (n % 32) false
  let d := { d.forgetTraining p with retrains := d.retrains.filter fun (r : Nat × Nat × Nat × Nat) => r.1 ≠ p }
  let d := d.each (List.range 8) fun d k => d.setBit (.memStackTemp p k) 10 false
  if (List.range 8).all (fun k => d.regN (.memChanLost p k) = 0) then
    let d := (d.setBit (.memStatus p) 1 false).setBit (.memStatus p) 0 true
    if was then
      let (k, d) := d.draw
      { d with mem := d.mem.undefine (slabBase p) (slabBase (p + 1)) k }
    else d
  else d

/-- The functions of a partition settle (R408). -/
def partFns (p : Nat) : List FnId :=
  .partition p :: ((List.range 64).map fun i => FnId.mailbox (64 * p + i)) ++
  (List.range 19).flatMap fun n => (List.range (slotCount n)).map fun t => FnId.engine p n t

/-- Letters that the partition's mailboxes had fetched end with RESET, DETAIL 3 (R397). -/
def Dev.resetMailboxes (d : Dev) (p : Nat) : Dev :=
  d.each (d.letters.filter fun x => x.id.mbx / 64 = p) fun d x =>
    let d := d.finish x.id 0x51 3
    let d := if x.result.isSome ∧ (x.bracket = 1 ∨ x.opcode = 0x11) then d.spoil x.ctx else d
    modifyLetter d x.id fun y => { y with result := some (0x51, 3) }

/-- The epoch that a die latches as it leaves reset (R88). -/
def epochNow (d : Dev) : Nat := match d.epochMarker with | some (e, _) => e | none => d.fld .gateEpoch 23 0

/-- The fence lifts, unless the partition is degraded; NAMED is set; its dies latch the epoch and its edges the table. -/
def Dev.leaveReset (d : Dev) (p : Nat) : Dev :=
  let stay := d.degraded p
  let d := (d.setFld (.fltStatus p) 1 0 (if stay then 2 else 0)).setDown p stay
  let d := d.setBit (.fltCtrl p) 0 true
  let e := epochNow d
  let d := { d with epochMarker := d.epochMarker.map fun (m : Nat × List Nat) => (m.1, m.2.filter fun n => n / 24 ≠ p) }
  (d.each (List.range 24) fun d i => d.latchEpoch (24 * p + i) e).edgesReturn p

def Dev.settleFns (d : Dev) (p : Nat) : Dev := d.each (partFns p) fnForce

def Dev.comeBack (d : Dev) (p : Nat) : Dev :=
  let d := (d.resetMailboxes p).each ((List.range 64).map (64 * p + ·)) Dev.mbxReady
  if d.trained p ∧ !d.degraded p then d.startHeldHarts p else d

/-- Step 6 of R397: the fence lifts, or stays because the partition is degraded. -/
def execPartitionFenceLifted (p : Nat) (recovered : List Nat) (s : State) : Host.Outcome State Fault Refusal :=
  .next (s.onDev fun d => match d.partResets.find? fun r => r.part = p ∧ r.fence with
    | none => d
    | some r =>
      let d := if r.train then d.retrainPart p recovered else d
      let d := { d with partResets := d.partResets.map fun k => if k = r then { k with fence := false } else k }
      (((d.leaveReset p).settleFns p).comeBack p).release)

/-- Step 7 of R397: the ports may train and open again, and the reset is complete; COH_STATUS.DOWN clears with it (R389). -/
def execPartitionResetComplete (p : Nat) (s : State) : Host.Outcome State Fault Refusal :=
  .next (s.onDev fun d => match d.partResets.find? fun r => r.part = p ∧ r.fence = false with
    | none => d
    | some r =>
      let d := { d with partResets := d.partResets.filter (· ≠ r) }
      let d := (((d.setBit (.fltCtrl p) 1 false).setBit (.cohStatus p) 0 false).setBit (.fltStatus p) 6 true).addFld (.fltResets p) 31 16 1
      let d := if r.absorbed = [] then d else d.engBusy p false
      d.raise (partInc p r.cause (ctxMask r.ctxs) true))

/-! ### Losing a domain (R388, R389) -/

/-- The domain goes down, and the partition is reset without software; a directory in reset meets nothing (R388, R389). -/
def Dev.domainDown (d : Dev) (p cause agent : Nat) : Dev :=
  if d.resetting p then d else
  let d := (d.setBit (.cohStatus p) 0 true).setFld (.cohStatus p) 2 1 cause
  let d := if cause = 2 then d.setFld (.cohStatus p) 13 8 agent else d
  let d := (d.count (.cohDowns p) 1).raise
    { cls := 0x181, eng := 0x11, die := dieOf p 19, part := some p, d0 := cause + (if cause = 2 then agent * 256 else 0) }
  d.partReset p 2

/-- An agent has not answered within 50 µs. -/
def execSnoopTimeout (p agent : Nat) (s : State) : Host.Outcome State Fault Refusal :=
  .next (s.onDev fun d => if 4 ≤ p ∨ 54 ≤ agent then d else d.domainDown p 2 agent)

/-- An error in the directory's own SRAM: corrected and counted, or the end of the domain. -/
def execDirectoryEccError (p : Nat) (corrected : Bool) (s : State) : Host.Outcome State Fault Refusal :=
  .next (s.onDev fun d =>
    if 4 ≤ p ∨ d.resetting p then d
    else if corrected then d.count (.cohDirEccCorr p) 1
    else d.domainDown p 1 0)

/-! ### Incident rings (R411, R459) -/

/-- A ring's registers do not meet R411. -/
def ringBad (d : Dev) (r : Option Nat) : Bool :=
  let b := d.regN (ringBase r)
  d.fld (ringCfg r) 3 0 < 6 || b % 64 ≠ 0 || b / 2 ^ 54 % 2 = 1 || 2 ^ 56 ≤ b

/-- Held records are written, in order, when their ring is first enabled. -/
def Dev.ringOpen (d : Dev) (r : Option Nat) : Dev :=
  let mine := d.incHeld.filter (·.1 = r)
  let d := { d with incSeen := true, incHeld := d.incHeld.filter (·.1 ≠ r) }
  let d := d.setFld .gateBoot 20 16 d.incHeld.length
  d.each mine fun d e => d.ringWrite r e.2

/-- A write of a ring's CFG with ENABLE. -/
def execIncidentRingEnable (via : Via) (ring : Option Nat) (value : W32) (s : State) : Host.Outcome State Fault Refusal :=
  .next (s.onDev fun d =>
    if ring.any (4 ≤ ·) then d else d.viaReg via .high (ringCfg ring) (.incidentRingEnable via ring value) fun d =>
      let on := d.bit (ringCfg ring) 16
      let d := ringCfgWrite d (ringCfg ring) value.toNat
      if on ∨ !bitN value.toNat 16 then d
      else if ringBad d ring then d.setBit (ringCfg ring) 17 true
      else (d.setBit (ringCfg ring) 16 true).ringOpen ring)

end Sys2Proof.Machine
end

