-- ==== Sys2Proof/Machine/Clerk.lean ====
section
/-! DEFINITION. Stack heat, retraining and lost channels (R141-R145), and the Clerk's loops (R417-R426, R430, R433). -/

namespace Sys2Proof.Machine

/-! ### Stacks (R141-R145) -/

/-- The refresh code of a temperature, given the code so far: 2 °C below a boundary steps back down (R141). -/
def refreshCode (was temp : Nat) : Nat :=
  let up := if temp < 85 then 0 else if temp < 95 then 1 else if temp ≤ 105 then 2 else 3
  let keep := if temp ≤ 83 then 0 else if temp ≤ 93 then 1 else if temp ≤ 103 then 2 else 3
  max up (min was keep)

def stackTemp (d : Dev) (p k : Nat) : Nat := d.fld (.memStackTemp p k) 7 0

def Dev.setStackTemp (d : Dev) (p k temp : Nat) : Dev :=
  (d.setFld (.memStackTemp p k) 9 8 (refreshCode (d.fld (.memStackTemp p k) 9 8) temp)).setFld (.memStackTemp p k) 7 0 temp

/-- A stack's temperature changes (R141). -/
def execStackTempChange (p k temp : Nat) (s : State) : Host.Outcome State Fault Refusal :=
  .next (s.onDev fun d => if 4 ≤ p ∨ 8 ≤ k then d else d.setStackTemp p k (min temp 255))

/-- A pseudo-channel of the stack retrains. -/
def stackBusy (d : Dev) (p k : Nat) : Bool := d.retrains.any fun r => r.1 = p ∧ r.2.1 = k

/-- Retraining starts (R144): one pseudo-channel per stack at a time. -/
def Dev.pcRetrain (d : Dev) (p k ch pc : Nat) : Dev :=
  if 4 ≤ p ∨ 8 ≤ k ∨ 32 ≤ ch ∨ 2 ≤ pc ∨ stackBusy d p k ∨ d.bit (.memChanLost p k) ch ∨ !(d.trained p || d.degraded p) then d else
  let d := { d with retrains := d.retrains ++ [(p, k, ch, pc)] }.setBit (.memStackTemp p k) 10 true
  d.addFld (.memRetrain p k) 15 0 1

def execPcRetrainStart (p k ch pc : Nat) (s : State) : Host.Outcome State Fault Refusal :=
  .next (s.onDev (·.pcRetrain p k ch pc))

/-- The retraining of a stack ends. -/
def Dev.pcRetrainEnd (d : Dev) (p k : Nat) : Dev :=
  { d with retrains := d.retrains.filter fun (r : Nat × Nat × Nat × Nat) => ¬ (r.1 = p ∧ r.2.1 = k) }.setBit (.memStackTemp p k) 10 false

/-- Retraining succeeds; lanes that were steered are counted, held accesses go on. -/
def execPcRetrainDone (p k lanes : Nat) (s : State) : Host.Outcome State Fault Refusal :=
  .next (s.onDev fun d => if stackBusy d p k then ((d.pcRetrainEnd p k).addFld (.memRetrain p k) 31 16 lanes).release else d)

/-- Retraining has not succeeded within 40 µs (R145). -/
def execChannelLost (p k : Nat) (s : State) : Host.Outcome State Fault Refusal :=
  .next (s.onDev fun d => match d.retrains.find? fun (r : Nat × Nat × Nat × Nat) => r.1 = p ∧ r.2.1 = k with
    | some r => ((d.pcRetrainEnd p k).loseChannel p k r.2.2.1).release
    | none => d)

/-! ### Throttling of stacked memory (R142, R422) -/

/-- The level in force: the lower of the power loop's and the thermal loop's. -/
def Dev.throttle (d : Dev) (p : Nat) : Dev :=
  let l := min (mapGet d.power.powerLevel p 8) (mapGet d.power.heatLevel p 8)
  (d.setFld (.memThrottle p) 3 0 l).setBit (.memStatus p) 2 (l < 8)

/-! ### The power loop (R421-R423) -/

def capW (d : Dev) : Nat := d.fld .pwrCap 15 0

/-- A mean, rounded down; 0 of nothing. -/
def mean (xs : List Nat) : Nat := xs.sum / xs.length

/-- Twice the fast power: the last two samples. -/
def fastTwice (d : Dev) : Nat :=
  match d.power.samples with
  | a :: b :: _ => a.1 + b.1
  | [a] => 2 * a.1
  | [] => 0

/-- The supply range of R424. -/
def Dev.supplyCheck (d : Dev) : Dev :=
  let out : Bool := d.power.millivolts < 40000 || 60000 < d.power.millivolts
  let was := d.power.supplyHold
  let d := { d with power := { d.power with supplyHold := out } }
  if out && !was then d.clerkRaise 0x305 (d.power.millivolts / 10) else d

/-- The limits of R418 apply to a partition; a supply at the voltage that they give is not capped. -/
def Dev.limitPart (d : Dev) (p : Nat) : Dev :=
  let v := goalMv d p
  if v < voltOf d p ∨ voltOf d p < leastMv d p then d.supply p v else d.markPart p

/-- The limits act in ACTIVE and in IDLE (R424); in DROWSE no partition runs. -/
def Dev.limitAll (d : Dev) : Dev := if powerState d = 2 then d else d.each (List.range 4) Dev.limitPart

/-- Every 10 µs: samples of the last 10 ms, the window power and its peak; supplies in motion have arrived (log entry 47). -/
def execPowerSample (watts millivolts : Nat) (parts : List Nat) (s : State) : Host.Outcome State Fault Refusal :=
  .next (s.onDev fun d =>
    if !d.power.clerk then d else
    let d := d.supplyRest
    let ss := ((watts, parts) :: d.power.samples).take 1000
    let w := mean (ss.map (·.1))
    let d := { d with power := { d.power with samples := ss, millivolts := millivolts } }
    let d := (d.setFld .pwrInput 15 0 w).setFld .pwrInput 31 16 (millivolts / 10)
    let d := if d.fld .pwrPeak 15 0 < w then d.setFld .pwrPeak 15 0 w else d
    let d := d.each (List.range 4) fun d p => d.setFld (.pwrPartPower p) 15 0 (mean (ss.map fun e => e.2.getD p 0))
    let d := d.supplyCheck
    if d.power.supplyHold then d.limitAll else d)

/-- Lower a partition by 10 mV for the cap. -/
def Dev.lowerCap (d : Dev) (p : Nat) : Dev :=
  if voltOf d p ≤ leastMv d p then d else
  let d := d.supply p (voltOf d p - 10)
  if voltOf d p < goalMv d p then (d.setBit (.pwrPartStatus p) 28 true).setRate p else d

/-- The lowest MEM_THROTTLE.LEVEL in force (R431). -/
def lowestLevel (d : Dev) : Nat := (List.range 4).foldl (fun m p => min m (d.fld (.memThrottle p) 3 0)) 8

def powerDetail (d : Dev) : Nat := fastTwice d / 2 % 2 ^ 16 + capW d * 2 ^ 16

/-- The least MEM_THROTTLE level that the power loop wants. -/
def leastLevel (d : Dev) : Nat := (List.range 4).foldl (fun m p => min m (mapGet d.power.powerLevel p 8)) 8

def Dev.levelStep (d : Dev) (up : Bool) : Dev :=
  d.each (List.range 4) fun d p =>
    let l := mapGet d.power.powerLevel p 8
    let l' := if up then min 8 (l + 1) else max 1 (l - 1)
    { d with power := { d.power with powerLevel := mapSet d.power.powerLevel p l' } }.throttle p

/-- The partition to be raised: the lowest below its R418 voltage, or below N0 nominal while it is at N0, the lowest number on a
tie. -/
def toRaise (d : Dev) : Option Nat :=
  let ps := (List.range 4).filter fun p => voltOf d p < goalMv d p
  ps.foldl (fun m p => match m with | some q => if voltOf d p < voltOf d q then some p else m | none => some p) none

/-- What R422 does. It lowers partitions of an ACTIVE module; where a reset's floor holds one above 0.56 V the others are lowered
(R420). -/
def Dev.capStep (d : Dev) : Dev :=
  let f := fastTwice d
  let cap := capW d
  if 2 * 98 * cap < 100 * f then
    if (List.range 4).any fun p => 560 < voltOf d p then (if powerState d = 0 then d.each (List.range 4) Dev.lowerCap else d)
    else
      let d := if leastLevel d > 1 then d.levelStep false else d
      if d.power.floorRaised then d
      else { d with power := { d.power with floorRaised := true } }.clerkRaise 0x301 (powerDetail d + lowestLevel d * 2 ^ 32)
  else if 100 * f ≤ 2 * 94 * cap then
    if leastLevel d < 8 then d.levelStep true
    else
      let d := { d with power := { d.power with floorRaised := false } }
      match toRaise d with
      | some p => d.supply p (min (goalMv d p) (voltOf d p + 10))
      | none => d
  else d

/-- POWER_CAPPED once capping begins; not again before 10 ms without it (R423). -/
def Dev.cappedCheck (d : Dev) : Dev :=
  if (List.range 4).any fun p => d.bit (.pwrPartStatus p) 28 then
    let raise := 500 ≤ d.power.uncapped
    let d := { d with power := { d.power with uncapped := 0 } }
    if raise then d.clerkRaise 0x300 (powerDetail d) else d
  else { d with power := { d.power with uncapped := min 500 (d.power.uncapped + 1) } }

/-- Every 20 µs. -/
def execPowerDecision (s : State) : Host.Outcome State Fault Refusal :=
  .next (s.onDev fun d =>
    if !d.power.clerk then d else
    let d := d.limitAll
    let d := if d.power.samples = [] ∨ powerState d = 2 then d else d.capStep
    d.limitAll.cappedCheck)

/-- A write of PWR_CAP is clamped (R421). -/
def execPwrCapWrite (via : Via) (value : W32) (s : State) : Host.Outcome State Fault Refusal :=
  .next (s.onDev fun d => d.viaReg via .power .pwrCap (.pwrCapWrite via value) fun d => d.setFld .pwrCap 15 0 (max 1000 (min 4000 (value.toNat % 2 ^ 16))))

/-! ### The thermal loop (R142, R424) -/

def heatTarget (d : Dev) : Nat := d.fld .thermCtrl 7 0

/-- A die's temperature, and the limit of 105 °C with its release at 103 °C. -/
def Dev.dieHeat (d : Dev) (n temp : Nat) : Dev :=
  let d := ((d.setFld (.thermDie n) 7 0 (min temp 255)).setBit (.thermDie n) 8 (heatTarget d < temp)).setBit (.thermDie n) 9 (105 < temp)
  let hot := d.power.hotDies.contains n
  if 105 < temp ∧ !hot then { d with power := { d.power with hotDies := n :: d.power.hotDies } }.clerkRaise 0x302 (n + min temp 255 * 256)
  else if temp ≤ 103 ∧ hot then { d with power := { d.power with hotDies := d.power.hotDies.filter (· ≠ n) } }
  else d

/-- The junction target: 10 mV less per period above it, released 2 °C below it. -/
def Dev.targetHeat (d : Dev) (p : Nat) : Dev :=
  let t := hotPart d p
  if heatTarget d < t then
    { d with power := { d.power with heatVolt := mapSet d.power.heatVolt p (max 560 (min (voltOf d p) (mapGet d.power.heatVolt p 1023) - 10)) } }
  else if t + 2 ≤ heatTarget d then { d with power := { d.power with heatVolt := mapErase d.power.heatVolt p } }
  else d

/-- A stack's temperature: STACK_HOT above 105 °C, again only after 103 °C. -/
def Dev.stackHeat (d : Dev) (p k temp : Nat) : Dev :=
  let d := d.setStackTemp p k (min temp 255)
  let n := 8 * p + k
  let hot := d.power.hotStacks.contains n
  if 105 < temp ∧ !hot then { d with power := { d.power with hotStacks := n :: d.power.hotStacks } }.clerkRaise 0x303 (p + k * 4 + min temp 255 * 256)
  else if temp ≤ 103 ∧ hot then { d with power := { d.power with hotStacks := d.power.hotStacks.filter (· ≠ n) } }
  else d

/-- The thermal level of a partition's stacked memory (R142). -/
def Dev.stackLevel (d : Dev) (p : Nat) : Dev :=
  let l := mapGet d.power.heatLevel p 8
  let l' := if (List.range 8).any fun k => 105 < stackTemp d p k then max 1 (l - 1)
    else if (List.range 8).all fun k => stackTemp d p k < 103 then min 8 (l + 1) else l
  { d with power := { d.power with heatLevel := mapSet d.power.heatLevel p l' } }.throttle p

/-- COOLANT once a minute, 600,000 thermal periods, while the inlet is out of 18 to 40 °C (R424, R485). -/
def Dev.coolant (d : Dev) (inlet outlet : Nat) : Dev :=
  let d := (d.setFld .thermCoolant 7 0 inlet).setFld .thermCoolant 15 8 outlet
  let beyond : Bool := 40 < inlet || inlet < 18 || (d.power.coolantHold ≠ 0 && 38 < inlet)
  let hold := fun (d : Dev) (n : Nat) => { d with power := { d.power with coolantHold := n } }
  if !beyond then hold d 0
  else if d.power.coolantHold ≤ 1 then (hold d 600000).clerkRaise 0x304 (inlet % 256 + outlet % 256 * 256)
  else hold d (d.power.coolantHold - 1)

/-- Every 100 µs: die temperatures by SRC_DIE, stack temperatures by 8 p + k, the coolant. -/
def execThermalLoop (dieTemps stackTemps : List Nat) (inlet outlet : Nat) (s : State) : Host.Outcome State Fault Refusal :=
  .next (s.onDev fun d =>
    if !d.power.clerk then d else
    let d := d.each (dieTemps.zipIdx.take 100) fun d e => d.dieHeat e.2 e.1
    let d := d.each (stackTemps.zipIdx.take 32) fun d e => d.stackHeat (e.2 / 8) (e.2 % 8) e.1
    let d := (d.each (List.range 4) fun d p => (d.targetHeat p).stackLevel p).coolant inlet outlet
    (d.each (List.range 4) Dev.setRate).limitAll)

/-- A write of THERM_CTRL is clamped (R424). -/
def execThermCtrlWrite (via : Via) (value : W32) (s : State) : Host.Outcome State Fault Refusal :=
  .next (s.onDev fun d => d.viaReg via .power .thermCtrl (.thermCtrlWrite via value) fun d => d.setFld .thermCtrl 7 0 (max 70 (min 95 (value.toNat % 256))))

/-- A comparator trips (R425): the cause is latched, the rails go, the tray controller is told. -/
def execThermalTrip (source temp : Nat) (s : State) : Host.Outcome State Fault Refusal :=
  .next (s.onDev fun d =>
    if !d.power.rails ∨ 132 ≤ source ∨ temp < (if source < 100 then 115 else 110) then d else
    let v := source + 2 ^ 8 + min temp 255 * 2 ^ 16
    ((d.setReg .thermTrip (BitVec.ofNat 64 v)).railsOff true).send (.tray 2 [v]))

/-! ### The activity loop (R419) -/

def Dev.setIdle (d : Dev) (p n : Nat) : Dev := { d with power := { d.power with idle := mapSet d.power.idle p n } }

/-- Every 100 µs: a partition whose engines have been idle for 1 ms goes to N0 nominal. -/
def execActivityLoop (s : State) : Host.Outcome State Fault Refusal :=
  .next (s.onDev fun d =>
    if !d.power.clerk ∨ powerState d ≠ 0 then d else
    d.each (List.range 4) fun d p =>
      if !enginesIdle d p true then d.setIdle p 0 else
      let n := min 10 (mapGet d.power.idle p 0 + 1)
      let d := d.setIdle p n
      if n = 10 ∧ !d.bit (.pwrPartStatus p) 30 then (d.setBit (.pwrPartStatus p) 30 true).toN0 p else d)

/-- A stage becomes ready in an idle partition. -/
def execIdlePartitionWake (p : Nat) (s : State) : Host.Outcome State Fault Refusal :=
  .next (s.onDev fun d =>
    if 4 ≤ p ∨ !d.power.clerk ∨ !d.bit (.pwrPartStatus p) 30 then d else
    ((d.setIdle p 0).setBit (.pwrPartStatus p) 30 false).supply p (r418 d p))

/-! ### Upkeep and reports (R417) -/

/-- The sweep of a drifted stack takes its next pseudo-channel. -/
def Dev.sweep (d : Dev) (p k : Nat) : Dev :=
  if stackBusy d p k then d else
  match mapGet? d.power.sweeps (p, k) with
  | some i =>
    if 64 ≤ i then { d with power := { d.power with sweeps := mapErase d.power.sweeps (p, k) } }
    else { d with power := { d.power with sweeps := mapSet d.power.sweeps (p, k) (i + 1) } }.pcRetrain p k (i / 2) (i % 2)
  | none => d

/-- Every 1 ms: a stack that has moved 20 °C since its last training is swept. -/
def execChannelUpkeep (s : State) : Host.Outcome State Fault Refusal :=
  .next (s.onDev fun d =>
    if !d.power.clerk then d else
    d.each ((List.range 32).map fun n => (n / 8, n % 8)) fun d pk =>
      let t := stackTemp d pk.1 pk.2
      let at_ := mapGet? d.power.trainedAt pk
      let note := fun (d : Dev) => { d with power := { d.power with trainedAt := mapSet d.power.trainedAt pk t } }
      if !(d.trained pk.1 || d.degraded pk.1) then d else
      match at_ with
      | none => note d
      | some u =>
        let d := if (u + 20 ≤ t ∨ t + 20 ≤ u) ∧ (mapGet? d.power.sweeps pk).isNone then
            { note d with power := { (note d).power with sweeps := mapSet d.power.sweeps pk 0 } } else d
        d.sweep pk.1 pk.2)

/-- Every 1 ms: a port with FEC errors over the last 100 ms retrains, one per partition at a time. More than 1 codeword
in 10⁵ is more than 312: 1.7 Tb/s in codewords of 5,440 bits (R340). -/
def execLinkUpkeep (s : State) : Host.Outcome State Fault Refusal :=
  .next (s.onDev fun d =>
    if !d.power.clerk then d else
    d.each (List.range 16) fun d n =>
      let now := (d.regN (.crrPortFecCorr n), d.regN (.crrPortFecUncorr n))
      let seen := mapGet d.power.fecSeen n []
      let old := (seen.getLast?).getD (0, 0)
      let bad := moved now.2 old.2 ≠ 0 || 312 < moved now.1 old.1
      let busy := (List.range 4).any fun k => d.portState (n / 4 * 4 + k) = 4
      let keep := fun (d : Dev) (l : List (Nat × Nat)) => { d with power := { d.power with fecSeen := mapSet d.power.fecSeen n l } }
      if bad && d.portState n = 3 && !busy then (keep d [now]).retrainPort n else keep d ((now :: seen).take 100))

/-- Every 1 ms: CLERK_RT. -/
def execDeadlineStatistics (s : State) : Host.Outcome State Fault Refusal :=
  .next (s.onDev fun d =>
    if !d.power.clerk then d else
    d.each (List.range 4) Dev.rtReport)

/-- Every 10 µs. -/
def execClerkHeartbeat (s : State) : Host.Outcome State Fault Refusal :=
  .next (s.onDev fun d => if d.power.clerk then d.wrap .clerkHeartbeat 1 else d)

/-- The Clerk stops, and supplies hold their values (R426). -/
def execClerkStop (s : State) : Host.Outcome State Fault Refusal :=
  .next (s.onDev fun d => { d with power := { d.power with clerk := false } }.supplyRest)

/-- CYCLE_REQUEST goes to the tray controller with its cause, whose coding the spec does not give (R430, log entry 61). -/
def Dev.cycleAsk (d : Dev) : Dev :=
  let (k, d) := d.draw
  d.send (.tray 1 [Config.cycleCause k])

/-- A write of CLERK_CYCLE_REQ (R430). -/
def execCycleRequest (via : Via) (value : W32) (s : State) : Host.Outcome State Fault Refusal :=
  .next (s.onDev fun d => d.viaReg via .power .clerkCycleReq (.cycleRequest via value) fun d => if value = 0xC7C1#32 ∧ d.power.clerk then d.cycleAsk else d)

end Sys2Proof.Machine
end

