-- ==== Sys2Proof/Machine/Manage.lean ====
section
/-! DEFINITION. Management over MCTP and PLDM (R429) and the SPDM responder (R447-R451). Message layouts are DMTF's, which
the spec names and does not give: operands and contents are the model's own (log entry 13). -/

namespace Sys2Proof.Machine

/-! ### MCTP and PLDM (R429, R457) -/

/-- The I3C target answers control messages as soon as the standby island is powered. -/
def execMctpControlMessage (msg : List Byte) (s : State) : Host.Outcome State Fault Refusal :=
  .next (s.onDev fun d => if d.power.standby then d.send (.tray 4 (msg.map (·.toNat))) else d)

/-- PLDM Type 0: the types that are supported. -/
def execPldmBaseDiscovery (_msg : List Byte) (s : State) : Host.Outcome State Fault Refusal :=
  .next (s.onDev fun d => if d.power.clerk then d.send (.tray 6 [0, 2, 5]) else d)

/-- The hottest junction or another reading of a PLDM sensor. Sensors are numbered by the model: 0 input voltage, 1 window
power; from 2, 6, 10 and 14 power, voltage, rate and hottest junction by partition; from 18 the stacks by 8 p + k; 50 and 51
the coolant; from 52 read-through parcels by partition; 56 the power state. -/
def sensorValue (d : Dev) (n : Nat) : Option Nat :=
  if n = 0 then some (d.fld .pwrInput 31 16)
  else if n = 1 then some (d.fld .pwrInput 15 0)
  else if n < 6 then some (d.fld (.pwrPartPower (n - 2)) 15 0)
  else if n < 10 then some (voltOf d (n - 6))
  else if n < 14 then some (d.fld (.pwrPartStatus (n - 10)) 27 16)
  else if n < 18 then some (hotPart d (n - 14))
  else if n < 50 then some (stackTemp d ((n - 18) / 8) ((n - 18) % 8))
  else if n = 50 then some (d.fld .thermCoolant 7 0)
  else if n = 51 then some (d.fld .thermCoolant 15 8)
  else if n < 56 then some (d.regN (.clerkRt (n - 52)))
  else if n = 56 then some (powerState d)
  else none

def execPldmSensorRead (sensor : Nat) (s : State) : Host.Outcome State Fault Refusal :=
  .next (s.onDev fun d => if d.power.clerk then d.send (.tray 7 (sensor :: (sensorValue d sensor).toList)) else d)

/-! ### SPDM -/

def Spdm.reset : Spdm := ⟨false, false, false, [], none⟩

def Dev.conn (d : Dev) (tr : Transport) : Spdm := mapGet d.spdm tr Spdm.reset
def Dev.setConn (d : Dev) (tr : Transport) (c : Spdm) : Dev := { d with spdm := mapSet d.spdm tr c }

/-- Response and error codes of SPDM. -/
def spdmError : Nat := 0x7F
def errInvalid : Nat := 1
def errUnexpected : Nat := 4
def errUnsupported : Nat := 7
def errNotReady : Nat := 0x42

def Dev.spdmFail (d : Dev) (tr : Transport) (code : Nat) : Dev := d.send (.spdm tr spdmError (natLe 1 code))

/-- ResponseNotReady with RDTExponent 12 and RDTM 2 (R451). -/
def Dev.spdmLater (d : Dev) (tr : Transport) : Dev := d.send (.spdm tr spdmError (natLe 1 errNotReady ++ natLe 1 12 ++ natLe 1 2))

/-- The responder is reachable: through DOE from gate ready, through I3C once the boot ROM has done its check (R457). -/
def spdmUp (d : Dev) (tr : Transport) : Bool :=
  match tr with
  | .doe => d.gateReady && !d.pcie.perst
  | .mctp => d.power.clerk || d.recovery

/-- A request joins the transcript. A requester that sends again has its last signature (R451). -/
def Dev.spdmTake (d : Dev) (tr : Transport) (msg : List Byte) (f : Dev → Dev) : Dev :=
  if !spdmUp d tr then d else
  let d := if d.signing = some tr then { d with signing := none } else d
  f (d.setConn tr { d.conn tr with transcript := (d.conn tr).transcript ++ msg })

/-- A request that needs the algorithms to have been negotiated. -/
def Dev.spdmReady (d : Dev) (tr : Transport) (msg : List Byte) (boot : Bool) (f : Dev → Dev) : Dev :=
  d.spdmTake tr msg fun d =>
    if d.recovery ∧ !boot then d.spdmFail tr errUnsupported
    else if !(d.conn tr).algs then d.spdmFail tr errUnexpected
    else f d

/-- VERSION 1.3; a new connection. -/
def execGetVersion (tr : Transport) (msg : List Byte) (s : State) : Host.Outcome State Fault Refusal :=
  .next (s.onDev fun d => d.spdmTake tr msg fun d =>
    (d.setConn tr { Spdm.reset with version := true, transcript := msg }).send (.spdm tr 0x04 (natLe 1 0x13)))

/-- CERT_CAP, CHAL_CAP, MEAS_CAP with signature; CTExponent 12. -/
def execGetCapabilities (tr : Transport) (msg : List Byte) (s : State) : Host.Outcome State Fault Refusal :=
  .next (s.onDev fun d => d.spdmTake tr msg fun d =>
    if !(d.conn tr).version then d.spdmFail tr errUnexpected else
    (d.setConn tr { d.conn tr with caps := true }).send (.spdm tr 0x61 (natLe 1 12 ++ natLe 4 0x16)))

/-- The one extended entry of each kind (R450): Registry ID PCI-SIG (3, as DSP0274 numbers it: PRESUMED, log entry 13), vendor ID, algorithm. -/
def extEntry : Nat × Nat × Nat := (3, 0x1FA7, 1)
def extBytes (e : Nat × Nat × Nat) : List Byte := natLe 1 e.1 ++ natLe 2 e.2.1 ++ natLe 2 e.2.2

/-- Both extended entries have to be offered (R450). -/
def execNegotiateAlgorithms (tr : Transport) (msg : List Byte) (extAsym extHash : List (Nat × Nat × Nat)) (s : State) :
    Host.Outcome State Fault Refusal :=
  .next (s.onDev fun d => d.spdmTake tr msg fun d =>
    if !(d.conn tr).caps then d.spdmFail tr errUnexpected
    else if !(extAsym.contains extEntry && extHash.contains extEntry) then d.spdmFail tr errInvalid
    else (d.setConn tr { d.conn tr with algs := true }).send (.spdm tr 0x63 (extBytes extEntry ++ extBytes extEntry)))

/-- Slot 0 alone, and the digest of its chain. -/
def execGetDigests (tr : Transport) (msg : List Byte) (s : State) : Host.Outcome State Fault Refusal :=
  .next (s.onDev fun d => d.spdmReady tr msg true fun d => d.send (.spdm tr 0x01 (natLe 1 1 ++ shake256 certChain)))

/-- A portion of the chain of slot 0, and what is left of it. -/
def execGetCertificate (tr : Transport) (msg : List Byte) (slot offset len : Nat) (s : State) : Host.Outcome State Fault Refusal :=
  .next (s.onDev fun d => d.spdmReady tr msg false fun d =>
    let n := certChain.length
    if slot ≠ 0 ∨ n ≤ offset then d.spdmFail tr errInvalid else
    let k := min len (n - offset)
    d.send (.spdm tr 0x02 (natLe 2 k ++ natLe 2 (n - offset - k) ++ slice certChain offset k)))

/-- A measurement by its SPDM index (R447): the DMTF value type with bit 7 for a raw value, and the value. -/
def measurement (d : Dev) (i : Nat) : Option (List Byte) :=
  let block := fun (t : Nat) (v : List Byte) => natLe 1 i ++ natLe 1 t ++ natLe 2 v.length ++ v
  if i = 1 then some (block 0 (d.meas 0))
  else if i = 2 ∨ i = 3 then some (block 1 (d.meas (i - 1)))
  else if 4 ≤ i ∧ i ≤ 7 then some (block 3 (d.meas (i - 1)))
  else if i = 8 then some (block 2 (d.meas 7))
  else if i = 9 then some (block 0x80 (((List.range 4).flatMap fun k => natLe 4 (d.regN (.secDieAuth k))).take 13))
  else if i = 10 then some (block 0x80 (natLe 4 (d.regN .secSvn)))
  else none

/-- What GET_MEASUREMENTS returns: 0 the number of them, 0xFF all, else one. -/
def measurements (d : Dev) (i : Nat) : Option (List Byte) :=
  if i = 0 then some (natLe 1 10)
  else if i = 0xFF then some ((List.range 10).flatMap fun k => (measurement d (k + 1)).getD [])
  else measurement d i

/-- A signed response: the signature covers the transcript, the snapshot and the nonce (R448). -/
def Dev.spdmSign (d : Dev) (tr : Transport) (r : SpdmSigned) : Dev :=
  let (k, d) := d.draw
  let (code, body) := match r with
    | .challenge => (0x03, shake256 certChain ++ nonce k)
    | .measurements i => (0x60, (measurements d i).getD [] ++ nonce k)
  let sig := Config.falconSign dieGate k (shake256 ((d.conn tr).transcript ++ body))
  { d.setConn tr { d.conn tr with deferred := none } with signing := some tr }.send (.spdm tr code (body ++ sig))

/-- The signing unit serves one transport at a time: while the other's signature is in progress (its end is a free value), the
request is deferred (R451). -/
def Dev.spdmSigned (d : Dev) (tr : Transport) (r : SpdmSigned) : Dev :=
  if d.signing.isNone then d.spdmSign tr r else
  let (k, d) := d.draw
  if Config.signed k then d.spdmSign tr r else (d.setConn tr { d.conn tr with deferred := some r }).spdmLater tr

def execChallenge (tr : Transport) (msg : List Byte) (slot : Nat) (s : State) : Host.Outcome State Fault Refusal :=
  .next (s.onDev fun d => d.spdmReady tr msg false fun d =>
    if slot ≠ 0 then d.spdmFail tr errInvalid else d.spdmSigned tr .challenge)

def execGetMeasurements (tr : Transport) (msg : List Byte) (index : Nat) (sign : Bool) (s : State) : Host.Outcome State Fault Refusal :=
  .next (s.onDev fun d => d.spdmReady tr msg false fun d =>
    match measurements d index with
    | none => d.spdmFail tr errInvalid
    | some b => if sign then d.spdmSigned tr (.measurements index) else d.send (.spdm tr 0x60 b))

/-- The deferred response, once the other transport's signature is done. -/
def execRespondIfReady (tr : Transport) (_msg : List Byte) (ready : Bool) (s : State) : Host.Outcome State Fault Refusal :=
  .next (s.onDev fun d =>
    if !spdmUp d tr then d
    else if d.recovery then d.spdmFail tr errUnsupported
    else match (d.conn tr).deferred with
      | none => d.spdmFail tr errUnexpected
      | some r => if d.signing.isSome ∧ !ready then d.spdmLater tr else d.spdmSign tr r)

/-- Sessions, key exchange, CSR, SET_CERTIFICATE, mutual authentication and the rest. -/
def execSpdmUnsupportedRequest (tr : Transport) (msg : List Byte) (s : State) : Host.Outcome State Fault Refusal :=
  .next (s.onDev fun d => d.spdmTake tr msg (·.spdmFail tr errUnsupported))

end Sys2Proof.Machine
end

