-- ==== Sys2Proof/Machine/Mmio.lean ====
section
/-! DEFINITION. Register writes that reach a register by its address (R7, R31, R32, R488-R491, R500): the part that plain bits
take, and the command of the register's own row. Writes of engines and cores are posted and act here (log entry 12). -/

namespace Sys2Proof.Machine

/-- The state that a command leaves. -/
def after (s : State) (o : Host.Outcome State Fault Refusal) : State :=
  match o with
  | .next t => t
  | _ => s

/-- The commands of the rows that a write of x to a register performs: registers whose writes are rows, and bits that act when
1 is written (W1S). `k` is a free number: how much of a drain had left when an array was preempted. What SEC_OP finds in commander
memory is free too: no operand of a register's write brings it. -/
def rowCmds (d : Dev) (v : Via) (r : Reg) (size x k : Nat) : List Instr :=
  let w := BitVec.ofNat 32 x
  let on := fun (b : Nat) (i : Instr) => if bitN x b then [i] else []
  match r with
  | .gateApertureBase => [.gateApertureBaseWrite v w]
  | .gateMmioWindow => [.gateMmioWindowWrite v w]
  | .structModuleNumber => [.structModuleNumberWrite v w]
  | .structCtrl => on 4 (.structGo v (x % 16)) ++ on 5 (.structAbort v)
  | .gateEpoch => [.gateEpochWrite v w]
  | .gateReset => [.chipReset v w]
  | .gateCtxReset => on 31 (.contextReset v (x % 64))
  | .gateIncRingCfg => on 16 (.incidentRingEnable v none w)
  | .fltRingCfg p => on 16 (.incidentRingEnable v (some p) w)
  | .clerkCycleReq => [.cycleRequest v w]
  | .pwrCap => [.pwrCapWrite v w]
  | .thermCtrl => [.thermCtrlWrite v w]
  | .pwrStateReq => on 31 (match x % 4 with
    | 0 => .pwrRequestActive v
    | 1 => .pwrRequestIdle v
    | 2 => .pwrRequestDrowse v
    | _ => .pwrRequestOff v)
  | .secOpCtrl => match x % 8 with
    | 1 => on 31 (let b := secFree d; if field ((secFetch d b).getD []) 4 1 = 2 then .anchorRevoke v b else .anchorAdd v b)
    | 3 => on 31 (.fwWrite v (secFree d))
    | 4 => on 31 (.svnCommit v)
    | _ => []
  | .mbxDoorbell n => [.doorbell (.mmio v n) size (BitVec.ofNat 64 x)]
  | .mbxCtrl n => (if bitN x 0 then .mbxEnable v n else .mbxDisable v n) :: on 1 (.mbxArm v n)
  | .memSegIset p => [.memSegIsetWrite v p w]
  | .crrPortCtrl n => .crrPortEnableWrite v n (bitN x 0) :: on 1 (.retrain v n)
  | .partCoreCtrl p i => [if bitN x 0 then .partCoreRun v p i else .partCoreHold v p i]
  | .hallRtCtrl p => on 0 (.hallRtClear v p)
  | .arrCtrl p t a => on 0 (.preempt v p t a (k % 128))
  | .frkCtrl p t => on 0 (.frkClearCounts v p t)
  | .vecCtrl p t => on 0 (.vecClearCounts v p t)
  | .attCtrl p t => on 0 (.attClearCounts v p t)
  | .embCtrl p t => on 0 (.embClearCounts v p t) ++ on 1 (.cacheInval v p t)
  | .redCtrl p => on 0 (.redClearCounts v p)
  | .fltCtrl p => on 1 (.partitionReset v p .register)
  | .fltEngReset p => on 31 (.engineReset v p (x % 32) (x / 32 % 8))
  | _ => []

/-- A command of `rowCmds`, run. -/
def runRow (i : Instr) (s : State) : State :=
  after s (match i with
  | .gateApertureBaseWrite v w => execGateApertureBaseWrite v w s
  | .gateMmioWindowWrite v w => execGateMmioWindowWrite v w s
  | .structModuleNumberWrite v w => execStructModuleNumberWrite v w s
  | .structGo v m => execStructGo v m s
  | .structAbort v => execStructAbort v s
  | .gateEpochWrite v w => execGateEpochWrite v w s
  | .chipReset v w => execChipReset v w s
  | .contextReset v c => execContextReset v c s
  | .incidentRingEnable v r w => execIncidentRingEnable v r w s
  | .cycleRequest v w => execCycleRequest v w s
  | .pwrCapWrite v w => execPwrCapWrite v w s
  | .thermCtrlWrite v w => execThermCtrlWrite v w s
  | .pwrRequestActive v => execPwrRequestActive v s
  | .pwrRequestIdle v => execPwrRequestIdle v s
  | .pwrRequestDrowse v => execPwrRequestDrowse v s
  | .pwrRequestOff v => execPwrRequestOff v s
  | .anchorAdd v b => execAnchorAdd v b s
  | .anchorRevoke v b => execAnchorRevoke v b s
  | .fwWrite v b => execFwWrite v b s
  | .svnCommit v => execSvnCommit v s
  | .doorbell b n x => execDoorbell b n x s
  | .mbxEnable v n => execMbxEnable v n s
  | .mbxDisable v n => execMbxDisable v n s
  | .mbxArm v n => execMbxArm v n s
  | .memSegIsetWrite v p w => execMemSegIsetWrite v p w s
  | .crrPortEnableWrite v n e => execCrrPortEnableWrite v n e s
  | .retrain v n => execRetrain v n s
  | .partCoreRun v p k => execPartCoreRun v p k s
  | .partCoreHold v p k => execPartCoreHold v p k s
  | .hallRtClear v p => execHallRtClear v p s
  | .preempt v p t a row => execPreempt v p t a row s
  | .frkClearCounts v p t => execFrkClearCounts v p t s
  | .vecClearCounts v p t => execVecClearCounts v p t s
  | .attClearCounts v p t => execAttClearCounts v p t s
  | .embClearCounts v p t => execEmbClearCounts v p t s
  | .cacheInval v p t => execCacheInval v p t s
  | .redClearCounts v p => execRedClearCounts v p s
  | .partitionReset v p c => execPartitionReset v p c s
  | .engineReset v p n k => execEngineReset v p n k s
  | .imsicSetipnum v h f x => execImsicSetipnum v h f x s
  | _ => .next s)

/-- One more command of one write: the write has crossed the offices and is acknowledged already. -/
def runQuiet (v : Via) (off len : Nat) (s : State) (i : Instr) : State :=
  let t := runRow i s
  let a := mmioBase + off
  let k : Reg := .sortPortBytes (5 * (a / 2048 % 2) + mmioPort off)
  let d := if t.dev.reg k = s.dev.reg k + BitVec.ofNat 64 len then t.dev.setReg k (s.dev.reg k) else t.dev
  let n := s.dev.out.length
  { t with dev := { d with out := d.out.take n ++ (d.out.drop n).filter fun o => !(viaAck v).contains o } }

/-- The write is admitted and reaches its register at once. -/
def admitted (d : Dev) (v : Via) (off len : Nat) : Bool :=
  grant d v (guardAt off) (off < 0x100000) = .yes && !barBlocked d v &&
  match (crossing d (viaPort v) (mmioPort off) (mmioBase + off) len true).1 with
  | .ok _ => true
  | .error (.wait _) => false
  | .error _ => v = .bar4

/-- A register write at MMIO offset `off`: its plain bits, then the commands of its row; a cleared overflow pointer is looked
at again (R339). A doorbell of another size, or that begins within the register, is one of a bad size (R111). -/
def State.writeReg (i : Instr) (v : Via) (off size : Nat) (x : W64) (s : State) : State :=
  let t := s.onDev fun d => d.via v (guardAt off) off size i fun d => d.mmioTake off size x.toNat
  match Reg.ofOffset off with
  | some (r, b) =>
    let bell := match r with | .mbxDoorbell _ => true | _ => false
    if !admitted s.dev v off size ∨ !(bell || sizeOk r b size && b = 0) ∨ blockDark s.dev off true then t else
    match r with
    | .hallStashOvf p => t.onDev (·.stashStatus p)
    | _ => (rowCmds s.dev v r (if b = 0 then size else 0) (x.toNat % 2 ^ (8 * size)) (Config.freeSlot s.dev.tick)).foldl (runQuiet v off size) t
  | none => t

/-- The requester of a write. -/
def viaOf : Instr → Option Via
  | .registerWrite v _ _ _ => some v
  | .doorbell (.mmio v _) _ _ => some v
  | .doorbell (.bar0 _ _) _ _ => some .bar0
  | .gateApertureBaseWrite v _ | .gateMmioWindowWrite v _ | .structModuleNumberWrite v _ | .structGo v _ | .structAbort v
  | .gateEpochWrite v _ | .chipReset v _ | .contextReset v _ | .incidentRingEnable v _ _ | .cycleRequest v _ | .pwrCapWrite v _
  | .thermCtrlWrite v _ | .pwrRequestActive v | .pwrRequestIdle v | .pwrRequestDrowse v | .pwrRequestOff v | .anchorAdd v _
  | .anchorRevoke v _ | .fwWrite v _ | .svnCommit v | .mbxEnable v _ | .mbxDisable v _ | .mbxArm v _ | .memSegIsetWrite v _ _
  | .crrPortEnableWrite v _ _ | .retrain v _ | .partCoreRun v _ _ | .partCoreHold v _ _ | .hallRtClear v _ | .preempt v _ _ _ _
  | .frkClearCounts v _ _ | .vecClearCounts v _ _ | .attClearCounts v _ _ | .embClearCounts v _ _ | .cacheInval v _ _
  | .redClearCounts v _ | .partitionReset v _ _ | .engineReset v _ _ _ | .imsicSetipnum v _ _ _ => some v
  | _ => none

/-- A write that was posted acts: a register's, or one that an office had held. -/
def runWrite (i : Instr) (s : State) : State :=
  match i with
  | .registerWrite v off size x => s.writeReg i v off size x
  | _ => runRow i s

/-- A write of the commander's that an office had held goes on: those behind it, which are held still, do not stop it (R375). -/
def runPosted (i : Instr) (s : State) : State :=
  if !((viaOf i).any fun v => v = .bar0 || v = .bar4) ∨ !barWait s.dev then runWrite i s else
  let old := s.dev.held
  let t := runWrite i { s with dev := { s.dev with held := old.filter fun (h : Held) => !h.isBar } }
  t.onDev fun d => { d with held := old.filter (fun (h : Held) => h.isBar || d.held.contains h) ++ d.held.filter fun h => !old.contains h }.release

/-- Posted writes act in their order, with those that they cause. -/
def settle : Nat → State → State
  | 0, s => s
  | k + 1, s => match s.dev.posted with
    | [] => s
    | i :: is => settle k (runPosted i { s with dev := { s.dev with posted := is } })

/-- A command that began in s, and then the writes that it has posted. -/
def settled (s : State) (o : Host.Outcome State Fault Refusal) : Host.Outcome State Fault Refusal :=
  match o with
  | .next t =>
    let n := s.dev.posted.length
    let u := settle 4096 { t with dev := { t.dev with posted := t.dev.posted.drop n } }
    .next { u with dev := { u.dev with posted := t.dev.posted.take n ++ u.dev.posted } }
  | o => o

/-- A write of a register by its address: access type, privilege and reset-domain rules, and the row's own command (R7, R31,
R32, R488-R491, R500). `addr` is the offset in the BAR, or the MMIO offset for the other requesters; a doorbell page of BAR0
takes a doorbell (R37). -/
def execRegisterWrite (via : Via) (addr size : Nat) (value : W64) (s : State) : Host.Outcome State Fault Refusal :=
  match barTarget s.dev via addr with
  | some off => settled s (.next (s.writeReg (.registerWrite via off size value) via off size value))
  | none => if via = .bar0 ∧ addr < 0x100000 ∧ !s.dev.recovery then execDoorbell (.bar0 (addr / 4096) (addr % 4096)) size value s else .next s

/-- An access of a resident core (R379, R387). The core's own translation and pipeline are not part of the block. -/
def execCoreAccess (hart : Nat) (mode : CoreMode) (addr : Nat) (op : CoreOp) (s : State) : Host.Outcome State Fault Refusal :=
  settled s (.next (s.onDev fun d => if 192 ≤ hart then d else d.take (.core hart mode addr op)))

/-- An access arrives at a sorting office (R24). -/
def execSortingOfficeRequest (x : Nat) (r : SortReq) (s : State) : Host.Outcome State Fault Refusal :=
  settled s (.next (s.onDev fun d => if 2 ≤ x then d else d.take (.office x r)))

/-- Install of the present target completes: held writes go on (R71, R72). -/
def execStructInstallDone (error : Bool) (s : State) : Host.Outcome State Fault Refusal := settled s (installDone error s)

/-- A partition's structure tables meet an error (R73). -/
def execStructureTableError (p : Nat) (s : State) : Host.Outcome State Fault Refusal := settled s (tableError p s)

/-- Every store of a letter is complete, register writes in flight among them, and its receipt is written (R122, R123). -/
def execLetterComplete (l : LetterId) (s : State) : Host.Outcome State Fault Refusal :=
  let u := settle 4096 s
  settled u (letterEnds l u)

end Sys2Proof.Machine
end

