-- ==== Sys2Proof/Machine/Dispatch.lean ====
section
/-! DEFINITION. One arm per command: the command's effect on everything but the queue. -/

namespace Sys2Proof.Machine

def exec (i : Instr) (s : State) : Host.Outcome State Fault Refusal :=
  match i with
  | .input48vGood straps => Sys2Proof.Machine.execInput48vGood straps s
  | .pwrEnAssert lowMs => Sys2Proof.Machine.execPwrEnAssert lowMs s
  | .pwrEnDeassert => Sys2Proof.Machine.execPwrEnDeassert s
  | .undervoltageRemoval => Sys2Proof.Machine.execUndervoltageRemoval s
  | .overvoltageRemoval => Sys2Proof.Machine.execOvervoltageRemoval s
  | .inputOverloadRemoval => Sys2Proof.Machine.execInputOverloadRemoval s
  | .standbyIslandLoss => Sys2Proof.Machine.execStandbyIslandLoss s
  | .firmwareBootDone => Sys2Proof.Machine.execFirmwareBootDone s
  | .gateSectionLoaded => Sys2Proof.Machine.execGateSectionLoaded s
  | .dieAuthenticationDone passed => Sys2Proof.Machine.execDieAuthenticationDone passed s
  | .gateReady => Sys2Proof.Machine.execGateReady s
  | .portLinkTrained port => Sys2Proof.Machine.execPortLinkTrained port s
  | .stackTrainingDone p lost => Sys2Proof.Machine.execStackTrainingDone p lost s
  | .pcieConfigRequest op => Sys2Proof.Machine.execPcieConfigRequest op s
  | .functionLevelReset => Sys2Proof.Machine.execFunctionLevelReset s
  | .perstAssert => Sys2Proof.Machine.execPerstAssert s
  | .perstDeassert => Sys2Proof.Machine.execPerstDeassert s
  | .bar2Read off req => Sys2Proof.Machine.execBar2Read off req s
  | .bar2Write off data => Sys2Proof.Machine.execBar2Write off data s
  | .registerWrite via addr size value => Sys2Proof.Machine.execRegisterWrite via addr size value s
  | .gateApertureBaseWrite via value => Sys2Proof.Machine.execGateApertureBaseWrite via value s
  | .gateMmioWindowWrite via value => Sys2Proof.Machine.execGateMmioWindowWrite via value s
  | .msixUnmask what => Sys2Proof.Machine.execMsixUnmask what s
  | .hostReadCompletion tag status data => Sys2Proof.Machine.execHostReadCompletion tag status data s
  | .hostReadTimeout tag => Sys2Proof.Machine.execHostReadTimeout tag s
  | .sortingOfficeRequest x r => Sys2Proof.Machine.execSortingOfficeRequest x r s
  | .memoryRequest r => Sys2Proof.Machine.execMemoryRequest r s
  | .coreAccess hart mode addr op => Sys2Proof.Machine.execCoreAccess hart mode addr op s
  | .directoryRequest p line r => Sys2Proof.Machine.execDirectoryRequest p line r s
  | .snoopHoldExpire p agent line => Sys2Proof.Machine.execSnoopHoldExpire p agent line s
  | .snoopTimeout p agent => Sys2Proof.Machine.execSnoopTimeout p agent s
  | .directoryEccError p corrected => Sys2Proof.Machine.execDirectoryEccError p corrected s
  | .imsicSetipnum via hart file ident => Sys2Proof.Machine.execImsicSetipnum via hart file ident s
  | .partCoreRun via p idx => Sys2Proof.Machine.execPartCoreRun via p idx s
  | .partCoreHold via p idx => Sys2Proof.Machine.execPartCoreHold via p idx s
  | .structGo via mask => Sys2Proof.Machine.execStructGo via mask s
  | .structAbort via => Sys2Proof.Machine.execStructAbort via s
  | .structModuleNumberWrite via value => Sys2Proof.Machine.execStructModuleNumberWrite via value s
  | .structFetchStart => Sys2Proof.Machine.execStructFetchStart s
  | .structFetchDone image error => Sys2Proof.Machine.execStructFetchDone image error s
  | .structVerifyDone => Sys2Proof.Machine.execStructVerifyDone s
  | .structValidateDone => Sys2Proof.Machine.execStructValidateDone s
  | .structCheckDone => Sys2Proof.Machine.execStructCheckDone s
  | .structInstallDone error => Sys2Proof.Machine.execStructInstallDone error s
  | .gateEpochWrite via value => Sys2Proof.Machine.execGateEpochWrite via value s
  | .epochMarkerArrive die => Sys2Proof.Machine.execEpochMarkerArrive die s
  | .epochMarkerDone => Sys2Proof.Machine.execEpochMarkerDone s
  | .doorbell src size value => Sys2Proof.Machine.execDoorbell src size value s
  | .letterFetch n slots error => Sys2Proof.Machine.execLetterFetch n slots error s
  | .letterFetchRetry n slots error => Sys2Proof.Machine.execLetterFetchRetry n slots error s
  | .mbxEnable via n => Sys2Proof.Machine.execMbxEnable via n s
  | .mbxDisable via n => Sys2Proof.Machine.execMbxDisable via n s
  | .mbxArm via n => Sys2Proof.Machine.execMbxArm via n s
  | .runRoute l => Sys2Proof.Machine.execRunRoute l s
  | .lodge l => Sys2Proof.Machine.execLodge l s
  | .unlodge l => Sys2Proof.Machine.execUnlodge l s
  | .promote l => Sys2Proof.Machine.execPromote l s
  | .evict l => Sys2Proof.Machine.execEvict l s
  | .promoteCopyDone obj => Sys2Proof.Machine.execPromoteCopyDone obj s
  | .evictWritebackDone obj => Sys2Proof.Machine.execEvictWritebackDone obj s
  | .copy l => Sys2Proof.Machine.execCopy l s
  | .fence l => Sys2Proof.Machine.execFence l s
  | .seal l => Sys2Proof.Machine.execSeal l s
  | .stepBegin l => Sys2Proof.Machine.execStepBegin l s
  | .stepUpdate l => Sys2Proof.Machine.execStepUpdate l s
  | .stepCommit l => Sys2Proof.Machine.execStepCommit l s
  | .stepAbort l => Sys2Proof.Machine.execStepAbort l s
  | .evalBegin l => Sys2Proof.Machine.execEvalBegin l s
  | .evalEnd l => Sys2Proof.Machine.execEvalEnd l s
  | .ctxOpen l => Sys2Proof.Machine.execCtxOpen l s
  | .ctxTear l => Sys2Proof.Machine.execCtxTear l s
  | .fnEnable l => Sys2Proof.Machine.execFnEnable l s
  | .fnDisable l => Sys2Proof.Machine.execFnDisable l s
  | .crrPortEnableWrite via port enable => Sys2Proof.Machine.execCrrPortEnableWrite via port enable s
  | .fnTransitionDone fn => Sys2Proof.Machine.execFnTransitionDone fn s
  | .note l => Sys2Proof.Machine.execNote l s
  | .letterComplete l => Sys2Proof.Machine.execLetterComplete l s
  | .memSegIsetWrite via p value => Sys2Proof.Machine.execMemSegIsetWrite via p value s
  | .stackTempChange p k temp => Sys2Proof.Machine.execStackTempChange p k temp s
  | .pcRetrainStart p k ch pc => Sys2Proof.Machine.execPcRetrainStart p k ch pc s
  | .pcRetrainDone p k lanes => Sys2Proof.Machine.execPcRetrainDone p k lanes s
  | .channelLost p k => Sys2Proof.Machine.execChannelLost p k s
  | .deliveryIssue l p record n => Sys2Proof.Machine.execDeliveryIssue l p record n s
  | .deliveryParcelLanded l p record idx => Sys2Proof.Machine.execDeliveryParcelLanded l p record idx s
  | .windowStageReady l stage => Sys2Proof.Machine.execWindowStageReady l stage s
  | .hallRtClear via p => Sys2Proof.Machine.execHallRtClear via p s
  | .arrayStageStart l stage => Sys2Proof.Machine.execArrayStageStart l stage s
  | .arrayBlock p t a => Sys2Proof.Machine.execArrayBlock p t a s
  | .arrayPassEnd p t a => Sys2Proof.Machine.execArrayPassEnd p t a s
  | .arrayDrainDone p t a => Sys2Proof.Machine.execArrayDrainDone p t a s
  | .drainTokenArrive p t a => Sys2Proof.Machine.execDrainTokenArrive p t a s
  | .preempt via p t a row => Sys2Proof.Machine.execPreempt via p t a row s
  | .arrayPreemption p t a l stage row => Sys2Proof.Machine.execArrayPreemption p t a l stage row s
  | .arrayResume p t a => Sys2Proof.Machine.execArrayResume p t a s
  | .arrayParityError p t a draining => Sys2Proof.Machine.execArrayParityError p t a draining s
  | .frankerParcel l stage => Sys2Proof.Machine.execFrankerParcel l stage s
  | .frankerEccError p t corrected => Sys2Proof.Machine.execFrankerEccError p t corrected s
  | .frkClearCounts via p t => Sys2Proof.Machine.execFrkClearCounts via p t s
  | .vectorStageStart l stage => Sys2Proof.Machine.execVectorStageStart l stage s
  | .vectorElementGroup l stage => Sys2Proof.Machine.execVectorElementGroup l stage s
  | .vectorEccError p t corrected => Sys2Proof.Machine.execVectorEccError p t corrected s
  | .vecClearCounts via p t => Sys2Proof.Machine.execVecClearCounts via p t s
  | .attForward l stage => Sys2Proof.Machine.execAttForward l stage s
  | .attBackward l stage => Sys2Proof.Machine.execAttBackward l stage s
  | .attAppend l stage => Sys2Proof.Machine.execAttAppend l stage s
  | .attFork l stage => Sys2Proof.Machine.execAttFork l stage s
  | .attRelease l stage => Sys2Proof.Machine.execAttRelease l stage s
  | .attPoolInit l stage => Sys2Proof.Machine.execAttPoolInit l stage s
  | .attentionEccError p t corrected => Sys2Proof.Machine.execAttentionEccError p t corrected s
  | .attClearCounts via p t => Sys2Proof.Machine.execAttClearCounts via p t s
  | .split l stage => Sys2Proof.Machine.execSplit l stage s
  | .sort l stage => Sys2Proof.Machine.execSort l stage s
  | .gatherPool l stage => Sys2Proof.Machine.execGatherPool l stage s
  | .combine l stage => Sys2Proof.Machine.execCombine l stage s
  | .scatter l stage => Sys2Proof.Machine.execScatter l stage s
  | .adagrad l stage => Sys2Proof.Machine.execAdagrad l stage s
  | .adam l stage => Sys2Proof.Machine.execAdam l stage s
  | .recover l stage => Sys2Proof.Machine.execRecover l stage s
  | .cacheInval via p t => Sys2Proof.Machine.execCacheInval via p t s
  | .cacheInvalApply p t => Sys2Proof.Machine.execCacheInvalApply p t s
  | .embClearCounts via p t => Sys2Proof.Machine.execEmbClearCounts via p t s
  | .embeddingEccError p t corrected => Sys2Proof.Machine.execEmbeddingEccError p t corrected s
  | .tieSum l stage => Sys2Proof.Machine.execTieSum l stage s
  | .updateLocalDone ctx => Sys2Proof.Machine.execUpdateLocalDone ctx s
  | .normPartialReceive ctx gen step m value => Sys2Proof.Machine.execNormPartialReceive ctx gen step m value s
  | .updateDoneReceive m ctx step skipped norm => Sys2Proof.Machine.execUpdateDoneReceive m ctx step skipped norm s
  | .abortReqReceive m ctx step => Sys2Proof.Machine.execAbortReqReceive m ctx step s
  | .commitReceive port ctx step => Sys2Proof.Machine.execCommitReceive port ctx step s
  | .abortReceive port ctx step => Sys2Proof.Machine.execAbortReceive port ctx step s
  | .commitActionsDone ctx => Sys2Proof.Machine.execCommitActionsDone ctx s
  | .abortActionsDone ctx => Sys2Proof.Machine.execAbortActionsDone ctx s
  | .mailbagGrad l stage => Sys2Proof.Machine.execMailbagGrad l stage s
  | .mailbagSend l stage => Sys2Proof.Machine.execMailbagSend l stage s
  | .phaseOneStart p ch => Sys2Proof.Machine.execPhaseOneStart p ch s
  | .phaseOneSummaryReceive p ctx gen src body => Sys2Proof.Machine.execPhaseOneSummaryReceive p ctx gen src body s
  | .groupFrameReceive p ctx gen src body => Sys2Proof.Machine.execGroupFrameReceive p ctx gen src body s
  | .groupNakReceive p ctx mailbag group pass dim => Sys2Proof.Machine.execGroupNakReceive p ctx mailbag group pass dim s
  | .mailbagFailedReceive p ctx mailbag => Sys2Proof.Machine.execMailbagFailedReceive p ctx mailbag s
  | .exchange l stage => Sys2Proof.Machine.execExchange l stage s
  | .countPostcardReceive ctx route xkind run source counts => Sys2Proof.Machine.execCountPostcardReceive ctx route xkind run source counts s
  | .readyReceive ctx route xkind run owner source => Sys2Proof.Machine.execReadyReceive ctx route xkind run owner source s
  | .exchangeFrameReceive body => Sys2Proof.Machine.execExchangeFrameReceive body s
  | .mailbagEccError p corrected => Sys2Proof.Machine.execMailbagEccError p corrected s
  | .redClearCounts via p => Sys2Proof.Machine.execRedClearCounts via p s
  | .frameReceive port frame => Sys2Proof.Machine.execFrameReceive port frame s
  | .ackReceive port lseq => Sys2Proof.Machine.execAckReceive port lseq s
  | .nakReceive port lseq => Sys2Proof.Machine.execNakReceive port lseq s
  | .creditReceive ctl cls count => Sys2Proof.Machine.execCreditReceive ctl cls count s
  | .keepaliveReceive ctl => Sys2Proof.Machine.execKeepaliveReceive ctl s
  | .closedReceive port => Sys2Proof.Machine.execClosedReceive port s
  | .helloReceive port m peerPort role digest => Sys2Proof.Machine.execHelloReceive port m peerPort role digest s
  | .helloAckReceive port => Sys2Proof.Machine.execHelloAckReceive port s
  | .helloBackoffExpire port => Sys2Proof.Machine.execHelloBackoffExpire port s
  | .mismatchRetry port => Sys2Proof.Machine.execMismatchRetry port s
  | .replayTimeout port => Sys2Proof.Machine.execReplayTimeout port s
  | .keepaliveTimer port => Sys2Proof.Machine.execKeepaliveTimer port s
  | .receiveTimeout port => Sys2Proof.Machine.execReceiveTimeout port s
  | .retrain via port => Sys2Proof.Machine.execRetrain via port s
  | .portRetrainDone port => Sys2Proof.Machine.execPortRetrainDone port s
  | .portDown port => Sys2Proof.Machine.execPortDown port s
  | .cableInsert port => Sys2Proof.Machine.execCableInsert port s
  | .cableRemove port => Sys2Proof.Machine.execCableRemove port s
  | .portDownReceive m port => Sys2Proof.Machine.execPortDownReceive m port s
  | .portUpReceive m port => Sys2Proof.Machine.execPortUpReceive m port s
  | .joinReceive m serial digest => Sys2Proof.Machine.execJoinReceive m serial digest s
  | .joinResend => Sys2Proof.Machine.execJoinResend s
  | .admitReceive m => Sys2Proof.Machine.execAdmitReceive m s
  | .refuseReceive port m serial cause => Sys2Proof.Machine.execRefuseReceive port m serial cause s
  | .cascadeOpenReceive port bitmap => Sys2Proof.Machine.execCascadeOpenReceive port bitmap s
  | .engineReset via p node slot => Sys2Proof.Machine.execEngineReset via p node slot s
  | .engineResetDone p => Sys2Proof.Machine.execEngineResetDone p s
  | .engineResetTimeout p => Sys2Proof.Machine.execEngineResetTimeout p s
  | .partitionReset via p cause => Sys2Proof.Machine.execPartitionReset via p cause s
  | .partitionFenceLifted p recovered => Sys2Proof.Machine.execPartitionFenceLifted p recovered s
  | .partitionResetComplete p => Sys2Proof.Machine.execPartitionResetComplete p s
  | .contextReset via ctx => Sys2Proof.Machine.execContextReset via ctx s
  | .contextResetDone ctx => Sys2Proof.Machine.execContextResetDone ctx s
  | .generationAdvance ctx => Sys2Proof.Machine.execGenerationAdvance ctx s
  | .generationMarkerArrive ctx edge => Sys2Proof.Machine.execGenerationMarkerArrive ctx edge s
  | .drainMarkerReturn ctx path => Sys2Proof.Machine.execDrainMarkerReturn ctx path s
  | .teardownBound ctx => Sys2Proof.Machine.execTeardownBound ctx s
  | .chipReset via value => Sys2Proof.Machine.execChipReset via value s
  | .incidentRingEnable via ring value => Sys2Proof.Machine.execIncidentRingEnable via ring value s
  | .powerSample watts millivolts parts => Sys2Proof.Machine.execPowerSample watts millivolts parts s
  | .powerDecision => Sys2Proof.Machine.execPowerDecision s
  | .thermalLoop dieTemps stackTemps inlet outlet => Sys2Proof.Machine.execThermalLoop dieTemps stackTemps inlet outlet s
  | .activityLoop => Sys2Proof.Machine.execActivityLoop s
  | .idlePartitionWake p => Sys2Proof.Machine.execIdlePartitionWake p s
  | .channelUpkeep => Sys2Proof.Machine.execChannelUpkeep s
  | .linkUpkeep => Sys2Proof.Machine.execLinkUpkeep s
  | .deadlineStatistics => Sys2Proof.Machine.execDeadlineStatistics s
  | .clerkHeartbeat => Sys2Proof.Machine.execClerkHeartbeat s
  | .thermalTrip source temp => Sys2Proof.Machine.execThermalTrip source temp s
  | .pwrCapWrite via value => Sys2Proof.Machine.execPwrCapWrite via value s
  | .thermCtrlWrite via value => Sys2Proof.Machine.execThermCtrlWrite via value s
  | .pwrRequestActive via => Sys2Proof.Machine.execPwrRequestActive via s
  | .pwrRequestIdle via => Sys2Proof.Machine.execPwrRequestIdle via s
  | .pwrRequestDrowse via => Sys2Proof.Machine.execPwrRequestDrowse via s
  | .pwrRequestOff via => Sys2Proof.Machine.execPwrRequestOff via s
  | .pwrTransitionDone => Sys2Proof.Machine.execPwrTransitionDone s
  | .cycleRequest via value => Sys2Proof.Machine.execCycleRequest via value s
  | .mctpControlMessage msg => Sys2Proof.Machine.execMctpControlMessage msg s
  | .pldmBaseDiscovery msg => Sys2Proof.Machine.execPldmBaseDiscovery msg s
  | .pldmSensorRead sensor => Sys2Proof.Machine.execPldmSensorRead sensor s
  | .pldmFirmwareUpdate image => Sys2Proof.Machine.execPldmFirmwareUpdate image s
  | .getVersion tr msg => Sys2Proof.Machine.execGetVersion tr msg s
  | .getCapabilities tr msg => Sys2Proof.Machine.execGetCapabilities tr msg s
  | .negotiateAlgorithms tr msg extAsym extHash => Sys2Proof.Machine.execNegotiateAlgorithms tr msg extAsym extHash s
  | .getDigests tr msg => Sys2Proof.Machine.execGetDigests tr msg s
  | .getCertificate tr msg slot offset len => Sys2Proof.Machine.execGetCertificate tr msg slot offset len s
  | .challenge tr msg slot => Sys2Proof.Machine.execChallenge tr msg slot s
  | .getMeasurements tr msg index sign => Sys2Proof.Machine.execGetMeasurements tr msg index sign s
  | .respondIfReady tr msg ready => Sys2Proof.Machine.execRespondIfReady tr msg ready s
  | .spdmUnsupportedRequest tr msg => Sys2Proof.Machine.execSpdmUnsupportedRequest tr msg s
  | .anchorAdd via record => Sys2Proof.Machine.execAnchorAdd via record s
  | .anchorRevoke via record => Sys2Proof.Machine.execAnchorRevoke via record s
  | .fwWrite via image => Sys2Proof.Machine.execFwWrite via image s
  | .svnCommit via => Sys2Proof.Machine.execSvnCommit via s
  | .structureTableError p => Sys2Proof.Machine.execStructureTableError p s
  | .clerkStop => Sys2Proof.Machine.execClerkStop s
  | .helloTimeout port => Sys2Proof.Machine.execHelloTimeout port s
  | .closedFrameTimer port => Sys2Proof.Machine.execClosedFrameTimer port s
  | .memberLostReceive port m => Sys2Proof.Machine.execMemberLostReceive port m s
  | .standbyIslandPowerUp => Sys2Proof.Machine.execStandbyIslandPowerUp s
  | .dynamicAddressAssignment addr => Sys2Proof.Machine.execDynamicAddressAssignment addr s

end Sys2Proof.Machine
end

