-- ==== Sys2Proof/WellFormed.lean ====
section
/-! DEFINITION. The operand ranges of a well-formed command: what the numbers of the spec's own tables admit (R8-R11,
R16, R103, R133, R378, R415). The meanings are total: an operand outside its range names nothing, and the command then
leaves the module as it is (log entry 4). -/

namespace Sys2Proof

/-! ### One check per kind of number -/

/-- A partition of the module. -/
def wfPart (p : Nat) : Bool := p < 4
/-- A courier port. -/
def wfPort (n : Nat) : Bool := n < 16
/-- A mailbox. -/
def wfMailbox (n : Nat) : Bool := n < 256
/-- A context. -/
def wfCtx (c : Nat) : Bool := c < 64
/-- A generation, a route or a LSEQ: 12 bits. -/
def wf12 (n : Nat) : Bool := n < 4096
/-- A hart of the module. -/
def wfHart (h : Nat) : Bool := h < 192
/-- A core of a partition. -/
def wfCore (i : Nat) : Bool := i < 48
/-- An agent of a partition's coherent domain. -/
def wfAgent (a : Nat) : Bool := a < 54
/-- A line address: 64-byte aligned and module-local. -/
def wfLine (a : Nat) : Bool := a % 64 = 0 && a < 2 ^ 46
/-- A die of the module. -/
def wfDie (n : Nat) : Bool := n < 100
/-- A domain edge (R400). -/
def wfEdge (n : Nat) : Bool := n < 115
/-- A module number. -/
def wfModule (m : Nat) : Bool := m < 256
/-- A stack of a partition, its channels and their pseudo-channels. -/
def wfStack (k : Nat) : Bool := k < 8
def wfChannel (c : Nat) : Bool := c < 32
def wfPseudo (c : Nat) : Bool := c < 2
/-- M-tiles and their arrays, A-tiles, E-tiles. -/
def wfMtile (t : Nat) : Bool := t < 12
def wfArray (a : Nat) : Bool := a < 4
def wfAtile (t : Nat) : Bool := 16 ≤ t && t < 18
def wfEtile (t : Nat) : Bool := 12 ≤ t && t < 16
/-- A node with engines, and a slot of an engine. -/
def wfNode (n : Nat) : Bool := n < 32
def wfSlot (n : Nat) : Bool := n < 8
/-- A letter's name: its mailbox and a 32-bit sequence number. -/
def wfLetter (l : LetterId) : Bool := wfMailbox l.mbx && l.seq < 2 ^ 32
/-- A stage of a route. -/
def wfStage (n : Nat) : Bool := n < 64
/-- An object identifier or stash handle: 24 bits. -/
def wfObj (n : Nat) : Bool := n < 2 ^ 24
/-- A 16-bit number: a temperature, a wattage in units of 1 W, a mailbag, a record number. -/
def wf16 (n : Nat) : Bool := n < 2 ^ 16
/-- A 32-bit number: a group, a serial number's low word, an input in millivolts. -/
def wf32 (n : Nat) : Bool := n < 2 ^ 32
/-- A STEP or a serial number: 64 bits. -/
def wf64 (n : Nat) : Bool := n < 2 ^ 64
/-- A sorting office. -/
def wfOffice (x : Nat) : Bool := x < 2
/-- The mask of the partitions that a structure load targets. -/
def wfMask (m : Nat) : Bool := m < 16
/-- The width of an MMIO access (R31). -/
def wfSize (n : Nat) : Bool := n = 4 || n = 8
/-- A requester of a register access (R32). -/
def wfVia : Via → Bool
  | .core h _ => wfHart h
  | .engine c p n k l st => wfCtx c && p < 5 && wfNode n && k < 256 && l.all wfLetter && st < 256
  | _ => true
/-- A function that can be switched (R107). -/
def wfFn : FnId → Bool
  | .mailbox n => wfMailbox n
  | .engine p n k => wfPart p && wfNode n && wfSlot k
  | .partition p => wfPart p
  | .port n => wfPort n
/-- A doorbell's page and offset, or its mailbox (R110). -/
def wfBell : BellSrc → Bool
  | .bar0 page off => wfMailbox page && off < 4096
  | .mmio v n => wfVia v && wfMailbox n
/-- An MSI-X vector (R118). -/
def wfMsix : MsixWhat → Bool
  | .vector v => v < 2048
  | _ => true
/-- An access at a sorting office (R24). -/
def wfOfficeReq (r : SortReq) : Bool :=
  r.addr < 2 ^ 46 && (match r.ctx with | some c => wfCtx c.1 && wf12 c.2 | none => true) &&
  (match r.write with | some bs => bs.length = r.len | none => true)
/-- An access at a base die (R136). -/
def wfMemReq (r : MemReq) : Bool :=
  r.addr < 2 ^ 46 && (match r.write with | some bs => bs.length = r.len | none => true)
/-- The operands of a core's access (R379): 1, 2, 4 or 8 bytes; 4 or 8 for an AMO and for LR and SC. -/
def wfCoreOp : CoreOp → Bool
  | .load n | .ncLoad n | .fetch n => n = 1 || n = 2 || n = 4 || n = 8
  | .store bs | .ncStore bs => bs.length = 1 || bs.length = 2 || bs.length = 4 || bs.length = 8
  | .amoAdd n _ | .amoSwap n _ | .amoAnd n _ | .amoOr n _ | .amoXor n _ | .amoMin n _ | .amoMax n _ | .amoMinu n _
  | .amoMaxu n _ | .lr n => n = 4 || n = 8
  | .sc bs => bs.length = 4 || bs.length = 8
  | _ => true
/-- A request to the coherence directory (R384). -/
def wfDirReq : DirReq → Bool
  | .read a | .own a | .evict a => wfAgent a
  | .writeBack a bs => wfAgent a && bs.length = 64
  | .uncachedWrite bs => bs.length = 64
  | .uncachedPartial off bs => off + bs.length ≤ 64
  | .uncachedAmo off op => off < 64 && wfCoreOp op
  | .uncachedRead => true
/-- Slots of 128 bytes of a letter, four at most (R103, R113). -/
def wfSlots (bs : List (List Byte)) : Bool := bs.length ≤ 4 && bs.all (·.length = 128)
/-- The target of an incident ring's enable (R411). -/
def wfRing (r : Option Nat) : Bool := r.all fun p => wfPart p
/-- Sampled straps (R480). -/
def wfStraps (n : Nat) : Bool := n < 32
/-- An I3C dynamic address. -/
def wfI3c (n : Nat) : Bool := n < 128
/-- A certificate slot of SPDM. -/
def wfCert (n : Nat) : Bool := n < 16
/-- One reading per die, per stack or per partition (R417, R421, R424). -/
def wfReadings (k : Nat) (xs : List Nat) : Bool := xs.length = k && xs.all (· < 2 ^ 16)

/-- A command's operands lie in their ranges. -/
def Instr.wf : Instr → Bool
  | .input48vGood straps => wfStraps straps
  | .pwrEnAssert _ => true
  | .pwrEnDeassert => true
  | .undervoltageRemoval => true
  | .overvoltageRemoval => true
  | .inputOverloadRemoval => true
  | .standbyIslandLoss => true
  | .firmwareBootDone => true
  | .gateSectionLoaded => true
  | .dieAuthenticationDone _ => true
  | .gateReady => true
  | .portLinkTrained port => wfPort port
  | .stackTrainingDone p lost => wfPart p && lost.all (· < 256)
  | .pcieConfigRequest _ => true
  | .functionLevelReset => true
  | .perstAssert => true
  | .perstDeassert => true
  | .bar2Read off (.read len) | .bar2Read off (.atomic len) => (off < 2 ^ 42 : Bool) && (len ≤ 4096 : Bool)
  | .bar2Write off data => (off < 2 ^ 42 : Bool) && (data.length ≤ 4096 : Bool)
  | .registerWrite via addr size _ => wfVia via && wf32 addr && wfSize size
  | .gateApertureBaseWrite via _ => wfVia via
  | .gateMmioWindowWrite via _ => wfVia via
  | .msixUnmask what => wfMsix what
  | .hostReadCompletion tag _ _ => wf32 tag
  | .hostReadTimeout tag => wf32 tag
  | .sortingOfficeRequest x r => wfOffice x && wfOfficeReq r
  | .memoryRequest r => wfMemReq r
  | .coreAccess hart _ addr op => wfHart hart && wf64 addr && wfCoreOp op
  | .directoryRequest p line r => wfPart p && wfLine line && wfDirReq r
  | .snoopHoldExpire p agent line => wfPart p && wfAgent agent && wfLine line
  | .snoopTimeout p agent => wfPart p && wfAgent agent
  | .directoryEccError p _ => wfPart p
  | .imsicSetipnum via hart _ _ => wfVia via && wfHart hart
  | .partCoreRun via p idx => wfVia via && wfPart p && wfCore idx
  | .partCoreHold via p idx => wfVia via && wfPart p && wfCore idx
  | .structGo via mask => wfVia via && wfMask mask
  | .structAbort via => wfVia via
  | .structModuleNumberWrite via _ => wfVia via
  | .structFetchStart => true
  | .structFetchDone _ _ => true
  | .structVerifyDone => true
  | .structValidateDone => true
  | .structCheckDone => true
  | .structInstallDone _ => true
  | .gateEpochWrite via _ => wfVia via
  | .epochMarkerArrive die => wfDie die
  | .epochMarkerDone => true
  | .doorbell src size _ => wfBell src && wfSize size
  | .letterFetch n slots _ => wfMailbox n && wfSlots slots
  | .letterFetchRetry n slots _ => wfMailbox n && wfSlots slots
  | .mbxEnable via n => wfVia via && wfMailbox n
  | .mbxDisable via n => wfVia via && wfMailbox n
  | .mbxArm via n => wfVia via && wfMailbox n
  | .runRoute l => wfLetter l
  | .lodge l => wfLetter l
  | .unlodge l => wfLetter l
  | .promote l => wfLetter l
  | .evict l => wfLetter l
  | .promoteCopyDone obj => wfObj obj
  | .evictWritebackDone obj => wfObj obj
  | .copy l => wfLetter l
  | .fence l => wfLetter l
  | .seal l => wfLetter l
  | .stepBegin l => wfLetter l
  | .stepUpdate l => wfLetter l
  | .stepCommit l => wfLetter l
  | .stepAbort l => wfLetter l
  | .evalBegin l => wfLetter l
  | .evalEnd l => wfLetter l
  | .ctxOpen l => wfLetter l
  | .ctxTear l => wfLetter l
  | .fnEnable l => wfLetter l
  | .fnDisable l => wfLetter l
  | .crrPortEnableWrite via port _ => wfVia via && wfPort port
  | .fnTransitionDone fn => wfFn fn
  | .note l => wfLetter l
  | .letterComplete l => wfLetter l
  | .memSegIsetWrite via p _ => wfVia via && wfPart p
  | .stackTempChange p k temp => wfPart p && wfStack k && wf16 temp
  | .pcRetrainStart p k ch pc => wfPart p && wfStack k && wfChannel ch && wfPseudo pc
  | .pcRetrainDone p k lanes => wfPart p && wfStack k && wf16 lanes
  | .channelLost p k => wfPart p && wfStack k
  | .deliveryIssue l p record n => wfLetter l && wfPart p && wf16 record && wf32 n
  | .deliveryParcelLanded l p record idx => wfLetter l && wfPart p && wf16 record && wf32 idx
  | .windowStageReady l stage => wfLetter l && wfStage stage
  | .hallRtClear via p => wfVia via && wfPart p
  | .arrayStageStart l stage => wfLetter l && wfStage stage
  | .arrayBlock p t a => wfPart p && wfMtile t && wfArray a
  | .arrayPassEnd p t a => wfPart p && wfMtile t && wfArray a
  | .arrayDrainDone p t a => wfPart p && wfMtile t && wfArray a
  | .drainTokenArrive p t a => wfPart p && wfMtile t && wfArray a
  | .preempt via p t a row => wfVia via && wfPart p && wfMtile t && wfArray a && wf16 row
  | .arrayPreemption p t a l stage row => wfPart p && wfMtile t && wfArray a && wfLetter l && wfStage stage && wf16 row
  | .arrayResume p t a => wfPart p && wfMtile t && wfArray a
  | .arrayParityError p t a _ => wfPart p && wfMtile t && wfArray a
  | .frankerParcel l stage => wfLetter l && wfStage stage
  | .frankerEccError p t _ => wfPart p && wfMtile t
  | .frkClearCounts via p t => wfVia via && wfPart p && wfMtile t
  | .vectorStageStart l stage => wfLetter l && wfStage stage
  | .vectorElementGroup l stage => wfLetter l && wfStage stage
  | .vectorEccError p t _ => wfPart p && wfAtile t
  | .vecClearCounts via p t => wfVia via && wfPart p && wfAtile t
  | .attForward l stage => wfLetter l && wfStage stage
  | .attBackward l stage => wfLetter l && wfStage stage
  | .attAppend l stage => wfLetter l && wfStage stage
  | .attFork l stage => wfLetter l && wfStage stage
  | .attRelease l stage => wfLetter l && wfStage stage
  | .attPoolInit l stage => wfLetter l && wfStage stage
  | .attentionEccError p t _ => wfPart p && wfAtile t
  | .attClearCounts via p t => wfVia via && wfPart p && wfAtile t
  | .split l stage => wfLetter l && wfStage stage
  | .sort l stage => wfLetter l && wfStage stage
  | .gatherPool l stage => wfLetter l && wfStage stage
  | .combine l stage => wfLetter l && wfStage stage
  | .scatter l stage => wfLetter l && wfStage stage
  | .adagrad l stage => wfLetter l && wfStage stage
  | .adam l stage => wfLetter l && wfStage stage
  | .recover l stage => wfLetter l && wfStage stage
  | .cacheInval via p t => wfVia via && wfPart p && wfEtile t
  | .cacheInvalApply p t => wfPart p && wfEtile t
  | .embClearCounts via p t => wfVia via && wfPart p && wfEtile t
  | .embeddingEccError p t _ => wfPart p && wfEtile t
  | .tieSum l stage => wfLetter l && wfStage stage
  | .updateLocalDone ctx => wfCtx ctx
  | .normPartialReceive ctx gen step m _ => wfCtx ctx && wf12 gen && wf64 step && wfModule m
  | .updateDoneReceive m ctx step _ _ => wfModule m && wfCtx ctx && wf64 step
  | .abortReqReceive m ctx step => wfModule m && wfCtx ctx && wf64 step
  | .commitReceive port ctx step => wfPort port && wfCtx ctx && wf64 step
  | .abortReceive port ctx step => wfPort port && wfCtx ctx && wf64 step
  | .commitActionsDone ctx => wfCtx ctx
  | .abortActionsDone ctx => wfCtx ctx
  | .mailbagGrad l stage => wfLetter l && wfStage stage
  | .mailbagSend l stage => wfLetter l && wfStage stage
  | .phaseOneStart p ch => wfPart p && (ch < 8 : Bool)
  | .phaseOneSummaryReceive p ctx gen src body => wfPart p && wfCtx ctx && wf12 gen && wf16 src && (body.length = 152 : Bool)
  | .groupFrameReceive p ctx gen src body => wfPart p && wfCtx ctx && wf12 gen && wf16 src && (body.length = 5312 : Bool)
  | .groupNakReceive p ctx mailbag group pass dim => wfPart p && wfCtx ctx && wf16 mailbag && wf32 group && wfModule pass && (dim < 3 : Bool)
  | .mailbagFailedReceive p ctx mailbag => wfPart p && wfCtx ctx && wf16 mailbag
  | .exchange l stage => wfLetter l && wfStage stage
  | .countPostcardReceive ctx route xkind run source counts => wfCtx ctx && wf12 route && wfModule xkind && wf32 run && wf16 source && (counts.length ≤ 16 : Bool)
  | .readyReceive ctx route xkind run owner source => wfCtx ctx && wf12 route && wfModule xkind && wf32 run && wf16 owner && wf16 source
  | .exchangeFrameReceive body => (body.length = 4608 : Bool)
  | .mailbagEccError p _ => wfPart p
  | .redClearCounts via p => wfVia via && wfPart p
  | .frameReceive port _ => wfPort port
  | .ackReceive port lseq => wfPort port && wf12 lseq
  | .nakReceive port lseq => wfPort port && wf12 lseq
  | .creditReceive ctl cls count => wfPort ctl.port && wf12 ctl.lack && wfSlot cls && wf16 count
  | .keepaliveReceive ctl => wfPort ctl.port && wf12 ctl.lack
  | .closedReceive port => wfPort port
  | .helloReceive port m peerPort role digest => wfPort port && wfModule m && wfPort peerPort && wfModule role && (digest.length ≤ 64 : Bool)
  | .helloAckReceive port => wfPort port
  | .helloBackoffExpire port => wfPort port
  | .mismatchRetry port => wfPort port
  | .replayTimeout port => wfPort port
  | .keepaliveTimer port => wfPort port
  | .receiveTimeout port => wfPort port
  | .retrain via port => wfVia via && wfPort port
  | .portRetrainDone port => wfPort port
  | .portDown port => wfPort port
  | .cableInsert port => wfPort port
  | .cableRemove port => wfPort port
  | .portDownReceive m port => wfModule m && wfPort port
  | .portUpReceive m port => wfModule m && wfPort port
  | .joinReceive m serial digest => wfModule m && wf64 serial && (digest.length ≤ 64 : Bool)
  | .joinResend => true
  | .admitReceive m => wfModule m
  | .refuseReceive port m serial cause => wfPort port && wfModule m && wf64 serial && (cause < 4 : Bool)
  | .cascadeOpenReceive port bitmap => wfPort port && (bitmap < 2 ^ 256 : Bool)
  | .engineReset via p node slot => wfVia via && wfPart p && wfNode node && wfSlot slot
  | .engineResetDone p => wfPart p
  | .engineResetTimeout p => wfPart p
  | .partitionReset via p _ => wfVia via && wfPart p
  | .partitionFenceLifted p _ => wfPart p
  | .partitionResetComplete p => wfPart p
  | .contextReset via ctx => wfVia via && wfCtx ctx
  | .contextResetDone ctx => wfCtx ctx
  | .generationAdvance ctx => wfCtx ctx
  | .generationMarkerArrive ctx edge => wfCtx ctx && wfEdge edge
  | .drainMarkerReturn ctx _ => wfCtx ctx
  | .teardownBound ctx => wfCtx ctx
  | .chipReset via _ => wfVia via
  | .incidentRingEnable via ring _ => wfVia via && wfRing ring
  | .powerSample watts millivolts parts => wf16 watts && wf32 millivolts && wfReadings 4 parts
  | .powerDecision => true
  | .thermalLoop dieTemps stackTemps inlet outlet => wfReadings 100 dieTemps && wfReadings 32 stackTemps && wf16 inlet && wf16 outlet
  | .activityLoop => true
  | .idlePartitionWake p => wfPart p
  | .channelUpkeep => true
  | .linkUpkeep => true
  | .deadlineStatistics => true
  | .clerkHeartbeat => true
  | .thermalTrip source temp => (source < 132 : Bool) && wf16 temp
  | .pwrCapWrite via _ => wfVia via
  | .thermCtrlWrite via _ => wfVia via
  | .pwrRequestActive via => wfVia via
  | .pwrRequestIdle via => wfVia via
  | .pwrRequestDrowse via => wfVia via
  | .pwrRequestOff via => wfVia via
  | .pwrTransitionDone => true
  | .cycleRequest via _ => wfVia via
  | .mctpControlMessage _ => true
  | .pldmBaseDiscovery _ => true
  | .pldmSensorRead sensor => wf16 sensor
  | .pldmFirmwareUpdate _ => true
  | .getVersion _ _ => true
  | .getCapabilities _ _ => true
  | .negotiateAlgorithms _ _ _ _ => true
  | .getDigests _ _ => true
  | .getCertificate _ _ slot offset len => wfCert slot && wf16 offset && wf16 len
  | .challenge _ _ slot => wfCert slot
  | .getMeasurements _ _ index _ => wfModule index
  | .respondIfReady _ _ _ => true
  | .spdmUnsupportedRequest _ _ => true
  | .anchorAdd via record => wfVia via && (record.length = 3328 : Bool)
  | .anchorRevoke via record => wfVia via && (record.length = 3328 : Bool)
  | .fwWrite via _ => wfVia via
  | .svnCommit via => wfVia via
  | .structureTableError p => wfPart p
  | .clerkStop => true
  | .helloTimeout port => wfPort port
  | .closedFrameTimer port => wfPort port
  | .memberLostReceive port m => wfPort port && wfModule m
  | .standbyIslandPowerUp => true
  | .dynamicAddressAssignment addr => wfI3c addr

end Sys2Proof
end

