-- ==== Sys2Proof/Safety.lean ====
section
/-! DEFINITION. The words that claims are made in: a command that answers, what a register file reads as after it, and
what a safe store of fuses is. -/

namespace Sys2Proof.Machine

/-- A command answers a next state, of which `P` holds. -/
def Answers (i : Instr) (s : State) (P : State → Prop) : Prop := ∃ t, exec i s = .next t ∧ P t

/-- The registers of `e` read as those of `d`, but for the listed ones, whose values are given. -/
def RegsRead (d e : Dev) (ch : Map Reg W64) : Prop := ∀ r, e.reg r = (mapGet? ch r).getD (d.reg r)

/-- `t` is `s` with the module `e`, but for the registers, which read as those of `s` with the listed changes. The
queue, the fuses and every field of the module that `e` does not change are as in `s`. -/
def Becomes (s t : State) (e : Dev) (ch : Map Reg W64) : Prop :=
  t = { s with dev := { e with regs := t.dev.regs } } ∧ RegsRead s.dev t.dev ch

/-- A command answers the state in which the module is `e`; the queue and the fuses are as in `s`. -/
def Runs (i : Instr) (s : State) (e : Dev) : Prop := exec i s = .next { s with dev := e }

/-- As `Becomes`, and then the incident `i` is raised (`Dev.raise`). -/
def Reports (s t : State) (e : Dev) (ch : Map Reg W64) (i : Inc) : Prop :=
  ∃ u, Becomes s u e ch ∧ t = { u with dev := u.dev.raise i }

/-- No engine works for the letter, and it has stored nothing through the gate. -/
def Unworked (d : Dev) (x : Letter) : Prop :=
  (∀ r ∈ d.runs, r.letter ≠ x.id) ∧ (∀ e ∈ d.chans, e.1.1 ≠ x.id) ∧ (∀ e ∈ d.tileOrder, e.1 ≠ x.id) ∧ (∀ e ∈ d.delivs, e.letter ≠ x.id) ∧
  (∀ e ∈ d.waits, e.1 ≠ x.id) ∧ (∀ e ∈ d.updates, e.letter ≠ x.id) ∧ (∀ e ∈ d.bags, e.letter ≠ x.id) ∧
  (∀ e ∈ d.exchs, e.letter ≠ x.id) ∧ x.pcieLast = none ∧ x.regions = [] ∧ x.flushErr = none

/-- Letter `x` of opcode `op` may start, no check of R108 refuses it, and nothing has been done for it yet (R119, R120). -/
def Due (d : Dev) (l : LetterId) (op : Nat) (x : Letter) : Prop :=
  findLetter d l = some x ∧ x.opcode = op ∧ mayStart d x = true ∧ letterCheck d l.mbx op x.ctx x.gen x.route x.body = none ∧ Unworked d x

/-- The opcodes of R107, each with the command that its letter is. -/
def letterCommands (l : LetterId) : List (Nat × Instr) :=
  [(0x01, .runRoute l), (0x02, .lodge l), (0x03, .unlodge l), (0x04, .promote l), (0x05, .evict l), (0x06, .copy l),
   (0x07, .fence l), (0x08, .seal l), (0x10, .stepBegin l), (0x11, .stepUpdate l), (0x12, .stepCommit l), (0x13, .stepAbort l),
   (0x14, .evalBegin l), (0x15, .evalEnd l), (0x20, .ctxOpen l), (0x21, .ctxTear l), (0x30, .fnEnable l), (0x31, .fnDisable l),
   (0x3F, .note l)]

/-- The letters, with the one called `l` changed. -/
def lettersWith (d : Dev) (l : LetterId) (f : Letter → Letter) : List Letter := d.letters.map fun y => if y.id = l then f y else y

/-- Letter `l` has started, and ended with a status and DETAIL: beside that the module is `e`, the registers have the
listed changes, the reader's die has counted an event (R87), and MB_STATE and FLT_WAIT show what the mailbag engines still do (R370, R392). -/
def Ends (s t : State) (l : LetterId) (st dt : Nat) (e : Dev) (ch : Map Reg W64) : Prop :=
  t = { s with dev := { e with letters := lettersWith s.dev l (fun y => { y.begun with result := some (st, dt) }), dies := t.dev.dies, regs := t.dev.regs } } ∧
  ∀ r, (∀ p, r ≠ .redStatus p ∧ r ≠ .fltWait p 18) → t.dev.reg r = (mapGet? ch r).getD (s.dev.reg r)

/-- Letter `l` has started and runs on; beside that as `Ends`. -/
def RunsOn (s t : State) (l : LetterId) (e : Dev) (ch : Map Reg W64) : Prop :=
  t = { s with dev := { e with letters := lettersWith s.dev l Letter.begun, dies := t.dev.dies, regs := t.dev.regs } } ∧
  RegsRead s.dev t.dev ch

/-- The slab of partition `p` serves its own partition's accesses at once: trained, no channel lost or retraining, no burst
in error, no line cached (R143-R145, R384). -/
def Calm (d : Dev) (p : Nat) : Prop :=
  d.trained p = true ∧ d.bit (.memStatus p) 3 = false ∧ (∀ k, d.reg (.memChanLost p k) = 0#64) ∧ d.retrains = [] ∧
  d.mem.bad = [] ∧ d.lines = []

/-- No H-die waits to write its directory (R386). -/
def NoDirWait (d : Dev) : Prop := ∀ a b, Held.hdie a b ∉ d.held

/-- The page tables of context `c`, in the slab of partition `p`, map the 1 GiB page of virtual address `va` to the page of
slab address `a` for loads and stores (R99). -/
def Mapped (d : Dev) (c p va a : Nat) : Prop :=
  va < 2 ^ 48 ∧ place a = .slab p ∧ a % 2 ^ 30 = va % 2 ^ 30 ∧ tableOk (d.ctx c).root = true ∧ place (d.ctx c).root = .slab p ∧
  ∃ u, tableOk u = true ∧ place u = .slab p ∧ leNat (d.mem.read ((d.ctx c).root + 8 * (va / 2 ^ 39 % 512)) 8) = u + 1 ∧
    leNat (d.mem.read (u + 8 * (va / 2 ^ 30 % 512)) 8) = a / 2 ^ 30 * 2 ^ 30 + 15

/-- The counts and step registers that CTX_OPEN zeroes (R225, R243, R271, R302, R338, R370). -/
def openZero (c : Nat) : Reg → Bool
  | .frkSat p t k | .frkNonfinite p t k => p < 4 && t < 12 && k = c
  | .embSat p t k | .embNonfinite p t k => p < 4 && 12 ≤ t && t < 16 && k = c
  | .vecSat p t k | .vecNonfinite p t k | .attSat p t k | .attNonfinite p t k => p < 4 && 16 ≤ t && t < 18 && k = c
  | .redSat p k | .redNonfinite p k => p < 4 && k = c
  | .gateStep k | .gateStepOpen k | .gateStepCommitted k | .gateNorm k => k = c
  | _ => false

/-- The home directory shows object `id` as it is (R147). -/
def Shown (d : Dev) (id : Nat) : Prop :=
  ∀ o k r, mapGet? d.objs id = some o → mapGet? o.slots o.home = some k → dirRegion d o.home = some r → 64 * k + 64 ≤ r.2 →
    d.mem.read (r.1 + 64 * k) 64 = dirEntry id o true

/-- Outside the OBJECT_DIR regions of `d` and the range [lo, hi), memory `m` reads as that of `d`. -/
def OutsideDirs (d : Dev) (m : Mem) (lo hi : Nat) : Prop :=
  ∀ a, (∀ p r, dirRegion d p = some r → a < r.1 ∨ r.1 + r.2 ≤ a) → (a < lo ∨ hi ≤ a) → m.get a = d.mem.get a

/-- Only object `id` differs, and is `o`. -/
def OnlyObj (d : Dev) (objs : Map Nat Obj) (id : Nat) (o : Option Obj) : Prop :=
  mapGet? objs id = o ∧ ∀ k, k ≠ id → mapGet? objs k = mapGet? d.objs k

/-- No request of the aperture at `off` stays behind one that is held: none of its lines and granules is asked for, and no write of the
commander's waits (R21, R375, R384). -/
def BarClear (d : Dev) (off len : Nat) (data : List Byte) : Prop :=
  ∀ h ∈ d.held, heldBehind d (.bar2Read (apertureAddr d off) len) h = false ∧ heldBehind d (.bar2Write (apertureAddr d off) data) h = false

/-- The sorting offices let a requester's write at an MMIO offset through at once (R20, R24, R71): it lies behind the requester's own
port or on a module-level die, or its partition is neither down nor being installed. The commander's writes reach a down partition
(R491); none of them passes an earlier one that waits (R375). -/
def OfficesPass (d : Dev) (v : Via) (off : Nat) : Prop :=
  barBlocked d v = false ∧
  (viaPort v = mmioPort off ∨ 4 ≤ mmioPort off ∨ (if d.down (mmioPort off) then v = .bar4 ∨ v = .bar0 else d.installing (mmioPort off) = false))

/-- The module once a requester's write of `len` bytes at an MMIO offset has crossed the offices: the bytes are counted out of the
target's port, unless the write crossed none (R495). -/
def Dev.acrossAt (d : Dev) (v : Via) (off len : Nat) : Dev :=
  if viaPort v = mmioPort off ∨ (mmioPort off < 4 ∧ d.down (mmioPort off) = true) then d
  else d.forwarded (mmioPort off) (mmioBase + off) len

/-- As `acrossAt`, for a write of a whole register. -/
def Dev.across (d : Dev) (v : Via) (r : Reg) : Dev := d.acrossAt v r.info.offset r.info.width

/-- The state once the write has crossed. -/
def State.across (s : State) (v : Via) (r : Reg) : State := { s with dev := s.dev.across v r }

/-- A requester's write of a register takes effect: it is granted, the offices pass it, and the register's block is not dark
(R491). -/
def Granted (d : Dev) (v : Via) (g : Guard) (r : Reg) : Prop :=
  grant d v g (decide (r.info.offset < 0x100000)) = .yes ∧ blockDark d r.info.offset true = false ∧ OfficesPass d v r.info.offset

/-- The register changes of an extension of SEC_MEAS[n] by x: SHAKE256 of the old value and x, and one more in its
count (R447). -/
def measChange (d : Dev) (n : Nat) (x : List Byte) : Map Reg W64 :=
  ((List.range 8).map fun w => (Reg.secMeas n w, BitVec.ofNat 64 (field (shake256 (d.meas n ++ x)) (8 * w) 8))) ++
  [(.secMeasCount n, fset (d.reg (.secMeasCount n)) 31 0 (satAdd 32 (d.fld (.secMeasCount n) 31 0) 1))]

/-- Registers that live through a chip reset and the loss of the rails (R498): THERM_TRIP in the standby island, ARR_SPARE,
the fuses that SEC_SVN and SEC_ANCHOR_STATE show, and the version of the image that booted last. -/
def survives : Reg → Bool
  | .thermTrip | .arrSpare _ _ _ | .secSvn | .secAnchorState | .clerkFwVersion => true
  | _ => false

/-- Fuses as R443-R445 allow them: slot 0 is nobody's, and a revoked slot holds no anchor. -/
def Sec.safe (k : Sec) : Prop :=
  (∀ n a, mapGet? k.anchors n = some a → 1 ≤ n ∧ n < 16 ∧ n ∉ k.revoked) ∧ ∀ n ∈ k.revoked, 1 ≤ n ∧ n < 16

/-- Fuses are blown, never restored: FUSED_MIN does not fall and no revocation is taken back (R443, R445). -/
def Sec.grows (k k' : Sec) : Prop := k.fusedMin ≤ k'.fusedMin ∧ ∀ n ∈ k.revoked, n ∈ k'.revoked

/-- The word of STRUCT_CAUSE for a failure, 0 for none (R76, R502); RECORD modulo 65,536 is the model's choice (log entry 52). -/
def causeWord : Option LoadFail → W64
  | none => 0#64
  | some f => BitVec.ofNat 64 (f.1 + f.2.1 * 2 ^ 8 + f.2.2 % 2 ^ 16 * 2 ^ 16)

/-- The registers at the end of a load, from the STRUCT_CTRL that it ran under: STRUCT_CAUSE, DONE and FAIL, state IDLE,
GO and ABORT clear (R76). -/
def loadEndChange (d : Dev) (ctrl : W64) (f : Option LoadFail) : Map Reg W64 :=
  [(.structCause, causeWord f),
   (.structStatus, fset (bset (bset (d.reg .structStatus) 8 f.isNone) 9 f.isSome) 2 0 0),
   (.structCtrl, bset (bset ctrl 4 false) 5 false)]

/-- The structure-load incident (R76, R412). -/
def loadInc (mask : Nat) (f : Option LoadFail) : Inc :=
  { cls := 0xC, eng := 0x21, die := dieGate, part := none, d0 := (causeWord f).toNat, d1 := mask + (if f.isNone then 256 else 0) }

/-- A load that ends in failure `f`: nothing is installed; the loader is idle, the registers say why, and the incident is
raised. -/
def LoadFails (s t : State) (e : Dev) (ctrl : W64) (mask : Nat) (f : LoadFail) : Prop :=
  Reports s t { e with loader := Loader.reset } (loadEndChange s.dev ctrl (some f)) (loadInc mask (some f))

/-- The hart runs, and its access to `len` bytes at `a` lies in one line of its own partition's slab or post hall; the
home holds it back for nothing, the fabric carries the access (R56), no agent holds a line, and no request waits (R379, R384). -/
def OwnLine (d : Dev) (hart a len : Nat) : Prop :=
  hart < 192 ∧ d.fld (.partCoreStatus (hart / 48) (hart % 48)) 1 0 = 1 ∧ d.held = [] ∧ d.lines = [] ∧
  (place a = .slab (hart / 48) ∨ ∃ o, place a = .window (hart / 48) 19 o) ∧ 0 < len ∧ a % 64 + len ≤ 64 ∧
  exists_ d a len true = true ∧ routed d (hartSrc hart) a len = true ∧ homeCheck d (hart / 48) (a / 64 * 64) 64 false = none

/-- The line that agent `hart` holds after it was granted the line of `a` in state `st` with the bytes of memory, and
stored `bs` at `a`. -/
def grantedLine (d : Dev) (hart a st : Nat) (bs : List Byte) : Line :=
  ⟨hart / 48, hart % 48, a / 64 * 64, st, patch (d.mem.read (a / 64 * 64) 64) (a % 64) bs, true⟩

/-- The reservations that a store to the line of `a` by `hart` leaves. -/
def reservedAfter (d : Dev) (hart a : Nat) : Map Nat Nat :=
  d.reservations.filter fun r => r.2 ≠ a / 64 * 64 ∨ r.1 = hart

/-- A letter's stage on an engine of a kind: it is due, the letter runs no part of it yet, and the engine is free to take
it (R53, R406, R409). -/
def StageDue (d : Dev) (l : LetterId) (stage kind : Nat) (x : Letter) (p : Nat) (r : Rec) : Prop :=
  stageAt d l stage [kind] = some (x, p, r) ∧ runOf d l stage = none ∧ canStart d x p r = true

/-- The module in which a stage acts: at its start, or as it is when the stage goes on after a wait (R53, R127). -/
def Acting (d : Dev) (l : LetterId) (stage kind st : Nat) (x : Letter) (p : Nat) (r : Rec) (e : Dev) : Prop :=
  (StageDue d l stage kind x p r ∧ e = d.startStage x p r st) ∨
  (stageAt d l stage [kind] = some (x, p, r) ∧ runOf d l stage ≠ none ∧ engineOut d p (stNode r) (slotOf (stKind r) (stArr r)) = false ∧ e = d)

/-- Object `o`, called `id`, lies in the slab of partition `p`, is not on its way between the tiers, and serves node `n` of its
partition at once (R138, R144, R152). -/
def Lent (d : Dev) (p n id : Nat) (o : Obj) : Prop :=
  mapGet? d.objs id = some o ∧ isHandle id = false ∧ o.tier = 0 ∧ o.state = 0 ∧ p < 4 ∧ place o.base = .slab p ∧
  o.base + o.footprint < slabBase (p + 1) ∧ Calm d p ∧ ∀ a k, place a = .slab p → routed d (some (p, n)) a k = true

/-- Operand word `i` of a stage on node `n` names such an object (R6, R107). -/
def Operand (d : Dev) (x : Letter) (p n i : Nat) (o : Obj) : Prop :=
  i < x.nWords ∧ bitsN (x.word i) 63 56 = 0 ∧ Lent d p n (wordObj (x.word i)) o

/-- Parcels `first` on, `count` of them, lie within an object with side records (R138). -/
def Holds (o : Obj) (first count : Nat) : Prop := o.hasSide = true ∧ 4096 * (first + count) ≤ o.size

/-- What `a` reads is readable and well formed, and is `v`; to read it changes nothing. -/
def Reads {α : Type} (d : Dev) (a : Act α) (v : α) : Prop := a.run d = (.ok v, d)

/-- The stage of letter `l` is done. -/
def StageOver (s t : State) (l : LetterId) (stage : Nat) : Prop :=
  t.pending = s.pending ∧ t.sec = s.sec ∧ ∃ y, findLetter t.dev l = some y ∧ stage ∈ y.stages

/-- Outside `n` bytes from `a` on, memory reads as before. -/
def KeptBut (d : Dev) (m : Mem) (a n : Nat) : Prop := ∀ b, b < a ∨ a + n ≤ b → m.get b = d.mem.get b

/-- Outside parcels `first` on, `count` of them, of object `o` and their side records, memory reads as before. -/
def KeptButParcels (d : Dev) (m : Mem) (o : Obj) (first count : Nat) : Prop :=
  ∀ b, (b < o.base + 4096 * first ∨ o.base + 4096 * (first + count) ≤ b) →
    (b < o.base + o.size + 512 * first ∨ o.base + o.size + 512 * (first + count) ≤ b) → m.get b = d.mem.get b

/-- The words of the transposing feeders that supply an array stage pass the checks of R181. -/
def FeedersFit (d : Dev) (x : Letter) (p : Nat) (r : Rec) : Prop :=
  ∀ e ∈ [(aWordA r, stInA r), (aWordB r, stInB r)], e.1 = 0xFF → ∀ f, feederOf d x p e.2 = some f →
    tWordSrc f < x.nWords ∧ bitsN (x.word (tWordSrc f)) 63 56 = 0 ∧ tWordDims f < x.nWords ∧ bitN (x.word (tWordDims f)) 63 = false ∧
    0 < dimM (x.word (tWordDims f)) ∧ 0 < dimN (x.word (tWordDims f)) ∧ dimK (x.word (tWordDims f)) % 128 = 0 ∧
    32 * tKbFirst f < dimK (x.word (tWordDims f))

/-- The operand words of an array stage pass the checks of R181 and R184. -/
def ArrayFits (x : Letter) (r : Rec) : Prop :=
  aWordDims r < x.nWords ∧ bitN (x.word (aWordDims r)) 63 = false ∧
  (∀ i ∈ [aWordA r, aWordB r, aWordOut r], i ≠ 0xFF → i < x.nWords ∧ bitsN (x.word i) 63 56 = 0) ∧ 0 < (dimsOf x r).1 ∧ 0 < (dimsOf x r).2.1 ∧ 32 * aKbFirst r < (dimsOf x r).2.2 ∧
  ((aWordA r ≠ 0xFF ∧ aWordB r ≠ 0xFF) ∨ (dimsOf x r).2.2 % 128 = 0) ∧ (aFlag r 0 = true → aDrain r = 0)

/-- A product that has just started: both banks are empty (R182). -/
def freshArr (x : Letter) (r : Rec) : ArrRun :=
  { letter := x.id, stage := stIndex r, tile := 0, next := aKbFirst r, live := none, drain := none, fmtA := 0, fmtB := 0,
    faulted := [], tokens := [], mask := none, sat := 0, drainSat := 0 }

/-- The responder has answered on transport `tr` with one message: the connection there is now `c`, the other one is as it
was, and a signature that was under way for `tr` is no longer (R449-R451). -/
def Says (s t : State) (tr : Transport) (c : Spdm) (code : Nat) (body : List Byte) : Prop :=
  t = { s with dev := { s.dev with spdm := t.dev.spdm, signing := if s.dev.signing = some tr then none else s.dev.signing, out := s.dev.out ++ [.spdm tr code body] } } ∧
  t.dev.conn tr = c ∧ ∀ u, u ≠ tr → t.dev.conn u = s.dev.conn u

/-- The responder has answered with a signed message: nonce and signature are free, and the signing unit works for `tr`. -/
def Signs (s t : State) (tr : Transport) (c : Spdm) (code : Nat) (body : List Byte) : Prop :=
  ∃ m, m = body ++ nonce s.dev.tick ∧
  t = { s with dev := { s.dev with spdm := t.dev.spdm, signing := some tr, tick := s.dev.tick + 1, out := s.dev.out ++ [.spdm tr code (m ++ Config.falconSign dieGate s.dev.tick (shake256 (c.transcript ++ m)))] } } ∧
  t.dev.conn tr = c ∧ ∀ u, u ≠ tr → t.dev.conn u = s.dev.conn u

/-- The registers while a security operation runs, and when it has succeeded (R453). -/
def secBusy (d : Dev) (op : Nat) : Map Reg W64 :=
  [(.secOpCtrl, bset (fset (d.reg .secOpCtrl) 2 0 op) 31 true), (.secOpStatus, bset (d.reg .secOpStatus) 0 true)]

def secDone (d : Dev) (op : Nat) : Map Reg W64 :=
  [(.secOpCtrl, bset (fset (d.reg .secOpCtrl) 2 0 op) 31 false), (.secOpStatus, bset (bset (bset (d.reg .secOpStatus) 0 false) 1 true) 2 false)]

/-- A security operation has started and failed: its incident is raised, and then it ends with its cause (R452-R454). -/
def SecFails (s t : State) (v : Via) (op cause : Nat) (i : Inc) : Prop :=
  ∃ u, Reports (s.across v .secOpCtrl) u { s.dev with out := s.dev.out ++ viaAck v } (secBusy s.dev op) i ∧ t = { u with dev := u.dev.secEnd (some cause) }

/-- The bytes that a security operation is given come from commander memory, as many as SEC_OP_LEN says (R453). -/
def secGiven (d : Dev) (bs : List Byte) : Prop :=
  (∃ a, untag (d.regN .secOpSrc) = .host a) ∧ d.regN .secOpSrc % 4096 = 0 ∧ d.regN .secOpLen = bs.length ∧ bs.length ≤ 8 * 2 ^ 20 ∧
  d.pcie.busMaster = true

end Sys2Proof.Machine
end

