-- ==== Sys2Proof/Certificates/Slice0/Obligations.lean ====
section
/-! DEFINITION. The statements for the provers. Each docstring says what its statement formalises. -/

open Sys2Proof Sys2Proof.Machine

/-- A step runs the command at the front of the queue. For every command c and state s, a step of s with c at the front of
its queue is exec of c on s with the rest of the queue; with an empty queue a step answers the same state (the idling
is the model's choice, log entry 2). -/
def Obligations.StepTakesFront : Prop :=
  (∀ (c : Instr) (rest : List Instr) (s : State), step { s with pending := c :: rest } = exec c { s with pending := rest }) ∧
  (∀ s : State, s.pending = [] → step s = .next s)

/-- No command touches the queue of waiting commands. Whatever command runs on whatever state, if it answers a next state
then the queue of that state is the queue it was given. -/
def Obligations.QueueKept : Prop :=
  ∀ (c : Instr) (s t : State), exec c s = .next t → t.pending = s.pending

/-- Every step keeps the fuses safe and blows none back. From every state whose anchor store is safe (slots 1 to 15 only,
no anchor in a revoked slot) a step leads to such a state; FUSED_MIN does not fall and no revocation is taken back. -/
def Obligations.FusesSafeStep : Prop :=
  ∀ s t : State, s.sec.safe → step s = .next t → t.sec.safe ∧ s.sec.grows t.sec

/-- What reset leaves. The invariant of FusesSafeStep holds of the reset state, in which no SVN fuse and no revocation
fuse is blown (log entry 5). After reset every register reads its reset value, and by the tables: every partition is
down, MEM_THROTTLE is 8, PWR_CAP is 4,000 W, the junction target is 95 degrees, every context is CLOSED with
generation 0, the queue is empty, no letter is held, every port is DISABLED, and GATE_BOOT.STAGE is 0. -/
def Obligations.ResetState : Prop :=
  (State.reset.sec.safe ∧ State.reset.sec.fusedMin = 0 ∧ State.reset.sec.revoked = []) ∧
  ((∀ r, State.reset.dev.reg r = r.reset) ∧
  (∀ p < 4, State.reset.dev.down p = true ∧ State.reset.dev.fld (.memThrottle p) 3 0 = 8) ∧
  State.reset.dev.fld .pwrCap 15 0 = 4000 ∧ State.reset.dev.fld .thermCtrl 7 0 = 95 ∧
  (∀ c, (State.reset.dev.ctx c).state = 0 ∧ (State.reset.dev.ctx c).gen = 0) ∧
  State.reset.pending = [] ∧ State.reset.dev.letters = [] ∧ (∀ n < 16, State.reset.dev.portState n = 0) ∧
  State.reset.dev.fld .gateBoot 2 0 = 0)

/-- Only the security operations write fuses and flash. A command other than ANCHOR_ADD, ANCHOR_REVOKE, FW_WRITE,
SVN_COMMIT and PLDM_FIRMWARE_UPDATE leaves the fuses, the anchor store and the flash as they were, unless it writes
SEC_OP_CTRL by its address, an anchor operation waits for the loader (R446), or a command that settles posted and held
writes finds some. -/
def Obligations.FusesOnlyBySecurity : Prop :=
  ∀ (c : Instr) (s t : State),
    (∀ v r, c ≠ .anchorAdd v r) → (∀ v r, c ≠ .anchorRevoke v r) → (∀ v b, c ≠ .fwWrite v b) → (∀ v, c ≠ .svnCommit v) →
    (∀ b, c ≠ .pldmFirmwareUpdate b) → s.dev.secWait = none →
    (∀ v addr n x, c = .registerWrite v addr n x → barTarget s.dev v addr ≠ some (Reg.info .secOpCtrl).offset) →
    (∀ h m a op, c = .coreAccess h m a op → untag a ≠ .localAddr (mmioBase + (Reg.info .secOpCtrl).offset) ∧
      ∀ k, untag a ≠ .pod k (mmioBase + (Reg.info .secOpCtrl).offset)) →
    (∀ x r, c = .sortingOfficeRequest x r → r.addr ≠ mmioBase + (Reg.info .secOpCtrl).offset) →
    ((s.dev.held = [] ∧ s.dev.posted = []) ∨ ((∀ v addr n x, c ≠ .registerWrite v addr n x) ∧ (∀ h m a op, c ≠ .coreAccess h m a op) ∧
      (∀ x r, c ≠ .sortingOfficeRequest x r) ∧ (∀ e, c ≠ .structInstallDone e) ∧ (∀ p, c ≠ .structureTableError p) ∧ ∀ l, c ≠ .letterComplete l)) →
    exec c s = .next t → t.sec = s.sec

/-- A courier frame is read as it was written. For every frame whose fields fit the header and whose KIND and length
agree, with LSEQ and LACK of 12 bits, parsing its bytes gives the frame (without its routing key, which is not sent),
its LSEQ and its LACK: no bit of the header or the body is dropped, and the CRC-32C of the trailer is accepted. -/
def Obligations.FrameCodec : Prop :=
  ∀ (f : Frame) (lseq lack : Nat),
    f.vc < 4 → f.dl < 2 → f.src < 256 → f.dst < 256 → f.hdr < 2 ^ 64 → lseq < 4096 → lack < 4096 →
    ((f.kind = 1 ∧ f.body.length = 16) ∨ (f.kind = 2 ∧ f.body.length ≤ 256) ∨ (f.kind = 3 ∧ f.body.length = 4608) ∨
      (f.kind = 4 ∧ f.body.length = 5312)) →
    Frame.parse (f.bytes lseq lack) = some ({ f with key := 0 }, lseq, lack)

/-- The address map and the pseudo-channel map. For every partition p, slab offset, SRAM window w and window offset, and
MMIO offset, the address formed as R25 and R26 form it is found in that slab, window or MMIO block; every other 46-bit
address is unmapped. Whatever the interleave sets, two addresses of a slab with the same stack, channel, pseudo-
channel and offset are the same address; and every location lies among 8 stacks, 32 channels, 2 pseudo-channels and 2
GiB. -/
def Obligations.AddressMaps : Prop :=
  ((∀ p a, p < 4 → a < 2 ^ 40 → place (slabBase p + a) = .slab p) ∧
  (∀ p w o, p < 4 → w < 32 → o < 0x10000000 → place (windowBase p w + o) = .window p w o) ∧
  (∀ o, o < 2 ^ 32 → place (mmioBase + o) = .mmio o) ∧
  (∀ a, a < 2 ^ 46 → (0x40000000000 ≤ a ∧ a < 0x200000000000) ∨ (0x200800000000 ≤ a ∧ a < 0x3F0000000000) ∨
    0x3F0100000000 ≤ a → place a = .unmapped)) ∧
  ((∀ iset a b : Nat, a < 2 ^ 40 → b < 2 ^ 40 → pcLoc iset a = pcLoc iset b → a = b) ∧
  (∀ iset a : Nat, (pcLoc iset a).stack < 8 ∧ (pcLoc iset a).chan < 32 ∧ (pcLoc iset a).pc < 2 ∧ (pcLoc iset a).off < 2 ^ 31))

/-- Power comes up and is removed. STANDBY_ISLAND_POWER_UP powers the island; PWR_EN_ASSERT with PWR_EN low closes the
switch and, after 50 ms low, is a power cycle that ends OFF; INPUT_48V_GOOD with the island powered, PWR_EN high, no
rails and not OFF raises the rails, samples the five straps and extends SEC_MEAS[0] by the boot ROMs' digest. Nothing
else changes. With the rails up, an undervoltage, an overvoltage, an overload and a thermal trip remove them and leave
the module OFF, and PWR_EN low removes them; the trip also latches THERM_TRIP and tells the tray controller. After the
loss of the rails every register but those of R498 reads its reset value, every byte of memory is undefined, no letter
is held, and the queue, the fuses, the standby island and PWR_EN are as they were. Loss of the standby island keeps
THERM_TRIP and the fuses. Which registers survive a loss of the rails beyond THERM_TRIP follows R498's table. Under
conditions on the state and the operands alone it concludes that exec answers a next state for: input48vGood,
pwrEnAssert, pwrEnDeassert, undervoltageRemoval, overvoltageRemoval, inputOverloadRemoval, standbyIslandLoss,
thermalTrip, standbyIslandPowerUp. -/
def Obligations.RailsUpAndDown : Prop :=
  (∀ (s : State) (lowMs straps : Nat),
    (Answers .standbyIslandPowerUp s fun t => t = { s with dev := { s.dev with power := { s.dev.power with standby := true } } }) ∧
    (s.dev.power.pwrEn = false → Answers (.pwrEnAssert lowMs) s fun t =>
      t = { s with dev := { s.dev with power :=
        { s.dev.power with pwrEn := true, off := s.dev.power.off && decide (lowMs < 50) } } }) ∧
    (s.dev.power.standby = true → s.dev.power.pwrEn = true → s.dev.power.rails = false → s.dev.power.off = false →
      Answers (.input48vGood straps) s fun t =>
        Becomes s t { s.dev with power := { s.dev.power with rails := true, straps := straps % 32, millivolts := 40000, tripDue := s.dev.bit .thermTrip 8 } }
          (measChange s.dev 0 Config.romDigest))) ∧
  ((∀ s : State, s.dev.power.rails = true →
    (Answers .undervoltageRemoval s fun t => t = { s with dev := s.dev.railsOff true }) ∧
    (Answers .overvoltageRemoval s fun t => t = { s with dev := s.dev.railsOff true }) ∧
    (Answers .inputOverloadRemoval s fun t => t = { s with dev := s.dev.railsOff true }) ∧
    (Answers .pwrEnDeassert s fun t => t = { s with dev := { s.dev.railsOff s.dev.power.off with
      power := { (s.dev.railsOff s.dev.power.off).power with pwrEn := false } } }) ∧
    (∀ source temp v, source < 132 → (if source < 100 then 115 else 110) ≤ temp → v = source + 2 ^ 8 + min temp 255 * 2 ^ 16 →
      Answers (.thermalTrip source temp) s fun t =>
        t = { s with dev := ((s.dev.setReg .thermTrip (BitVec.ofNat 64 v)).railsOff true).send (.tray 2 [v]) }) ∧
    (Answers .standbyIslandLoss s fun t => t.pending = s.pending ∧ t.sec = s.sec ∧ t.dev.power.standby = false ∧
      t.dev.power.rails = false ∧ t.dev.i3cAddr = none ∧ t.dev.reg .thermTrip = s.dev.reg .thermTrip ∧
      t.dev.fld .secSvn 15 0 = s.sec.fusedMin % 2 ^ 16)) ∧
  (∀ (d : Dev) (off : Bool),
    (∀ r, (d.railsOff off).reg r = if survives r then d.reg r else r.reset) ∧
    (∀ a < 2 ^ 46, (d.railsOff off).mem.get a = Config.freeByte d.tick a) ∧
    (d.railsOff off).letters = [] ∧ (d.railsOff off).ctxs = [] ∧ (d.railsOff off).pcie = Pcie.reset ∧
    (d.railsOff off).power.rails = false ∧ (d.railsOff off).power.off = off ∧
    (d.railsOff off).power.standby = d.power.standby ∧ (d.railsOff off).power.pwrEn = d.power.pwrEn))

/-- The firmware boots and the gate comes up. FIRMWARE_BOOT_DONE with the rails up, before the Clerk has started and
before any incident ring is enabled: when the image in flash passes step 2 of R440 the version and the SVN of the
image are shown, SEC_MEAS[1] takes its digest, the gate section is kept for step 4, the Clerk runs, the partitions are
up at 600 mV and GATE_BOOT.STAGE is 1; when it does not, SEC_STATUS shows recovery mode with the cause, no Clerk runs,
CLERK_FW_VERSION and IMAGE_SVN read zero and GATE_BOOT.STAGE stays. The signature check is the verification of
Falcon-1024, which the model computes (log entry 3). GATE_SECTION_LOADED with the Clerk running extends SEC_MEAS[2] by
the digest of the gate section of the image that was accepted, and in either case draws the nonces;
DIE_AUTHENTICATION_DONE, once the gate section is loaded, sets SEC_DIE_AUTH for the dies whose answers verify and
holds a partition with a failed die in reset, and a failed die of the module enters recovery mode with cause 4;
GATE_READY after authentication, with no switch of a function queued, ends Configuration Request Retry Status and sets
GATE_BOOT.STAGE to 2, and enables all 16 ports unless the module is in recovery mode. Under conditions on the state
and the operands alone it concludes that exec answers a next state for: firmwareBootDone, gateSectionLoaded,
dieAuthenticationDone, gateReady. -/
def Obligations.BootPath : Prop :=
  (∀ (s : State) (b : List Byte),
    s.dev.power.rails = true → s.dev.power.clerk = false → s.dev.stepFour = false → s.dev.recovery = false →
    s.sec.flash = some b → s.dev.power.tripDue = false → s.dev.incSeen = false →
    Answers .firmwareBootDone s fun t => t.pending = s.pending ∧ t.sec = s.sec ∧
      (firmwareCause s.sec b = none →
        t.dev.power = { s.dev.power with clerk := true } ∧ t.dev.stepFour = true ∧ t.dev.gateImage = sectionOf b 0x18 ∧ t.dev.fld .gateBoot 2 0 = 1 ∧
        (∀ p < 4, t.dev.down p = false ∧ t.dev.fld (.pwrPartStatus p) 11 2 = 600) ∧
        t.dev.reg .clerkFwVersion = BitVec.ofNat 64 (field b 0xC 4) ∧ t.dev.fld .secSvn 31 16 = field b 4 2 ∧
        (∀ w < 8, t.dev.reg (.secMeas 1 w) =
          BitVec.ofNat 64 (field (shake256 (s.dev.meas 1 ++ imageDigest b)) (8 * w) 8)) ∧
        t.dev.mem = s.dev.mem ∧ t.dev.out = s.dev.out) ∧
      (∀ c, firmwareCause s.sec b = some c →
        t.dev.power = s.dev.power ∧ t.dev.stepFour = false ∧ t.dev.recovery = true ∧ t.dev.fld .secStatus 15 8 = c ∧
        t.dev.reg .clerkFwVersion = 0#64 ∧ t.dev.fld .secSvn 31 16 = 0 ∧ t.dev.fld .gateBoot 2 0 = s.dev.fld .gateBoot 2 0)) ∧
  ((∀ s : State, s.dev.power.rails = true → s.dev.power.gateLoaded = false →
    (s.dev.power.clerk = true → Answers .gateSectionLoaded s fun t =>
      Becomes s t { s.dev with power := { s.dev.power with gateLoaded := true }, authNonce := s.dev.tick, tick := s.dev.tick + 1 }
        (measChange s.dev 2 (shake256 s.dev.gateImage))) ∧
    (s.dev.power.clerk = false → s.dev.recovery = true → Answers .gateSectionLoaded s fun t =>
      Becomes s t { s.dev with power := { s.dev.power with gateLoaded := true }, authNonce := s.dev.tick, tick := s.dev.tick + 1 } [])) ∧
  (∀ (s : State) (answers : List (Nat × List Byte × List Byte)) (passed : List Nat), passed = diesPassed s.dev.authNonce answers →
    s.dev.power.gateLoaded = true → s.dev.power.authDone = false → (s.dev.power.clerk = true ∨ s.dev.recovery = true) →
    s.dev.incSeen = false → Answers (.dieAuthenticationDone answers) s fun t => t.pending = s.pending ∧ t.sec = s.sec ∧
      t.dev.power = { s.dev.power with authDone := true } ∧
      (∀ k < 4, ∀ i < 32, t.dev.bit (.secDieAuth k) i = decide (32 * k + i ∈ passed ∧ 32 * k + i < 100 ∧ 32 * k + i ≠ 98)) ∧
      (∀ p < 4, (∃ n, 24 * p ≤ n ∧ n < 24 * p + 24 ∧ n ∉ passed) → t.dev.down p = true ∧ t.dev.bit .gateBoot (12 + p) = true) ∧
      (s.dev.recovery = false → ((∃ n, 96 ≤ n ∧ n < 100 ∧ n ≠ 98 ∧ n ∉ passed) →
        t.dev.recovery = true ∧ t.dev.fld .secStatus 15 8 = 4 ∧ t.dev.fld .secSvn 31 16 = 0 ∧ t.dev.reg .clerkFwVersion = 0#64) ∧
        ((∀ n, 96 ≤ n → n < 100 → n ≠ 98 → n ∈ passed) → t.dev.recovery = false))) ∧
  (∀ s : State, s.dev.power.authDone = true → s.dev.pcie.perst = false → s.dev.fld .gateBoot 2 0 < 2 →
    s.dev.fns = [] → Answers .gateReady s fun t => t.pending = s.pending ∧ t.sec = s.sec ∧ t.dev.pcie = { s.dev.pcie with retry := false } ∧
      t.dev.gateReady = true ∧
      (s.dev.recovery = true → Becomes s t { s.dev with pcie := { s.dev.pcie with retry := false } }
        [(.gateBoot, fset (s.dev.reg .gateBoot) 2 0 2)]) ∧
      (s.dev.recovery = false → ∀ n < 16, t.dev.bit (.crrPortCtrl n) 0 = true)))

/-- Chip reset, by the register, by a Function Level Reset and by PERST#. A granted write of 0x0000_C41F to GATE_RESET is
a chip reset and any other value does nothing; a Function Level Reset after gate ready is a chip reset; PERST_ASSERT
after gate ready is a chip reset with the link held, and before gate ready holds the link alone; PERST_DEASSERT
releases it. A chip reset leaves every register but those of R498 at its reset value except that SEC_MEAS[0] is
measured anew and that GATE_BOOT counts the incidents of recovery mode that are kept (the model keeps them, log entry
14); stacked memory keeps its bytes, but that of a partition with a lost channel, which is trained anew, is undefined;
letters, contexts and structures are gone; rails, straps and PWR_EN stay. Under conditions on the state and the
operands alone it concludes that exec answers a next state for: functionLevelReset, perstAssert, perstDeassert,
chipReset. -/
def Obligations.ChipResets : Prop :=
  (∀ (s : State) (v : Via) (value : W32) (d : Dev), Granted s.dev v .high .gateReset → d = s.dev.across v .gateReset →
    Answers (.chipReset v value) s fun t => t = { s with dev := { (if value = 0xC41F#32 then d.chipReset else d) with
      out := (if value = 0xC41F#32 then d.chipReset else d).out ++ viaAck v } }) ∧
  (∀ s : State, s.dev.gateReady = true →
    (Answers .functionLevelReset s fun t => t = { s with dev := s.dev.chipReset }) ∧
    (Answers .perstAssert s fun t => t = { s with dev := { s.dev.chipReset with pcie := { Pcie.reset with perst := true } } })) ∧
  (∀ s : State, s.dev.gateReady = false →
    Answers .perstAssert s fun t => t = { s with dev := { s.dev with pcie := { Pcie.reset with perst := true } } }) ∧
  (∀ s : State, Answers .perstDeassert s fun t => t = { s with dev := { s.dev with pcie := { s.dev.pcie with perst := false } } }) ∧
  (∀ d : Dev,
    (∀ r, (∀ w, r ≠ .secMeas 0 w) → r ≠ .secMeasCount 0 → r ≠ .gateBoot → d.chipReset.reg r = if survives r then d.reg r else r.reset) ∧
    d.chipReset.reg .gateBoot = fset (Reg.reset .gateBoot) 20 16 (keptIncidents d).length ∧
    (∀ p < 4, ∀ a, slabBase p ≤ a → a < slabBase (p + 1) →
      d.chipReset.mem.get a = if (List.range 8).all fun k => d.reg (.memChanLost p k) = 0#64 then d.mem.get a else Config.freeByte d.tick a) ∧
    d.chipReset.letters = [] ∧ d.chipReset.ctxs = [] ∧ d.chipReset.parts = [] ∧ d.chipReset.modImage = none ∧
    d.chipReset.power.rails = d.power.rails ∧ d.chipReset.power.straps = d.power.straps ∧ d.chipReset.power.pwrEn = d.power.pwrEn)

/-- PCIe configuration requests and MSI-X unmasks. With the rails up and PERST# high: before gate ready a request receives
Configuration Request Retry Status and changes nothing else; after it a read is completed with the addressed
doubleword of the header (vendor and device at 0), of a capability or of DOE Discovery, and a write of the command
register, of the sizes, of MSI-X control, of a BAR, of the BAR2 size and of the power state changes that field of
configuration space alone; values that no such field takes, and bits of AER that are cleared, change that field no
further. The places of the capabilities and the words that the spec does not give are the implementation's (log entry
9). Unmasking vector v while MSI-X is enabled and the function is not masked clears the mask bit, and when the vector
is pending sends its message, address and data from its table entry, and clears the pending bit; a vector that is not
pending sends nothing, nor does one while MSI-X is off or the function is masked. Unmasking the function and setting
MSI-X Enable change that field of configuration space, and after it a vector that was pending is pending still exactly
when it stays masked. Nothing else changes. Under conditions on the state and the operands alone it concludes that
exec answers a next state for: pcieConfigRequest, msixUnmask. -/
def Obligations.ConfigurationSpace : Prop :=
  (∀ s : State, s.dev.power.rails = true → s.dev.pcie.perst = false →
    (s.dev.pcie.retry = true → ∀ op, Answers (.pcieConfigRequest op) s fun t =>
      t = { s with dev := { s.dev with out := s.dev.out ++ [.cfgRetry] } }) ∧
    (s.dev.pcie.retry = false →
      (∀ off, Answers (.pcieConfigRequest (.read off)) s fun t =>
        t = { s with dev := { s.dev with out := s.dev.out ++ [.cfgCompletion (cfgWord s.dev off)] } }) ∧
      cfgWord s.dev 0 = 0x40961FA7#32 ∧
      (∀ k i, Answers (.pcieConfigRequest (.capability k i)) s fun t =>
        t = { s with dev := { s.dev with out := s.dev.out ++ [.cfgCompletion (capWord s.dev k i)] } }) ∧
      (∀ i, Answers (.pcieConfigRequest (.doeDiscovery i)) s fun t =>
        t = { s with dev := { s.dev with out := s.dev.out ++ [.cfgCompletion (doeWord i)] } }) ∧
      (∀ m, Answers (.pcieConfigRequest (.aerClear m)) s fun t =>
        t = { s with dev := { s.dev with pcie := { s.dev.pcie with aer := t.dev.pcie.aer } } } ∧
        ∀ i, t.dev.pcie.aer.testBit i = (s.dev.pcie.aer.testBit i && !m.testBit i)) ∧
      (∀ m b, Answers (.pcieConfigRequest (.command m b)) s fun t =>
        t = { s with dev := { s.dev with pcie := { s.dev.pcie with memSpace := m, busMaster := b } } }) ∧
      (∀ a b, a ∈ [128, 256, 512] → b ∈ [128, 256, 512, 1024, 2048, 4096] → Answers (.pcieConfigRequest (.sizes a b)) s fun t =>
        t = { s with dev := { s.dev with pcie := { s.dev.pcie with mps := a, mrrs := b } } }) ∧
      (∀ a b, a ∉ [128, 256, 512] → b ∉ [128, 256, 512, 1024, 2048, 4096] → exec (.pcieConfigRequest (.sizes a b)) s = .next s) ∧
      (∀ k, Answers (.pcieConfigRequest (.bar2Size k)) s fun t =>
        t = { s with dev := { s.dev with pcie := { s.dev.pcie with bar2Log2 := if 30 ≤ k ∧ k ≤ 42 then k else s.dev.pcie.bar2Log2 } } }) ∧
      (∀ n v, Answers (.pcieConfigRequest (.barBase n v)) s fun t =>
        t = { s with dev := { s.dev with pcie := { s.dev.pcie with bar0 := if n = 0 then v else s.dev.pcie.bar0, bar2 := if n = 2 then v else s.dev.pcie.bar2, bar4 := if n = 4 then v else s.dev.pcie.bar4 } } }) ∧
      (∀ on mask, Answers (.pcieConfigRequest (.msix on mask)) s fun t =>
        t = { s with dev := { s.dev with pcie := { s.dev.pcie with msixEnable := on, funcMask := mask }, regs := t.dev.regs, out := t.dev.out } } ∧
        ((on = false ∨ mask = true) → t.dev.out = s.dev.out ∧ ∀ r, t.dev.reg r = s.dev.reg r)) ∧
      (∀ off, Answers (.pcieConfigRequest (.power off)) s fun t =>
        t = { s with dev := { s.dev with pcie := { s.dev.pcie with d3hot := off } } }))) ∧
  ((∀ (s : State) (v : Nat), v < 2048 → s.dev.pcie.msixEnable = true → s.dev.pcie.funcMask = false →
    (s.dev.bit (.msixPba (v / 64)) (v % 64) = true → Answers (.msixUnmask (.vector v)) s fun t =>
      Becomes s t { s.dev with out := s.dev.out ++
          [.msix v (s.dev.regN (.msixEntry (4 * v)) + 2 ^ 32 * s.dev.regN (.msixEntry (4 * v + 1)))
            ((s.dev.reg (.msixEntry (4 * v + 2))).truncate 32)] }
        [(.msixPba (v / 64), bset (s.dev.reg (.msixPba (v / 64))) (v % 64) false),
         (.msixEntry (4 * v + 3), bset (s.dev.reg (.msixEntry (4 * v + 3))) 0 false)]) ∧
    (s.dev.bit (.msixPba (v / 64)) (v % 64) = false → Answers (.msixUnmask (.vector v)) s fun t =>
      Becomes s t s.dev [(.msixEntry (4 * v + 3), bset (s.dev.reg (.msixEntry (4 * v + 3))) 0 false)])) ∧
  (∀ (s : State) (v : Nat), v < 2048 → (s.dev.pcie.msixEnable = false ∨ s.dev.pcie.funcMask = true) → Answers (.msixUnmask (.vector v)) s fun t =>
    Becomes s t s.dev [(.msixEntry (4 * v + 3), bset (s.dev.reg (.msixEntry (4 * v + 3))) 0 false)]) ∧
  (∀ (s : State) (v : Nat), 2048 ≤ v → exec (.msixUnmask (.vector v)) s = .next s) ∧
  (∀ s : State, Answers (.msixUnmask .function) s fun t =>
    t = { s with dev := { s.dev with pcie := { s.dev.pcie with funcMask := false }, regs := t.dev.regs, out := t.dev.out } } ∧
    ∀ v < 2048, t.dev.bit (.msixPba (v / 64)) (v % 64) =
      (s.dev.bit (.msixPba (v / 64)) (v % 64) && (s.dev.bit (.msixEntry (4 * v + 3)) 0 || !s.dev.pcie.msixEnable))) ∧
  (∀ s : State, Answers (.msixUnmask .enable) s fun t =>
    t = { s with dev := { s.dev with pcie := { s.dev.pcie with msixEnable := true }, regs := t.dev.regs, out := t.dev.out } } ∧
    ∀ v < 2048, t.dev.bit (.msixPba (v / 64)) (v % 64) =
      (s.dev.bit (.msixPba (v / 64)) (v % 64) && (s.dev.bit (.msixEntry (4 * v + 3)) 0 || s.dev.pcie.funcMask))))

/-- A register write acts by access type. A granted write of 4 or 8 bytes to a register without commands of its own, in a
block that is not dark, once the sorting offices let it through, gives each writable bit of the written bytes the
written value, clears each write-one-to-clear bit of them that is written with one, and leaves every other bit, every
other register but the offices' byte counts, memory and all else as they were. Under conditions on the state and the
operands alone it concludes that exec answers a next state for: registerWrite. -/
def Obligations.RegisterWriteByType : Prop :=
  ∀ (s : State) (v : Via) (addr off size b : Nat) (value : W64) (r : Reg),
    barTarget s.dev v addr = some off → grant s.dev v (guardAt off) (decide (off < 0x100000)) = .yes →
    imsicAt off = none → blockDark s.dev off true = false → Reg.ofOffset off = some (r, b) →
    ownRow r = false → sizeOk r b size = true → writeIgnored s.dev r = false →
    (∀ p, r ≠ .fltRingCfg p) → r ≠ .gateIncRingCfg → (∀ p, r ≠ .cohStatus p) → (∀ n, r ≠ .crrPortStatus n) →
    (∀ i, r ≠ .msixEntry i) → (∀ p, r ≠ .hallStashOvf p) → (∀ k, r ≠ .sortPortBytes k) → OfficesPass s.dev v off →
    (b = 0 → ∀ k, rowCmds s.dev v r size (value.toNat % 2 ^ (8 * size)) k = []) →
    Answers (.registerWrite v addr size value) s fun t =>
      t = { s with dev := { s.dev with regs := t.dev.regs, out := s.dev.out ++ viaAck v } } ∧
      (∀ q, q ≠ r → t.dev.reg q = (s.dev.acrossAt v off size).reg q) ∧
      (∀ i < 64, (t.dev.reg r).getLsbD i =
        if 8 * b ≤ i ∧ i < 8 * b + 8 * size ∧ r.info.rw.testBit i ∧ ¬ (r.info.w1c.testBit i ∧ value.getLsbD (i - 8 * b)) then
          value.getLsbD (i - 8 * b)
        else (s.dev.reg r).getLsbD i &&
          !(decide (8 * b ≤ i ∧ i < 8 * b + 8 * size) && r.info.w1c.testBit i && value.getLsbD (i - 8 * b)))

/-- Who may write a guarded register. A write to the guarded registers of the gate, the loader, the mailboxes, the
partitions, the fault blocks and the security and Clerk blocks by a core in supervisor or user mode changes nothing
and gives the core a store access fault (the other mailbox registers, which engines may not write, are open to it); by
an engine it is an address fault: the incident is raised and the letter, if one is named, ends with ADDRESS_FAULT; by
the commander while its BARs are off it changes nothing at all. The same write by a core in machine or hypervisor mode
is granted. Under conditions on the state and the operands alone it concludes that exec answers a next state for:
registerWrite. -/
def Obligations.PrivilegedWrites : Prop :=
  ∀ (s : State) (addr size : Nat) (value : W64) (hart : Nat) (mode : CoreMode),
    guardAt addr ≠ .open_ →
    (mode.high = false → guardAt addr ≠ .noEngine → Answers (.registerWrite (.core hart mode) addr size value) s fun t =>
      t = { s with dev := { s.dev with out := s.dev.out ++ [.coreFault hart 7] } }) ∧
    (guardAt addr = .noEngine → grant s.dev (.core hart mode) (guardAt addr) (decide (addr < 0x100000)) = .yes) ∧
    (∀ c p n k stage, Answers (.registerWrite (.engine c p n k none stage) addr size value) s fun t =>
      t = { s with dev := s.dev.stopIncident (viaWho s.dev c p n k none stage) (.addr (mmioBase + addr)) }) ∧
    (∀ c p n k l stage, Answers (.registerWrite (.engine c p n k (some l) stage) addr size value) s fun t =>
      t = { s with dev := (s.dev.stopIncident (viaWho s.dev c p n k (some l) stage) (.addr (mmioBase + addr))).finish l 0x10 stage }) ∧
    (barsOn s.dev = false → Answers (.registerWrite .bar4 addr size value) s fun t => t = s) ∧
    (mode.high = true → grant s.dev (.core hart mode) (guardAt addr) (decide (addr < 0x100000)) = .yes)

/-- Registers whose writes are commands of their own. A granted write sets GATE_APERTURE_BASE, the window of
GATE_MMIO_WINDOW, PWR_CAP clamped to 1,000 to 4,000 W, the junction target of THERM_CTRL clamped to 70 to 95 degrees,
and STRUCT_MODULE_NUMBER while the loader is idle and nothing is installed; the write of STRUCT_MODULE_NUMBER is
ignored otherwise. Nothing else changes but the sorting offices' byte counts where the write crosses them. A write
through BAR4 at the offset of such a register is that command. A read finds zero in the doorbell pages and the
reserved ranges of BAR0 and BAR4, and in the gate page of BAR0 what BAR4 has there. Under conditions on the state and
the operands alone it concludes that exec answers a next state for: gateApertureBaseWrite, gateMmioWindowWrite,
structModuleNumberWrite, pwrCapWrite, thermCtrlWrite. -/
def Obligations.OwnRegisterWrites : Prop :=
  ∀ (s : State) (v : Via) (value : W32),
    (Granted s.dev v .open_ .gateApertureBase → Answers (.gateApertureBaseWrite v value) s fun t =>
      Becomes (s.across v .gateApertureBase) t { s.dev with out := s.dev.out ++ viaAck v }
        [(.gateApertureBase, fset (s.dev.reg .gateApertureBase) 11 0 value.toNat)]) ∧
    (Granted s.dev v .open_ .gateMmioWindow → Answers (.gateMmioWindowWrite v value) s fun t =>
      Becomes (s.across v .gateMmioWindow) t { s.dev with out := s.dev.out ++ viaAck v }
        [(.gateMmioWindow, fset (s.dev.reg .gateMmioWindow) 31 23 (bitsN value.toNat 31 23))]) ∧
    (Granted s.dev v .power .pwrCap → Answers (.pwrCapWrite v value) s fun t =>
      Becomes (s.across v .pwrCap) t { s.dev with out := s.dev.out ++ viaAck v }
        [(.pwrCap, fset (s.dev.reg .pwrCap) 15 0 (max 1000 (min 4000 (value.toNat % 2 ^ 16))))]) ∧
    (Granted s.dev v .power .thermCtrl → Answers (.thermCtrlWrite v value) s fun t =>
      Becomes (s.across v .thermCtrl) t { s.dev with out := s.dev.out ++ viaAck v }
        [(.thermCtrl, fset (s.dev.reg .thermCtrl) 7 0 (max 70 (min 95 (value.toNat % 256))))]) ∧
    (Granted s.dev v .high .structModuleNumber →
      (s.dev.loadState = 0 → (∀ p < 4, s.dev.installed p = false) → Answers (.structModuleNumberWrite v value) s fun t =>
        Becomes (s.across v .structModuleNumber) t { s.dev with out := s.dev.out ++ viaAck v }
          [(.structModuleNumber, fset (s.dev.reg .structModuleNumber) 7 0 value.toNat)]) ∧
      (s.dev.loadState ≠ 0 ∨ (∃ p < 4, s.dev.installed p = true) → Answers (.structModuleNumberWrite v value) s fun t =>
        t = { s with dev := { s.dev.across v .structModuleNumber with out := s.dev.out ++ viaAck v } })) ∧
    (barsOn s.dev = true → s.dev.recovery = false → barWait s.dev = false → ∀ x : W64,
      (∀ c r, ((c = .gateApertureBaseWrite .bar4 (x.truncate 32) ∧ r = .gateApertureBase) ∨ (c = .gateMmioWindowWrite .bar4 (x.truncate 32) ∧ r = .gateMmioWindow) ∨
          (c = .pwrCapWrite .bar4 (x.truncate 32) ∧ r = .pwrCap) ∨ (c = .thermCtrlWrite .bar4 (x.truncate 32) ∧ r = .thermCtrl)) →
        exec (.registerWrite .bar4 (Reg.info r).offset 4 x) s = exec c s) ∧
      (∀ a n, a < 0x100000 ∨ 0x200000 ≤ a → barRead s.dev .bar0 a n = some 0) ∧
      (∀ a n, a < 0x100000 → barRead s.dev .bar0 (0x100000 + a) n = barRead s.dev .bar4 a n) ∧
      (∀ a n, 0x400000 ≤ a → a < 0x800000 → barRead s.dev .bar4 a n = some 0))

/-- What BAR2 reaches. With the BARs on and outside recovery mode, an AtomicOp of the aperture completes with Unsupported
Request, and an aperture access to bytes of a trained slab that nothing holds back is served: the read is completed
with the bytes of memory, the write stores its bytes at the address that the aperture gives; every byte outside reads
as before, and no register but the sorting offices' byte counts changes. When the home partition of an aperture access
is down or not trained, the read is completed poisoned with data all ones, the write is dropped; both are counted at
the sorting office and raise incident class 8 with the address, and no other effect follows. Under conditions on the
state and the operands alone it concludes that exec answers a next state for: bar2Read, bar2Write. -/
def Obligations.Aperture : Prop :=
  (∀ (s : State) (off len p : Nat) (data : List Byte),
    apertureOn s.dev off len = true → homeAway s.dev (apertureAddr s.dev off) = false → len ≤ 4096 → data.length = len →
    place (apertureAddr s.dev off) = .slab p → exists_ s.dev (apertureAddr s.dev off) len true = true →
    s.dev.installing p = false → (∀ w, homeCheck s.dev p (apertureAddr s.dev off) len w = none) → s.dev.lines = [] → BarClear s.dev off len data →
    (Answers (.bar2Read off (.atomic len)) s fun t =>
      t = { s with dev := { s.dev with pcie := { s.dev.pcie with aer := s.dev.pcie.aer ||| 2 ^ 20 }, out := s.dev.out ++ [.unsupported] } }) ∧
    (Answers (.bar2Read off (.read len)) s fun t =>
      t = { s with dev := { s.dev with regs := t.dev.regs, out := s.dev.out ++
        [.completion (s.dev.mem.read (apertureAddr s.dev off) len) false] } } ∧
      ∀ r, (∀ i, r ≠ .sortPortBytes i) → t.dev.reg r = s.dev.reg r) ∧
    (Answers (.bar2Write off data) s fun t =>
      t = { s with dev := { s.dev with regs := t.dev.regs, mem := t.dev.mem, reservations := t.dev.reservations } } ∧
      (∀ r, (∀ i, r ≠ .sortPortBytes i) → t.dev.reg r = s.dev.reg r) ∧
      t.dev.mem.read (apertureAddr s.dev off) len = data ∧
      ∀ a, ¬ (apertureAddr s.dev off ≤ a ∧ a < apertureAddr s.dev off + len) → t.dev.mem.get a = s.dev.mem.get a)) ∧
  (∀ (s : State) (off len : Nat) (data : List Byte),
    apertureOn s.dev off len = true → homeAway s.dev (apertureAddr s.dev off) = true → len ≤ 4096 → data.length = len → BarClear s.dev off len data →
    (Answers (.bar2Read off (.read len)) s fun t =>
      t = { s with dev := ((s.dev.count (.sortDownAnswers (apertureAddr s.dev off / 2048 % 2)) 1).send
        (.completion (List.replicate len 0xFF#8) true)).raise (barInc (apertureAddr s.dev off) false) }) ∧
    (Answers (.bar2Write off data) s fun t =>
      t = { s with dev :=
        (s.dev.count (.sortDownAnswers (apertureAddr s.dev off / 2048 % 2)) 1).raise (barInc (apertureAddr s.dev off) true) }))

/-- Completions of reads that the gate issued. A completion in success of a current letter's read gives its data to the
waiting access and changes nothing else; a completion in error and a timeout of such a read raise incident class 9 and
end the letter with MEMORY_ERROR, and set the AER bit of a poisoned completion or of a timeout; a completion of a read
whose generation is no longer the gate edge's is a dead letter. After each of them a flush that waits for a tag goes
out. Under conditions on the state and the operands alone it concludes that exec answers a next state for:
hostReadCompletion, hostReadTimeout. -/
def Obligations.GateReadsEnd : Prop :=
  ∀ (s : State) (r : Remote) (l : LetterId) (stage c g : Nat) (data : List Byte) (x : Letter),
    (hostReads s.dev).find? (fun q => q.req = r.req) = some r →
    r.who = .letter l stage → r.ctx = some (c, g) → findLetter s.dev l = some x →
    (s.dev.edgeGen gateEdge c = g →
      (Answers (.hostReadCompletion r.req .success data) s fun t =>
        t = { s with dev := ({ s.dev with remotes := s.dev.remotes.map fun (y : Remote) => if y.tag = r.tag then { y with data := some (slice data 0 r.len) } else y } : Dev).flushNext }) ∧
      (∀ st : CplStatus, st ≠ .success → Answers (.hostReadCompletion r.req st data) s fun t =>
        t = { s with dev := (({ (if st = CplStatus.poisoned then s.dev.aerNote 12 else s.dev) with remotes := s.dev.remotes.filter (·.tag ≠ r.tag) }.raise
          { cls := 9, eng := 0x20, die := dieGate, part := none, ctx := some (x.ctx, x.gen), seq := l.seq, mbx := l.mbx,
            stage := stage, route := x.route, d0 := r.addr, d1 := cplCode st }).finish l 0x13 stage).flushNext }) ∧
      (Answers (.hostReadTimeout r.req) s fun t =>
        t = { s with dev := (({ s.dev.aerNote 14 with remotes := s.dev.remotes.filter (·.tag ≠ r.tag) }.raise
          { cls := 9, eng := 0x20, die := dieGate, part := none, ctx := some (x.ctx, x.gen), seq := l.seq, mbx := l.mbx,
            stage := stage, route := x.route, d0 := r.addr, d1 := 8 }).finish l 0x13 stage).flushNext })) ∧
    (s.dev.edgeGen gateEdge c ≠ g → Answers (.hostReadCompletion r.req .success data) s fun t =>
      t = { s with dev := ({ s.dev.gateDeadLetter c g with remotes := s.dev.remotes.filter (·.tag ≠ r.tag) } : Dev).flushNext })

/-- What a core's access does. On a line of its own slab or post hall that no agent holds, a hart's load and fetch return
the bytes of memory and its agent holds the line in E; a store, an AMO and cbo.zero take the line in M with the stored
bytes, and memory keeps its bytes until write-back; an AMO returns the old value; LR reserves the line, SC with the
reservation stores and returns 0 and without it stores nothing and returns 1; a fetched line stays in the instruction
cache, which later stores do not change; FENCE.I empties the hart's instruction cache. Every other line, register and
byte is as before. A load of another partition's slab is served at its home uncached: it returns the bytes of memory
and no agent holds the line; a store writes memory and is then done; an AMO writes the new value and returns the old
one. A store to the commander is issued as a posted write and is done; a load of the commander within 4 KiB and
Max_Read_Request_Size issues one read under the lowest free tag and waits for its completion, which then gives the
core its value; with 768 reads outstanding it waits. Only the sorting offices' byte counts change beside. Under
conditions on the state and the operands alone it concludes that exec answers a next state for: coreAccess. -/
def Obligations.CoreAccesses : Prop :=
  (∀ (s : State) (hart a : Nat) (mode : CoreMode),
    (∀ n, OwnLine s.dev hart a n →
      Runs (.coreAccess hart mode a (.load n)) s { s.dev with lines := [grantedLine s.dev hart a 2 []], out := s.dev.out ++ [.coreValue hart (leNat (s.dev.mem.read a n))] } ∧
      Runs (.coreAccess hart mode a (.lr n)) s { s.dev with lines := [grantedLine s.dev hart a 2 []], reservations := mapSet s.dev.reservations hart (a / 64 * 64), out := s.dev.out ++ [.coreValue hart (leNat (s.dev.mem.read a n))] } ∧
      (mapGet? s.dev.icache (hart, a / 64 * 64) = none → Runs (.coreAccess hart mode a (.fetch n)) s
        { s.dev with lines := [grantedLine s.dev hart a 2 []], icache := mapSet s.dev.icache (hart, a / 64 * 64) (s.dev.mem.read (a / 64 * 64) 64), out := s.dev.out ++ [.coreValue hart (leNat (s.dev.mem.read a n))] }) ∧
      (∀ bs, mapGet? s.dev.icache (hart, a / 64 * 64) = some bs → Runs (.coreAccess hart mode a (.fetch n)) s
        { s.dev with out := s.dev.out ++ [.coreValue hart (field bs (a % 64) n)] }) ∧
      (∀ op, opIsAmo op = true → opLen op = n → Runs (.coreAccess hart mode a op) s
        { s.dev with lines := [grantedLine s.dev hart a 3 (natLe n (opAmo op (leNat (s.dev.mem.read a n))))], reservations := reservedAfter s.dev hart a, out := s.dev.out ++ [.coreValue hart (leNat (s.dev.mem.read a n))] })) ∧
    (∀ bs, OwnLine s.dev hart a bs.length →
      Runs (.coreAccess hart mode a (.store bs)) s { s.dev with lines := [grantedLine s.dev hart a 3 bs], reservations := reservedAfter s.dev hart a, out := s.dev.out ++ [.coreDone hart] } ∧
      (mapGet? s.dev.reservations hart = some (a / 64 * 64) → Runs (.coreAccess hart mode a (.sc bs)) s
        { s.dev with lines := [grantedLine s.dev hart a 3 bs], reservations := (mapErase s.dev.reservations hart).filter fun r => r.2 ≠ a / 64 * 64 ∨ r.1 = hart, out := s.dev.out ++ [.coreValue hart 0] }) ∧
      (mapGet? s.dev.reservations hart ≠ some (a / 64 * 64) → Runs (.coreAccess hart mode a (.sc bs)) s
        { s.dev with reservations := mapErase s.dev.reservations hart, out := s.dev.out ++ [.coreValue hart 1] })) ∧
    (OwnLine s.dev hart a 64 →
      Runs (.coreAccess hart mode a .cboZero) s { s.dev with lines := [grantedLine s.dev hart a 3 (List.replicate 64 0#8)], reservations := reservedAfter s.dev hart a, out := s.dev.out ++ [.coreDone hart] } ∧
      Runs (.coreAccess hart mode a .cboClean) s { s.dev with out := s.dev.out ++ [.coreDone hart] } ∧
      Runs (.coreAccess hart mode a .cboFlush) s { s.dev with reservations := s.dev.reservations.filter fun r => r.2 ≠ a / 64 * 64, out := s.dev.out ++ [.coreDone hart] }) ∧
    (hart < 192 → s.dev.held = [] → s.dev.fld (.partCoreStatus (hart / 48) (hart % 48)) 1 0 = 1 → Runs (.coreAccess hart mode a .fenceI) s
      { s.dev with icache := s.dev.icache.filter fun e => e.1.1 ≠ hart, out := s.dev.out ++ [.coreDone hart] })) ∧
  (∀ (s : State) (hart a q n : Nat) (mode : CoreMode) (bs : List Byte),
    hart < 192 → s.dev.fld (.partCoreStatus (hart / 48) (hart % 48)) 1 0 = 1 → s.dev.held = [] → s.dev.installed (hart / 48) = true →
    0 < n → bs.length = n →
    (place a = .slab q → q ≠ hart / 48 → s.dev.lines = [] → s.dev.down q = false → s.dev.installing q = false →
      a % 2048 + n ≤ 2048 → (∀ w, homeCheck s.dev q a n w = none) →
      (Answers (.coreAccess hart mode a (.load n)) s fun t =>
        t = { s with dev := { s.dev with regs := t.dev.regs, out := s.dev.out ++ [.coreValue hart (leNat (s.dev.mem.read a n))] } } ∧
        ∀ r, (∀ i, r ≠ .sortPortBytes i) → t.dev.reg r = s.dev.reg r) ∧
      (Answers (.coreAccess hart mode a (.store bs)) s fun t =>
        t = { s with dev := { s.dev with regs := t.dev.regs, mem := s.dev.mem.write a bs, reservations := t.dev.reservations, out := s.dev.out ++ [.coreDone hart] } } ∧
        ∀ r, (∀ i, r ≠ .sortPortBytes i) → t.dev.reg r = s.dev.reg r) ∧
      (∀ op, opIsAmo op = true → opLen op = n → Answers (.coreAccess hart mode a op) s fun t =>
        t = { s with dev := { s.dev with regs := t.dev.regs, mem := s.dev.mem.write a (natLe n (opAmo op (leNat (s.dev.mem.read a n)))), reservations := t.dev.reservations, out := s.dev.out ++ [.coreValue hart (leNat (s.dev.mem.read a n))] } } ∧
        ∀ r, (∀ i, r ≠ .sortPortBytes i) → t.dev.reg r = s.dev.reg r)) ∧
    (a < 2 ^ 54 → s.dev.pcie.busMaster = true → a % 4096 + n ≤ 4096 →
      (n ≤ s.dev.pcie.mps → Answers (.coreAccess hart mode (a + 2 ^ 55) (.store bs)) s fun t =>
        t = { s with dev := { s.dev with regs := t.dev.regs, out := s.dev.out ++ [.pcieWrite a bs, .coreDone hart] } } ∧
        ∀ r, (∀ i, r ≠ .sortPortBytes i) → t.dev.reg r = s.dev.reg r) ∧
      (∀ k, n ≤ s.dev.pcie.mrrs → (∀ r ∈ s.dev.remotes, r.who ≠ .core hart) → freeTag s.dev = some k → Runs (.coreAccess hart mode (a + 2 ^ 55) (.load n)) s
        { s.dev with nextTag := s.dev.nextTag + 1, remotes := s.dev.remotes ++ [⟨s.dev.nextTag, k, a, n, false, none, .core hart, none, none⟩], out := s.dev.out ++ [.pcieRead k a n] }) ∧
      (n ≤ s.dev.pcie.mrrs → (∀ r ∈ s.dev.remotes, r.who ≠ .core hart) → freeTag s.dev = none → Runs (.coreAccess hart mode (a + 2 ^ 55) (.load n)) s
        { s.dev with held := [.core hart mode (a + 2 ^ 55) (.load n)], out := s.dev.out ++ [.coreWait hart] })))

/-- Where a resident core takes an access fault. A load of an unmapped address gives a running hart a load access fault
(5), a fetch an instruction access fault (1), a store or AMO a store/AMO access fault (7); so do an AMO to a region
whose row of R379 says No: the commander, another module and the tile windows of an installed partition. LR and SC
take the store/AMO access fault outside the hart's own slab and post hall. A load of the SEC_ and CLERK_ blocks and of
the MSI-X table faults in the lower modes. Nothing else changes; and an access of a hart that does not run changes
nothing. Under conditions on the state and the operands alone it concludes that exec answers a next state for:
coreAccess. -/
def Obligations.CoreFaults : Prop :=
  ∀ (s : State) (hart a : Nat) (mode : CoreMode) (op : CoreOp),
    hart < 192 → s.dev.held = [] → op ≠ .fenceI →
    (s.dev.fld (.partCoreStatus (hart / 48) (hart % 48)) 1 0 ≠ 1 → exec (.coreAccess hart mode a op) s = .next s) ∧
    (s.dev.fld (.partCoreStatus (hart / 48) (hart % 48)) 1 0 = 1 →
      (a < 2 ^ 46 ∧ place a = .unmapped) ∨ (opIsAmo op = true ∧ 2 ^ 54 ≤ a ∧ untag a ≠ .pod (modNumber s.dev) (a % 2 ^ 46)) ∨
      (opIsAmo op = true ∧ ∃ w o, place a = .window (hart / 48) w o ∧ w ≠ 19) ∨
      ((∃ n, op = .load n) ∧ mode.high = false ∧ ∃ o, place a = .mmio o ∧ secBlock o = true) →
      Runs (.coreAccess hart mode a op) s { s.dev with out := s.dev.out ++ [.coreFault hart (opCause op)] }) ∧
    (s.dev.fld (.partCoreStatus (hart / 48) (hart % 48)) 1 0 = 1 → opIsLrSc op = true →
      (∃ q w o, place a = .window q w o ∧ (w ≠ 19 ∨ q ≠ hart / 48)) ∨ (∃ q, place a = .slab q ∧ q ≠ hart / 48) →
      Runs (.coreAccess hart mode a op) s { s.dev with out := s.dev.out ++ [.coreFault hart 7] })

/-- The directory serves a line under MESI. When agent b holds a line in M with the hold over: a Read by another agent
writes the data back, leaves b and the reader in S and gives the data; a Read for ownership takes b's copy away,
leaves memory and gives the data in M; a Write-back by b writes memory and ends its copy; an uncached read leaves b in
S and returns the data from memory; an uncached write of the line replaces memory and ends the copy without write-
back; a partial write merges its bytes into the data written back. A Read of a line that nobody holds is granted in E,
and an Eviction notice ends a copy in S or E, memory untouched. Under conditions on the state and the operands alone
it concludes that exec answers a next state for: directoryRequest. -/
def Obligations.DirectoryServes : Prop :=
  ∀ (s : State) (p line ag b : Nat) (data : List Byte),
    p < 4 → line % 64 = 0 → coherent line = true → homeOf line = p → exists_ s.dev line 64 true = true →
    s.dev.resetting p = false → s.dev.held = [] → (∀ w, homeCheck s.dev p line 64 w = none) → ag ≠ b → data.length = 64 →
    routed s.dev (some (p, 19)) line 64 = true →
    (s.dev.lines = [⟨p, b, line, 3, data, false⟩] →
      Runs (.directoryRequest p line (.read ag)) s { s.dev with mem := s.dev.mem.write line data, lines := [⟨p, b, line, 1, data, false⟩, ⟨p, ag, line, 1, data, false⟩] } ∧
      Runs (.directoryRequest p line (.own ag)) s { s.dev with lines := [⟨p, ag, line, 3, data, true⟩], reservations := s.dev.reservations.filter fun r => r.2 ≠ line ∨ r.1 = 48 * p + ag } ∧
      (∀ bs : List Byte, bs.length = 64 →
        Runs (.directoryRequest p line (.writeBack b bs)) s { s.dev with mem := s.dev.mem.write line bs, lines := [] } ∧
        Runs (.directoryRequest p line (.uncachedWrite bs)) s { s.dev with mem := s.dev.mem.write line bs, lines := [], reservations := s.dev.reservations.filter fun r => r.2 ≠ line }) ∧
      Runs (.directoryRequest p line .uncachedRead) s { s.dev with mem := s.dev.mem.write line data, lines := [⟨p, b, line, 1, data, false⟩], out := s.dev.out ++ [.memReply data] } ∧
      (∀ (off : Nat) (bs : List Byte), 0 < bs.length → bs.length < 64 → off + bs.length ≤ 64 →
        Runs (.directoryRequest p line (.uncachedPartial off bs)) s { s.dev with mem := (s.dev.mem.write line data).write (line + off) bs, lines := [], reservations := s.dev.reservations.filter fun r => r.2 ≠ line })) ∧
    (s.dev.lines = [] → Runs (.directoryRequest p line (.read ag)) s { s.dev with lines := [⟨p, ag, line, 2, s.dev.mem.read line 64, true⟩] }) ∧
    (∀ st h, st ≤ 2 → s.dev.lines = [⟨p, b, line, st, data, h⟩] → Runs (.directoryRequest p line (.evict b)) s { s.dev with lines := [] })

/-- A held line defers its snoops, and answers them when the hold ends. A Read for ownership of a line that another agent
holds in M within its hold waits and is counted in COH_HOLD_DEFERS; SNOOP_HOLD_EXPIRE ends the hold and answers it:
the requester holds the line in M with the owner's data and no request waits. Under conditions on the state and the
operands alone it concludes that exec answers a next state for: directoryRequest, snoopHoldExpire. -/
def Obligations.HoldDefers : Prop :=
  ∀ (s : State) (p line ag b : Nat) (data : List Byte),
    p < 4 → line % 64 = 0 → coherent line = true → homeOf line = p → exists_ s.dev line 64 true = true →
    s.dev.resetting p = false → homeCheck s.dev p line 64 false = none → ag ≠ b →
    s.dev.lines = [⟨p, b, line, 3, data, true⟩] →
    (s.dev.held = [] → Answers (.directoryRequest p line (.own ag)) s fun t =>
      Becomes s t { s.dev with held := [.dir p line (.own ag)] }
        [(.cohHoldDefers p, fset (s.dev.reg (.cohHoldDefers p)) 63 0 (satAdd 64 (s.dev.fld (.cohHoldDefers p) 63 0) 1))]) ∧
    (s.dev.held = [.dir p line (.own ag)] → Runs (.snoopHoldExpire p b line) s
      { s.dev with lines := [⟨p, ag, line, 3, data, true⟩], held := [], reservations := s.dev.reservations.filter fun r => r.2 ≠ line ∨ r.1 = 48 * p + ag }) ∧
    (s.dev.held = [] → Runs (.snoopHoldExpire p b line) s { s.dev with lines := [⟨p, b, line, 3, data, false⟩] })

/-- Identities, and the release and hold of harts. A granted write of an identity of 1 to 255 to an interrupt file of a
partition that is not dark makes it pending there, any other value does nothing. PART_CORE_RUN sets RUN and starts a
hart in RESET at its boot address when that lies in its own post hall or its partition is trained; otherwise, and in
DROWSE (R427), the hart stays in RESET. PART_CORE_HOLD clears RUN, puts the hart in RESET, takes it out of COH_AGENTS
and writes its modified lines back. Under conditions on the state and the operands alone it concludes that exec
answers a next state for: imsicSetipnum, partCoreRun, partCoreHold. -/
def Obligations.InterruptsAndHarts : Prop :=
  (∀ (s : State) (v : Via) (hart off : Nat) (file : ImsicFile) (ident : W32), hart < 192 → grant s.dev v .open_ false = .yes →
    off = 0x10000000 + hart / 48 * 0x1000000 + 0x40000 + (match file with | .machine => 0 | .supervisor => 0x40000 | .guest => 0x80000) + 0x1000 * (hart % 48) →
    blockDark s.dev off true = false → OfficesPass s.dev v off →
    Runs (.imsicSetipnum v hart file ident) s { s.dev.acrossAt v off 4 with imsic := if 1 ≤ ident.toNat ∧ ident.toNat ≤ 255 then mapSet s.dev.imsic (hart, file) (mapGet s.dev.imsic (hart, file) 0 ||| 2 ^ ident.toNat) else s.dev.imsic, out := s.dev.out ++ viaAck v }) ∧
  (∀ (s : State) (v : Via) (p i : Nat), p < 4 → i < 48 → Granted s.dev v .high (.partCoreCtrl p i) →
    (s.dev.fld (.partCoreStatus p i) 1 0 = 0 → powerState s.dev = 2 → Answers (.partCoreRun v p i) s fun t => Becomes (s.across v (.partCoreCtrl p i)) t { s.dev with out := s.dev.out ++ viaAck v }
      [(.partCoreCtrl p i, bset (s.dev.reg (.partCoreCtrl p i)) 0 true)]) ∧
    (s.dev.fld (.partCoreStatus p i) 1 0 = 0 → powerState s.dev ≠ 2 →
      (s.dev.trained p = true ∨ (windowBase p 19 ≤ s.dev.regN (.partBootAddr p) ∧ s.dev.regN (.partBootAddr p) < windowBase p 19 + 0x10000000) →
        Answers (.partCoreRun v p i) s fun t => Becomes (s.across v (.partCoreCtrl p i)) t
          { s.dev with out := s.dev.out ++ [.coreStart (48 * p + i) (s.dev.regN (.partBootAddr p))] ++ viaAck v }
          [(.partCoreCtrl p i, bset (s.dev.reg (.partCoreCtrl p i)) 0 true), (.partCoreStatus p i, fset (s.dev.reg (.partCoreStatus p i)) 1 0 1),
           (.cohAgents p, bset (s.dev.reg (.cohAgents p)) i true)]) ∧
      (s.dev.trained p = false ∧ ¬ (windowBase p 19 ≤ s.dev.regN (.partBootAddr p) ∧ s.dev.regN (.partBootAddr p) < windowBase p 19 + 0x10000000) →
        Answers (.partCoreRun v p i) s fun t => Becomes (s.across v (.partCoreCtrl p i)) t { s.dev with out := s.dev.out ++ viaAck v }
          [(.partCoreCtrl p i, bset (s.dev.reg (.partCoreCtrl p i)) 0 true)])) ∧
    (s.dev.held = [] → Answers (.partCoreHold v p i) s fun t =>
      (∀ l ∈ t.dev.lines, ¬ (l.part = p ∧ l.agent = i)) ∧ (∀ l ∈ s.dev.lines, ¬ (l.part = p ∧ l.agent = i) → l ∈ t.dev.lines) ∧
      (∀ l, s.dev.lines = [l] → l.part = p → l.agent = i → l.st = 3 → t.dev.mem = s.dev.mem.write l.addr l.data) ∧
      ((∀ l ∈ s.dev.lines, ¬ (l.part = p ∧ l.agent = i ∧ l.st = 3)) → t.dev.mem = s.dev.mem) ∧
      mapGet? t.dev.reservations (48 * p + i) = none ∧
      RegsRead (s.dev.across v (.partCoreCtrl p i)) t.dev [(.partCoreCtrl p i, bset (s.dev.reg (.partCoreCtrl p i)) 0 false), (.partCoreStatus p i, fset (s.dev.reg (.partCoreStatus p i)) 1 0 0),
        (.cohAgents p, bset (s.dev.reg (.cohAgents p)) i false)]))

/-- A sorting office checks, forwards, holds or answers down. An access in the sorting office of its address bit 11: of a
generation that is not the office edge's it is a dead letter with no other effect; to a partition that is down it is
answered partition-down and counted; during the install of its partition it is held; otherwise a read is answered with
the bytes of memory and a write stores them. Under conditions on the state and the operands alone it concludes that
exec answers a next state for: sortingOfficeRequest. -/
def Obligations.SortingOffice : Prop :=
  ∀ (s : State) (x a len p : Nat) (bs : List Byte),
    x < 2 → a / 2048 % 2 = x → place a = .slab p → 0 < len → bs.length = len → s.dev.held = [] →
    (∀ c g, s.dev.edgeGen (96 + 5 * x + p) c ≠ g → Runs (.sortingOfficeRequest x ⟨some (c, g), a, none, len⟩) s (s.dev.officeDeadLetter p c g)) ∧
    (s.dev.down p = true → Answers (.sortingOfficeRequest x ⟨none, a, none, len⟩) s fun t =>
      Becomes s t { s.dev with out := s.dev.out ++ [.officeDown x] }
        [(.sortDownAnswers x, fset (s.dev.reg (.sortDownAnswers x)) 31 0 (satAdd 32 (s.dev.fld (.sortDownAnswers x) 31 0) 1))]) ∧
    (s.dev.down p = false → exists_ s.dev a len true = true →
      (s.dev.installing p = true → Runs (.sortingOfficeRequest x ⟨none, a, none, len⟩) s { s.dev with held := [.office x ⟨none, a, none, len⟩] }) ∧
      (s.dev.installing p = false → s.dev.lines = [] → (∀ w, homeCheck s.dev p a len w = none) →
        (Answers (.sortingOfficeRequest x ⟨none, a, none, len⟩) s fun t =>
          t = { s with dev := { s.dev with regs := t.dev.regs, out := s.dev.out ++ [.officeReply x (s.dev.mem.read a len)] } } ∧
          ∀ r, (∀ i, r ≠ .sortPortBytes i) → t.dev.reg r = s.dev.reg r) ∧
        (Answers (.sortingOfficeRequest x ⟨none, a, some bs, len⟩) s fun t =>
          t = { s with dev := { s.dev with regs := t.dev.regs, mem := s.dev.mem.write a bs, reservations := t.dev.reservations } } ∧
          ∀ r, (∀ i, r ≠ .sortPortBytes i) → t.dev.reg r = s.dev.reg r)))

/-- A load starts and fetches its image. A granted GO with the loader idle latches STRUCT_SRC_ADDR, STRUCT_SRC_LEN and
PART_MASK and goes to FETCH when the source can be fetched. With PART_MASK 0 the load fails at once with
PARTITION_UNAVAILABLE, with a pod or misaligned source with SOURCE_FAULT, and with a length that no image has with
SIZE; each raises the structure-load incident and fetches nothing. A load in FETCH starts fetching once MEM_READY is
reached and no anchor operation runs. When the fetch ends, an image from the commander's memory, or the bytes that a
slab held at GO, stand in the staging buffer and the state is VERIFY; a failed fetch ends the load with SOURCE_FAULT,
and an anchor operation that waited for the load acts. Under conditions on the state and the operands alone it
concludes that exec answers a next state for: structGo, structFetchStart, structFetchDone. -/
def Obligations.LoaderStartsAndFetches : Prop :=
  (∀ (s : State) (v : Via) (mask a n : Nat), Granted s.dev v .high .structCtrl → s.dev.loadState = 0 →
    a = s.dev.regN .structSrcAddr → n = s.dev.fld .structSrcLen 31 0 →
    (mask % 16 ≠ 0 → a / 2 ^ 54 % 2 = 0 → a < 2 ^ 56 → a % 4096 = 0 → 2304 ≤ n → n ≤ 64 * 2 ^ 20 → n % 64 = 0 →
      Answers (.structGo v mask) s fun t => Becomes (s.across v .structCtrl) t { s.dev with loader := ⟨a, n, mask % 16, false, sourceBytes s.dev a n, []⟩, out := s.dev.out ++ viaAck v }
        [(.structCtrl, bset (fset (s.dev.reg .structCtrl) 3 0 mask) 4 true), (.structStatus, fset (s.dev.reg .structStatus) 2 0 1)]) ∧
    (∀ c, (mask % 16 = 0 ∧ c = 0x52) ∨ (mask % 16 ≠ 0 ∧ (a / 2 ^ 54 % 2 = 1 ∨ 2 ^ 56 ≤ a ∨ a % 4096 ≠ 0) ∧ c = 1) ∨
        (mask % 16 ≠ 0 ∧ a / 2 ^ 54 % 2 = 0 ∧ a < 2 ^ 56 ∧ a % 4096 = 0 ∧ (n < 2304 ∨ 64 * 2 ^ 20 < n ∨ n % 64 ≠ 0) ∧ c = 2) →
      Answers (.structGo v mask) s fun t => ∃ u, LoadFails (s.across v .structCtrl) u s.dev (fset (s.dev.reg .structCtrl) 3 0 mask) (mask % 16) (c, 0xFF, 0) ∧
        t = { u with dev := { u.dev with out := u.dev.out ++ viaAck v } })) ∧
  (∀ (s : State), s.dev.loadState = 1 →
    (s.dev.loader.fetching = false → s.dev.memReady = true → s.dev.bit .secOpStatus 0 = false →
      Runs .structFetchStart s { s.dev with loader := { s.dev.loader with fetching := true } }) ∧
    (s.dev.loader.fetching = true → ∀ (image : List Byte),
      (∀ a, untag s.dev.loader.src = .host a → s.dev.pcie.busMaster = true → Answers (.structFetchDone image false) s fun t =>
        Becomes s t { s.dev with loader := { s.dev.loader with image := slice image 0 s.dev.loader.len } }
          [(.structStatus, fset (s.dev.reg .structStatus) 2 0 2)]) ∧
      (∀ a p, untag s.dev.loader.src = .localAddr a → place a = .slab p → a + s.dev.loader.len ≤ slabBase (p + 1) → s.dev.down p = false →
        s.dev.installing p = false → s.dev.lines = [] → homeCheck s.dev p a s.dev.loader.len false = none →
        Answers (.structFetchDone image false) s fun t =>
          t = { s with dev := { s.dev with regs := t.dev.regs } } ∧
          t.dev.loadState = 2 ∧ ∀ r, r ≠ .structStatus → (∀ i, r ≠ .sortPortBytes i) → t.dev.reg r = s.dev.reg r) ∧
      (Answers (.structFetchDone image true) s fun t => ∃ u, LoadFails s u s.dev (s.dev.reg .structCtrl) s.dev.loader.mask (1, 0xFF, 0) ∧ t = u.anchorResume)))

/-- Further requests to the loader. While STRUCT_STATUS.STATE is not IDLE, a further GO sets OVERRUN and starts nothing
(PART_MASK takes its value for the next load); ABORT in FETCH, VERIFY, VALIDATE or CHECK ends the load with cause
ABORTED and nothing is installed; ABORT in INSTALL is ignored, its bit staying set until the return to IDLE; ABORT in
IDLE has no effect and its bit stays clear. An anchor operation that waited for the load (R446) then acts; with none
waiting nothing follows. Under conditions on the state and the operands alone it concludes that exec answers a next
state for: structGo, structAbort. -/
def Obligations.LoaderRequestsWhileBusy : Prop :=
  ∀ (s : State) (v : Via), Granted s.dev v .high .structCtrl →
    (∀ mask, s.dev.loadState ≠ 0 → Answers (.structGo v mask) s fun t => Becomes (s.across v .structCtrl) t { s.dev with out := s.dev.out ++ viaAck v }
      [(.structCtrl, fset (s.dev.reg .structCtrl) 3 0 mask), (.structStatus, bset (s.dev.reg .structStatus) 10 true)]) ∧
    (1 ≤ s.dev.loadState ∧ s.dev.loadState ≤ 4 → Answers (.structAbort v) s fun t =>
      ∃ u, LoadFails (s.across v .structCtrl) u s.dev (s.dev.reg .structCtrl) s.dev.loader.mask (0x54, 0xFF, 0) ∧ t = State.anchorResume { u with dev := { u.dev with out := u.dev.out ++ viaAck v } }) ∧
    (s.dev.loadState = 5 → Answers (.structAbort v) s fun t => ∃ u, Becomes (s.across v .structCtrl) u { s.dev with out := s.dev.out ++ viaAck v }
      [(.structCtrl, bset (s.dev.reg .structCtrl) 5 true)] ∧ t = u.anchorResume) ∧
    (s.dev.loadState = 0 → Answers (.structAbort v) s fun t => t = State.anchorResume { s with dev := { s.dev.across v .structCtrl with out := s.dev.out ++ viaAck v } })

/-- A load is checked in its fixed order, and installed. In VERIFY a header whose magic, version, lengths or reserved
bytes are wrong ends the load with the first of the causes of step 2, and an anchor that is not valid or a signature
that does not verify with the cause of step 3; otherwise the state is VALIDATE. In VALIDATE and CHECK the first
failure ends the load with its cause, section and record, and otherwise the load goes on: CHECK to INSTALL of the
lowest target, whose accesses are then held. After VERIFY an anchor operation that waited acts (R446). Nothing but the
loader's own registers, the incident and the hold of that partition changes. Whether a signature verifies is
Falcon-1024's verification, which the model computes (log entry 3). When the install of the last target completes: its
tables are those of the image, it is INSTALLED and no longer held, its IMAGE_ID is shown, the SRAM windows of its
tiles are zero, every byte of stacked memory is as it was, the loader is idle with DONE and cause 0, and the
measurement register of each target takes the image digest. When install fails, every target of the load is on the
boot table, the load ends with INSTALL_FAULT and no measurement changes. An error in an installed partition's tables
returns it to the boot table; in a target of the load during INSTALL it ends the load with INSTALL_FAULT. Partitions
not targeted keep their tables. Under conditions on the state and the operands alone it concludes that exec answers a
next state for: structVerifyDone, structValidateDone, structCheckDone, structInstallDone, structureTableError. -/
def Obligations.LoaderChecksAndInstalls : Prop :=
  (∀ (s : State),
    (s.dev.loadState = 2 →
      (∀ c, headerFail s.dev.loader.len (s.dev.fld .structVersion 15 8) s.dev.loader.image = some c →
        Answers .structVerifyDone s fun t => ∃ u, LoadFails s u s.dev (s.dev.reg .structCtrl) s.dev.loader.mask (c, 0xFF, 0) ∧ t = u.anchorResume) ∧
      (headerFail s.dev.loader.len (s.dev.fld .structVersion 15 8) s.dev.loader.image = none → Answers .structVerifyDone s fun t =>
        (∀ c, signatureFail s.sec (s.dev.fld .secAnchorState 15 0) s.dev.loader.image = some c →
          ∃ u, LoadFails s u s.dev (s.dev.reg .structCtrl) s.dev.loader.mask (c, 0xFF, 0) ∧ t = u.anchorResume) ∧
        (signatureFail s.sec (s.dev.fld .secAnchorState 15 0) s.dev.loader.image = none →
          ∃ u, Becomes s u s.dev [(.structStatus, fset (s.dev.reg .structStatus) 2 0 3)] ∧ t = u.anchorResume))) ∧
    (s.dev.loadState = 3 → Answers .structValidateDone s fun t =>
      (∀ f, validateFail s.dev s.dev.loader.mask s.dev.loader.image = some f → LoadFails s t s.dev (s.dev.reg .structCtrl) s.dev.loader.mask f) ∧
      (validateFail s.dev s.dev.loader.mask s.dev.loader.image = none → Becomes s t s.dev [(.structStatus, fset (s.dev.reg .structStatus) 2 0 4)])) ∧
    (s.dev.loadState = 4 → Answers .structCheckDone s fun t =>
      (∀ f, deviceFail s.dev = some f → LoadFails s t s.dev (s.dev.reg .structCtrl) s.dev.loader.mask f) ∧
      (∀ p rest, deviceFail s.dev = none → maskParts s.dev.loader.mask = p :: rest →
        Becomes s t { s.dev with loader := { s.dev.loader with todo := p :: rest } }
          [(.structStatus, fset (s.dev.reg .structStatus) 2 0 5), (.structPartState, fset (s.dev.reg .structPartState) (4 * p + 3) (4 * p) 2),
           (.sortStatus 0, bset (s.dev.reg (.sortStatus 0)) (4 + p) true), (.sortStatus 1, bset (s.dev.reg (.sortStatus 1)) (4 + p) true)])) ∧
    (∀ p, p < 4 → s.dev.loadState = 4 → bitN s.dev.loader.mask p = true → s.dev.degraded p = true → deviceFail s.dev = some (0x52, 0xFF, 0))) ∧
  (∀ (s : State) (p : Nat), p < 4 → s.dev.held = [] → s.dev.incSeen = false →
    (s.dev.loadState = 5 → s.dev.loader.todo = [p] → s.dev.loader.mask = 2 ^ p →
      (Answers (.structInstallDone false) s fun t => t.pending = s.pending ∧ t.sec = s.sec ∧
        mapGet? t.dev.parts p = some (partFrom s.dev.loader.image (sections s.dev.loader.image) p) ∧ t.dev.modImage = some (modFrom (sections s.dev.loader.image)) ∧
        t.dev.installed p = true ∧ t.dev.bit (.sortStatus 0) (4 + p) = false ∧ t.dev.bit (.sortStatus 1) (4 + p) = false ∧
        (∀ k < 4, t.dev.regN (.structImageId (4 * p + k)) = field s.dev.loader.image (0x10 + 4 * k) 4) ∧
        (∀ w a, w < 19 → windowBase p w ≤ a → a < windowBase p (w + 1) → t.dev.mem.get a = 0#8) ∧
        (∀ a < 0x40000000000, t.dev.mem.get a = s.dev.mem.get a) ∧
        (∀ q, q ≠ p → mapGet? t.dev.parts q = mapGet? s.dev.parts q) ∧
        t.dev.loader = Loader.reset ∧ t.dev.loadState = 0 ∧ t.dev.bit .structStatus 8 = true ∧ t.dev.bit .structStatus 9 = false ∧ t.dev.reg .structCause = 0#64 ∧
        (∀ w < 8, t.dev.reg (.secMeas (3 + p) w) = BitVec.ofNat 64 (field (shake256 (s.dev.meas (3 + p) ++ structDigest s.dev.loader.image)) (8 * w) 8))) ∧
      (Answers (.structInstallDone true) s fun t => t.pending = s.pending ∧ t.sec = s.sec ∧
        mapGet? t.dev.parts p = none ∧ t.dev.installed p = false ∧ t.dev.installing p = false ∧ t.dev.bit (.sortStatus 0) (4 + p) = false ∧
        (∀ q, q ≠ p → mapGet? t.dev.parts q = mapGet? s.dev.parts q) ∧ t.dev.mem = s.dev.mem ∧
        t.dev.loader = Loader.reset ∧ t.dev.loadState = 0 ∧ t.dev.bit .structStatus 8 = false ∧ t.dev.bit .structStatus 9 = true ∧ t.dev.fld .structCause 7 0 = 0x53 ∧
        ∀ n w, t.dev.reg (.secMeas n w) = s.dev.reg (.secMeas n w))) ∧
    (s.dev.installed p = true → (s.dev.loadState ≠ 5 ∨ bitN s.dev.loader.mask p = false) → Answers (.structureTableError p) s fun t =>
      t.pending = s.pending ∧ t.sec = s.sec ∧ mapGet? t.dev.parts p = none ∧ t.dev.installed p = false ∧
      (∀ q, q ≠ p → mapGet? t.dev.parts q = mapGet? s.dev.parts q) ∧ t.dev.mem = s.dev.mem) ∧
    (s.dev.loadState = 5 → bitN s.dev.loader.mask p = true → Answers (.structureTableError p) s fun t =>
      t.pending = s.pending ∧ t.sec = s.sec ∧ (∀ q < 4, bitN s.dev.loader.mask q = true → mapGet? t.dev.parts q = none ∧ t.dev.installed q = false) ∧
      (∀ q, ¬ (q < 4 ∧ bitN s.dev.loader.mask q = true) → mapGet? t.dev.parts q = mapGet? s.dev.parts q) ∧ t.dev.mem = s.dev.mem ∧
      t.dev.loader = Loader.reset ∧ t.dev.loadState = 0 ∧ t.dev.fld .structCause 7 0 = 0x53))

/-- A new epoch and its marker. A granted write of GATE_EPOCH with no marker in flight broadcasts the epoch to every die
that is neither reset nor held in reset by a failed authentication, and sets PENDING; while a marker is in flight it
is held, and a further write replaces the held value. The marker's arrival latches the epoch at that die and zeroes
its count, and touches no other die. When every die has it, PENDING clears, or the held epoch is broadcast. Under
conditions on the state and the operands alone it concludes that exec answers a next state for: gateEpochWrite,
epochMarkerArrive, epochMarkerDone. -/
def Obligations.EpochMarker : Prop :=
  ∀ (s : State),
    (∀ (v : Via) (value : W32), Granted s.dev v .open_ .gateEpoch →
      (s.dev.epochMarker = none → Answers (.gateEpochWrite v value) s fun t =>
        Becomes (s.across v .gateEpoch) t { s.dev with epochMarker := some (value.toNat % 2 ^ 24, markerDies s.dev), out := s.dev.out ++ viaAck v }
          [(.gateEpoch, bset (fset (s.dev.reg .gateEpoch) 23 0 (value.toNat % 2 ^ 24)) 31 true)]) ∧
      (s.dev.epochMarker ≠ none → Answers (.gateEpochWrite v value) s fun t =>
        Becomes (s.across v .gateEpoch) t { s.dev with epochHeld := some (value.toNat % 2 ^ 24), out := s.dev.out ++ viaAck v }
          [(.gateEpoch, fset (s.dev.reg .gateEpoch) 23 0 (value.toNat % 2 ^ 24))])) ∧
    (∀ e left die, s.dev.epochMarker = some (e, left) → die ∈ left → Answers (.epochMarkerArrive die) s fun t =>
      t = { s with dev := { s.dev with epochMarker := some (e, left.filter (· ≠ die)), dies := t.dev.dies } } ∧
      ∀ n, mapGet t.dev.dies n (0, 0) = if n = die then (e, 0) else mapGet s.dev.dies n (0, 0)) ∧
    (∀ e, s.dev.epochMarker = some (e, []) →
      (s.dev.epochHeld = none → Answers .epochMarkerDone s fun t => Becomes s t { s.dev with epochMarker := none }
        [(.gateEpoch, bset (s.dev.reg .gateEpoch) 31 false)]) ∧
      (∀ h, s.dev.epochHeld = some h → Answers .epochMarkerDone s fun t =>
        Becomes s t { s.dev with epochMarker := some (h, markerDies s.dev), epochHeld := none }
          [(.gateEpoch, bset (fset (s.dev.reg .gateEpoch) 23 0 h) 31 true)])) ∧
    (∀ die, die ∈ markerDies s.dev ↔ die < 100 ∧ ∀ p, p < 4 → 24 * p ≤ die → die < 24 * p + 24 → s.dev.resetting p = false ∧ s.dev.bit .gateBoot (12 + p) = false)

/-- What a doorbell write does. A doorbell is dropped and BELL_DROP set when it is not one aligned 64-bit write, names
another mailbox, has reserved bits set, or the mailbox is DISABLED or DISABLING. One whose TAIL lies further from HEAD
than the ring is long is dropped, sets OVERRUN and raises MAILBOX_OVERRUN. One whose TAIL equals the last accepted
TAIL has no effect. Any other replaces the target TAIL and the expected postmark, and MBX_TAIL records it; nothing
else changes. Under conditions on the state and the operands alone it concludes that exec answers a next state for:
doorbell. -/
def Obligations.DoorbellRule : Prop :=
  ∀ (s b : State) (src : BellSrc) (ack : List Output) (n size : Nat) (value : W64) (aligned : Prop),
    n < 256 →
    ((∃ off, src = .bar0 n off ∧ off < 8 ∧ barsOn s.dev = true ∧ s.dev.recovery = false ∧
        OfficesPass s.dev .bar0 (Reg.mbxDoorbell n).info.offset ∧ ack = [] ∧ b = s.across .bar0 (.mbxDoorbell n) ∧ (aligned ↔ off = 0 ∧ size = 8)) ∨
      (∃ v, src = .mmio v n ∧ Granted s.dev v .noEngine (.mbxDoorbell n) ∧ ack = viaAck v ∧ b = s.across v (.mbxDoorbell n) ∧ (aligned ↔ size = 8))) →
    ((¬ aligned ∨ bitsN value.toNat 55 48 ≠ n ∨ bitsN value.toNat 63 56 ≠ 0 ∨ s.dev.mbState n = 0 ∨ s.dev.mbState n = 3) →
      Answers (.doorbell src size value) s fun t => Becomes b t { s.dev with out := s.dev.out ++ ack } [(.mbxStatus n, bset (s.dev.reg (.mbxStatus n)) 9 true)]) ∧
    (aligned → bitsN value.toNat 55 48 = n → bitsN value.toNat 63 56 = 0 → s.dev.mbState n ≠ 0 → s.dev.mbState n ≠ 3 →
      ∀ tail head, tail = bitsN value.toNat 47 32 → head = s.dev.fld (.mbxHead n) 15 0 →
      (2 ^ s.dev.fld (.mbxCfg n) 3 0 < (tail + 65536 - head) % 65536 → Answers (.doorbell src size value) s fun t =>
        ∃ u, Reports b u s.dev [(.mbxStatus n, bset (s.dev.reg (.mbxStatus n)) 10 true)]
          { cls := 2, eng := 0x10, die := readerDie s.dev n, part := readerPart s.dev n, mbx := n, d0 := tail + head * 2 ^ 16 } ∧
          t = { u with dev := { u.dev with out := u.dev.out ++ ack } }) ∧
      ((tail + 65536 - head) % 65536 ≤ 2 ^ s.dev.fld (.mbxCfg n) 3 0 →
        (tail = s.dev.fld (.mbxTail n) 15 0 → Runs (.doorbell src size value) s { b.dev with out := s.dev.out ++ ack }) ∧
        (tail ≠ s.dev.fld (.mbxTail n) 15 0 → Answers (.doorbell src size value) s fun t =>
          Becomes b t { s.dev with mbx := mapSet s.dev.mbx n { s.dev.mb n with bell := BitVec.ofNat 32 value.toNat }, out := s.dev.out ++ ack }
            [(.mbxTail n, fset (s.dev.reg (.mbxTail n)) 15 0 tail)])))

/-- A letter is fetched, checked and accepted, or fetched again. From a commander mailbox whose ring lies in commander
memory, the reader fetches a letter of as many slots as its CONT says. When SEQ, POSTMARK over the CRC, the target
TAIL and the doorbell's postmark agree, HEAD and SEQ advance, the series starts afresh, ARM is clear, and the letter
is held with its header and body; one that breaks the format of R104 ends at once with FORMAT or BAD_OPCODE. When they
do not agree, or the fetch fails, the attempt counts, and the eighth failure sets LATE, moves the mailbox to LATE and
raises LATE_LETTER. In LATE, or with HEAD at TAIL, nothing is fetched. Under conditions on the state and the operands
alone it concludes that exec answers a next state for: letterFetch, letterFetchRetry. -/
def Obligations.LettersFetched : Prop :=
  ∀ (s : State) (c : Instr) (n : Nat) (slots : List (List Byte)) (error : Option FetchError) (bytes : List Byte) (a : Nat),
    ((c = .letterFetch n slots error ∧ (s.dev.mb n).attempts = 0) ∨ (c = .letterFetchRetry n slots error ∧ (s.dev.mb n).attempts ≠ 0)) →
    (s.dev.mbState n = 4 ∨ s.dev.fld (.mbxHead n) 15 0 = s.dev.fld (.mbxTail n) 15 0 → exec c s = .next s) ∧
    (mayFetch s.dev n = true → untag (s.dev.regN (.mbxBase n)) = .host a → s.dev.pcie.busMaster = true →
      (∀ b ∈ slots, b.length = 128) → slots.length = 1 + field bytes 3 1 % 4 → bytes = slots.flatten →
      (error = none → postmarkOk s.dev n bytes = true → field bytes 0x10 8 % 32 = 0 →
        Answers c s fun t => ∃ x : Letter,
          x.id = ⟨n, field bytes 8 4⟩ ∧ x.opcode = field bytes 0 1 ∧ x.flags = field bytes 1 1 ∧ x.ctx = field bytes 2 1 % 64 ∧ x.gen = field bytes 4 2 % 4096 ∧
          x.route = field bytes 6 2 % 4096 ∧ x.postmark = BitVec.ofNat 32 (field bytes 0xC 4) ∧ x.rcpt = field bytes 0x10 8 ∧ x.encLen = field bytes 0x18 2 ∧
          x.body = bytes.drop 32 ∧ x.started = false ∧ x.sat = 0 ∧ x.nonfin = 0 ∧ x.dead = 0 ∧
          t.dev.fld (.mbxHead n) 15 0 = (s.dev.fld (.mbxHead n) 15 0 + slots.length) % 65536 ∧ t.dev.fld (.mbxSeq n) 31 0 = (field bytes 8 4 + 1) % 2 ^ 32 ∧
          t.dev.bit (.mbxCtrl n) 1 = false ∧ (t.dev.mb n).attempts = 0 ∧ (t.dev.mb n).bell = (s.dev.mb n).bell ∧ t.dev.mem = s.dev.mem ∧ t.dev.ctxs = s.dev.ctxs ∧
          (formatCheck bytes = none → x.result = none ∧ t.dev.letters = s.dev.letters ++ [x]) ∧
          (∀ st dt, findLetter s.dev x.id = none → formatCheck bytes = some (st, dt) →
            x.result = some (st, dt % 65536) ∧ t.dev.letters = s.dev.letters ++ [x])) ∧
      (∀ how, (error = none ∧ postmarkOk s.dev n bytes = false ∧ how = 0) ∨ (error = some .addressFault ∧ how = 1) ∨ (error = some .partitionDown ∧ how = 2) ∨
          (error = some .uncorrectable ∧ how = 3) →
        ((s.dev.mb n).attempts < 7 → Answers c s fun t => Becomes s t { s.dev with mbx := mapSet s.dev.mbx n { s.dev.mb n with attempts := (s.dev.mb n).attempts + 1 } }
          [(.mbxCtrl n, bset (s.dev.reg (.mbxCtrl n)) 1 false)]) ∧
        ((s.dev.mb n).attempts = 7 → Answers c s fun t => Reports s t { s.dev with mbx := mapSet s.dev.mbx n { s.dev.mb n with attempts := 8 } }
          [(.mbxStatus n, fset (bset (s.dev.reg (.mbxStatus n)) 8 true) 2 0 4), (.mbxCtrl n, bset (s.dev.reg (.mbxCtrl n)) 1 false)]
          { cls := 1, eng := 0x10, die := readerDie s.dev n, part := readerPart s.dev n, mbx := n,
            d0 := s.dev.fld (.mbxHead n) 15 0 + s.dev.regN (.mbxSeq n) * 2 ^ 32, d1 := (s.dev.mb n).bell.toNat + (if how = 0 then field bytes 0xC 4 else 0) * 2 ^ 32, d2 := how })))

/-- Mailboxes and functions are switched on and off. Enabling a DISABLED mailbox whose ring meets R109 leaves it ENABLED
with a fresh series when its memory is trained, and ENABLING before and in DROWSE; a ring that does not meet R109
leaves it DISABLED with BADCFG. Disabling an ENABLED mailbox leaves it DISABLED when it holds no letter, else
DISABLING. ARM returns a LATE mailbox to ENABLED with a fresh series, and does nothing in any other state. Nothing
else changes. FN_DISABLE of an enabled engine with nothing queued starts its transition and FN_TRANSITION_DONE, once
no stage runs or is parked on it and the H-die engine has no other work, leaves it DISABLED and ends the letter;
FN_ENABLE likewise. A request for the state that the function has ends at once; operands that name no function end the
letter with FN_STATE. A write of CRR_PORT_CTRL.ENABLE takes a disabled port to CLOSED without a session, except that a
port of role dimension 3 (R347), and in DROWSE every port (R427), stays DISABLED, and a port without frames through
DISABLING to DISABLED. Under conditions on the state and the operands alone it concludes that exec answers a next
state for: mbxEnable, mbxDisable, mbxArm, fnEnable, fnDisable, crrPortEnableWrite, fnTransitionDone. -/
def Obligations.Switches : Prop :=
  (∀ (s : State) (v : Via) (n : Nat), n < 256 → Granted s.dev v .noEngine (.mbxCtrl n) →
    (mapGet s.dev.fns (.mailbox n) [] = [] →
      (s.dev.mbState n = 0 → mbxBadCfg s.dev n = false → Answers (.mbxEnable v n) s fun t =>
        (s.dev.memReady = true → powerState s.dev ≠ 2 → (s.dev.bit (.mbxCfg n) 4 = true → s.dev.trained (n / 64) = true ∧ s.dev.degraded (n / 64) = false) →
          Becomes (s.across v (.mbxCtrl n)) t { s.dev with mbx := t.dev.mbx, fns := t.dev.fns, out := s.dev.out ++ viaAck v }
            [(.mbxCtrl n, bset (s.dev.reg (.mbxCtrl n)) 0 true), (.mbxStatus n, fset (s.dev.reg (.mbxStatus n)) 2 0 2)] ∧
          (t.dev.mb n).attempts = 0 ∧ (∀ f, mapGet t.dev.fns f [] = mapGet s.dev.fns f []) ∧ ∀ m, m ≠ n → t.dev.mb m = s.dev.mb m) ∧
        (s.dev.memReady = false ∨ powerState s.dev = 2 ∨ (s.dev.bit (.mbxCfg n) 4 = true ∧ s.dev.trained (n / 64) = false) → Becomes (s.across v (.mbxCtrl n)) t { s.dev with fns := t.dev.fns, out := s.dev.out ++ viaAck v }
          [(.mbxCtrl n, bset (s.dev.reg (.mbxCtrl n)) 0 true), (.mbxStatus n, fset (s.dev.reg (.mbxStatus n)) 2 0 1)])) ∧
      (s.dev.mbState n = 0 → mbxBadCfg s.dev n = true → Answers (.mbxEnable v n) s fun t =>
        Becomes (s.across v (.mbxCtrl n)) t { s.dev with fns := t.dev.fns, out := s.dev.out ++ viaAck v }
          [(.mbxCtrl n, bset (s.dev.reg (.mbxCtrl n)) 0 true), (.mbxStatus n, bset (s.dev.reg (.mbxStatus n)) 11 true)]) ∧
      (s.dev.mbState n = 2 → Answers (.mbxDisable v n) s fun t =>
        Becomes (s.across v (.mbxCtrl n)) t { s.dev with fns := t.dev.fns, out := s.dev.out ++ viaAck v }
          [(.mbxCtrl n, bset (s.dev.reg (.mbxCtrl n)) 0 false),
           (.mbxStatus n, fset (s.dev.reg (.mbxStatus n)) 2 0 (if s.dev.letters.any (fun x => x.id.mbx = n) then 3 else 0))])) ∧
    (s.dev.mbState n = 4 → Answers (.mbxArm v n) s fun t =>
      Becomes (s.across v (.mbxCtrl n)) t { s.dev with mbx := mapSet s.dev.mbx n { s.dev.mb n with attempts := 0 }, out := s.dev.out ++ viaAck v }
        [(.mbxCtrl n, bset (s.dev.reg (.mbxCtrl n)) 1 true), (.mbxStatus n, fset (s.dev.reg (.mbxStatus n)) 2 0 2)]) ∧
    (s.dev.mbState n ≠ 4 → Runs (.mbxArm v n) s { s.dev.across v (.mbxCtrl n) with out := s.dev.out ++ viaAck v })) ∧
  ((∀ (s : State) (l : LetterId) (x : Letter) (enable : Bool) (c : Instr) (f : FnId),
    (enable = true ∧ Due s.dev l 0x30 x ∧ c = .fnEnable l) ∨ (enable = false ∧ Due s.dev l 0x31 x ∧ c = .fnDisable l) →
    (letterFn x = none → Answers c s fun t => Ends s t l 0x40 0 s.dev []) ∧
    (letterFn x = some f → ((∃ p node slot, f = .engine p node slot) ∨ ∃ p, f = .partition p) → mapGet s.dev.fns f [] = [] →
      (fnState s.dev f = (if enable then 2 else 0) → Answers c s fun t => Ends s t l 0 0 { s.dev with fns := t.dev.fns } [] ∧ ∀ g, mapGet t.dev.fns g [] = mapGet s.dev.fns g []) ∧
      (fnState s.dev f = (if enable then 0 else 2) → Answers c s fun t =>
        t = { s with dev := { s.dev with letters := lettersWith s.dev l Letter.begun, dies := t.dev.dies, fns := t.dev.fns, regs := t.dev.regs } } ∧
        fnState t.dev f = (if enable then 1 else 3) ∧ (∀ g, g ≠ f → fnState t.dev g = fnState s.dev g) ∧ mapGet t.dev.fns f [] = [⟨enable, some l⟩] ∧
        ∀ r, (∀ p k, r ≠ .fltFnEngine p k) → (∀ p, r ≠ .fltStatus p) → t.dev.reg r = s.dev.reg r))) ∧
  (∀ (s : State) (l : LetterId) (x : Letter) (p node slot : Nat), p < 4 → slot < slotCount node →
    findLetter s.dev l = some x → x.result = none → (∀ y ∈ s.dev.letters, y.id = l → y.started = true) → Unworked s.dev x →
    mapGet s.dev.fns (.engine p node slot) [] = [⟨false, some l⟩] → fnState s.dev (.engine p node slot) = 3 →
    (∀ r ∈ s.dev.runs, ¬ (r.part = p ∧ r.node = node ∧ r.slot = slot)) →
    (node = 18 → (if slot = 0 then redBusy s.dev p else updBusy s.dev p) = false) → Answers (.fnTransitionDone (.engine p node slot)) s fun t =>
      Ends s t l 0 0 { s.dev with fns := t.dev.fns } [(.fltFnEngine p node, fset (s.dev.reg (.fltFnEngine p node)) (3 * slot + 2) (3 * slot) 0)] ∧
      mapGet t.dev.fns (.engine p node slot) [] = []) ∧
  (∀ (s : State) (v : Via) (n : Nat), n < 16 → Granted s.dev v .open_ (.crrPortCtrl n) → mapGet s.dev.fns (.port n) [] = [] →
    (s.dev.portState n = 0 → powerState s.dev ≠ 2 → (s.dev.modImage = none ∨ s.dev.portRole n % 4 ≠ 3) → Answers (.crrPortEnableWrite v n true) s fun t =>
      Becomes (s.across v (.crrPortCtrl n)) t { s.dev with ports := t.dev.ports, fns := t.dev.fns, out := s.dev.out ++ viaAck v }
        [(.crrPortCtrl n, bset (bset (s.dev.reg (.crrPortCtrl n)) 0 true) 1 false), (.crrPortStatus n, fset (s.dev.reg (.crrPortStatus n)) 2 0 1)] ∧
      t.dev.port n = { Port.reset with cabled := (s.dev.port n).cabled, downReported := (s.dev.port n).downReported } ∧ ∀ m, m ≠ n → t.dev.port m = s.dev.port m) ∧
    (s.dev.portState n = 1 → (s.dev.port n).replay = [] → (∀ m, (s.dev.port m).queue = []) → s.dev.podStores = [] → s.dev.remotes = [] → s.dev.remap = [] →
      Answers (.crrPortEnableWrite v n false) s fun t =>
        Becomes (s.across v (.crrPortCtrl n)) t { s.dev with ports := t.dev.ports, fns := t.dev.fns, out := s.dev.out ++ viaAck v }
          [(.crrPortCtrl n, bset (bset (s.dev.reg (.crrPortCtrl n)) 0 false) 1 false), (.crrPortStatus n, fset (s.dev.reg (.crrPortStatus n)) 2 0 6)] ∧
        (∀ m, t.dev.port m = s.dev.port m) ∧ mapGet t.dev.fns (.port n) [] = [⟨false, none⟩] ∧
        Answers (.fnTransitionDone (.port n)) t fun u => Becomes t u { t.dev with ports := u.dev.ports, fns := u.dev.fns }
          [(.crrPortStatus n, fset (t.dev.reg (.crrPortStatus n)) 2 0 0)] ∧ u.dev.port n = { Port.reset with cabled := (s.dev.port n).cabled, downReported := (s.dev.port n).downReported }) ∧
    (s.dev.portState n = 0 → powerState s.dev = 2 ∨ (s.dev.modImage ≠ none ∧ s.dev.portRole n % 4 = 3) → Answers (.crrPortEnableWrite v n true) s fun t =>
      Becomes (s.across v (.crrPortCtrl n)) t { s.dev with fns := t.dev.fns, out := s.dev.out ++ viaAck v } [(.crrPortCtrl n, bset (s.dev.reg (.crrPortCtrl n)) 0 true)])))

/-- NOTE, FENCE, SEAL, COPY and CTX_OPEN, and a letter that a check refuses. Each starts when the order of its mailbox
lets it and ends with SUCCESS. NOTE changes nothing else; FENCE with INVAL discards its context's cached translations
and no other's; SEAL takes over the stores that RECEIPT_EARLY letters of its context left and flushes their path; COPY
copies LENGTH bytes, leaving every other byte; CTX_OPEN opens the CLOSED context with its seed, root and routes, drops
its cached translations and zeroes its counts and step registers. A letter of any opcode whose turn it is and that one
of steps 2 to 5 of R108 refuses ends with that status and does nothing else (that the checks are made when the letter
starts is log entry 22). Under conditions on the state and the operands alone it concludes that exec answers a next
state for: copy, fence, seal, ctxOpen, note. -/
def Obligations.LettersWithoutStages : Prop :=
  ∀ (s : State) (l : LetterId) (x : Letter),
    (Due s.dev l 0x3F x → Answers (.note l) s fun t => Ends s t l 0 0 s.dev []) ∧
    (Due s.dev l 0x07 x → Answers (.fence l) s fun t =>
      Ends s t l 0 0 { s.dev with tlb := if bitN (x.opnd 0 1) 0 then s.dev.tlb.filter (fun e => e.1.1 ≠ x.ctx) else s.dev.tlb } []) ∧
    (Due s.dev l 0x08 x → (∀ e ∈ s.dev.early, e.ctx ≠ x.ctx) → Answers (.seal l) s fun t => Ends s t l 0 0 s.dev []) ∧
    (∀ e a tag, Due s.dev l 0x08 x → freeTag s.dev = some tag → bitN x.flags 0 = false → x.zeroReads = 0 → s.dev.early = [e] → e.ctx = x.ctx → e.pcieLast = some a → e.regions = [] → e.podAcks = 0 →
      Answers (.seal l) s fun t => t.dev.early = [] ∧ t.dev.out = s.dev.out ++ [.pcieZeroRead tag a] ∧ t.dev.mem = s.dev.mem ∧
        (∀ y, findLetter t.dev l = some y → y.result = some (0, 0) ∧ y.zeroReads = 1) ∧ (findLetter t.dev l).isSome = true) ∧
    (∀ p src dst len, Due s.dev l 0x06 x → x.opnd 0x18 1 = p → x.opnd 0 8 = len → 0 < len → len ≤ 4096 → p < 4 → fnState s.dev (.engine p 18 1) = 2 →
      fnState s.dev (.partition p) = 2 → s.dev.installed p = true → engineOut s.dev p 18 1 = false → powerState s.dev = 0 → s.dev.power.transition = none → s.dev.tlb = [] → Calm s.dev p →
      runOn s.dev p 18 1 = none → ringAhead s.dev l p 18 1 = false → (∀ a n, place a = .slab p → routed s.dev (some (p, 18)) a n = true) → Mapped s.dev x.ctx p (x.opnd 8 8) src → Mapped s.dev x.ctx p (x.opnd 0x10 8) dst →
      x.opnd 8 8 % 2 ^ 21 + len ≤ 2 ^ 21 → x.opnd 0x10 8 % 2 ^ 21 + len ≤ 2 ^ 21 → Answers (.copy l) s fun t =>
        Ends s t l 0 0 { s.dev with mem := s.dev.mem.write dst (s.dev.mem.read src len), tlb := t.dev.tlb, tick := t.dev.tick, reservations := t.dev.reservations }
          [(.redUpdProgress p, s.dev.reg (.redUpdProgress p) + 1#64), (.fltWait p 18, fset (s.dev.reg (.fltWait p 18)) 3 2 0)]) ∧
    (Due s.dev l 0x20 x → Answers (.ctxOpen l) s fun t =>
      t.pending = s.pending ∧ t.sec = s.sec ∧ t.dev.mem = s.dev.mem ∧ t.dev.out = s.dev.out ∧
      t.dev.ctx x.ctx = { s.dev.ctx x.ctx with state := 1, seed := BitVec.ofNat 64 (x.opnd 0 8), root := x.opnd 8 8, routes := openRoutes x.body } ∧
      (∀ c, c ≠ x.ctx → t.dev.ctx c = s.dev.ctx c) ∧ t.dev.tlb = s.dev.tlb.filter (fun e => e.1.1 ≠ x.ctx) ∧
      t.dev.letters = lettersWith s.dev l (fun y => { y.begun with result := some (0, 0) }) ∧
      ∀ r, (∀ p, r ≠ .redStatus p ∧ r ≠ .fltWait p 18) → t.dev.reg r = if openZero x.ctx r then 0#64 else s.dev.reg r) ∧
    (∀ (op st dt : Nat) (c : Instr), (op, c) ∈ letterCommands l → findLetter s.dev l = some x → x.opcode = op → mayStart s.dev x = true → Unworked s.dev x →
      (op = 0x15 → ∀ y ∈ s.dev.letters, ¬ (y.bracket = 2 ∧ y.ctx = x.ctx)) → letterCheck s.dev l.mbx op x.ctx x.gen x.route x.body = some (st, dt) → dt < 65536 →
      Answers c s fun t => t = { s with dev := { s.dev with letters := lettersWith s.dev l (fun y => { y with result := some (st, dt) }), regs := t.dev.regs } } ∧
        ∀ r, (∀ p, r ≠ .redStatus p ∧ r ≠ .fltWait p 18) → t.dev.reg r = s.dev.reg r)

/-- The receipt is written as two writes on one path. When every store of an ended letter of a privileged commander
mailbox is complete, its receipt of R125 is written: bytes 0x00 to 0x1B first, then bytes 0x1C to 0x1F. On PCIe these
are two posted writes in that order; in module memory they are the 32 bytes at the receipt address. The letter is then
held no more; with NOTIFY its vector is signalled after the writes. Under conditions on the state and the operands
alone it concludes that exec answers a next state for: letterComplete. -/
def Obligations.ReceiptIsTwoWrites : Prop :=
  ∀ (s : State) (l : LetterId) (x : Letter) (st dt a : Nat) (bs : List Byte),
    findLetter s.dev l = some x → x.result = some (st, dt) → s.dev.posted = [] → s.dev.resetting (l.mbx / 64) = false → tearWaits s.dev x = false → s.dev.mbState l.mbx = 2 →
    x.zeroReads = 0 → x.podAcks = 0 → heldStores s.dev l = false → x.pcieLast = none → x.regions = [] → (∀ r ∈ s.dev.remotes, ∀ k, r.who ≠ .letter l k) →
    s.dev.bit (.mbxCfg l.mbx) 5 = true → s.dev.bit (.mbxCfg l.mbx) 4 = false → a % 32 = 0 → bs = receiptBytes x st dt (s.dev.stamp dieGate).1 →
    bs.length = 32 ∧ field bs 0 4 = l.seq % 2 ^ 32 ∧ field bs 0x1C 2 = st % 65536 ∧ field bs 0x1A 2 = dt % 65536 ∧ field bs 0x1F 1 = x.ctx % 64 + 128 ∧
    (x.rcpt = a + 2 ^ 55 → a < 2 ^ 54 → s.dev.pcie.busMaster = true → 32 ≤ s.dev.pcie.mps → s.dev.modImage = none →
      Answers (.letterComplete l) s fun t => ∃ e : Dev,
        e = { s.dev with dies := t.dev.dies, letters := s.dev.letters.filter (·.id ≠ l), out := s.dev.out ++ [.pcieWrite a (slice bs 0 0x1C), .pcieWrite (a + 0x1C) (slice bs 0x1C 4)] } ∧
        t = { s with dev := if bitN x.flags 1 then e.msix (s.dev.fld (.mbxCfg l.mbx) 26 16) else e }) ∧
    (∀ p, x.rcpt = a → place a = .slab p → Calm s.dev p → s.dev.down p = false → s.dev.installing p = false → bitN x.flags 1 = false →
      Answers (.letterComplete l) s fun t =>
        t = { s with dev := { s.dev with mem := (s.dev.mem.write a (slice bs 0 0x1C)).write (a + 0x1C) (slice bs 0x1C 4), dies := t.dev.dies, letters := s.dev.letters.filter (·.id ≠ l), regs := t.dev.regs, reservations := t.dev.reservations } } ∧
        ∀ r, (∀ i, r ≠ .sortPortBytes i) → t.dev.reg r = s.dev.reg r)

/-- Objects are lodged and unlodged. LODGE ends with the first status of R150's checks that applies and registers nothing,
or with SUCCESS: the object is then ABSENT for stacked tier, RESIDENT for SRAM tier, with no pins; the home
partition's HALL_OBJ_STATUS counts its objects and MEM_SEG_USED names the segments in which stacked-tier objects have
bytes. Other objects, registers, contexts and every byte outside the OBJECT_DIR regions are as before. Which free
entry the H-die takes is its choice (R146) and free in the model. UNLODGE removes every entry of an object that is
ABSENT with no pins or of SRAM tier, and of no other; otherwise it ends with OBJECT_STATE and the object's state, for
an unknown identifier with OBJECT_UNKNOWN, and for a home that is down with PARTITION_DOWN, and nothing is removed. A
handle whose entries no running letter uses releases the context's entries alone. Under conditions on the state and
the operands alone it concludes that exec answers a next state for: lodge, unlodge. -/
def Obligations.ObjectsLodged : Prop :=
  (∀ (s : State) (l : LetterId) (x : Letter) (id : Nat) (o : Obj),
    Due s.dev l 0x02 x → x.bracket = 0 → s.dev.lines = [] → NoDirWait s.dev → id = x.opnd 0 3 →
    o = { home := x.opnd 4 1, tier := x.opnd 5 1, iset := x.opnd 6 1, size := x.opnd 8 8, base := x.opnd 0x10 8, state := if x.opnd 5 1 = 1 then 2 else 0, dirty := false, sram := if x.opnd 5 1 = 1 then x.opnd 0x10 8 else 0, pins := [], slots := [], held := [], joiners := [], waiting := [], evicts := [] } →
    (∀ st dt, lodgeCheck s.dev id o = some (st, dt) → dt < 65536 → Answers (.lodge l) s fun t => Ends s t l st dt s.dev []) ∧
    (lodgeCheck s.dev id o = none → Answers (.lodge l) s fun t => ∃ slots,
      t = { s with dev := { s.dev with letters := lettersWith s.dev l (fun y => { y.begun with result := some (0, 0) }), dies := t.dev.dies, regs := t.dev.regs, objs := t.dev.objs, mem := t.dev.mem, tick := t.dev.tick, reservations := t.dev.reservations } } ∧
      OnlyObj s.dev t.dev.objs id (some { o with slots := slots }) ∧ OutsideDirs s.dev t.dev.mem 0 0 ∧
      (∀ p ∈ dirParts s.dev, (mapGet? slots p).isSome = true) ∧
      t.dev.fld (.hallObjStatus o.home) 21 0 = (t.dev.objs.filter fun e => e.2.home = o.home).length % 2 ^ 22 ∧
      (∀ i < 16, t.dev.bit (.memSegUsed o.home) i = true ↔ ∃ e ∈ t.dev.objs, e.2.home = o.home ∧ i ∈ segments e.2) ∧
      ∀ r, (∀ p, r ≠ .redStatus p ∧ r ≠ .fltWait p 18) → r ≠ .hallObjStatus o.home → r ≠ .memSegUsed o.home → t.dev.reg r = s.dev.reg r)) ∧
  (∀ (s : State) (l : LetterId) (x : Letter) (id : Nat) (o : Obj),
    Due s.dev l 0x03 x → x.bracket = 0 → s.dev.lines = [] → NoDirWait s.dev → id = x.opnd 0 3 →
    (isHandle id = false →
      (mapGet? s.dev.objs id = none → Answers (.unlodge l) s fun t => Ends s t l 0x20 0 s.dev []) ∧
      (mapGet? s.dev.objs id = some o → s.dev.down o.home = true → Answers (.unlodge l) s fun t => Ends s t l 0x14 (o.home % 65536) s.dev []) ∧
      (mapGet? s.dev.objs id = some o → s.dev.down o.home = false → o.tier ≠ 1 → (o.state ≠ 0 ∨ o.pins ≠ []) → o.state < 4 →
        Answers (.unlodge l) s fun t => Ends s t l 0x21 o.state s.dev []) ∧
      (mapGet? s.dev.objs id = some o → s.dev.down o.home = false → (o.tier = 1 ∨ (o.state = 0 ∧ o.pins = [])) → Answers (.unlodge l) s fun t =>
        t = { s with dev := { s.dev with letters := lettersWith s.dev l (fun y => { y.begun with result := some (0, 0) }), dies := t.dev.dies, regs := t.dev.regs, objs := t.dev.objs, mem := t.dev.mem, reservations := t.dev.reservations } } ∧
        OnlyObj s.dev t.dev.objs id none ∧ OutsideDirs s.dev t.dev.mem 0 0 ∧
        (∀ r, (∀ p, r ≠ .redStatus p ∧ r ≠ .fltWait p 18) → r ≠ .hallObjStatus o.home → r ≠ .memSegUsed o.home → t.dev.reg r = s.dev.reg r))) ∧
    (isHandle id = true →
      ((∀ e ∈ s.dev.stash, ¬ (e.1.2.1 = x.ctx ∧ e.1.2.2 = id)) → Answers (.unlodge l) s fun t => Ends s t l 0x20 0 s.dev []) ∧
      ((∃ e ∈ s.dev.stash, e.1.2.1 = x.ctx ∧ e.1.2.2 = id) → stashBusy s.dev x.ctx id = false → Answers (.unlodge l) s fun t =>
        (∀ e, e ∈ t.dev.stash ↔ e ∈ s.dev.stash ∧ ¬ (e.1.2.1 = x.ctx ∧ e.1.2.2 = id)) ∧ t.dev.objs = s.dev.objs ∧ t.dev.ctxs = s.dev.ctxs ∧
        t.dev.letters = lettersWith s.dev l (fun y => { y.begun with result := some (0, 0) }))))

/-- PROMOTE and EVICT act by the state of the object. PROMOTE of an ABSENT object whose DEST passes the SRAM checks makes
it PROMOTING with the context's pin and its letter runs on; of a PROMOTING object it adds the pin and joins, with the
EVICTs that waited for the copy; of a RESIDENT object it adds the pin and ends at once; of an EVICTING object it
waits. EVICT clears the context's pin: with others left, or none held, it ends at once; with none left a RESIDENT
object becomes EVICTING and a PROMOTING one keeps the letter waiting. An SRAM-tier object gives OBJECT_STATE. The home
directory shows the object, and no byte outside the directories changes. Under conditions on the state and the
operands alone it concludes that exec answers a next state for: promote, evict. -/
def Obligations.ObjectPinned : Prop :=
  ∀ (s : State) (l : LetterId) (x : Letter) (id dest : Nat) (o : Obj),
    x.bracket = 0 → s.dev.lines = [] → NoDirWait s.dev → id = x.opnd 0 3 → id < 2 ^ 24 → dest = x.opnd 8 8 → mapGet? s.dev.objs id = some o → s.dev.down o.home = false →
    (Due s.dev l 0x04 x →
      (o.tier = 1 → o.state < 4 → Answers (.promote l) s fun t => Ends s t l 0x21 o.state s.dev []) ∧
      (o.tier = 0 → o.state = 0 → sramCheck s.dev o.home dest o.footprint = none → Answers (.promote l) s fun t =>
        RunsOn s t l { s.dev with objs := t.dev.objs, mem := t.dev.mem, reservations := t.dev.reservations } [] ∧ Shown t.dev id ∧ OutsideDirs s.dev t.dev.mem 0 0 ∧
        OnlyObj s.dev t.dev.objs id (some { o with state := 1, sram := dest, pins := [x.ctx], joiners := [l], dirty := false })) ∧
      (o.tier = 0 → o.state = 1 → x.ctx ∉ o.pins → Answers (.promote l) s fun t =>
        RunsOn s t l { s.dev with objs := t.dev.objs, mem := t.dev.mem, reservations := t.dev.reservations } [] ∧ Shown t.dev id ∧ OutsideDirs s.dev t.dev.mem 0 0 ∧
        OnlyObj s.dev t.dev.objs id (some { o with pins := o.pins ++ [x.ctx], joiners := o.joiners ++ o.evicts ++ [l], evicts := [] })) ∧
      (o.tier = 0 → o.state = 2 → x.ctx ∉ o.pins → Answers (.promote l) s fun t =>
        Ends s t l 0 0 { s.dev with objs := t.dev.objs, mem := t.dev.mem, reservations := t.dev.reservations } [] ∧ Shown t.dev id ∧ OutsideDirs s.dev t.dev.mem 0 0 ∧
        OnlyObj s.dev t.dev.objs id (some { o with pins := o.pins ++ [x.ctx] })) ∧
      (o.tier = 0 → o.state = 3 → Answers (.promote l) s fun t =>
        RunsOn s t l { s.dev with objs := t.dev.objs, mem := t.dev.mem, reservations := t.dev.reservations } [] ∧ OutsideDirs s.dev t.dev.mem 0 0 ∧
        OnlyObj s.dev t.dev.objs id (some { o with waiting := o.waiting ++ [(l, x.ctx, dest)] }))) ∧
    (Due s.dev l 0x05 x →
      (o.tier = 1 → o.state < 4 → Answers (.evict l) s fun t => Ends s t l 0x21 o.state s.dev []) ∧
      (o.tier = 0 → x.ctx ∉ o.pins → Answers (.evict l) s fun t => Ends s t l 0 0 s.dev []) ∧
      (o.tier = 0 → x.ctx ∈ o.pins → o.pins.filter (· ≠ x.ctx) ≠ [] → Answers (.evict l) s fun t =>
        Ends s t l 0 0 { s.dev with objs := t.dev.objs, mem := t.dev.mem, reservations := t.dev.reservations } [] ∧ Shown t.dev id ∧ OutsideDirs s.dev t.dev.mem 0 0 ∧
        OnlyObj s.dev t.dev.objs id (some { o with pins := o.pins.filter (· ≠ x.ctx) })) ∧
      (o.tier = 0 → o.pins = [x.ctx] → (o.state = 2 ∨ o.state = 1) → Answers (.evict l) s fun t =>
        RunsOn s t l { s.dev with objs := t.dev.objs, mem := t.dev.mem, reservations := t.dev.reservations } [] ∧ Shown t.dev id ∧ OutsideDirs s.dev t.dev.mem 0 0 ∧
        OnlyObj s.dev t.dev.objs id (some { o with pins := [], state := if o.state = 2 then 3 else 1, evicts := if o.state = 2 then [l] else o.evicts ++ [l] })))

/-- The copies between the tiers. When the copy of a pinned PROMOTING object completes, its SRAM copy holds the stacked
bytes, the object is RESIDENT and clean, and the letters that waited for the copy end with SUCCESS. When the write-
back of an EVICTING object completes, the stacked bytes of a dirty object are those of its SRAM copy, those of a clean
one are untouched, the object is ABSENT, and the letters that waited end. No byte outside the destination and the
directories changes. Under conditions on the state and the operands alone it concludes that exec answers a next state
for: promoteCopyDone, evictWritebackDone. -/
def Obligations.ObjectCopied : Prop :=
  ∀ (s : State) (id : Nat) (o : Obj) (l : LetterId) (x : Letter),
    mapGet? s.dev.objs id = some o → id < 2 ^ 24 → o.tier = 0 → NoDirWait s.dev → o.held = [] → o.waiting = [] → s.dev.drains = [] → Calm s.dev o.home → s.dev.installing o.home = false →
    place o.base = .slab o.home → o.base + o.footprint ≤ slabBase (o.home + 1) → exists_ s.dev o.sram o.footprint true = true → (∃ w k, place o.sram = .window o.home w k) →
    routed s.dev (some (o.home, 18)) o.base o.footprint = true → routed s.dev (some (o.home, 18)) o.sram o.footprint = true →
    (∀ p r, dirRegion s.dev p = some r → o.sram + o.footprint ≤ r.1 ∨ r.1 + r.2 ≤ o.sram) →
    findLetter s.dev l = some x → x.result = none → (∀ y ∈ s.dev.letters, y.id = l → y.started = true) → Unworked s.dev x →
    (o.state = 1 → o.pins ≠ [] → o.joiners = [l] → o.evicts = [] → Answers (.promoteCopyDone id) s fun t =>
      Ends s t l 0 0 { s.dev with objs := t.dev.objs, mem := t.dev.mem, reservations := t.dev.reservations }
        [(.redUpdProgress o.home, s.dev.reg (.redUpdProgress o.home) + BitVec.ofNat 64 (ceilDiv o.size 4096))] ∧
      OnlyObj s.dev t.dev.objs id (some { o with state := 2, dirty := false, joiners := [], evicts := [] }) ∧ Shown t.dev id ∧
      t.dev.mem.read o.sram o.footprint = s.dev.mem.read o.base o.footprint ∧ OutsideDirs s.dev t.dev.mem o.sram (o.sram + o.footprint)) ∧
    (o.state = 3 → o.joiners = [] → o.evicts = [l] → Answers (.evictWritebackDone id) s fun t =>
      Ends s t l 0 0 { s.dev with objs := t.dev.objs, mem := t.dev.mem, reservations := t.dev.reservations }
        (if o.dirty then [(.redUpdProgress o.home, s.dev.reg (.redUpdProgress o.home) + BitVec.ofNat 64 (ceilDiv o.size 4096))] else []) ∧
      OnlyObj s.dev t.dev.objs id (some { o with state := 0, sram := 0, dirty := false, pins := [], evicts := [] }) ∧ Shown t.dev id ∧
      (o.dirty = true → t.dev.mem.read o.base o.footprint = s.dev.mem.read o.sram o.footprint) ∧
      OutsideDirs s.dev t.dev.mem o.base (if o.dirty then o.base + o.footprint else o.base))

/-- The interleave set and the base dies. A granted write of MEM_SEG_ISET leaves unchanged the bit of every segment whose
USED bit is set and gives the others the written bit. The bytes of a segment whose bit changes are undefined from then
on (free values), every other byte and register is as before but for the offices' byte counts. A request is served
piece by piece, each piece within one 2 KiB granule: a request over several granules does what its first piece and
then a request for the rest do. At a slab address that nothing holds back, a piece's write stores its bytes and its
read returns them; a corrected error of a read counts once in MEM_ECC_CORR of the stack and returns the bytes; an
uncorrectable error answers with an error and leaves every burst of the read bad, so that the next read of it answers
with an error until it is written whole. Where memory answers with an error, so does the base die; where it has to
wait, the request is held. How an uncorrectable burst stays bad is the model's reading (log entry 7). Under conditions
on the state and the operands alone it concludes that exec answers a next state for: memoryRequest, memSegIsetWrite. -/
def Obligations.StackedMemory : Prop :=
  (∀ (s : State) (v : Via) (p : Nat) (value : W32), p < 4 → Granted s.dev v .open_ (.memSegIset p) →
    Answers (.memSegIsetWrite v p value) s fun t =>
      t = { s with dev := { s.dev with regs := t.dev.regs, mem := t.dev.mem, tick := t.dev.tick, out := s.dev.out ++ viaAck v } } ∧
      (∀ i < 16, t.dev.bit (.memSegIset p) i = if s.dev.bit (.memSegUsed p) i then s.dev.bit (.memSegIset p) i else value.getLsbD i) ∧
      t.dev.fld (.memSegIset p) 63 16 = s.dev.fld (.memSegIset p) 63 16 ∧ (∀ r, r ≠ .memSegIset p → t.dev.reg r = (s.dev.across v (.memSegIset p)).reg r) ∧
      (∀ a, (∀ i < 16, slabBase p + i * 2 ^ 36 ≤ a → a < slabBase p + (i + 1) * 2 ^ 36 → t.dev.bit (.memSegIset p) i = s.dev.bit (.memSegIset p) i) → t.dev.mem.get a = s.dev.mem.get a) ∧
      (∀ i < 16, t.dev.bit (.memSegIset p) i ≠ s.dev.bit (.memSegIset p) i → ∃ k, ∀ a, slabBase p + i * 2 ^ 36 ≤ a → a < slabBase p + (i + 1) * 2 ^ 36 → t.dev.mem.get a = Config.freeByte k a)) ∧
  (∀ (s : State) (a len p : Nat) (bs : List Byte) (e : EccOutcome),
    (2048 < a % 2048 + len → ∃ t, exec (.memoryRequest ⟨a, none, 2048 - a % 2048, e⟩) s = .next t ∧
      exec (.memoryRequest ⟨a, none, len, e⟩) s = exec (.memoryRequest ⟨a + (2048 - a % 2048), none, len - (2048 - a % 2048), e⟩) t) ∧
    (2048 < a % 2048 + bs.length → ∃ t, exec (.memoryRequest ⟨a, some (slice bs 0 (2048 - a % 2048)), len, e⟩) s = .next t ∧
      exec (.memoryRequest ⟨a, some bs, len, e⟩) s = exec (.memoryRequest ⟨a + (2048 - a % 2048), some (slice bs (2048 - a % 2048) (bs.length - (2048 - a % 2048))), len, e⟩) t) ∧
    (place a = .slab p → a + len ≤ slabBase (p + 1) → bs.length = len → 0 < len → a % 2048 + len ≤ 2048 → s.dev.held = [] →
    (homeCheck s.dev p a len false = some (.mem a 1) → Runs (.memoryRequest ⟨a, none, len, e⟩) s { s.dev with out := s.dev.out ++ [.memError] }) ∧
    (homeCheck s.dev p a len true = some (.mem a 1) → Runs (.memoryRequest ⟨a, some bs, len, e⟩) s { s.dev with out := s.dev.out ++ [.memError] }) ∧
    (∀ k, homeCheck s.dev p a len false = some (.wait k) → Runs (.memoryRequest ⟨a, none, len, e⟩) s { s.dev with held := [.burst ⟨a, none, len, e⟩] }) ∧
    ((∀ w, homeCheck s.dev p a len w = none) →
    Runs (.memoryRequest ⟨a, some bs, len, e⟩) s { s.dev with mem := s.dev.mem.write a bs } ∧
    Runs (.memoryRequest ⟨a, none, len, .clean⟩) s { s.dev with out := s.dev.out ++ [.memReply (s.dev.mem.read a len)] } ∧
    (∀ st, st = (pcLoc (s.dev.regN (.memSegIset p)) a).stack → Answers (.memoryRequest ⟨a, none, len, .corrected⟩) s fun t =>
      Becomes s t { s.dev with out := s.dev.out ++ [.memReply (s.dev.mem.read a len)] }
        [(.memEccCorr p st, fset (s.dev.reg (.memEccCorr p st)) 31 0 (satAdd 32 (s.dev.fld (.memEccCorr p st) 31 0) 1))]) ∧
    Answers (.memoryRequest ⟨a, none, len, .uncorrectable⟩) s fun t =>
      t = { s with dev := { s.dev with mem := t.dev.mem, out := s.dev.out ++ [.memError] } } ∧
      (∀ x, t.dev.mem.get x = s.dev.mem.get x) ∧ (∀ k < len, t.dev.mem.isBad (a + k) 1 = true) ∧
      (Runs (.memoryRequest ⟨a, none, len, .clean⟩) t { t.dev with out := t.dev.out ++ [.memError] }))))

/-- Step and evaluation letters are checked against the step state. A step or evaluation letter whose condition of R304
fails ends with STEP_ORDER, DETAIL the opcode that the state expects, and changes nothing; STEP_BEGIN before the
cascade is open likewise with DETAIL 0. An accepted STEP_BEGIN takes STEP, opens the step unspoiled and, with SET,
broadcasts the epoch; an accepted STEP_COMMIT enters DECIDING and an accepted STEP_ABORT leaves the state, each
telling the postmaster, and their letters run on; EVAL_BEGIN and EVAL_END open and close the bracket, EVAL_END once no
letter begun in it is left. Under conditions on the state and the operands alone it concludes that exec answers a next
state for: stepBegin, stepCommit, stepAbort, evalBegin, evalEnd. -/
def Obligations.StepLetters : Prop :=
  ∀ (s : State) (l : LetterId) (x : Letter) (c : Nat) (step : Nat), c = x.ctx → step = x.opnd 0 8 →
    (expected s.dev c = match stepState s.dev c with | 0 => if s.dev.bit (.gateStep c) 6 then 0x15 else 0x10 | 1 => 0x11 | 2 => 0x12 | 3 => 0x12 | _ => 0) ∧
    (Due s.dev l 0x10 x →
      (cascadeOpen s.dev = false → Answers (.stepBegin l) s fun t => Ends s t l 0x30 0 s.dev []) ∧
      (cascadeOpen s.dev = true → (stepState s.dev c ≠ 0 ∨ s.dev.bit (.gateStep c) 6 = true ∨ (s.dev.bit (.gateStep c) 7 = true ∧ step ≠ (s.dev.regN (.gateStepCommitted c) + 1) % 2 ^ 64)) →
        Answers (.stepBegin l) s fun t => Ends s t l 0x30 (expected s.dev c) s.dev []) ∧
      (cascadeOpen s.dev = true → stepState s.dev c = 0 → s.dev.bit (.gateStep c) 6 = false → (s.dev.bit (.gateStep c) 7 = false ∨ step = (s.dev.regN (.gateStepCommitted c) + 1) % 2 ^ 64) →
        s.dev.epochMarker = none → Answers (.stepBegin l) s fun t =>
          Ends s t l 0 0 { s.dev with decisions := t.dev.decisions, stepParts := mapSet s.dev.stepParts c [], xbase := t.dev.xbase, floods := [], post := t.dev.post, redEarly := s.dev.redEarly.filter (fun e => e.ctx ≠ c ∨ e.step = step), epochMarker := if x.opnd 8 4 / 2 ^ 31 = 1 then some (x.opnd 8 3, markerDies s.dev) else none }
            ((if x.opnd 8 4 / 2 ^ 31 = 1 then [(.gateEpoch, bset (fset (s.dev.reg .gateEpoch) 23 0 (x.opnd 8 3)) 31 true)] else []) ++
              [(.gateStepOpen c, BitVec.ofNat 64 step), (.gateStep c, bset (fset (s.dev.reg (.gateStep c)) 2 0 1) 4 false)]))) ∧
    (Due s.dev l 0x12 x →
      ((stepState s.dev c ≠ 3 ∨ stepOpen s.dev c ≠ step) → Answers (.stepCommit l) s fun t => Ends s t l 0x30 (expected s.dev c) s.dev []) ∧
      (stepState s.dev c = 3 → stepOpen s.dev c = step → postmasterOf s.dev = modNumber s.dev → Answers (.stepCommit l) s fun t =>
        RunsOn s t l { s.dev with out := s.dev.out ++ [.own (Msg.updateDone (modNumber s.dev) c step (s.dev.fld (.gateStep c) 5 5) (s.dev.reg (.gateNorm c))).bytes] }
          [(.gateStep c, fset (s.dev.reg (.gateStep c)) 2 0 4)])) ∧
    (Due s.dev l 0x13 x →
      ((stepState s.dev c = 0 ∨ 5 ≤ stepState s.dev c ∨ stepOpen s.dev c ≠ step) → Answers (.stepAbort l) s fun t => Ends s t l 0x30 (expected s.dev c) s.dev []) ∧
      (1 ≤ stepState s.dev c → stepState s.dev c ≤ 4 → stepOpen s.dev c = step → postmasterOf s.dev = modNumber s.dev → Answers (.stepAbort l) s fun t =>
        RunsOn s t l { s.dev with out := s.dev.out ++ [.own (Msg.abortReq (modNumber s.dev) c step).bytes] } [])) ∧
    (Due s.dev l 0x14 x →
      ((stepState s.dev c ≠ 0 ∨ s.dev.bit (.gateStep c) 6 = true ∨ s.dev.bit (.gateStep c) 7 = false ∨ s.dev.regN (.gateStepCommitted c) ≠ step) →
        Answers (.evalBegin l) s fun t => Ends s t l 0x30 (expected s.dev c) s.dev []) ∧
      (stepState s.dev c = 0 → s.dev.bit (.gateStep c) 6 = false → s.dev.bit (.gateStep c) 7 = true → s.dev.regN (.gateStepCommitted c) = step →
        Answers (.evalBegin l) s fun t => Ends s t l 0 0 { s.dev with evals := mapSet s.dev.evals c step } [(.gateStep c, bset (s.dev.reg (.gateStep c)) 6 true)])) ∧
    (Due s.dev l 0x15 x → (∀ y ∈ s.dev.letters, ¬ (y.bracket = 2 ∧ y.ctx = c)) →
      (mapGet? s.dev.evals c ≠ some step → Answers (.evalEnd l) s fun t => Ends s t l 0x30 (expected s.dev c) s.dev []) ∧
      (mapGet? s.dev.evals c = some step → Answers (.evalEnd l) s fun t =>
        Ends s t l 0 0 { s.dev with evals := mapErase s.dev.evals c } [(.gateStep c, bset (s.dev.reg (.gateStep c)) 6 false)])) ∧
    (findLetter s.dev l = some x → (∃ y ∈ s.dev.letters, y.bracket = 2 ∧ y.ctx = c) → exec (.evalEnd l) s = .next s)

/-- STEP_UPDATE, the norm and the local update. A STEP_UPDATE refused by the step state ends with STEP_ORDER, a CLIP that
is no finite positive number with FORMAT. Where the context has no UPDATE stage, an accepted one enters UPDATING with
the norm of no gradients, +0.0; UPDATE_LOCAL_DONE then enters UPDATED and ends the letter with SUCCESS. Where it has,
the module's partial that the norm pass answers is recorded; the dense update that succeeds ends the letter, keeps
what it stored and enters UPDATED, and a non-finite norm with SKIP_ON_NONFINITE enters UPDATED with SKIPPED and stores
no weight. A member's partial is taken once, and a stale one only counted; one that comes while the step is open and
before its STEP_UPDATE is kept for it (log entry 41). Under conditions on the state and the operands alone it
concludes that exec answers a next state for: stepUpdate, updateLocalDone, normPartialReceive. -/
def Obligations.StepUpdates : Prop :=
  ∀ (s : State) (l : LetterId) (x : Letter) (c : Nat), c = x.ctx →
    (Due s.dev l 0x11 x → x.bracket = 0 →
      ((stepState s.dev c ≠ 1 ∨ stepOpen s.dev c ≠ x.opnd 0 8) → Answers (.stepUpdate l) s fun t => Ends s t l 0x30 (expected s.dev c) s.dev []) ∧
      (stepState s.dev c = 1 → stepOpen s.dev c = x.opnd 0 8 → 0x7F800000 ≤ x.opnd 8 4 → Answers (.stepUpdate l) s fun t => Ends s t l 1 0x28 s.dev []) ∧
      (stepState s.dev c = 1 → stepOpen s.dev c = x.opnd 0 8 → x.opnd 8 4 < 0x7F800000 → powerState s.dev = 0 → s.dev.power.transition = none → updateParts s.dev c = [] → normRec s.dev = none → (∀ u ∈ s.dev.updates, u.ctx ≠ c) →
        Answers (.stepUpdate l) s fun t =>
          t = { s with dev := { s.dev with letters := lettersWith s.dev l Letter.begun, updates := s.dev.updates ++ [⟨l, c, BitVec.ofNat 32 (x.opnd 8 4), bitN (x.opnd 0xC 4) 0, [], 0#64, [], some 0#64⟩], stash := t.dev.stash, dies := t.dev.dies, regs := t.dev.regs } } ∧
          t.dev.reg (.gateStep c) = bset (fset (s.dev.reg (.gateStep c)) 2 0 2) 5 false ∧ t.dev.reg (.gateNorm c) = 0#64 ∧
          (∀ e, e ∈ t.dev.stash ↔ e ∈ s.dev.stash ∧ e.1.2.1 ≠ c) ∧ ∀ r, r ≠ .gateStep c → r ≠ .gateNorm c → (∀ p, r ≠ .hallStashStatus p) → t.dev.reg r = s.dev.reg r)) ∧
    (∀ u n, s.dev.updates.find? (·.ctx = c) = some u → u.norm = some n → findLetter s.dev u.letter = some x → x.result = none → stepState s.dev c = 2 →
      (∀ y ∈ s.dev.letters, y.id = u.letter → y.started = true) →
      (finite64 n = true → u.parts = [] → Unworked { s.dev with updates := [] } x → Answers (.updateLocalDone c) s fun t =>
        Ends s t u.letter 0 0 { s.dev with updates := s.dev.updates.filter (·.letter ≠ u.letter) } [(.gateStep c, fset (s.dev.reg (.gateStep c)) 2 0 3)]) ∧
      (∀ e, finite64 n = true → (∀ p ∈ u.parts, halted s.dev p 18 1 = false) → (denseUpdate x u n).run s.dev = (.ok (), e) → Answers (.updateLocalDone c) s fun t =>
        t = { s with dev := (e.setStepState c 3).finish u.letter 0 0 }) ∧
      (finite64 n = false → u.skip = false → exec (.updateLocalDone c) s = .next s) ∧
      (finite64 n = false → u.skip = true → (∀ p t, journalActive s.dev p t c = false) → Unworked { s.dev with updates := [] } x → Answers (.updateLocalDone c) s fun t =>
        t = { s with dev := { s.dev with letters := lettersWith s.dev u.letter (fun y => { y with skipped := true, result := some (0, 0) }), updates := s.dev.updates.filter (·.letter ≠ u.letter), runs := t.dev.runs, dies := t.dev.dies, regs := t.dev.regs } } ∧
        t.dev.reg (.gateStep c) = bset (fset (s.dev.reg (.gateStep c)) 2 0 3) 5 true)) ∧
    (∀ gen step m value p r u, normRec s.dev = some (p, r) → s.dev.updates.find? (·.ctx = c) = some u →
      (redCurrent s.dev c gen step = false → Answers (.normPartialReceive c gen step m value) s fun t =>
        Becomes s t s.dev [(.redStale p, fset (s.dev.reg (.redStale p)) 31 0 (satAdd 32 (s.dev.fld (.redStale p) 31 0) 1))]) ∧
      (redCurrent s.dev c gen step = true → mapGet? u.partials m ≠ none → exec (.normPartialReceive c gen step m value) s = .next s) ∧
      (redCurrent s.dev c gen step = true → mapGet? u.partials m = none → u.norm = none → (∃ k ∈ normMembers s.dev, k ≠ m ∧ mapGet? u.partials k = none) → redDims s.dev r = [] →
        Answers (.normPartialReceive c gen step m value) s fun t =>
          Becomes s t { s.dev with updates := s.dev.updates.map (fun v => if v.ctx = c then { u with partials := mapSet u.partials m value } else v) }
            [(.redProgress p, s.dev.reg (.redProgress p) + 1#64)])) ∧
    (∀ gen step m value p r, normRec s.dev = some (p, r) → s.dev.updates.find? (·.ctx = c) = none → redCurrent s.dev c gen step = true → stepState s.dev c = 1 →
      mapGet? (earlyPartials s.dev p (rdMailbag r) c) m = none → redDims s.dev r = [] → Answers (.normPartialReceive c gen step m value) s fun t =>
        Becomes s t { s.dev with redEarly := s.dev.redEarly ++ [earlyPartial p (rdMailbag r) c m step value] } [(.redProgress p, s.dev.reg (.redProgress p) + 1#64)] ∧
        mapGet? (earlyPartials t.dev p (rdMailbag r) c) m = some value)

/-- The decision of a step is made once and carried out once. The postmaster decides COMMIT when every member's
UPDATE_DONE agrees and ABORT on the first ABORT_REQ or on UPDATE_DONEs that differ, and never revises it. A module
that receives a decision for the first time begins it: COMMITTING from DECIDING, ABORTING from OPEN to DECIDING, where
letters of the step end with STEP_ABORTED; a second receipt changes nothing. The commit actions flip VER unless
SKIPPED, take STEP as committed and end STEP_COMMIT with SUCCESS; the abort actions keep VER, count the abort and end
STEP_ABORT with SUCCESS; both return to IDLE, unspoiled. Under conditions on the state and the operands alone it
concludes that exec answers a next state for: updateDoneReceive, abortReqReceive, commitReceive, abortReceive,
commitActionsDone, abortActionsDone. -/
def Obligations.StepDecisions : Prop :=
  ∀ (s : State) (m c step : Nat),
    (∀ (skipped : Bool) (norm : W64), isPostmaster s.dev = true → isMember s.dev m = true →
      ((findPoll s.dev c step).decided ≠ none → exec (.updateDoneReceive m c step skipped norm) s = .next s ∧ exec (.abortReqReceive m c step) s = .next s) ∧
      ((findPoll s.dev c step).decided = none → (∀ n < 16, s.dev.portState n ≠ 3) →
        (Answers (.abortReqReceive m c step) s fun t => (findPoll t.dev c step).decided = some false ∧
          t = { s with dev := { s.dev with post := t.dev.post, out := s.dev.out ++ [.own (Msg.abort c step).bytes] } }) ∧
        (mapGet? (findPoll s.dev c step).votes m = none →
          ((∀ v ∈ (findPoll s.dev c step).votes, v.2 = (skipped, norm)) → (∀ k ∈ normMembers s.dev, k ≠ m → mapGet? (findPoll s.dev c step).votes k ≠ none) →
            Answers (.updateDoneReceive m c step skipped norm) s fun t => (findPoll t.dev c step).decided = some true ∧
              t = { s with dev := { s.dev with post := t.dev.post, out := s.dev.out ++ [.own (Msg.commit c step).bytes] } }) ∧
          ((∀ v ∈ (findPoll s.dev c step).votes, v.2 = (skipped, norm)) → (∃ k ∈ normMembers s.dev, k ≠ m ∧ mapGet? (findPoll s.dev c step).votes k = none) →
            Answers (.updateDoneReceive m c step skipped norm) s fun t => (findPoll t.dev c step).decided = none ∧
              mapGet? (findPoll t.dev c step).votes m = some (skipped, norm) ∧ t = { s with dev := { s.dev with post := t.dev.post } }) ∧
          ((∃ v ∈ (findPoll s.dev c step).votes, v.2 ≠ (skipped, norm)) → Answers (.updateDoneReceive m c step skipped norm) s fun t =>
            (findPoll t.dev c step).decided = some false ∧ t = { s with dev := { s.dev with post := t.dev.post, out := s.dev.out ++ [.own (Msg.abort c step).bytes] } })))) ∧
    (∀ port, (mapGet? s.dev.decisions (c, step) ≠ none → exec (.commitReceive port c step) s = .next s ∧ exec (.abortReceive port c step) s = .next s) ∧
      (mapGet? s.dev.decisions (c, step) = none → (∀ n < 16, s.dev.portState n ≠ 3) → stepOpen s.dev c = step →
        (stepState s.dev c = 4 → Answers (.commitReceive port c step) s fun t =>
          Becomes s t { s.dev with decisions := mapSet s.dev.decisions (c, step) true } [(.gateStep c, fset (s.dev.reg (.gateStep c)) 2 0 5)]) ∧
        (1 ≤ stepState s.dev c → stepState s.dev c ≤ 4 → Answers (.abortReceive port c step) s fun t =>
          stepState t.dev c = 6 ∧ mapGet? t.dev.decisions (c, step) = some false ∧ t.dev.mem = s.dev.mem ∧ t.dev.ctxs = s.dev.ctxs ∧ t.dev.fld (.gateStep c) 3 3 = s.dev.fld (.gateStep c) 3 3 ∧
          (∀ x ∈ s.dev.letters, (∀ y ∈ s.dev.letters, y.id = x.id → y = x) →
            (x.ctx = c → x.opcode = 1 → (x.bracket = 1 ∨ x.started = false) → x.result = none → (findLetter t.dev x.id).map (·.result) = some (some (0x31, 0))) ∧
            ((x.ctx ≠ c ∨ x.result ≠ none) → x ∈ t.dev.letters)) ∧
          (∀ e, e ∈ t.dev.stash ↔ e ∈ s.dev.stash ∧ e.1.2.1 ≠ c)))) ∧
    ((∀ p t, journalActive s.dev p t c = false) →
      (stepState s.dev c = 5 → Answers (.commitActionsDone c) s fun t => t.dev.mem = s.dev.mem ∧ t.dev.ctxs = s.dev.ctxs ∧
        stepState t.dev c = 0 ∧ t.dev.bit (.gateStep c) 3 = (if s.dev.bit (.gateStep c) 5 then s.dev.bit (.gateStep c) 3 else !s.dev.bit (.gateStep c) 3) ∧
        t.dev.reg (.gateStepCommitted c) = s.dev.reg (.gateStepOpen c) ∧ t.dev.bit (.gateStep c) 7 = true ∧ t.dev.bit (.gateStep c) 4 = false ∧
        (∀ e, e ∈ t.dev.stash ↔ e ∈ s.dev.stash ∧ e.1.2.1 ≠ c) ∧
        ∀ l x, s.dev.letters = [x] → x.id = l → x.ctx = c → x.opcode = 0x12 → x.started = true → x.result = none → x.flushErr = none → (findLetter t.dev l).map (·.result) = some (some (0, 0))) ∧
      (stepState s.dev c = 6 → Answers (.abortActionsDone c) s fun t => t.dev.mem = s.dev.mem ∧ t.dev.ctxs = s.dev.ctxs ∧
        stepState t.dev c = 0 ∧ t.dev.bit (.gateStep c) 3 = s.dev.bit (.gateStep c) 3 ∧ t.dev.reg (.gateStepCommitted c) = s.dev.reg (.gateStepCommitted c) ∧
        t.dev.bit (.gateStep c) 4 = false ∧ t.dev.fld (.gateStep c) 63 32 = satAdd 32 (s.dev.fld (.gateStep c) 63 32) 1 ∧
        ∀ l x, s.dev.letters = [x] → x.id = l → x.ctx = c → x.started = true → x.result = none → x.flushErr = none →
          (x.opcode = 0x13 → (findLetter t.dev l).map (·.result) = some (some (0, 0))) ∧
          (x.opcode = 0x11 ∨ x.opcode = 0x12 → (findLetter t.dev l).map (·.result) = some (some (0x31, 0)))))

/-- Stages start, run on and finish. Where a due stage of the embedding, attention, mailbag or tie engines may start, its
command starts it and carries it out: when the action goes through, the stage is marked as done in its letter and what
the stage did is kept; when the action stops, the incident of the stop is raised and the letter ends with the status
of R127; when it has to wait, the stage stands as started, FLT_WAIT shows why, and of what the action did only its
requests to the outside and the deferral that it is counted as remain. A stage whose engine is not free waits for it.
A franker stage converts one destination parcel, a vector stage computes one group of 1,024 elements, and with the
last group of a parcel converts it, and a GRAD stage takes one tile with each of their commands; the first command of
a franker or GRAD stage starts it (a GRAD stage with WAIT_TOKEN on a token alone), VECTOR_STAGE_START loads and checks
the card. EXCHANGE starts its run. When the step goes through, what it did is kept and the engine waits for nothing;
when it stops, the letter ends with the status of the stop. Under conditions on the state and the operands alone it
concludes that exec answers a next state for: frankerParcel, vectorStageStart, vectorElementGroup, attForward,
attBackward, attAppend, attFork, attRelease, attPoolInit, split, sort, gatherPool, combine, scatter, adagrad, adam,
recover, tieSum, mailbagGrad, mailbagSend, exchange. -/
def Obligations.StageLifeCycle : Prop :=
  (∀ (s : State) (c : Instr) (l : LetterId) (stage kind st : Nat) (x : Letter) (p : Nat) (r : Rec) (a : Act Unit),
    ((c = .split l stage ∧ kind = 3 ∧ eOpt r 0 = 0 ∧ st = 1 ∧ a = Machine.split x p r) ∨
     (c = .sort l stage ∧ kind = 3 ∧ eOpt r 0 = 1 ∧ st = 1 ∧ a = sortStage x p r) ∨
     (c = .gatherPool l stage ∧ kind = 4 ∧ eOpt r 0 = 0 ∧ st = 1 ∧ a = gatherPool x p r) ∨
     (c = .combine l stage ∧ kind = 4 ∧ eOpt r 0 = 1 ∧ st = 1 ∧ a = combine x p r) ∨
     (c = .scatter l stage ∧ kind = 4 ∧ eOpt r 0 = 2 ∧ st = 1 ∧ a = scatter x p r) ∨
     (c = .adagrad l stage ∧ kind = 5 ∧ eOpt r 0 = 0 ∧ st = 1 ∧ a = rowUpdate false x p r) ∨
     (c = .adam l stage ∧ kind = 5 ∧ eOpt r 0 = 1 ∧ st = 1 ∧ a = rowUpdate true x p r) ∨
     (c = .recover l stage ∧ kind = 5 ∧ eOpt r 0 = 2 ∧ st = 2 ∧ a = recoverStage x p r) ∨
     (c = .attForward l stage ∧ kind = 7 ∧ tMode r = 0 ∧ st = 1 ∧ a = onStop (·.dropReaders p) (attForward x p r)) ∨
     (c = .attBackward l stage ∧ kind = 7 ∧ tMode r = 1 ∧ st = 2 ∧ a = onStop (·.dropReaders p) (attBackward x p r)) ∨
     (c = .attAppend l stage ∧ kind = 7 ∧ tMode r = 2 ∧ st = 3 ∧ a = tableOp x p r) ∨
     (c = .attFork l stage ∧ kind = 7 ∧ tMode r = 3 ∧ st = 3 ∧ a = tableOp x p r) ∨
     (c = .attRelease l stage ∧ kind = 7 ∧ tMode r = 4 ∧ st = 3 ∧ a = tableOp x p r) ∨
     (c = .attPoolInit l stage ∧ kind = 7 ∧ tMode r = 5 ∧ st = 3 ∧ a = tableOp x p r) ∨
     (c = .mailbagSend l stage ∧ kind = 8 ∧ mMode r = 1 ∧ st = 1 ∧ a = sendStage x p r) ∨
     (c = .tieSum l stage ∧ kind = 9 ∧ recU r 16 1 = 1 ∧ st = 1 ∧ a = tieSum x p r)) →
    (StageDue s.dev l stage kind x p r → (kind = 4 → s.dev.bit (.embStatus p (stNode r)) 6 = false) →
      (∀ e, a.run (s.dev.startStage x p r st) = (.ok (), e) → Answers c s fun t =>
        t = { s with dev := (e.whoWait (stageWho x p r) 0).stageDone x stage } ∧ ∀ y ∈ t.dev.letters, y.id = l → stage ∈ y.stages) ∧
      (∀ e f, a.run (s.dev.startStage x p r st) = (.error f, e) → (∀ k, f ≠ .wait k) →
        Runs c s ((e.stopIncident (stageWho x p r) f).finish l (stopStatus stage f).1 (stopStatus stage f).2)) ∧
      (∀ e k, a.run (s.dev.startStage x p r st) = (.error (.wait k), e) → Answers c s fun t =>
        t = { s with dev := { (if (s.dev.startStage x p r st).waitOf (stageWho x p r) = 3 then s.dev.startStage x p r st else (s.dev.startStage x p r st).keepDefers e).whoWait (stageWho x p r) k with remotes := e.remotes, nextTag := e.nextTag, out := e.out, ports := e.ports, remap := e.remap } } ∧
        ∃ q ∈ t.dev.runs, q = newRun x p r)) ∧
    (stageAt s.dev l stage [kind] = some (x, p, r) → runOf s.dev l stage = none → canStart s.dev x p r = false → cascadeOpen s.dev = true →
      Runs c s { s.dev with waits := if (l, stage) ∈ s.dev.waits then s.dev.waits else s.dev.waits ++ [(l, stage)] })) ∧
  (∀ (s : State) (l : LetterId) (stage : Nat) (x : Letter) (p : Nat) (r : Rec),
    (∀ (c : Instr) (kind st : Nat) (q : Run) (b d : Dev) (a : Act Unit),
      ((kind = 8 ∧ mFlag r 1 = true ∧ runOf s.dev l stage = none ∧ ∃ k, takeToken s.dev x.id p (stInB r) = some (k, b)) ∨
       (¬ (kind = 8 ∧ mFlag r 1 = true ∧ runOf s.dev l stage = none) ∧ b = s.dev)) →
      ((c = .frankerParcel l stage ∧ kind = 1 ∧ st = 3 ∧ a = frankStep x p r q) ∨
       (c = .mailbagGrad l stage ∧ kind = 8 ∧ st = 1 ∧ mMode r = 0 ∧ a = gradStep x p r q ∧ (runOf s.dev l stage = none → earlierGrad s.dev x p (mMailbag r) = false))) →
      stageAt s.dev l stage [kind] = some (x, p, r) →
      ((runOf s.dev l stage = some q ∧ engineOut s.dev p (stNode r) q.slot = false ∧ d = s.dev) ∨
       (StageDue s.dev l stage kind x p r ∧ engineOut s.dev p (stNode r) q.slot = false ∧ runOf (b.startStage x p r st) l stage = some q ∧ q.slot = slotOf kind (stArr r) ∧ d = b.startStage x p r st ∧ halted d p (stNode r) q.slot = false)) →
      (∀ e, a.run d = (.ok (), e) → Runs c s (e.whoWait (stageWho x p r) 0)) ∧
      (∀ e f, a.run d = (.error f, e) → (∀ k, f ≠ .wait k) → Runs c s ((e.stopIncident (stageWho x p r) f).finish l (stopStatus stage f).1 (stopStatus stage f).2))) ∧
    (stageAt s.dev l stage [8] = some (x, p, r) → mMode r = 0 → runOf s.dev l stage = none → earlierGrad s.dev x p (mMailbag r) = false → mFlag r 1 = true →
      canStart s.dev x p r = true → takeToken s.dev x.id p (stInB r) = none → cascadeOpen s.dev = true →
      Runs (.mailbagGrad l stage) s { s.dev with waits := if (l, stage) ∈ s.dev.waits then s.dev.waits else s.dev.waits ++ [(l, stage)] }) ∧
    (∀ (q q' : Run) (e f : Dev) (g : Stop), stageAt s.dev l stage [6] = some (x, p, r) → runOf s.dev l stage = some q → engineOut s.dev p (stNode r) q.slot = false → q.card ≠ [] →
      (vecFull q = false → (vectorGroup x p r q).run s.dev = (.ok (), e) → (runOf e l stage = none ∨ (runOf e l stage = some q' ∧ vecFull q' = false)) →
        Runs (.vectorElementGroup l stage) s (e.whoWait (stageWho x p r) 0)) ∧
      (vecFull q = false → (vectorGroup x p r q).run s.dev = (.error g, e) → (∀ k, g ≠ .wait k) →
        Runs (.vectorElementGroup l stage) s ((e.stopIncident (stageWho x p r) g).finish l (stopStatus stage g).1 (stopStatus stage g).2)) ∧
      ((vecFull q = true ∧ q' = q ∧ e = s.dev) ∨
          (vecFull q = false ∧ vecFull q' = true ∧ runOf e l stage = some q' ∧ ∃ h, (vectorGroup x p r q).run s.dev = (.ok (), h) ∧ e = h.whoWait (stageWho x p r) 0) →
        ((vectorConvert x p r q').run e = (.ok (), f) → Runs (.vectorElementGroup l stage) s (f.whoWait (stageWho x p r) 0)) ∧
        ((vectorConvert x p r q').run e = (.error g, f) → (∀ k, g ≠ .wait k) →
          Runs (.vectorElementGroup l stage) s ((f.stopIncident (stageWho x p r) g).finish l (stopStatus stage g).1 (stopStatus stage g).2)))) ∧
    (∀ card e, StageDue s.dev l stage 6 x p r → (cardLoad x p r).run (s.dev.startStage x p r 1) = (.ok card, e) → Answers (.vectorStageStart l stage) s fun t =>
      t = { s with dev := { e with runs := t.dev.runs, regs := t.dev.regs } } ∧
      (e.runs = (s.dev.startStage x p r 1).runs → { newRun x p r with card := card } ∈ t.dev.runs)) ∧
    (∀ e, StageDue s.dev l stage 8 x p r → mMode r = 2 → findExch s.dev (l, stage) = none → (xStart x p r).run (s.dev.startStage x p r 1) = (.ok (), e) →
      Runs (.exchange l stage) s (e.whoWait (stageWho x p r) 0).xPump))

/-- An array stage from its start to its drain. An array stage starts with both banks empty, or waits for its array.
ARRAY_BLOCK adds one K-block in every cell of the live bank, a bank of zeros when the stage does not accumulate, and
counts it; at the end of its K-blocks the pass ends, the banks swap and the next tile begins; the drained tile goes to
the channel of DRAIN 1 or 2 once the channel has room, and a drain token makes its tile loadable. ARRAY_BLOCK leaves
cells beyond M and N zero. A first parity error restarts its tile and takes back the saturations that its blocks had
counted, a second one halts the array with its incident. Under conditions on the state and the operands alone it
concludes that exec answers a next state for: arrayStageStart, arrayBlock, arrayPassEnd, arrayDrainDone,
drainTokenArrive, arrayParityError. -/
def Obligations.ArrayStages : Prop :=
  ∀ (s : State) (p t a m n k : Nat) (ar : ArrRun) (x : Letter) (r : Rec),
    (∀ l stage, stageAt s.dev l stage [0] = some (x, p, r) → runOf s.dev l stage = none → stNode r = t → stArr r = a →
      (canStart s.dev x p r = true → mapGet? s.dev.parked (p, t, a) = none → ArrayFits x r → FeedersFit s.dev x p r → Answers (.arrayStageStart l stage) s fun u =>
        u.dev.arr p t a = some (freshArr x r) ∧ newRun x p r ∈ u.dev.runs ∧ (t < 12 → a < 4 → u.dev.fld (.arrStatus p t a) 2 0 = 1) ∧ (l, stage) ∉ u.dev.waits ∧ u.dev.mem = s.dev.mem) ∧
      (canStart s.dev x p r = false ∨ mapGet? s.dev.parked (p, t, a) ≠ none → Runs (.arrayStageStart l stage) s
        { s.dev with waits := if (l, stage) ∈ s.dev.waits then s.dev.waits else s.dev.waits ++ [(l, stage)] })) ∧
    (arrStage s.dev p t a = some (ar, x, r) → dimsOf x r = (m, n, k) → stNode r = t → stArr r = a → t < 12 → a < 4 →
      (∀ A B e f bank, ar.tile < tileCount m n → ar.next < aKbEnd r k → s.dev.fld (.arrStatus p t a) 2 0 ≠ 3 →
        (ar.live = some bank ∨ (ar.live = none ∧ aFlag r 1 = false ∧ bank = List.replicate 16384 0#32)) →
        (operandBlock x (stageWho x p r) (aWordA r) (stInA r) m k (ar.tile % ceilDiv m 128) ar.tile ar.next ar.fmtA).run s.dev = (.ok A, e) →
        (operandBlock x (stageWho x p r) (aWordB r) (stInB r) n k (ar.tile / ceilDiv m 128) ar.tile ar.next ar.fmtB).run e = (.ok B, f) →
        (aFlag r 0 = true → A.fmt.isInt = true ∧ B.fmt.isInt = true) → Answers (.arrayBlock p t a) s fun u =>
          u = { s with dev := { f with arrs := u.dev.arrs, letters := u.dev.letters, regs := u.dev.regs } } ∧
          (∃ q sat, u.dev.arr p t a = some { ar with live := some q, next := ar.next + 1, fmtA := A.fmt.code, fmtB := B.fmt.code, sat := ar.sat + sat } ∧ q.length = bank.length ∧
            ∀ i < bank.length, q.getD i 0#32 = if i / 128 < m - 128 * (ar.tile % ceilDiv m 128) ∧ i % 128 < n - 128 * (ar.tile / ceilDiv m 128) then
              (cellStep (aFlag r 0) A B (i / 128) (i % 128) (bank.getD i 0#32)).1 else 0#32) ∧
          u.dev.reg (.arrProgress p t a) = f.reg (.arrProgress p t a) + 1#64) ∧
      (∀ bank, ar.live = some bank → ar.drain = none → aKbEnd r k ≤ ar.next → ar.tile < tileCount m n → Answers (.arrayPassEnd p t a) s fun u =>
        Becomes s u { s.dev with arrs := mapSet s.dev.arrs (p, t, a) { ar with tile := ar.tile + 1, next := aKbFirst r, live := none, drain := some (ar.tile, bank), fmtA := 0, fmtB := 0, sat := 0, drainSat := ar.sat } }
          [(.arrStatus p t a, bset (bset (s.dev.reg (.arrStatus p t a)) 4 (!s.dev.bit (.arrStatus p t a) 4)) 5 true)]) ∧
      (ar.live = none ∨ ar.drain ≠ none ∨ ar.next < aKbEnd r k → exec (.arrayPassEnd p t a) s = .next s) ∧
      (∀ tile vals, ar.drain = some (tile, vals) → (aDrain r = 1 ∨ aDrain r = 2) → aFlag r 2 = false → stOutA r ≠ 0xFFFF → chanRoom s.dev x.id p (stOutA r) (.tile tile vals) = true → ar.tile < tileCount m n →
        Answers (.arrayDrainDone p t a) s fun u => u.dev.chan x.id p (stOutA r) = s.dev.chan x.id p (stOutA r) ++ [.tile tile vals] ∧
          u.dev.arr p t a = some { ar with drain := none, mask := none, drainSat := 0 } ∧ u.dev.bit (.arrStatus p t a) 5 = false ∧ u.dev.mem = s.dev.mem) ∧
      (∀ tile e, aFlag r 1 = true → takeToken s.dev x.id p (stInB r) = some (tile, e) → Runs (.drainTokenArrive p t a) s
        { e with arrs := mapSet s.dev.arrs (p, t, a) { ar with tokens := tile :: ar.tokens } }) ∧
      (∀ draining tile, (draining = false → tile = ar.tile) → (draining = true → ar.drain.map (·.1) = some tile) →
        (tile ∈ ar.faulted → Answers (.arrayParityError p t a draining) s fun u =>
          Becomes { s with dev := s.dev.raise (faultInc x p t r 0x100 tile) } u (s.dev.raise (faultInc x p t r 0x100 tile))
            [(.arrStatus p t a, fset (bset ((s.dev.raise (faultInc x p t r 0x100 tile)).reg (.arrStatus p t a)) 6 true) 2 0 5)]) ∧
        (tile ∉ ar.faulted → ∀ sat, sat = (ar.sat + if draining then ar.drainSat else 0) → Answers (.arrayParityError p t a draining) s fun u =>
          Becomes s u { s.dev with letters := lettersWith s.dev x.id (fun y => { y with sat := y.sat - sat }), parked := if draining ∧ s.dev.fld (.arrStatus p t a) 2 0 = 3 then mapErase s.dev.parked (p, t, a) else s.dev.parked, arrs := mapSet s.dev.arrs (p, t, a) { ar with tile := tile, next := aKbFirst r, live := none, faulted := tile :: ar.faulted, drain := if draining then none else ar.drain, fmtA := 0, fmtB := 0, sat := 0, drainSat := if draining then 0 else ar.drainSat } }
            ((if draining ∧ s.dev.fld (.arrStatus p t a) 2 0 = 3 then
              [(.arrPark p t a, 0#64), (.arrParkPos p t a, 0#64), (.arrStatus p t a, fset (bset (bset (s.dev.reg (.arrStatus p t a)) 5 false) 3 false) 2 0 4)]
              else [(.arrStatus p t a, fset (if draining then bset (s.dev.reg (.arrStatus p t a)) 5 false else s.dev.reg (.arrStatus p t a)) 2 0 4)]) ++
             [(.arrRecompute p t a, fset (s.dev.reg (.arrRecompute p t a)) 31 0 (satAdd 32 (s.dev.fld (.arrRecompute p t a) 31 0) 1))]))))

/-- Preemption parks a stage, resumption brings it back. A waiting stage of higher priority takes the array of a
preemptible stage that nothing is parked on: the banks go to the array's two pigeonhole slots, ARR_PARK and
ARR_PARK_POS say where the stage stands, the count of preemptions rises, and the other starts with empty banks. The
command of ARR_CTRL does so for the highest-priority waiting stage, and nothing when none waits or R193 forbids it.
When the array is free, the parked stage resumes with its banks and position; the parking registers clear at once
where no drain was recorded, else the array is RESUMING and they clear with that drain (R195). Under conditions on the
state and the operands alone it concludes that exec answers a next state for: preempt, arrayPreemption, arrayResume. -/
def Obligations.ArrayPreemption : Prop :=
  ∀ (s : State) (p t a lo hi row : Nat) (ar : ArrRun) (x nx : Letter) (r nr : Rec),
    t < 12 → a < 4 → p < 4 → pigeonSlot s.dev p t (2 * a) = some lo → pigeonSlot s.dev p t (2 * a + 1) = some hi →
    (∀ c ack b, arrStage s.dev p t a = some (ar, x, r) →
      ((∃ l stage, c = .arrayPreemption p t a l stage row ∧ stageAt s.dev l stage [0] = some (nx, p, nr) ∧ stNode nr = t ∧ stArr nr = a ∧ runOf s.dev l stage = none ∧ ack = [] ∧ b = s) ∨
       (∃ v, c = .preempt v p t a row ∧ Granted s.dev v .open_ (.arrCtrl p t a) ∧ waitingOn s.dev p t a = some (nx, nr) ∧ stNode nr = t ∧ stArr nr = a ∧ ack = viaAck v ∧ b = s.across v (.arrCtrl p t a))) →
      (mayPreempt s.dev p t a ar x r nx nr = false → Runs c s { b.dev with out := s.dev.out ++ ack }) ∧
      (mayPreempt s.dev p t a ar x r nx nr = true → ArrayFits nx nr → FeedersFit s.dev nx p nr → Answers c s fun u =>
        mapGet? u.dev.parked (p, t, a) = some { ar with live := ar.live.map fun _ => [], drain := ar.drain.map fun e => (e.1, []) } ∧
        (∀ b, ar.live = some b → b.length = 16384 → u.dev.mem.read lo 65536 = bankBytes b) ∧ (∀ e, ar.drain = some e → e.2.length = 16384 → u.dev.mem.read hi 65536 = bankBytes e.2) ∧
        u.dev.reg (.arrPark p t a) = BitVec.ofNat 64 (x.ctx + ar.stage * 2 ^ 6 + x.route * 2 ^ 12) ∧
        u.dev.reg (.arrParkPos p t a) = BitVec.ofNat 64 (ar.next % 65536 + (if ar.drain.isSome then row % 128 * 2 ^ 16 + 2 ^ 23 else 0) + ar.tile * 2 ^ 32) ∧
        u.dev.bit (.arrStatus p t a) 3 = true ∧ u.dev.fld (.arrPreempts p t a) 31 0 = satAdd 32 (s.dev.fld (.arrPreempts p t a) 31 0) 1 ∧
        u.dev.arr p t a = some (freshArr nx nr) ∧ newRun nx p nr ∈ u.dev.runs ∧ u.dev.fld (.arrStatus p t a) 2 0 = 1 ∧ u.dev.out = s.dev.out ++ ack)) ∧
    (∀ v, Granted s.dev v .open_ (.arrCtrl p t a) → waitingOn s.dev p t a = none → Runs (.preempt v p t a row) s { s.dev.across v (.arrCtrl p t a) with out := s.dev.out ++ viaAck v }) ∧
    (mapGet? s.dev.parked (p, t, a) = some ar → runOn s.dev p t a = none → engineOut s.dev p t a = false → Answers (.arrayResume p t a) s fun u =>
      Becomes s u { s.dev with parked := mapErase s.dev.parked (p, t, a), arrs := mapSet s.dev.arrs (p, t, a) { ar with live := ar.live.map fun _ => bankOf (s.dev.mem.read lo 65536), drain := ar.drain.map fun e => (e.1, bankOf (s.dev.mem.read hi 65536)) }, runs := s.dev.runs.map fun q => if q.letter = ar.letter ∧ q.stage = ar.stage then { q with parked := false } else q }
        (if ar.drain.isSome then [(.arrStatus p t a, bset (fset (s.dev.reg (.arrStatus p t a)) 2 0 3) 5 true)]
         else [(.arrPark p t a, 0#64), (.arrParkPos p t a, 0#64), (.arrStatus p t a, bset (fset (bset (s.dev.reg (.arrStatus p t a)) 3 false) 2 0 1) 5 false)]))

/-- A letter of RUN_ROUTE is admitted, refused or made to wait. A RUN_ROUTE letter with a reserved bit in an operand word
that a stage of its route uses ends at once with FORMAT (R6). While the module is not ACTIVE it waits, and from IDLE
the module is brought back; while a partition of its route holds its context it waits. It ends at once with FN_STATE
when an engine or partition of its route is not ENABLED, with STEP_ABORTED while its step aborts, with FORMAT when a
forward-only route uses a stash handle, and with STASH_DROPPED when a handle that it reads was dropped. Otherwise it
runs on, inside the evaluation bracket or the open step of its context. Under conditions on the state and the operands
alone it concludes that exec answers a next state for: runRoute. -/
def Obligations.RouteLetters : Prop :=
  ∀ (s : State) (l : LetterId) (x : Letter) (c : Nat), Due s.dev l 1 x → c = x.ctx →
    (∃ q ∈ stagesOf s.dev x.route, isUpdate q.2 = false ∧ stIndex q.2 ∉ x.stages) →
    Answers (.runRoute l) s fun t =>
      if reservedWord s.dev x ≠ none then ∃ i, reservedWord s.dev x = some i ∧ (8 * i < 65536 → Ends s t l 1 (8 * i) s.dev [])
      else if powerState s.dev ≠ 0 ∨ s.dev.power.transition.isSome then
        t = { s with dev := { s.dev with letters := lettersWith s.dev l (fun y => { y.begun with started := false }), dies := t.dev.dies, power := { s.dev.power with transition := if powerState s.dev = 1 then some (s.dev.power.transition.getD 0) else s.dev.power.transition }, regs := t.dev.regs } } ∧ ∀ r, r ≠ .pwrState → t.dev.reg r = s.dev.reg r
      else if ∃ q ∈ stagesOf s.dev x.route, s.dev.bit (.fltHold q.1) c = true then
        t = { s with dev := { s.dev with letters := lettersWith s.dev l (fun y => { y.begun with started := false }), dies := t.dev.dies } }
      else if ∃ q ∈ stagesOf s.dev x.route, fnState s.dev (.partition q.1) ≠ 2 ∨ fnState s.dev (.engine q.1 (stNode q.2) (slotOf (stKind q.2) (stArr q.2))) ≠ 2 then Ends s t l 0x40 0 s.dev []
      else if stepState s.dev c = 6 then Ends s t l 0x31 0 s.dev []
      else if (findRoute s.dev x.route).map rtForwardOnly = some true ∧ handleWord s.dev x ≠ none then ∃ i, handleWord s.dev x = some i ∧ (8 * i < 65536 → Ends s t l 1 (8 * i) s.dev [])
      else if handleDropped s.dev x = true then Ends s t l 0x21 4 s.dev []
      else t = { s with dev := { s.dev with letters := lettersWith s.dev l (fun y => { y.begun with bracket := if (mapGet? s.dev.evals c).isSome then 2 else if stepState s.dev c = 1 then 1 else 0 }), dies := t.dev.dies } }

/-- Deliveries are issued, land, and are dropped for read-through. The first loads of a delivery are issued when its layer
is the current one of its node or among the LOOKAHEAD after it and no slot that it fills is still in use; further
loads follow, never more than its parcels; while the engine that fills the slots is halted or in reset nothing is
issued and nothing lands (R224, R396). A parcel that lands with a side record of its own is stored with it in its
slot, counted in the progress of a franker or update engine and marked as landed; with any other side record the
letter ends with a memory error. When the window stage is ready, every parcel not yet issued is dropped from the
delivery and the letter is marked as having read through; a delivery with dropped parcels issues nothing more. Under
conditions on the state and the operands alone it concludes that exec answers a next state for: deliveryIssue,
deliveryParcelLanded, windowStageReady. -/
def Obligations.Deliveries : Prop :=
  ∀ (s : State) (l : LetterId) (x : Letter) (p i : Nat) (r : Rec), findLetter s.dev l = some x → x.result = none →
    delivRec s.dev p i = some r → p < 4 →
    (delivOut s.dev p (recU r 16 1) = true → (∀ n, exec (.deliveryIssue l p i n) s = .next s) ∧ ∀ k, exec (.deliveryParcelLanded l p i k) s = .next s) ∧
    (∀ n, x.started = true → recU r 0 2 = x.route → delivOut s.dev p (recU r 16 1) = false →
      ((s.dev.deliv l p i).dropped ≠ [] → exec (.deliveryIssue l p i n) s = .next s) ∧
      ((s.dev.deliv l p i).issued = 0 → slotsBusy s.dev x p i r = true → exec (.deliveryIssue l p i n) s = .next s) ∧
      ((s.dev.deliv l p i).dropped = [] → (0 < (s.dev.deliv l p i).issued ∨ (inLookahead s.dev x p r = true ∧ slotsBusy s.dev x p i r = false)) →
        Answers (.deliveryIssue l p i n) s fun t => t = { s with dev := { s.dev with delivs := t.dev.delivs, regs := t.dev.regs } } ∧ (∀ q, q ≠ .frkStatus p (recU r 16 1) → t.dev.reg q = s.dev.reg q) ∧
          t.dev.deliv l p i = { s.dev.deliv l p i with letter := l, part := p, record := i, issued := min (recU r 12 4) ((s.dev.deliv l p i).issued + n) })) ∧
    (∀ k a w pl sd e f g, delivOut s.dev p (recU r 16 1) = false → w = (⟨some p, (delivEngine (recU r 16 1)).1, (delivEngine (recU r 16 1)).2, 0, x.ctx, x.gen, some l, recU r 17 1, x.route⟩ : Who) →
      k < (s.dev.deliv l p i).issued → k ∉ (s.dev.deliv l p i).landed → k ∉ (s.dev.deliv l p i).dropped →
      (parcelLoad w (bitsN (recU r 4 4) 23 0) (recU r 8 4 + k)).run s.dev = (.ok (pl, sd), e) → (Side.ofBytes sd).named (bitsN (recU r 4 4) 23 0) (recU r 8 4 + k) = true → slotAddr e p (recU r 16 1) (recU r 20 4 + k) = some a →
      (localStore w.src a pl).run e = (.ok (), f) → (localStore w.src (a + 4096) sd).run f = (.ok (), g) →
      Answers (.deliveryParcelLanded l p i k) s fun t => t = { s with dev := { g with delivs := t.dev.delivs, sums := t.dev.sums, regs := t.dev.regs } } ∧
        (t.dev.deliv l p i).landed = k :: (g.deliv l p i).landed ∧ ∀ c, delivProgress p (recU r 16 1) = some c → t.dev.reg c = g.reg c + 1#64) ∧
    (∀ k w pl sd e, delivOut s.dev p (recU r 16 1) = false → w = (⟨some p, (delivEngine (recU r 16 1)).1, (delivEngine (recU r 16 1)).2, 0, x.ctx, x.gen, some l, recU r 17 1, x.route⟩ : Who) →
      k < (s.dev.deliv l p i).issued → k ∉ (s.dev.deliv l p i).landed → k ∉ (s.dev.deliv l p i).dropped →
      (parcelLoad w (bitsN (recU r 4 4) 23 0) (recU r 8 4 + k)).run s.dev = (.ok (pl, sd), e) → (Side.ofBytes sd).named (bitsN (recU r 4 4) 23 0) (recU r 8 4 + k) = false →
      Runs (.deliveryParcelLanded l p i k) s ((e.stopIncident w (.mem (parcelAddr e w (bitsN (recU r 4 4) 23 0) (recU r 8 4 + k)) 2)).finish l 0x13 (recU r 17 1))) ∧
    (∀ stage q u, stageAt s.dev l stage [0, 1, 2, 3, 4, 5, 6, 7, 8, 9] = some (x, q, u) → stKind u ≠ 0 → stKind u ≠ 6 → recU r 0 2 = x.route → recU r 17 1 = stage →
      Answers (.windowStageReady l stage) s fun t => t.dev.mem = s.dev.mem ∧ t.dev.runs = s.dev.runs ∧
        (t.dev.deliv l p i).issued = (s.dev.deliv l p i).issued ∧ (t.dev.deliv l p i).landed = (s.dev.deliv l p i).landed ∧
        (∀ k < recU r 12 4, (s.dev.deliv l p i).issued ≤ k → k ∈ (t.dev.deliv l p i).dropped) ∧
        ((∃ k < recU r 12 4, (s.dev.deliv l p i).issued ≤ k ∧ k ∉ (s.dev.deliv l p i).dropped) → ∀ y ∈ t.dev.letters, y.id = l → y.readThrough = true))

/-- Engine counts, cache invalidation and memory errors of the engines. A corrected ECC error of an engine only counts; an
uncorrected one raises the engine's incident with the running stage's letter (for the mailbag engine also with that of
the mailbag in flight), sets FAULT and halts the engine, and has no effect on a tile engine while nothing runs; the
mailbag engine halts also then. The franker's is the stage whose values stand in its banks. CLEAR_COUNTS zeroes the
saturation and non-finite counts of every context on that engine and nothing else; HALL_RT_CTRL.CLEAR zeroes the read-
through tables, of which CLERK_RT has then taken what it had not seen (R433). A cache invalidation waits until no
gather or pooling stage runs on its tile and then empties that tile's row cache. Under conditions on the state and the
operands alone it concludes that exec answers a next state for: hallRtClear, frankerEccError, frkClearCounts,
vectorEccError, vecClearCounts, attentionEccError, attClearCounts, cacheInval, cacheInvalApply, embClearCounts,
embeddingEccError, mailbagEccError, redClearCounts. -/
def Obligations.CountsAndErrors : Prop :=
  ∀ (s : State) (p t : Nat), p < 4 →
    (∀ (c : Bool → Instr) (slot cls code bit hi lo : Nat) (corr status : Reg),
      ((12 ≤ t ∧ t < 16 ∧ c = .embeddingEccError p t ∧ slot = 0 ∧ cls = 0x104 ∧ corr = .embEccCorr p t ∧ status = .embStatus p t ∧ bit = 7 ∧ hi = 1 ∧ lo = 0 ∧ code = 3) ∨
       (16 ≤ t ∧ t < 18 ∧ c = .vectorEccError p t ∧ slot = 0 ∧ cls = 0x102 ∧ corr = .vecEccCorr p t ∧ status = .vecStatus p t ∧ bit = 3 ∧ hi = 2 ∧ lo = 0 ∧ code = 4) ∨
       (16 ≤ t ∧ t < 18 ∧ c = .attentionEccError p t ∧ slot = 1 ∧ cls = 0x103 ∧ corr = .attEccCorr p t ∧ status = .attStatus p t ∧ bit = 3 ∧ hi = 2 ∧ lo = 0 ∧ code = 5) ∨
       (t = 18 ∧ c = .mailbagEccError p ∧ slot = 0 ∧ cls = 0x105 ∧ corr = .redEccCorr p ∧ status = .redStatus p ∧ bit = 4 ∧ hi = 1 ∧ lo = 0 ∧ code = 3)) →
      (Answers (c true) s fun u => Becomes s u s.dev [(corr, fset (s.dev.reg corr) 31 0 (satAdd 32 (s.dev.fld corr 31 0) 1))]) ∧
      (runOn s.dev p t slot = none → t ≠ 18 → exec (c false) s = .next s) ∧
      (∀ q x r e, runLetter s.dev p t slot = some (q, x, r) → e = s.dev.raise (faultInc x p t r cls q.pos) → Answers (c false) s fun u =>
        Becomes { s with dev := e } u e [(status, fset (bset (e.reg status) bit true) hi lo code)])) ∧
    (t < 12 →
      Answers (.frankerEccError p t true) s (fun u => Becomes s u s.dev [(.frkEccCorr p t, fset (s.dev.reg (.frkEccCorr p t)) 31 0 (satAdd 32 (s.dev.fld (.frkEccCorr p t) 31 0) 1))]) ∧
      (frkStage s.dev p t = none → exec (.frankerEccError p t false) s = .next s) ∧
      (∀ q x r e, frkStage s.dev p t = some (q, x, r) → e = s.dev.raise (faultInc x p t r 0x101 (frkParcel s.dev p q x r)) → Answers (.frankerEccError p t false) s fun u =>
        Becomes { s with dev := e } u e [(.frkStatus p t, fset (bset (e.reg (.frkStatus p t)) 4 true) 2 0 5)])) ∧
    (∀ e, runLetter s.dev p 18 0 = none → (∀ b ∈ s.dev.bags, ¬ (b.part = p ∧ b.active = true)) → e = s.dev.raise { cls := 0x105, eng := 8, die := dieOf p 18, part := some p } →
      Answers (.mailbagEccError p false) s fun u => Becomes { s with dev := e } u e [(.redStatus p, fset (bset (e.reg (.redStatus p)) 4 true) 1 0 3)]) ∧
    (∀ b e, runLetter s.dev p 18 0 = none → s.dev.bags.find? (fun b => b.part = p ∧ b.active) = some b → e = s.dev.raise (bagInc b 0x105 0 0) →
      Answers (.mailbagEccError p false) s fun u => Becomes { s with dev := e } u e [(.redStatus p, fset (bset (e.reg (.redStatus p)) 4 true) 1 0 3)]) ∧
    (∀ (c : Via → Instr) (ctrl : Reg) (zero : List Reg) (v : Via),
      ((t < 12 ∧ c = (.frkClearCounts · p t) ∧ ctrl = .frkCtrl p t ∧ zero = (List.range 64).map (.frkSat p t) ++ (List.range 64).map (.frkNonfinite p t)) ∨
       (12 ≤ t ∧ t < 16 ∧ c = (.embClearCounts · p t) ∧ ctrl = .embCtrl p t ∧ zero = (List.range 64).map (.embSat p t) ++ (List.range 64).map (.embNonfinite p t)) ∨
       (16 ≤ t ∧ t < 18 ∧ c = (.vecClearCounts · p t) ∧ ctrl = .vecCtrl p t ∧ zero = (List.range 64).map (.vecSat p t) ++ (List.range 64).map (.vecNonfinite p t)) ∨
       (16 ≤ t ∧ t < 18 ∧ c = (.attClearCounts · p t) ∧ ctrl = .attCtrl p t ∧ zero = (List.range 64).map (.attSat p t) ++ (List.range 64).map (.attNonfinite p t)) ∨
       (c = (.redClearCounts · p) ∧ ctrl = .redCtrl p ∧ zero = (List.range 64).map (.redSat p) ++ (List.range 64).map (.redNonfinite p))) →
      Granted s.dev v .open_ ctrl → Answers (c v) s fun u =>
        Becomes (s.across v ctrl) u { s.dev with out := s.dev.out ++ viaAck v } (zero.map fun r => (r, 0#64))) ∧
    (∀ v, Granted s.dev v .open_ (.hallRtCtrl p) → Answers (.hallRtClear v p) s fun u =>
      Becomes (s.across v (.hallRtCtrl p)) u { s.dev with power := { s.dev.power with rtSeen := u.dev.power.rtSeen }, out := s.dev.out ++ viaAck v }
        ((Reg.hallRtOther p :: (List.range 64).map (.hallRt p)).map (fun r => (r, 0#64)) ++ if s.dev.power.clerk then
          [(.clerkRt p, fset (s.dev.reg (.clerkRt p)) 63 0 (satAdd 64 (s.dev.fld (.clerkRt p) 63 0) (moved (rtTotal s.dev p) (mapGet s.dev.power.rtSeen p 0))))] else []) ∧
      mapGet u.dev.power.rtSeen p 0 = 0 ∧ ∀ q, q ≠ p → mapGet u.dev.power.rtSeen q 0 = mapGet s.dev.power.rtSeen q 0) ∧
    (12 ≤ t → t < 16 →
      (∀ v, Granted s.dev v .open_ (.embCtrl p t) → Answers (.cacheInval v p t) s fun u => Becomes (s.across v (.embCtrl p t)) u { s.dev with out := s.dev.out ++ viaAck v }
        [(.embCtrl p t, bset (s.dev.reg (.embCtrl p t)) 1 true), (.embStatus p t, bset (s.dev.reg (.embStatus p t)) 6 true)]) ∧
      (s.dev.bit (.embStatus p t) 6 = true → runOn s.dev p t 1 = none → Answers (.cacheInvalApply p t) s fun u =>
        Becomes s u { s.dev with rowCache := s.dev.rowCache.filter fun k => ¬ (k.part = p ∧ k.node = t) }
          [(.embCtrl p t, bset (s.dev.reg (.embCtrl p t)) 1 false), (.embStatus p t, bset (s.dev.reg (.embStatus p t)) 6 false)]) ∧
      (s.dev.bit (.embStatus p t) 6 = false ∨ runOn s.dev p t 1 ≠ none → exec (.cacheInvalApply p t) s = .next s))

/-- Frames and messages of a reduction. A summary or group frame of another generation, step or inactive context is only
counted as stale, whatever mailbag it names; one of no known mailbag, at an engine that is halted or in reset or
already consumed is discarded. A frame of the first pass that this module still expects of a group of a mailbag in
flight, at a position that is neither the start nor the home of the group, is joined with the group's own value and
the partial goes on: the group holds no value any more. A current frame for a mailbag that has not started is kept,
unless a residue is wrong, which counts, raises the incident and asks the sender again, and the third time makes the
mailbag bad. A NAK makes the kept frame go out again, with a group credit of its own, and counts; a reported failure
is passed on once, ends the mailbag's letter with REDUCE_FAILED, moves the channel on and touches no byte but those of
the groups of its object. A channel starts its next mailbag, in named-fault mode when no other context is on the
engine, and one with no other module in its dimensions completes, once its token has room, without a change of memory.
Under conditions on the state and the operands alone it concludes that exec answers a next state for: phaseOneStart,
phaseOneSummaryReceive, groupFrameReceive, groupNakReceive, mailbagFailedReceive. -/
def Obligations.MailbagFrames : Prop :=
  ∀ (s : State) (p : Nat),
    (∀ (c : Instr) (ctx gen src phase : Nat) (body : List Byte) (mb gi pass dim : Nat),
      ((c = .phaseOneSummaryReceive p ctx gen src body ∧ phase = 1 ∧ body.length = 152) ∨ (c = .groupFrameReceive p ctx gen src body ∧ phase = 2 ∧ body.length = 5312)) →
      mb = field body 0 4 → gi = field body 4 4 → pass = field body 0xA 1 → dim = field body 0xB 1 % 4 →
      (redCurrent s.dev ctx gen (field body 0x10 8) = false → Answers c s fun t => Becomes s t s.dev [(.redStale p, fset (s.dev.reg (.redStale p)) 31 0 (satAdd 32 (s.dev.fld (.redStale p) 31 0) 1))]) ∧
      (redCurrent s.dev ctx gen (field body 0x10 8) = true → (findRed s.dev p mb = none ∨ engineOut s.dev p 18 0 = true) → exec c s = .next s) ∧
      (redCurrent s.dev ctx gen (field body 0x10 8) = true → engineOut s.dev p 18 0 = false → ∀ r, findRed s.dev p mb = some r →
          (∀ b, findBag s.dev p ctx mb = some b → expects s.dev b gi phase pass dim (field body 0x10 8) = false → exec c s = .next s) ∧
          (∀ b g v, findBag s.dev p ctx mb = some b → b.done = false → b.step = field body 0x10 8 → gi < rdGroups r → expects s.dev b gi phase pass dim (field body 0x10 8) = true → b.grps.find? (·.g = gi) = some g → g.phase = phase → g.val = some v →
            pass = 0 → (redDims s.dev r)[g.lvl]? = some dim → coord s.dev (modNumber s.dev) dim ≠ startAt s.dev dim gi → coord s.dev (modNumber s.dev) dim ≠ homeAt s.dev dim gi →
            (phase = 2 → (∀ o, g.one = some o → o.exp = field body 8 1) ∧ (rdOp r = 0 → ∀ k < 1024, ∀ w : BitVec 32, w = BitVec.ofNat 32 (field body (0xC0 + 4 * k) 4) → residue w = field body (0x10C0 + k) 1 ∧ residue (v.words.getD k 0#32 + w) = (residue (v.words.getD k 0#32) + residue w) % 255)) →
            Answers c s fun t => t.dev.mem = s.dev.mem ∧ ((findBag t.dev p ctx mb).bind fun b => b.grps.find? (·.g = gi)) = some { g with val := none }) ∧
          (findBag s.dev p ctx mb = none → rdPos r < headPos s.dev p (rdChan r) ctx → exec c s = .next s) ∧
          (findBag s.dev p ctx mb = none → headPos s.dev p (rdChan r) ctx ≤ rdPos r →
            (phase = 1 ∨ rdOp r ≠ 0 ∨ (∀ k < 1024, residue (BitVec.ofNat 32 (field body (0xC0 + 4 * k) 4)) = field body (0x10C0 + k) 1) → Answers c s fun t =>
              ∃ v : Load, v.exp = field body 8 1 ∧ v.mask = slice body (if phase = 1 then 0x18 else 0x40) 128 ∧ v.contrib = field body 0xC 2 ∧ (phase = 2 → ∀ k < 1024, v.words.getD k 0#32 = BitVec.ofNat 32 (field body (0xC0 + 4 * k) 4)) ∧
              t = { s with dev := { s.dev with redEarly := s.dev.redEarly ++ [⟨p, ctx, mb, gi, phase, pass, dim, src, v, field body 0x10 8⟩] } }) ∧
            (phase = 2 → rdOp r = 0 → ∀ k < 1024, residue (BitVec.ofNat 32 (field body (0xC0 + 4 * k) 4)) ≠ field body (0x10C0 + k) 1 →
              (∀ j < k, residue (BitVec.ofNat 32 (field body (0xC0 + 4 * j) 4)) = field body (0x10C0 + j) 1) → ∀ (n : Nat) (d : Dev), n = mapGet s.dev.redFails (p, ctx, mb, gi) 0 + 1 →
              d = { ((s.dev.count (.redResidueErr p) 1).raise { cls := 0x203, eng := 8, ctx := some (ctx, gen), die := dieOf p 18, part := some p, d0 := mb, d1 := gi + k * 2 ^ 32 }) with redFails := mapSet s.dev.redFails (p, ctx, mb, gi) n } →
              (n < 3 → Runs c s (d.postcard src (.groupNak ctx mb gi pass dim))) ∧
              (3 ≤ n → Runs c s (({ d with redBad := (p, ctx, mb) :: s.dev.redBad } : Dev).overPath r (.mailbagFailed ctx mb))))))) ∧
    (∀ ctx mailbag g pass dim,
      ((∀ e ∈ s.dev.redSent, ¬ (e.part = p ∧ e.ctx = ctx ∧ e.mailbag = mailbag ∧ e.g = g ∧ e.pass = pass ∧ e.dim = dim)) → exec (.groupNakReceive p ctx mailbag g pass dim) s = .next s) ∧
      (∀ e dst, s.dev.redSent.find? (fun e => e.part = p ∧ e.ctx = ctx ∧ e.mailbag = mailbag ∧ e.g = g ∧ e.pass = pass ∧ e.dim = dim) = some e → neighbour s.dev (modNumber s.dev) e.dim e.dir = some dst →
        Runs (.groupNakReceive p ctx mailbag g pass dim) s ((s.dev.count (.redReplays p) 1).groupSend (((findRed s.dev p mailbag).map rdChan).getD 0) e.dim e.dir ⟨4, 3, 0, modNumber s.dev, dst, ctx % 64 + (s.dev.ctx ctx).gen % 4096 * 2 ^ 6, g, e.frame⟩))) ∧
    (∀ ctx mailbag r, findRed s.dev p mailbag = some r →
      ((p, ctx, mailbag) ∈ s.dev.redBad ∨ mapGet? s.dev.redFailed (p, ctx, mailbag) = some (curStep s.dev ctx) → exec (.mailbagFailedReceive p ctx mailbag) s = .next s) ∧
      ((p, ctx, mailbag) ∉ s.dev.redBad → mapGet? s.dev.redFailed (p, ctx, mailbag) ≠ some (curStep s.dev ctx) → findBag s.dev p ctx mailbag = none → Runs (.mailbagFailedReceive p ctx mailbag) s
        (({ s.dev with redBad := (p, ctx, mailbag) :: s.dev.redBad } : Dev).overPath r (.mailbagFailed ctx mailbag))) ∧
      (∀ b x, (p, ctx, mailbag) ∉ s.dev.redBad → mapGet? s.dev.redFailed (p, ctx, mailbag) ≠ some (curStep s.dev ctx) → findBag s.dev p ctx mailbag = some b → findLetter s.dev b.letter = some x → x.result = none → Answers (.mailbagFailedReceive p ctx mailbag) s fun t =>
        findBag t.dev p ctx mailbag = none ∧ (findLetter t.dev b.letter).map (·.result) = some (some (0x32, b.chan % 65536)) ∧ t.dev.bit (.redChan p b.chan) 23 = true ∧ (mapGet? s.dev.objs (rdObj (bagRec s.dev b)) = none → t.dev.mem = s.dev.mem) ∧
        ∀ o a, mapGet? s.dev.objs (rdObj (bagRec s.dev b)) = some o → (∀ g < rdGroups (bagRec s.dev b), (a < o.loadBase + 4096 * g ∨ o.loadBase + 4096 * g + 4096 ≤ a) ∧ (a < o.loadBase + o.size + 512 * g ∨ o.loadBase + o.size + 512 * g + 512 ≤ a)) →
          t.dev.mem.get a = s.dev.mem.get a)) ∧
    (∀ ch, (nextBag s.dev p ch = none ∨ engineOut s.dev p 18 0 = true ∨ cascadeOpen s.dev = false → exec (.phaseOneStart p ch) s = .next s) ∧
      (∀ b, nextBag s.dev p ch = some b → engineOut s.dev p 18 0 = false → cascadeOpen s.dev = true → (s.dev.bit (.fltCtrl p) 0 = false ∨ aloneOn s.dev p 18 0 b.ctx = true) → rdOp (bagRec s.dev b) ≠ 2 →
        (redN s.dev (bagRec s.dev b) ≤ 1 → (∀ g < rdGroups (bagRec s.dev b), g ∈ b.ready) → bagQueued s.dev b = false → bagRoom (s.dev.activate b) { b with active := true } = true → Answers (.phaseOneStart p ch) s fun t =>
          t.dev.mem = s.dev.mem ∧ findBag t.dev p b.ctx b.mailbag = none ∧ t.dev.ctxs = s.dev.ctxs) ∧
        (1 < redN s.dev (bagRec s.dev b) → Runs (.phaseOneStart p ch) s
          ((s.dev.activate b).bagAct { b with active := true } (startGroups { b with active := true } (b.ready.filter fun g => !b.grps.any (·.g = g)))))))

/-- Messages of an exchange are kept until the stage starts. Counts, READY and data of an exchange reach the running stage
of their owner. Where no exchange runs, counts and READY are kept for the stage that will start, counts without a
matching stage are refused and go back to their source, and data only counts. A count postcard that comes back to its
source ends the letter of its stage with ADDRESS_FAULT and the stage index (that it comes back is the model's choice,
log entry 38). Data of another module or of a wrong length is dropped, data of another generation is a dead letter.
Under conditions on the state and the operands alone it concludes that exec answers a next state for:
countPostcardReceive, readyReceive, exchangeFrameReceive. -/
def Obligations.ExchangeMessages : Prop :=
  ∀ (s : State),
    (s.dev.exchs = [] → ∀ ctx route kind run,
      (∀ source counts, (source / 16 = modNumber s.dev → exec (.countPostcardReceive ctx route kind run source counts) s = .next s) ∧
        (source / 16 ≠ modNumber s.dev → ((∀ i < 16, xStage s.dev route kind (i / 4) (i % 4) = none) ∨ ∃ i < 16, ∃ n b, counts[i]? = some (n, b) ∧ n ≠ 0 ∧ xStage s.dev route kind (i / 4) (i % 4) = none) →
          Runs (.countPostcardReceive ctx route kind run source counts) s (s.dev.postcard (source / 16) (.exchangeCounts ctx route kind run source counts))) ∧
        (source / 16 ≠ modNumber s.dev → (∃ i < 16, xStage s.dev route kind (i / 4) (i % 4) ≠ none) → (∀ i < 16, ∀ n b, counts[i]? = some (n, b) → n ≠ 0 → xStage s.dev route kind (i / 4) (i % 4) ≠ none) → Answers (.countPostcardReceive ctx route kind run source counts) s fun t =>
          t = { s with dev := { s.dev with xcounts := t.dev.xcounts } } ∧ t.dev.xcounts.length = s.dev.xcounts.length + min 16 counts.length ∧
          (∀ n ∈ s.dev.xcounts, n ∈ t.dev.xcounts) ∧ ∀ i < 16, ∀ n b, counts[i]? = some (n, b) → (⟨ctx, route, kind, run, i, source, n, b⟩ : XNote) ∈ t.dev.xcounts)) ∧
      (∀ owner source, (source / 16 ≠ modNumber s.dev → exec (.readyReceive ctx route kind run owner source) s = .next s) ∧
        (source / 16 = modNumber s.dev → Runs (.readyReceive ctx route kind run owner source) s { s.dev with xready := s.dev.xready ++ [⟨ctx, route, kind, run, source % 16, owner, 0, 0⟩] }))) ∧
    (∀ ctx route kind run source counts e, source / 16 = modNumber s.dev → exchOf s.dev ctx route kind run (source / 4 % 4) (source % 4) = some e →
      Runs (.countPostcardReceive ctx route kind run source counts) s (s.dev.finish e.letter 0x10 e.stage)) ∧
    (∀ ctx route kind run owner source e, source / 16 = modNumber s.dev → exchOf s.dev ctx route kind run (source / 4 % 4) (source % 4) = some e →
      Runs (.readyReceive ctx route kind run owner source) s (s.dev.setExch { e with ready := owner :: e.ready }).xPump) ∧
    (∀ body dst ctx, dst = field body (4096 + 6) 2 → ctx = field body (4096 + 0x18) 1 % 64 →
      (body.length ≠ 4608 ∨ dst / 16 ≠ modNumber s.dev → exec (.exchangeFrameReceive body) s = .next s) ∧
      (body.length = 4608 → dst / 16 = modNumber s.dev → (s.dev.ctx ctx).gen ≠ field body (4096 + 0x1A) 2 → Runs (.exchangeFrameReceive body) s (s.dev.courierDead (dst / 4 % 4) ctx (field body (4096 + 0x1A) 2))) ∧
      (body.length = 4608 → dst / 16 = modNumber s.dev → (s.dev.ctx ctx).gen = field body (4096 + 0x1A) 2 →
        (s.dev.exchs = [] → Answers (.exchangeFrameReceive body) s fun t => Becomes s t s.dev [(.redProgress (dst / 4 % 4), s.dev.reg (.redProgress (dst / 4 % 4)) + 1#64)]) ∧
        (∀ e, exchOf s.dev ctx (field body 4096 2) (field body (4096 + 2) 1) (field body (4096 + 8) 4) (dst / 4 % 4) (dst % 4) = some e → Runs (.exchangeFrameReceive body) s
          ((s.dev.wrap (.redProgress (dst / 4 % 4)) 1).setExch { e with pend := e.pend ++ [(field body (4096 + 4) 2, field body (4096 + 0x10) 8, slice body 0 (min 4096 (field body (4096 + 0xC) 4)))] }).xPump)))

/-- Frames, acknowledgements and resending on a courier link. What forward error correction corrected in a frame, or could
not, is counted at a port that is not DISABLED. In a session a good frame with the expected LSEQ is accepted: its LACK
acknowledges, ACK and a credit go back, each a CONTROL frame with the LACK of its time, and it is delivered; a
duplicate is only acknowledged again; a bad or early one is discarded and asked for once; a CONTROL frame, like a
CREDIT or a KEEPALIVE, acknowledges by its LACK and does no more here. ACK drops what it covers from the replay
buffer; a NAK and the replay timeout resend the rest in order, and a frame resent 4 times retrains the port. A credit
lets a waiting frame go, numbered in order and kept for replay. The layout of a CONTROL body is the model's choice
(log entry 10). Under conditions on the state and the operands alone it concludes that exec answers a next state for:
frameReceive, ackReceive, nakReceive, creditReceive, keepaliveReceive, replayTimeout. -/
def Obligations.LinkFrames : Prop :=
  ∀ (s : State) (n : Nat) (q : Port), n < 16 → q = s.dev.port n →
    (∀ bytes c u, exec (.frameReceive n ⟨bytes, c, u⟩) s = exec (.frameReceive n ⟨bytes, 0, 0⟩) { s with dev := s.dev.fecCount n c u } ∧
      Becomes s { s with dev := s.dev.fecCount n c u } s.dev (if s.dev.portState n = 0 then [] else
        [(.crrPortFecCorr n, fset (s.dev.reg (.crrPortFecCorr n)) 63 0 (satAdd 64 (s.dev.fld (.crrPortFecCorr n) 63 0) c)),
         (.crrPortFecUncorr n, fset (s.dev.reg (.crrPortFecUncorr n)) 31 0 (satAdd 32 (s.dev.fld (.crrPortFecUncorr n) 31 0) u))])) ∧
    (∀ bytes, (s.dev.portState n ≠ 3 → s.dev.portState n ≠ 6 → exec (.frameReceive n ⟨bytes, 0, 0⟩) s = .next s) ∧
      ((s.dev.portState n = 3 ∨ s.dev.portState n = 6) →
        (Frame.parse bytes = none → Runs (.frameReceive n ⟨bytes, 0, 0⟩) s (if q.nakSent then s.dev else ({ s.dev with ports := mapSet s.dev.ports n { q with nakSent := true }, out := s.dev.out ++ [ctl s.dev n 2 [q.expect]] } : Dev))) ∧
        (∀ f lseq lack, Frame.parse bytes = some (f, lseq, lack) → q.queue = [] → s.dev.redWait = [] → (∀ b ∈ s.dev.bags, b.active = true → b.gone = true ∧ (b.done = true ∨ b.grps = [])) →
          ∀ (rp : List (Nat × Nat × Frame)) (u : Dev), rp = q.replay.filter (fun e => 2048 ≤ (lack + 4096 - e.1) % 4096) →
          u = ({ s.dev with ports := mapSet s.dev.ports n { q with replay := rp, expect := (lseq + 1) % 4096, nakSent := false } } : Dev) →
          (f.kind = 1 → Runs (.frameReceive n ⟨bytes, 0, 0⟩) s ({ s.dev with ports := mapSet s.dev.ports n { q with replay := rp } } : Dev)) ∧
          (f.kind ≠ 1 → lseq = q.expect → Runs (.frameReceive n ⟨bytes, 0, 0⟩) s
            (({ u with out := s.dev.out ++ [ctl u n 1 [lseq], ctl u n 3 [f.cls, 1]] } : Dev).deliver n f)) ∧
          (f.kind ≠ 1 → lseq = q.expect → f.dst = modNumber s.dev → (f.vc = 0 ∨ f.vc = 3) → Runs (.frameReceive n ⟨bytes, 0, 0⟩) s
            ({ u with out := s.dev.out ++ [ctl u n 1 [lseq], ctl u n 3 [f.cls, 1]] } : Dev)) ∧
          (f.kind ≠ 1 → lseq ≠ q.expect → 2048 ≤ (lseq + 4096 - q.expect) % 4096 → Runs (.frameReceive n ⟨bytes, 0, 0⟩) s
            ({ s.dev with ports := mapSet s.dev.ports n { q with replay := rp }, out := s.dev.out ++ [ctl s.dev n 1 [(q.expect + 4095) % 4096]] } : Dev)) ∧
          (f.kind ≠ 1 → lseq ≠ q.expect → (lseq + 4096 - q.expect) % 4096 < 2048 → Answers (.frameReceive n ⟨bytes, 0, 0⟩) s fun t =>
            t = { s with dev := ({ s.dev with ports := t.dev.ports, out := s.dev.out ++ if q.nakSent then [] else [ctl s.dev n 2 [q.expect]] } : Dev) } ∧ t.dev.port n = { q with replay := rp, nakSent := true } ∧ ∀ m, m ≠ n → t.dev.port m = s.dev.port m)))) ∧
    (inSession s.dev n = true →
      (q.queue = [] → ∀ (c : Instr) (lseq : Nat), c = .ackReceive n lseq ∨ c = .keepaliveReceive ⟨n, lseq⟩ → Runs c s
        ({ s.dev with ports := mapSet s.dev.ports n { q with replay := q.replay.filter fun e => 2048 ≤ (lseq % 4096 + 4096 - e.1) % 4096 } } : Dev).redPump.redAdvance) ∧
      (q.queue = [] → s.dev.portState n = 3 → s.dev.redWait = [] → (∀ b ∈ s.dev.bags, b.active = true → b.gone = true ∧ (b.done = true ∨ b.grps = [])) → ∀ (c : Instr) (kept again : List (Nat × Nat × Frame)) (fst : Nat),
        ((∃ lseq, c = .nakReceive n lseq ∧ fst = lseq % 4096 ∧ kept = q.replay.filter fun e => 2048 ≤ ((lseq + 4095) % 4096 + 4096 - e.1) % 4096) ∨ (c = .replayTimeout n ∧ oldest s.dev n = some fst ∧ kept = q.replay)) →
        again = kept.filter (fun e => (e.1 + 4096 - fst) % 4096 < 2048) → Answers c s fun t =>
          t = { s with dev := ({ s.dev with ports := t.dev.ports, regs := t.dev.regs, out := s.dev.out ++ again.map fun e => .frame n (e.2.2.bytes e.1 ((q.expect + 4095) % 4096)) } : Dev) } ∧
          t.dev.port n = { q with replay := kept.map fun e => if (e.1 + 4096 - fst) % 4096 < 2048 then (e.1, e.2.1 + 1, e.2.2) else e } ∧
          (∀ m, m ≠ n → t.dev.port m = s.dev.port m) ∧
          RegsRead s.dev t.dev ([(.crrPortRetry n, fset (s.dev.reg (.crrPortRetry n)) 31 0 (satAdd 32 (s.dev.fld (.crrPortRetry n) 31 0) again.length))] ++
            if (∃ e ∈ (t.dev.port n).replay, 4 ≤ e.2.1) then [(.crrPortStatus n, fset (s.dev.reg (.crrPortStatus n)) 2 0 4), (.crrPortRetrain n, fset (s.dev.reg (.crrPortRetrain n)) 31 0 (satAdd 32 (s.dev.fld (.crrPortRetrain n) 31 0) 1))] else [])) ∧
      (∀ lack cls count, cls ≤ 6 → ∀ rp : List (Nat × Nat × Frame), rp = q.replay.filter (fun e => 2048 ≤ (lack % 4096 + 4096 - e.1) % 4096) →
        (q.queue = [] → Answers (.creditReceive ⟨n, lack⟩ cls count) s fun t => ∃ u : Dev, t = { s with dev := u.redPump.redAdvance } ∧
          u = { s.dev with ports := u.ports } ∧ (∀ m, m ≠ n → u.port m = s.dev.port m) ∧
          u.port n = { q with replay := rp, credits := mapSet q.credits cls (min (classPlaces cls) (mapGet q.credits cls (classPlaces cls) + count)) }) ∧
        (∀ f, q.queue = [f] → f.cls = cls → mapGet q.credits cls (classPlaces cls) = 0 → 0 < count → s.dev.portState n = 3 → rp.length < 64 →
          s.dev.redWait = [] → (∀ b ∈ s.dev.bags, b.active = true → b.gone = true ∧ (b.done = true ∨ b.grps = [])) → Answers (.creditReceive ⟨n, lack⟩ cls count) s fun t =>
          t = { s with dev := ({ s.dev with ports := t.dev.ports, out := s.dev.out ++ [.frame n (f.bytes q.nextSeq ((q.expect + 4095) % 4096))] } : Dev) } ∧
          (t.dev.port n).queue = [] ∧ (t.dev.port n).replay = rp ++ [(q.nextSeq, 0, f)] ∧ (t.dev.port n).nextSeq = (q.nextSeq + 1) % 4096 ∧
          mapGet? (t.dev.port n).credits cls = some (min (classPlaces cls) count - 1)))) ∧
    (inSession s.dev n = false → ∀ lseq, exec (.keepaliveReceive ⟨n, lseq⟩) s = .next s ∧ exec (.ackReceive n lseq) s = .next s)

/-- A courier port opens, retrains, goes down and closes. A trained port sends HELLO when a structure is installed and
CLOSED while none is; CLOSED and the HELLO timeout start the wait b, after which HELLO goes again. A HELLO that agrees
is acknowledged at once, and with the far end's HELLO_ACK the port is OPEN with both LSEQ at 0; one that does not
agree sets MISMATCH and raises CABLING_MISMATCH once. Loss of signal and RETRAIN retrain an OPEN port, success resumes
with the oldest frame, failure makes it DOWN, with its incident and PORT_DOWN to the postmaster; a cable, or a link
that trains again, lets a DOWN port start again. Only an OPEN port sends KEEPALIVE. Under conditions on the state and
the operands alone it concludes that exec answers a next state for: portLinkTrained, closedReceive, helloReceive,
helloAckReceive, helloBackoffExpire, mismatchRetry, keepaliveTimer, receiveTimeout, retrain, portRetrainDone,
portDown, cableInsert, cableRemove, helloTimeout, closedFrameTimer. -/
def Obligations.LinkStates : Prop :=
  ∀ (s : State) (n : Nat) (q : Port), n < 16 → q = s.dev.port n →
    (s.dev.portState n = 1 → s.dev.resetting (n / 4) = false → q.cabled = true → q.linkUp = false →
      (helloReady s.dev n = false → Runs (.portLinkTrained n) s ({ s.dev with ports := mapSet s.dev.ports n { q with linkUp := true }, out := s.dev.out ++ [ctl s.dev n 5 []] } : Dev)) ∧
      (helloReady s.dev n = true → q.backoff = false → Answers (.portLinkTrained n) s fun t => t.dev.portState n = 2 ∧ (t.dev.port n).tries = 0 ∧ t.dev.out = s.dev.out ++ [ctl t.dev n 6 ([modNumber s.dev, n, s.dev.portRole n] ++ (cascadeDigest8 s.dev).map (·.toNat))])) ∧
    (s.dev.portState n = 5 → s.dev.resetting (n / 4) = false → q.cabled = true → q.linkUp = false → Answers (.portLinkTrained n) s fun t =>
      t.dev.portState n = (if helloReady s.dev n then 2 else 1) ∧ (t.dev.port n).linkUp = true ∧ (t.dev.port n).replay = [] ∧ (t.dev.port n).agreed = false) ∧
    (s.dev.portState n = 1 → q.linkUp = true → (s.dev.modImage.isSome && s.dev.installed (n / 4)) = false → Runs (.closedFrameTimer n) s ({ s.dev with out := s.dev.out ++ [ctl s.dev n 5 []] } : Dev)) ∧
    (s.dev.portState n = 1 → q.linkUp = true → q.backoff = true → helloReady s.dev n = true → Answers (.mismatchRetry n) s fun t => t.dev.portState n = 2 ∧ (t.dev.port n).backoff = false ∧ t.dev.out = s.dev.out ++ [ctl t.dev n 6 ([modNumber s.dev, n, s.dev.portRole n] ++ (cascadeDigest8 s.dev).map (·.toNat))]) ∧
    (s.dev.portState n = 2 →
      Runs (.closedReceive n) s { s.dev with ports := mapSet s.dev.ports n { q with backoff := true } } ∧
      Runs (.helloTimeout n) s { s.dev with ports := mapSet s.dev.ports n { q with backoff := true } } ∧
      (q.backoff = true → Answers (.helloBackoffExpire n) s fun t => t.dev.portState n = 2 ∧ t.dev.port n = { q with backoff := false, tries := q.tries + 1 } ∧ t.dev.out = s.dev.out ++ [ctl t.dev n 6 ([modNumber s.dev, n, s.dev.portRole n] ++ (cascadeDigest8 s.dev).map (·.toNat))]) ∧
      (∀ m peer role digest,
        (helloAgrees s.dev n m role digest = true → q.acked = false → Answers (.helloReceive n m peer role digest) s fun t => t.dev.portState n = 2 ∧ t.dev.port n = { q with agreed := true, tries := 0, backoff := false } ∧
          t.dev.fld (.crrPortStatus n) 15 8 = m % 256 ∧ t.dev.fld (.crrPortStatus n) 19 16 = peer % 16 ∧ t.dev.out = s.dev.out ++ [ctl t.dev n 7 [], ctl t.dev n 6 ([modNumber s.dev, n, s.dev.portRole n] ++ (cascadeDigest8 s.dev).map (·.toNat))]) ∧
        (helloAgrees s.dev n m role digest = false → ∀ e ch, ch = [(Reg.crrPortStatus n, fset (bset (s.dev.reg (.crrPortStatus n)) 3 true) 2 0 1)] →
          e = { s.dev with ports := mapSet s.dev.ports n { q with agreed := false, acked := false, backoff := true, mismatch := some (m, peer, role) } } → Answers (.helloReceive n m peer role digest) s fun t =>
          if s.dev.bit (.crrPortStatus n) 3 = true ∧ q.mismatch = some (m, peer, role) then Becomes s t e ch else
          Reports s t e ch { cls := 0x201, eng := 0x13, idx := n, die := lDie n, part := some (n / 4), d0 := s.dev.portRole n + m % 256 * 2 ^ 8 + peer % 16 * 2 ^ 16 + role % 256 * 2 ^ 24 })) ∧
      (q.agreed = true → s.dev.modImage = none → s.dev.podStores = [] → s.dev.remotes = [] → s.dev.remap = [] → q.downReported = false → s.dev.fld .gateCascade 1 0 = 0 → Answers (.helloAckReceive n) s fun t =>
        Becomes s t { s.dev with ports := mapSet s.dev.ports n { Port.reset with cabled := q.cabled, linkUp := true, agreed := true, acked := true } } [(.crrPortStatus n, fset (s.dev.reg (.crrPortStatus n)) 2 0 3)]) ∧
      (q.agreed = false → Runs (.helloAckReceive n) s { s.dev with ports := mapSet s.dev.ports n { q with acked := true } })) ∧
    (∀ ch, ch = [(Reg.crrPortStatus n, fset (s.dev.reg (.crrPortStatus n)) 2 0 4), (Reg.crrPortRetrain n, fset (s.dev.reg (.crrPortRetrain n)) 31 0 (satAdd 32 (s.dev.fld (.crrPortRetrain n) 31 0) 1))] →
      (s.dev.portState n = 3 → Runs (.keepaliveTimer n) s ({ s.dev with out := s.dev.out ++ [ctl s.dev n 4 []] } : Dev) ∧
        (Answers (.receiveTimeout n) s fun t => Becomes s t s.dev ch) ∧
        (Answers (.cableRemove n) s fun t => Becomes s t { s.dev with ports := mapSet s.dev.ports n { q with cabled := false } } ch) ∧
        (∀ v, Granted s.dev v .open_ (.crrPortCtrl n) → Answers (.retrain v n) s fun t => Becomes (s.across v (.crrPortCtrl n)) t { s.dev with out := s.dev.out ++ viaAck v } ((.crrPortCtrl n, bset (s.dev.reg (.crrPortCtrl n)) 1 true) :: ch))) ∧
      (s.dev.portState n ≠ 3 → exec (.keepaliveTimer n) s = .next s ∧ exec (.receiveTimeout n) s = .next s ∧
        ∀ v, Granted s.dev v .open_ (.crrPortCtrl n) → Runs (.retrain v n) s ({ s.dev.across v (.crrPortCtrl n) with out := s.dev.out ++ viaAck v } : Dev))) ∧
    (s.dev.portState n = 5 → Answers (.cableInsert n) s fun t => t.dev.portState n = 1 ∧ t.dev.port n = { Port.reset with cabled := true, mismatch := q.mismatch, downReported := q.downReported }) ∧
    (s.dev.portState n = 4 →
      (q.cabled = true → q.queue = [] → q.replay = [] → Answers (.portRetrainDone n) s fun t =>
        Becomes s t { s.dev with ports := mapSet s.dev.ports n { q with nakSent := false } } [(.crrPortStatus n, fset (s.dev.reg (.crrPortStatus n)) 2 0 3), (.crrPortCtrl n, bset (s.dev.reg (.crrPortCtrl n)) 1 false)]) ∧
      (q.cabled = true → q.queue = [] → ∀ a fs, q.replay = a :: fs → Answers (.portRetrainDone n) s fun t => t.dev.portState n = 3 ∧ ∃ more, t.dev.out = s.dev.out ++ .frame n (a.2.2.bytes a.1 ((q.expect + 4095) % 4096)) :: more) ∧
      (q.queue = [] → q.replay = [] → s.dev.podStores = [] → s.dev.remotes = [] → s.dev.remap = [] → (∀ m < 16, (s.dev.port m).queue = []) → Answers (.portDown n) s fun t =>
        ∃ u : State, Becomes s u { s.dev with ports := u.dev.ports } [(.crrPortStatus n, bset (fset (s.dev.reg (.crrPortStatus n)) 2 0 5) 4 true), (.crrPortCtrl n, bset (s.dev.reg (.crrPortCtrl n)) 1 false)] ∧
          u.dev.port n = { Port.reset with cabled := q.cabled, mismatch := q.mismatch, downReported := q.downReported } ∧ (∀ m, m ≠ n → u.dev.port m = s.dev.port m) ∧
          ∀ v, v = u.dev.raise { cls := 0x200, eng := 0x13, idx := n, die := lDie n, part := some (n / 4), d0 := n + s.dev.fld (.crrPortStatus n) 15 8 * 256 } →
            (s.dev.modImage = none → t = { s with dev := v }) ∧
            (s.dev.modImage ≠ none → t = { s with dev := (v.setPort n { v.port n with downReported := true }).postcard (postmasterOf v) (.portDown (modNumber v) n) })))

/-- The cascade admits its members, opens, and loses members. The postmaster refuses a JOIN whose digest differs with
cause 1, admits a member that is not admitted yet, answers a JOIN of the admitted serial number again, and refuses
both serial numbers with cause 2 when they differ. The last admission opens the cascade. A member that hears ADMIT is
not refused any more, one that hears its REFUSE stays in JOINING with the cause, and CASCADE_OPEN opens the cascade
with its member bitmap unless the member is refused. JOIN is sent again until it is answered. A module is lost when
every port that faces it is down; MEMBER_LOST is passed on once, and a port that comes up again stops counting. Under
conditions on the state and the operands alone it concludes that exec answers a next state for: portDownReceive,
portUpReceive, joinReceive, joinResend, admitReceive, refuseReceive, cascadeOpenReceive, memberLostReceive. -/
def Obligations.CascadeAdmission : Prop :=
  ∀ (s : State) (m serial : Nat) (digest : List Byte),
    (isPostmaster s.dev = false → exec (.joinReceive m serial digest) s = .next s) ∧
    (isPostmaster s.dev = true → m ≠ modNumber s.dev →
      (slice digest 0 8 ≠ cascadeDigest8 s.dev → Runs (.joinReceive m serial digest) s (s.dev.admission m (.refuse m serial 1))) ∧
      (slice digest 0 8 = cascadeDigest8 s.dev →
        (mapGet? s.dev.post.admitted m = none → (∃ r ∈ membersOf s.dev, recU r 0 1 ≠ m ∧ mapGet? s.dev.post.admitted (recU r 0 1) = none) → s.dev.post.opened = false → (∀ n < 16, s.dev.portState n ≠ 3) → (∀ e ∈ s.dev.post.admitted, e.1 ≠ m) →
          Answers (.joinReceive m serial digest) s fun t => mapGet? t.dev.post.admitted m = some serial ∧ m ∉ t.dev.post.lost ∧ (∀ k, k ≠ m → mapGet? t.dev.post.admitted k = mapGet? s.dev.post.admitted k) ∧
            t.dev.fld .gateCascade 24 16 = (s.dev.post.admitted.length + 1) % 512 ∧ t.dev.fld .gateCascade 2 0 = s.dev.fld .gateCascade 2 0 ∧ t = { s with dev := { s.dev with post := t.dev.post, regs := t.dev.regs } }) ∧
        (mapGet? s.dev.post.admitted m = some serial → s.dev.post.opened = true → Runs (.joinReceive m serial digest) s ((s.dev.admission m (.admitted m)).admission m (.cascadeOpen (bitmapOf s.dev)))) ∧
        (∀ other, mapGet? s.dev.post.admitted m = some other → other ≠ serial → s.dev.post.opened = false → (∀ n < 16, s.dev.portState n ≠ 3) → Answers (.joinReceive m serial digest) s fun t =>
          mapGet? t.dev.post.admitted m = none ∧ t.dev.out = s.dev.out ++ [.own (Msg.refuse m other 2).bytes, .own (Msg.refuse m serial 2).bytes]))) ∧
    (isPostmaster s.dev = true → m = modNumber s.dev → slice digest 0 8 = cascadeDigest8 s.dev → mapGet? s.dev.post.admitted m = none → s.dev.post.opened = false → (∀ r ∈ membersOf s.dev, recU r 0 1 = m ∨ mapGet? s.dev.post.admitted (recU r 0 1) ≠ none) → (∀ n < 16, s.dev.portState n ≠ 3) →
      Answers (.joinReceive m serial digest) s fun t => t.dev.post.opened = true ∧ t.dev.out = s.dev.out ++ [.own (Msg.admitted m).bytes, .own (Msg.cascadeOpen (bitmapOf t.dev)).bytes]) ∧
    (s.dev.fld .gateCascade 1 0 ≠ 0 →
      (Answers (.admitReceive m) s fun t => if m = modNumber s.dev then Becomes s t { s.dev with joined := true } [(.gateCascade, fset (bset (s.dev.reg .gateCascade) 2 false) 4 3 0)] else t = s) ∧
      (∀ port cause, cause = 0 ∨ cause = 1 → (m = modNumber s.dev → serial = Config.serial → Answers (.refuseReceive port m serial cause) s fun t =>
          Becomes s t { s.dev with joined := true } [(.gateCascade, fset (bset (fset (s.dev.reg .gateCascade) 1 0 1) 2 true) 4 3 cause)]) ∧
        (m ≠ modNumber s.dev ∨ serial ≠ Config.serial → exec (.refuseReceive port m serial cause) s = .next s)) ∧
      (∀ port, m = modNumber s.dev → serial = Config.serial → (Msg.refuse m serial 2).bytes ∉ s.dev.floods → (∀ n < 16, s.dev.portState n ≠ 3) → Answers (.refuseReceive port m serial 2) s fun t =>
          Reports s t { s.dev with joined := true, floods := (Msg.refuse m serial 2).bytes :: s.dev.floods } [(.gateCascade, fset (bset (fset (s.dev.reg .gateCascade) 1 0 1) 2 true) 4 3 2)] { cls := 0x202, eng := 0x20, die := dieGate, part := none, d0 := m }) ∧
      (∀ port bitmap, (∀ n < 16, s.dev.portState n ≠ 3) →
        (s.dev.bit .gateCascade 2 = false → Answers (.cascadeOpenReceive port bitmap) s fun t => cascadeOpen t.dev = true ∧ t.dev.joined = true ∧
          (∀ k < 8, t.dev.reg (.gateMembers k) = BitVec.ofNat 64 (bitmap / 2 ^ (32 * k) % 2 ^ 32)) ∧ t.dev.fld .gateCascade 24 16 = ((List.range 256).filter fun n => bitN bitmap n).length ∧
          t = { s with dev := { s.dev with joined := true, floods := t.dev.floods, regs := t.dev.regs } }) ∧
        (s.dev.bit .gateCascade 2 = true → Answers (.cascadeOpenReceive port bitmap) s fun t => t = { s with dev := { s.dev with floods := t.dev.floods } })) ∧
      (s.dev.joined = true ∨ s.dev.fld .gateCascade 1 0 ≠ 1 → exec .joinResend s = .next s) ∧
      (s.dev.joined = false → s.dev.fld .gateCascade 1 0 = 1 → 1 < (membersOf s.dev).length → Runs .joinResend s (s.dev.admission (postmasterOf s.dev) (.join (modNumber s.dev) Config.serial (cascadeDigest8 s.dev))))) ∧
    (isPostmaster s.dev = true → isMember s.dev m = true → ∀ port, port < 16 →
      ((∀ r ∈ membersOf s.dev, ∃ f ∈ facing s.dev (recU r 0 1), f ≠ (m, port) ∧ f ∉ s.dev.post.down) → Answers (.portDownReceive m port) s fun t =>
        t = { s with dev := { s.dev with post := { s.dev.post with down := if (m, port) ∈ s.dev.post.down then s.dev.post.down else (m, port) :: s.dev.post.down } } }) ∧
      (∀ r ∈ membersOf s.dev, facing s.dev (recU r 0 1) ≠ [] → (∀ f ∈ facing s.dev (recU r 0 1), f = (m, port) ∨ f ∈ s.dev.post.down) → Answers (.portDownReceive m port) s fun t => recU r 0 1 ∈ t.dev.post.lost) ∧
      (Answers (.portUpReceive m port) s fun t => (m, port) ∉ t.dev.post.down ∧ (∀ e, e ≠ (m, port) → (e ∈ t.dev.post.down ↔ e ∈ s.dev.post.down)) ∧ (∀ k ∈ t.dev.post.lost, k ∈ s.dev.post.lost) ∧
        t = { s with dev := { s.dev with post := { s.dev.post with down := t.dev.post.down, lost := t.dev.post.lost } } })) ∧
    (∀ port, ((Msg.memberLost m).bytes ∈ s.dev.floods → exec (.memberLostReceive port m) s = .next s) ∧
      ((Msg.memberLost m).bytes ∉ s.dev.floods → Runs (.memberLostReceive port m) s (({ s.dev with floods := (Msg.memberLost m).bytes :: s.dev.floods } : Dev).flood (.memberLost m) (some port))))

/-- A context reset advances the generation once. GATE_CTX_RESET is ignored while one is busy and clears at once for a
context that is not OPEN. For an OPEN one, and for an advance that had to wait once no request holds the new
generation, the generation advances, a marker goes to every edge that is not in reset, running letters end with RESET
and the cause, the others with STALE_GENERATION, but for letters of the new generation, which stay; the context keeps
its state and root, its reductions are dropped, memory is unchanged. While a request holds the new generation the
advance waits, and the reset's supply floor holds in the partitions where the context runs (R394). It is complete when
the markers and drains have returned and the old letters are gone: then GATE_CTX_RESET clears and CONTEXT_RESET is
raised. Under conditions on the state and the operands alone it concludes that exec answers a next state for:
contextReset, contextResetDone, generationAdvance, generationMarkerArrive. -/
def Obligations.ContextReset : Prop :=
  ∀ (s : State) (c : Nat), c < 64 →
    (∀ v k, k % 64 = c → Granted s.dev v .high .gateCtxReset →
      (s.dev.bit .gateCtxReset 30 = true → Runs (.contextReset v k) s ({ s.dev.across v .gateCtxReset with out := s.dev.out ++ viaAck v } : Dev)) ∧
      (s.dev.bit .gateCtxReset 30 = false → (s.dev.ctx c).state ≠ 1 → Answers (.contextReset v k) s fun t =>
        Becomes (s.across v .gateCtxReset) t { s.dev with out := s.dev.out ++ viaAck v } [(.gateCtxReset, bset (bset (fset (s.dev.reg .gateCtxReset) 5 0 c) 30 false) 31 false)]) ∧
      (s.dev.bit .gateCtxReset 30 = false → (s.dev.ctx c).state = 1 → (genHeld s.dev c (((s.dev.ctx c).gen + 1) % 4096) = true ∨ ∃ a ∈ s.dev.advances, a.1 = c) → Answers (.contextReset v k) s fun t =>
        t = { s with dev := { s.dev with advances := s.dev.advances ++ [(c, 1)], regs := t.dev.regs, power := t.dev.power, out := s.dev.out ++ viaAck v } } ∧
        t.dev.reg .gateCtxReset = bset (bset (fset (s.dev.reg .gateCtxReset) 5 0 c) 30 true) 31 true ∧
        (runParts s.dev c = [] → Becomes (s.across v .gateCtxReset) t { s.dev with advances := s.dev.advances ++ [(c, 1)], out := s.dev.out ++ viaAck v } [(.gateCtxReset, bset (bset (fset (s.dev.reg .gateCtxReset) 5 0 c) 30 true) 31 true)]))) ∧
    (∀ (i : Instr) (cause g : Nat), g = ((s.dev.ctx c).gen + 1) % 4096 → genHeld s.dev c g = false → 0 < cause → cause < 4 →
      ((∃ v k, i = .contextReset v k ∧ k % 64 = c ∧ Granted s.dev v .high .gateCtxReset ∧ s.dev.bit .gateCtxReset 30 = false ∧ (s.dev.ctx c).state = 1 ∧ (∀ a ∈ s.dev.advances, a.1 ≠ c) ∧ cause = 1) ∨
       (i = .generationAdvance c ∧ s.dev.advances.find? (·.1 = c) = some (c, cause))) → Answers i s fun t =>
      t.dev.ctx c = { s.dev.ctx c with gen := g } ∧ (∀ k, k ≠ c → t.dev.ctx k = s.dev.ctx k) ∧ t.dev.mem = s.dev.mem ∧ t.dev.objs = s.dev.objs ∧
      (⟨c, g, (s.dev.ctx c).state, edgesUp s.dev⟩ : GenMarker) ∈ t.dev.markers ∧
      (∀ x ∈ s.dev.letters, (∀ y ∈ s.dev.letters, y.id = x.id → y = x) →
        (x.ctx = c → x.result = none → x.started = true ∨ x.gen ≠ g → (findLetter t.dev x.id).map (·.result) = some (some (if x.started then (0x51, cause) else (5, g)))) ∧
        (x.ctx ≠ c ∨ x.result ≠ none ∨ (x.started = false ∧ x.gen = g) → x ∈ t.dev.letters)) ∧
      (∀ b ∈ t.dev.bags, b.ctx ≠ c) ∧ (∀ e ∈ t.dev.exchs, e.ctx ≠ c) ∧
      ∃ r ∈ t.dev.drains, r.ctx = c ∧ r.tear = none ∧ r.oldGen = (s.dev.ctx c).gen ∧ r.cause = cause ∧ .memory ∈ r.paths) ∧
    (∀ a, s.dev.advances.find? (·.1 = c) = some a → genHeld s.dev c (((s.dev.ctx c).gen + 1) % 4096) = true → exec (.generationAdvance c) s = .next s) ∧
    (∀ edge m, s.dev.markers.find? (fun m => m.ctx = c ∧ m.left.contains edge) = some m → Answers (.generationMarkerArrive c edge) s fun t =>
      t = { s with dev := { s.dev with edges := t.dev.edges, markers := t.dev.markers } } ∧ (t.dev.edgeGen edge c = m.gen) ∧ (∀ e k, (e, k) ≠ (edge, c) → mapGet? t.dev.edges (e, k) = mapGet? s.dev.edges (e, k)) ∧
      m ∉ t.dev.markers) ∧
    (∀ r, s.dev.drains.find? (fun r => r.ctx = c ∧ r.tear.isNone) = some r →
      (drained s.dev r = false → exec (.contextResetDone c) s = .next s) ∧
      (drained s.dev r = true → Answers (.contextResetDone c) s fun t => Reports s t { s.dev with drains := s.dev.drains.filter (· ≠ r) }
        (if r.cause = 1 then [(.gateCtxReset, bset (bset (s.dev.reg .gateCtxReset) 30 false) 31 false)] else [])
        { cls := 0x280, eng := 0x20, die := dieGate, part := none, ctx := some (c, (r.oldGen + 1) % 4096), d0 := r.oldGen + (r.oldGen + 1) % 4096 * 2 ^ 16 + r.cause * 2 ^ 32 }))

/-- A teardown closes its context. After CTX_TEAR the context is TEARING with the next generation, its other letters end
with CTX_CLOSING or STALE_GENERATION (letters of the next generation stay), its pins are cleared and its cached
translations dropped, and its letter waits. A drain marker takes its path off the list; with the last path, or when
the 200 us bound passes, which raises TEARDOWN_BOUND, a teardown whose markers have latched, whose evictions are over,
whose journals are inactive and of whose generation no other letter still owes its receipt closes the context,
releases its stash entries, ends the letter with SUCCESS and leaves memory as it is. Under conditions on the state and
the operands alone it concludes that exec answers a next state for: ctxTear, drainMarkerReturn, teardownBound. -/
def Obligations.ContextTeardown : Prop :=
  ∀ (s : State) (l : LetterId) (x : Letter) (c : Nat),
    (Due s.dev l 0x21 x → c = x.ctx →
      ((genHeld s.dev c (((s.dev.ctx c).gen + 1) % 4096) = true ∨ ∃ a ∈ s.dev.advances, a.1 = c) → Answers (.ctxTear l) s fun t =>
        RunsOn s t l { s.dev with ctxs := mapSet s.dev.ctxs c { s.dev.ctx c with state := 2 }, tlb := s.dev.tlb.filter fun e => e.1.1 ≠ c, advances := s.dev.advances ++ [(c, 0)] } []) ∧
      (genHeld s.dev c (((s.dev.ctx c).gen + 1) % 4096) = false → (∀ a ∈ s.dev.advances, a.1 ≠ c) → (∀ y ∈ s.dev.letters, y.ctx = c → y.opcode = 0x21 → y.id = l) →
        Answers (.ctxTear l) s fun t => t.dev.ctx c = { s.dev.ctx c with state := 2, gen := ((s.dev.ctx c).gen + 1) % 4096 } ∧
          (∀ k o, mapGet? t.dev.objs k = some o → c ∉ o.pins) ∧ (∀ e ∈ t.dev.tlb, e.1.1 ≠ c) ∧ (findLetter t.dev l).map (fun y => (y.started, y.result)) = some (true, none) ∧
          (∀ y ∈ s.dev.letters, y.id ≠ l → y.ctx = c → y.result = none → y.started = true ∨ y.gen ≠ ((s.dev.ctx c).gen + 1) % 4096 → (∀ z ∈ s.dev.letters, z.id = y.id → z = y) →
            (findLetter t.dev y.id).map (·.result) = some (some (if y.started then (0x50, 0) else (5, ((s.dev.ctx c).gen + 1) % 4096)))) ∧
          ∃ r ∈ t.dev.drains, r.ctx = c ∧ r.tear = some l ∧ .fabric ∈ r.paths ∧ .memory ∈ r.paths)) ∧
    (∀ r path, s.dev.drains.find? (fun r => r.ctx = c ∧ r.paths.contains path) = some r → path = .fabric ∨ path = .memory → (∀ k ∈ s.dev.drains, k.tear = none) →
      Runs (.drainMarkerReturn c path) s { s.dev with drains := s.dev.drains.map fun k => if k = r then { r with paths := r.paths.filter (· ≠ path) } else k }) ∧
    (∀ r path, s.dev.drains = [r] → r.ctx = c → r.tear = some l → r.paths = [path] → (path = .fabric ∨ path = .memory) → tearOwes s.dev r l = true →
      Runs (.drainMarkerReturn c path) s { s.dev with drains := [{ r with paths := [] }] }) ∧
    (∀ (i : Instr) r path e, s.dev.drains = [r] → r.ctx = c → r.tear = some l → findLetter s.dev l = some x → x.result = none → x.flushErr = none → tearOwes s.dev r l = false → latched s.dev c ((r.oldGen + 1) % 4096) = true →
      (∀ k ∈ r.objs, leaving s.dev k = false) → (∀ p t, journalActive s.dev p t c = false) →
      ((i = .drainMarkerReturn c path ∧ r.paths = [path] ∧ (path = .fabric ∨ path = .memory) ∧ e = s.dev) ∨
       (i = .teardownBound c ∧ r.paths ≠ [] ∧ s.dev.incSeen = false ∧ e = s.dev.raise { cls := 0x284, eng := 0x20, die := dieGate, part := none, ctx := some (c, r.oldGen), d0 := (r.paths.map pathBit).sum })) →
      Answers i s fun t => t.dev.drains = [] ∧ t.dev.ctx c = { s.dev.ctx c with state := 0 } ∧ (∀ k, k ≠ c → t.dev.ctx k = s.dev.ctx k) ∧ (findLetter t.dev l).map (·.result) = some (some (0, 0)) ∧
        (∀ k ∈ t.dev.tlb, k.1.1 ≠ c) ∧ (∀ k, k ∈ t.dev.stash ↔ k ∈ s.dev.stash ∧ k.1.2.1 ≠ c) ∧ t.dev.mem = s.dev.mem ∧ t.dev.incHeld = e.incHeld ∧ t.dev.objs = s.dev.objs)

/-- Engine and partition resets. FLT_ENG_RESET is ignored while a reset is busy, and starts nothing for a slot that the
node does not have. Otherwise it is busy from then on, the engine holds no stage any more, and every OPEN suspect
context advances its generation; during a reset of the partition it only waits for that one. It is not done while an
advance that it asked for waits; when it is, BUSY clears, the count rises and ENGINE_RESET names the suspects; after
100 us without it BUSY clears, ENG_RESET_TIMEOUT is set and its incident raised, and the engine stays out. A partition
reset fences the partition, stops its engines, cores and ports, zeroes the PIGEONHOLE, STASH, ROW_CACHE and
CHANNEL_BUFFER regions, and ends the running letters that have a stage in it with RESET, DETAIL 3. A second request is
ignored. At step 6 the fence lifts unless the partition stays degraded, NAMED is set, its dies latch the epoch, and
the letters of its mailboxes end with RESET. At step 7 the reset is complete with its incident, and the domain is up
again. A snoop timeout and an uncorrectable directory error take the domain down, as COH_STATUS shows, and reset the
partition, but for one in steps 1 to 6 of a reset; in step 7 the reset begins anew (R388); a corrected one only
counts. Under conditions on the state and the operands alone it concludes that exec answers a next state for:
snoopTimeout, directoryEccError, engineReset, engineResetDone, engineResetTimeout, partitionReset,
partitionFenceLifted, partitionResetComplete. -/
def Obligations.EngineAndPartitionResets : Prop :=
  (∀ (s : State) (p : Nat), p < 4 →
    (∀ v node slot, node < 32 → slot < 8 → Granted s.dev v .high (.fltEngReset p) →
      ∀ w, w = fset (fset (s.dev.reg (.fltEngReset p)) 4 0 node) 7 5 slot →
      (s.dev.bit (.fltStatus p) 4 = true → Runs (.engineReset v p node slot) s ({ s.dev.across v (.fltEngReset p) with out := s.dev.out ++ viaAck v } : Dev)) ∧
      (s.dev.bit (.fltStatus p) 4 = false → slotCount node ≤ slot → Answers (.engineReset v p node slot) s fun t => Becomes (s.across v (.fltEngReset p)) t { s.dev with out := s.dev.out ++ viaAck v } [(.fltEngReset p, w)]) ∧
      (s.dev.bit (.fltStatus p) 4 = false → slot < slotCount node → inReset s.dev p = true → Answers (.engineReset v p node slot) s fun t =>
        Becomes (s.across v (.fltEngReset p)) t { s.dev with partResets := s.dev.partResets.map (fun k => if k.part = p then { k with absorbed := k.absorbed ++ [⟨p, node, slot, [], false, false⟩] } else k), out := s.dev.out ++ viaAck v }
          [(.fltStatus p, bset (s.dev.reg (.fltStatus p)) 4 true), (.fltEngReset p, bset w 31 true)]) ∧
      (s.dev.bit (.fltStatus p) 4 = false → slot < slotCount node → inReset s.dev p = false → Answers (.engineReset v p node slot) s fun t =>
        t.dev.bit (.fltStatus p) 4 = true ∧ t.dev.bit (.fltEngReset p) 31 = true ∧ (∀ q ∈ t.dev.runs, ¬ (q.part = p ∧ q.node = node ∧ q.slot = slot)) ∧ t.dev.mem = s.dev.mem ∧
        (∃ r ∈ t.dev.engResets, r.part = p ∧ r.node = node ∧ r.slot = slot ∧ r.abandoned = false ∧ r.suspects = suspects s.dev p node slot (s.dev.bit (.fltCtrl p) 0)) ∧
        ∀ c, (c ∈ suspects s.dev p node slot (s.dev.bit (.fltCtrl p) 0) → (s.dev.ctx c).state = 1 → genHeld s.dev c (((s.dev.ctx c).gen + 1) % 4096) = false → (∀ a ∈ s.dev.advances, a.1 ≠ c) →
            t.dev.ctx c = { s.dev.ctx c with gen := ((s.dev.ctx c).gen + 1) % 4096 }) ∧
          (c ∉ suspects s.dev p node slot (s.dev.bit (.fltCtrl p) 0) ∨ (s.dev.ctx c).state ≠ 1 → t.dev.ctx c = s.dev.ctx c))) ∧
    (∀ r, engResetOf s.dev p = some r →
      ((∃ a ∈ s.dev.advances, a.2 = 2 ∧ a.1 ∈ r.suspects) → exec (.engineResetDone p) s = .next s) ∧
      ((∀ a ∈ s.dev.advances, ¬ (a.2 = 2 ∧ a.1 ∈ r.suspects)) → s.dev.incSeen = false → s.dev.incHeld.length < 16 → fnState s.dev (.engine p r.node r.slot) = 2 → Answers (.engineResetDone p) s fun t => t.dev.engResets = s.dev.engResets.filter (· ≠ r) ∧
        t.dev.bit (.fltStatus p) 4 = false ∧ t.dev.bit (.fltEngReset p) 31 = false ∧ t.dev.fld (.fltResets p) 15 0 = satAdd 16 (s.dev.fld (.fltResets p) 15 0) 1 ∧
        (∀ q ∈ t.dev.runs, ¬ (q.part = p ∧ q.node = r.node ∧ q.slot = r.slot)) ∧ t.dev.mem = s.dev.mem ∧ fnState t.dev (.engine p r.node r.slot) = 2 ∧
        ∃ k, t.dev.incHeld = s.dev.incHeld ++ [(some p, (engInc s.dev r 0x281).bytes k)]) ∧
      (Answers (.engineResetTimeout p) s fun t => Reports s t { s.dev with engResets := s.dev.engResets.map fun k => if k = r then { k with abandoned := true } else k }
        [(.fltStatus p, bset (bset (s.dev.reg (.fltStatus p)) 4 false) 5 true), (.fltEngReset p, bset (s.dev.reg (.fltEngReset p)) 31 false)] (engInc s.dev r 0x282)))) ∧
  (∀ (s : State) (p : Nat), p < 4 →
    (∀ (i : Instr) (cause : Nat),
      ((∃ v, i = .partitionReset v p .register ∧ inReset s.dev p = false ∧ Granted s.dev v .high (.fltCtrl p) ∧ cause = if s.dev.bit (.fltCtrl p) 2 then 3 else 1) ∨
       (∃ v, i = .partitionReset v p .training ∧ inReset s.dev p = false ∧ Granted s.dev v .high (.fltCtrl p) ∧ cause = 3) ∨
       (∃ v, i = .partitionReset v p .coherence ∧ inReset s.dev p = false ∧ s.dev.bit (.cohStatus p) 0 = true ∧ cause = 2) ∨
       (∃ agent, i = .snoopTimeout p agent ∧ agent < 54 ∧ cause = 2) ∨
       (i = .directoryEccError p false ∧ cause = 2)) →
      s.dev.resetting p = false → (∀ r ∈ s.dev.partResets, r.part = p → r.fence = false) → powerState s.dev = 0 → s.dev.power.transition = none → s.dev.held = [] → s.dev.loadState ≠ 5 → s.dev.incSeen = false → Answers i s fun t =>
        t.dev.resetting p = true ∧ t.dev.down p = true ∧ (cause = 2 → t.dev.bit (.cohStatus p) 0 = true) ∧ (∃ r ∈ t.dev.partResets, r.part = p ∧ r.cause = cause ∧ r.fence = true) ∧
        (∀ q ∈ t.dev.runs, q.part = p → ¬ (q.node < 19 ∧ q.slot < slotCount q.node)) ∧ (∀ k ∈ t.dev.lines, k.part ≠ p) ∧ (∀ k ∈ t.dev.rowCache, k.part ≠ p) ∧ (∀ n < 48, t.dev.fld (.partCoreStatus p n) 1 0 ≠ 1) ∧
        (∀ r ∈ carves s.dev p, 2 ≤ carveRegion r → carveRegion r ≤ 5 → ∀ n < carveLen r, t.dev.mem.get (windowBase p (carveNode r) + carveOff r + n) = 0#8) ∧
        (∀ x ∈ lettersIn s.dev p, (∀ y ∈ s.dev.letters, y.id = x.id → y = x) → (s.dev.ctx x.ctx).state = 1 → genHeld s.dev x.ctx (((s.dev.ctx x.ctx).gen + 1) % 4096) = false → (∀ a ∈ s.dev.advances, a.1 ≠ x.ctx) →
          (findLetter t.dev x.id).map (·.result) = some (some (0x51, 3)) ∧ (t.dev.ctx x.ctx).gen = ((s.dev.ctx x.ctx).gen + 1) % 4096)) ∧
    (inReset s.dev p = true → (∀ v c, c ≠ .coherence → Granted s.dev v .high (.fltCtrl p) → Runs (.partitionReset v p c) s ({ s.dev.across v (.fltCtrl p) with out := s.dev.out ++ viaAck v } : Dev))) ∧
    (s.dev.resetting p = true → ∀ b, exec (.directoryEccError p b) s = .next s) ∧
    (∀ agent, s.dev.resetting p = true ∨ 54 ≤ agent → exec (.snoopTimeout p agent) s = .next s) ∧
    (s.dev.resetting p = false → Answers (.directoryEccError p true) s fun t => Becomes s t s.dev [(.cohDirEccCorr p, fset (s.dev.reg (.cohDirEccCorr p)) 31 0 (satAdd 32 (s.dev.fld (.cohDirEccCorr p) 31 0) 1))]) ∧
    (∀ r lost, s.dev.partResets.find? (fun r => r.part = p ∧ r.fence) = some r → r.train = false → s.dev.held = [] → Answers (.partitionFenceLifted p lost) s fun t =>
      (s.dev.degraded p = false → t.dev.fld (.fltStatus p) 1 0 = 0 ∧ t.dev.down p = false) ∧ (s.dev.degraded p = true → t.dev.fld (.fltStatus p) 1 0 = 2 ∧ t.dev.down p = true) ∧
      t.dev.bit (.cohStatus p) 0 = s.dev.bit (.cohStatus p) 0 ∧ t.dev.bit (.fltCtrl p) 0 = true ∧ (∀ n < 24, (mapGet t.dev.dies (24 * p + n) (0, 0)).1 = epochNow s.dev) ∧
      (∀ x ∈ t.dev.letters, x.id.mbx / 64 = p → x.result = some (0x51, 3)) ∧ t.dev.partResets = (s.dev.partResets.map fun k => if k = r then { k with fence := false } else k) ∧ t.dev.mem = s.dev.mem) ∧
    (∀ r, s.dev.partResets.find? (fun r => r.part = p ∧ r.fence = false) = some r → Answers (.partitionResetComplete p) s fun t =>
      Reports s t { s.dev with partResets := s.dev.partResets.filter (· ≠ r) }
        ([(.fltCtrl p, bset (s.dev.reg (.fltCtrl p)) 1 false), (.cohStatus p, bset (s.dev.reg (.cohStatus p)) 0 false), (.fltStatus p, if r.absorbed = [] then bset (s.dev.reg (.fltStatus p)) 6 true else bset (bset (s.dev.reg (.fltStatus p)) 6 true) 4 false),
          (.fltResets p, fset (s.dev.reg (.fltResets p)) 31 16 (satAdd 16 (s.dev.fld (.fltResets p) 31 16) 1))] ++ if r.absorbed = [] then [] else [(.fltEngReset p, bset (s.dev.reg (.fltEngReset p)) 31 false)])
        (partInc p r.cause (ctxMask r.ctxs) true)))

/-- Incidents and the stacks. Before any ring is enabled up to 16 records are held and counted in GATE_BOOT, further ones
are lost. Enabling a ring whose size or base R411 forbids sets BADCFG instead; a valid enable writes the held records
of that ring in order, and while it is enabled its size stays. A temperature sets the stack's refresh code; one
pseudo-channel of a stack retrains at a time, and its end counts the lanes; a lost channel degrades and fences its
partition and raises CHANNEL_LOST. Stack training, of which stacks that only leave self-refresh lose nothing (R460),
makes the partition TRAINED, or degraded when channels are lost, and with the fourth partition the gate's stage
becomes 3. Under conditions on the state and the operands alone it concludes that exec answers a next state for:
stackTrainingDone, stackTempChange, pcRetrainStart, pcRetrainDone, channelLost, incidentRingEnable. -/
def Obligations.IncidentsAndStacks : Prop :=
  (∀ (d : Dev) (i : Inc), d.incSeen = false →
    (d.incHeld.length < 16 → (d.raise i).incHeld = d.incHeld ++ [(if moduleClass i.cls then none else i.part, i.bytes (d.stamp i.die).1)] ∧ (d.raise i).fld .gateBoot 20 16 = d.incHeld.length + 1 ∧ (d.raise i).mem = d.mem ∧ (d.raise i).out = d.out) ∧
    (16 ≤ d.incHeld.length → (d.raise i).incHeld = d.incHeld ∧ (d.raise i).fld .gateIncLost 31 0 = satAdd 32 (d.fld .gateIncLost 31 0) 1)) ∧
  ∀ (s : State) (p : Nat), p < 4 →
    (∀ v ring (value : W32) (base : Nat), (ring = none ∨ ring = some p) → Granted s.dev v .high (ringCfg ring) → base = s.dev.regN (ringBase ring) →
      ((s.dev.bit (ringCfg ring) 16 = true ∨ bitN value.toNat 16 = false) → Answers (.incidentRingEnable v ring value) s fun t =>
        t = { s with dev := { s.dev with regs := t.dev.regs, out := s.dev.out ++ viaAck v } } ∧ (∀ r, r ≠ ringCfg ring → t.dev.reg r = (s.dev.across v (ringCfg ring)).reg r) ∧
        t.dev.bit (ringCfg ring) 16 = (s.dev.bit (ringCfg ring) 16 && bitN value.toNat 16) ∧ (s.dev.bit (ringCfg ring) 16 = true → t.dev.fld (ringCfg ring) 3 0 = s.dev.fld (ringCfg ring) 3 0)) ∧
      (s.dev.bit (ringCfg ring) 16 = false → bitN value.toNat 16 = true → (bitsN value.toNat 3 0 < 6 ∨ base % 64 ≠ 0 ∨ base / 2 ^ 54 % 2 = 1 ∨ 2 ^ 56 ≤ base) → Answers (.incidentRingEnable v ring value) s fun t =>
        t = { s with dev := { s.dev with regs := t.dev.regs, out := s.dev.out ++ viaAck v } } ∧ t.dev.bit (ringCfg ring) 16 = false ∧ t.dev.bit (ringCfg ring) 17 = true) ∧
      (s.dev.bit (ringCfg ring) 16 = false → bitN value.toNat 16 = true → 6 ≤ bitsN value.toNat 3 0 → base % 64 = 0 → base < 2 ^ 46 →
        ((∀ e ∈ s.dev.incHeld, e.1 ≠ ring) → Answers (.incidentRingEnable v ring value) s fun t =>
          t.dev.bit (ringCfg ring) 16 = true ∧ t.dev.incSeen = true ∧ t.dev.incHeld = s.dev.incHeld ∧ t.dev.mem = s.dev.mem ∧ t.dev.out = s.dev.out ++ viaAck v) ∧
        (∀ rcd q a, s.dev.incHeld = [(ring, rcd)] → rcd.length = 64 → ring ∉ s.dev.incLost → s.dev.fld (ringHead ring) 15 0 = s.dev.fld (ringTail ring) 15 0 → bitN value.toNat 4 = false →
          a = base + s.dev.fld (ringTail ring) 15 0 % 2 ^ bitsN value.toNat 3 0 * 64 → Calm s.dev q → s.dev.installing q = false → s.dev.down q = false → place a = .slab q → Answers (.incidentRingEnable v ring value) s fun t =>
          t.dev.incSeen = true ∧ t.dev.incHeld = [] ∧ t.dev.fld (ringTail ring) 15 0 = (s.dev.fld (ringTail ring) 15 0 + 1) % 65536 ∧ t.dev.mem.read a 64 = rcd.take 63 ++ [0x80#8] ∧
          ∀ b, (b < a ∨ a + 64 ≤ b) → t.dev.mem.get b = s.dev.mem.get b))) ∧
    (∀ k temp, k < 8 → Answers (.stackTempChange p k temp) s fun t => Becomes s t s.dev
      [(.memStackTemp p k, fset (fset (s.dev.reg (.memStackTemp p k)) 9 8 (refreshCode (s.dev.fld (.memStackTemp p k) 9 8) (min temp 255))) 7 0 (min temp 255))]) ∧
    (∀ k ch pc, k < 8 → ch < 32 → pc < 2 →
      ((stackBusy s.dev p k = true ∨ s.dev.bit (.memChanLost p k) ch = true) → exec (.pcRetrainStart p k ch pc) s = .next s) ∧
      (stackBusy s.dev p k = false → s.dev.bit (.memChanLost p k) ch = false → s.dev.trained p = true → Answers (.pcRetrainStart p k ch pc) s fun t =>
        Becomes s t { s.dev with retrains := s.dev.retrains ++ [(p, k, ch, pc)] } [(.memStackTemp p k, bset (s.dev.reg (.memStackTemp p k)) 10 true), (.memRetrain p k, fset (s.dev.reg (.memRetrain p k)) 15 0 (satAdd 16 (s.dev.fld (.memRetrain p k) 15 0) 1))]) ∧
      (s.dev.held = [] → s.dev.retrains.find? (fun r => r.1 = p ∧ r.2.1 = k) = some (p, k, ch, pc) →
        (∀ lanes, Answers (.pcRetrainDone p k lanes) s fun t => Becomes s t { s.dev with retrains := s.dev.retrains.filter fun r => ¬ (r.1 = p ∧ r.2.1 = k) }
          [(.memStackTemp p k, bset (s.dev.reg (.memStackTemp p k)) 10 false), (.memRetrain p k, fset (s.dev.reg (.memRetrain p k)) 31 16 (satAdd 16 (s.dev.fld (.memRetrain p k) 31 16) lanes))]) ∧
        (Answers (.channelLost p k) s fun t => Reports s t { s.dev with retrains := s.dev.retrains.filter fun r => ¬ (r.1 = p ∧ r.2.1 = k) }
          ([(.memStackTemp p k, bset (s.dev.reg (.memStackTemp p k)) 10 false), (.memChanLost p k, bset (s.dev.reg (.memChanLost p k)) ch true), (.memStatus p, bset (s.dev.reg (.memStatus p)) 1 true),
            (.sortStatus 0, bset (s.dev.reg (.sortStatus 0)) p true), (.sortStatus 1, bset (s.dev.reg (.sortStatus 1)) p true)] ++
            if s.dev.resetting p then [] else [(.fltStatus p, fset (s.dev.reg (.fltStatus p)) 1 0 2)])
          { cls := 0x180, eng := 0x12, idx := k, die := dieOf p 19, part := some p, d0 := k + ch * 256 }))) ∧
    (s.dev.stepFour = true → s.dev.bit .gateBoot (8 + p) = false → s.dev.held = [] →
      (Answers (.stackTrainingDone p []) s fun t => t.dev.bit .gateBoot (8 + p) = true ∧ t.dev.trained p = true ∧ t.dev.mem = s.dev.mem ∧
        ((∀ q < 4, q ≠ p → s.dev.bit .gateBoot (8 + q) = true) → s.dev.fld .gateBoot 2 0 = 2 → s.dev.recovery = false → t.dev.memReady = true) ∧
        ∀ n < 48, s.dev.bit (.partCoreCtrl p n) 0 = true → s.dev.fld (.partCoreStatus p n) 1 0 = 0 → t.dev.fld (.partCoreStatus p n) 1 0 = 1) ∧
      (∀ lost, p ∉ s.dev.trains → exec (.stackTrainingDone p lost) s = exec (.stackTrainingDone p []) s) ∧
      (∀ n, n < 256 → p ∈ s.dev.trains → s.dev.incSeen = false → Answers (.stackTrainingDone p [n]) s fun t => t.dev.bit .gateBoot (8 + p) = true ∧ t.dev.degraded p = true ∧ t.dev.bit (.memChanLost p (n / 32)) (n % 32) = true ∧ t.dev.down p = true))

/-- The Clerk's loops over power, heat and activity. While the Clerk runs, a power sample enters the window mean, the peak
and the partitions' means, and supplies in motion have arrived (log entry 47), and an input out of range holds every
partition, but in DROWSE, at 0.56 V or less after raising its incident. Over the cap a decision in ACTIVE lowers every
partition that is above its least supply by 10 mV, and where all stand at 0.56 V POWER_FLOOR is raised; in DROWSE it
changes no supply. The thermal loop shows every die's and stack's temperature and flags, the coolant, and raises a die
over 105 degrees once. A partition idle for ten activity loops goes to N0 and wakes to its R418 voltage. A stopped
Clerk does none of this, and its heartbeat stands still. Under conditions on the state and the operands alone it
concludes that exec answers a next state for: powerSample, powerDecision, thermalLoop, activityLoop,
idlePartitionWake, channelUpkeep, linkUpkeep, deadlineStatistics, clerkHeartbeat, clerkStop. -/
def Obligations.PowerLoops : Prop :=
  ∀ (s : State),
    (s.dev.power.clerk = false → (∀ w mv ps, exec (.powerSample w mv ps) s = .next s) ∧ exec .powerDecision s = .next s ∧ (∀ a b c e, exec (.thermalLoop a b c e) s = .next s) ∧ exec .activityLoop s = .next s ∧
      exec .channelUpkeep s = .next s ∧ exec .linkUpkeep s = .next s ∧ exec .deadlineStatistics s = .next s ∧ exec .clerkHeartbeat s = .next s ∧ ∀ p, exec (.idlePartitionWake p) s = .next s) ∧
    (Answers .clerkStop s fun t => Becomes s t { s.dev with power := { s.dev.power with clerk := false } } ((List.range 4).map fun p => (.pwrPartStatus p, bset (s.dev.reg (.pwrPartStatus p)) 31 false))) ∧
    (s.dev.power.clerk = true →
      (Answers .clerkHeartbeat s fun t => Becomes s t s.dev [(.clerkHeartbeat, s.dev.reg .clerkHeartbeat + 1#64)]) ∧
      (∀ w mv ps ss m, ss = ((w, ps) :: s.dev.power.samples).take 1000 → m = mean (ss.map (·.1)) →
        (40000 ≤ mv → mv ≤ 60000 → Answers (.powerSample w mv ps) s fun t => Becomes s t { s.dev with power := { s.dev.power with samples := ss, millivolts := mv, supplyHold := false } }
          ((.pwrInput, fset (fset (s.dev.reg .pwrInput) 15 0 m) 31 16 (mv / 10)) :: (if s.dev.fld .pwrPeak 15 0 < m then [(.pwrPeak, fset (s.dev.reg .pwrPeak) 15 0 m)] else []) ++
            ((List.range 4).map fun p => (.pwrPartPower p, fset (s.dev.reg (.pwrPartPower p)) 15 0 (mean (ss.map fun e => e.2.getD p 0)))) ++
            (List.range 4).map fun p => (.pwrPartStatus p, bset (s.dev.reg (.pwrPartStatus p)) 31 false))) ∧
        (mv < 40000 ∨ 60000 < mv → powerState s.dev ≠ 2 → s.dev.incSeen = false → (∀ p < 4, resetFloor s.dev p = false) → Answers (.powerSample w mv ps) s fun t => t.dev.power.supplyHold = true ∧
          (∀ p < 4, voltOf t.dev p ≤ 560) ∧ t.dev.out = s.dev.out ++ if s.dev.power.supplyHold then [] else [.tray 3 [0x305, mv / 10]])) ∧
      (powerState s.dev ≠ 0 → exec .activityLoop s = .next s) ∧
      (powerState s.dev = 2 → s.dev.incSeen = false → Answers .powerDecision s fun t => t.dev.mem = s.dev.mem ∧ ∀ p < 4, t.dev.reg (.pwrPartStatus p) = s.dev.reg (.pwrPartStatus p)) ∧
      (powerState s.dev = 0 → s.dev.power.samples ≠ [] → 2 * 98 * capW s.dev < 100 * fastTwice s.dev → (∀ p < 4, leastMv s.dev p ≤ voltOf s.dev p) → s.dev.incSeen = false →
        Answers .powerDecision s fun t => (∀ p < 4, voltOf t.dev p ≤ max (leastMv s.dev p) (voltOf s.dev p - 10)) ∧ t.dev.mem = s.dev.mem ∧
          ((∀ p < 4, voltOf s.dev p ≤ 560) → s.dev.power.floorRaised = false → t.dev.power.floorRaised = true)) ∧
      (∀ ds ks a b, s.dev.incSeen = false → Answers (.thermalLoop ds ks a b) s fun t =>
        (∀ n temp, n < 100 → ds[n]? = some temp → t.dev.fld (.thermDie n) 7 0 = min temp 255 ∧ (t.dev.bit (.thermDie n) 8 = decide (heatTarget s.dev < temp)) ∧ t.dev.bit (.thermDie n) 9 = decide (105 < temp) ∧
          (105 < temp → n ∈ t.dev.power.hotDies) ∧ (temp ≤ 103 → n ∉ t.dev.power.hotDies)) ∧
        (∀ p < 4, ∀ k < 8, ∀ temp, ks[8 * p + k]? = some temp → stackTemp t.dev p k = min temp 255 ∧ t.dev.fld (.memStackTemp p k) 9 8 = refreshCode (s.dev.fld (.memStackTemp p k) 9 8) (min temp 255)) ∧
        t.dev.fld .thermCoolant 7 0 = a % 256 ∧ t.dev.fld .thermCoolant 15 8 = b % 256 ∧ t.dev.mem = s.dev.mem) ∧
      (powerState s.dev = 0 → Answers .activityLoop s fun t => ∀ p < 4,
        (enginesIdle s.dev p true = false → mapGet? t.dev.power.idle p = some 0 ∧ t.dev.reg (.pwrPartStatus p) = s.dev.reg (.pwrPartStatus p)) ∧
        (enginesIdle s.dev p true = true → mapGet? t.dev.power.idle p = some (min 10 (mapGet s.dev.power.idle p 0 + 1)) ∧
          (9 ≤ mapGet s.dev.power.idle p 0 → s.dev.bit (.pwrPartStatus p) 30 = false → t.dev.bit (.pwrPartStatus p) 30 = true ∧ voltOf t.dev p = max (if s.dev.bit (.pwrPartStatus p) 28 then min (min 600 (heatMv s.dev p)) (voltOf s.dev p) else min 600 (heatMv s.dev p)) (leastMv s.dev p) % 1024))) ∧
      (∀ p < 4, (s.dev.bit (.pwrPartStatus p) 30 = false → exec (.idlePartitionWake p) s = .next s) ∧
        (s.dev.bit (.pwrPartStatus p) 30 = true → Answers (.idlePartitionWake p) s fun t => t.dev.bit (.pwrPartStatus p) 30 = false ∧ voltOf t.dev p = max (r418 s.dev p) (leastMv s.dev p) % 1024 ∧ mapGet? t.dev.power.idle p = some 0)) ∧
      (Answers .channelUpkeep s fun t => t.dev.mem = s.dev.mem ∧ ∀ p < 4, ∀ k < 8, s.dev.trained p = true →
        (mapGet? s.dev.power.trainedAt (p, k) = none → mapGet? t.dev.power.trainedAt (p, k) = some (stackTemp s.dev p k)) ∧
        (∀ u, mapGet? s.dev.power.trainedAt (p, k) = some u → (u + 20 ≤ stackTemp s.dev p k ∨ stackTemp s.dev p k + 20 ≤ u) → mapGet? s.dev.power.sweeps (p, k) = none → stackBusy s.dev p k = false → s.dev.bit (.memChanLost p k) 0 = false →
          (p, k, 0, 0) ∈ t.dev.retrains ∧ mapGet? t.dev.power.sweeps (p, k) = some 1 ∧ mapGet? t.dev.power.trainedAt (p, k) = some (stackTemp s.dev p k))) ∧
      (Answers .linkUpkeep s fun t => ∀ n < 16, (∀ k < 4, n / 4 * 4 + k ≠ n → s.dev.portState (n / 4 * 4 + k) ≠ 3 ∧ s.dev.portState (n / 4 * 4 + k) ≠ 4) → s.dev.portState n = 3 →
        ∀ old, old = (mapGet s.dev.power.fecSeen n []).getLast?.getD (0, 0) →
        (t.dev.portState n = if moved (s.dev.regN (.crrPortFecUncorr n)) old.2 ≠ 0 ∨ 312 < moved (s.dev.regN (.crrPortFecCorr n)) old.1 then 4 else 3)) ∧
      (Answers .deadlineStatistics s fun t => ∀ p < 4, mapGet? t.dev.power.rtSeen p = some (rtTotal s.dev p) ∧
        t.dev.reg (.clerkRt p) = fset (s.dev.reg (.clerkRt p)) 63 0 (satAdd 64 (s.dev.fld (.clerkRt p) 63 0) (moved (rtTotal s.dev p) (mapGet s.dev.power.rtSeen p 0)))))

/-- Power states are asked for, refused, and entered. A request of a power state is only noted while the Clerk has
stopped, held while a transition runs, without effect in the state itself, and refused with its reason; otherwise its
transition begins. A completed transition enters the state: ACTIVE and IDLE set every partition's supply, which holds
while the Clerk is stopped, DROWSE closes the ports and holds the stacks, OFF removes the rails; a held request is
applied after it. CLERK_CYCLE_REQ asks the tray controller for a power cycle with its key alone, its cause in a coding
that the spec does not give (log entry 61). Under conditions on the state and the operands alone it concludes that
exec answers a next state for: pwrRequestActive, pwrRequestIdle, pwrRequestDrowse, pwrRequestOff, pwrTransitionDone,
cycleRequest. -/
def Obligations.PowerStates : Prop :=
  ∀ (s : State),
    (∀ (c : Instr) (v : Via) (g : Nat) (w : W64), ((c = .pwrRequestActive v ∧ g = 0) ∨ (c = .pwrRequestIdle v ∧ g = 1) ∨ (c = .pwrRequestDrowse v ∧ g = 2) ∨ (c = .pwrRequestOff v ∧ g = 3)) →
      Granted s.dev v .power .pwrStateReq → w = fset (s.dev.reg .pwrStateReq) 1 0 g →
      (s.dev.power.clerk = false → Answers c s fun t => Becomes (s.across v .pwrStateReq) t { s.dev with out := s.dev.out ++ viaAck v } [(.pwrStateReq, bset w 31 true)]) ∧
      (s.dev.power.clerk = true →
        (s.dev.power.transition ≠ none → Answers c s fun t => Becomes (s.across v .pwrStateReq) t { s.dev with power := { s.dev.power with heldReq := some g }, out := s.dev.out ++ viaAck v }
          [(.pwrStateReq, bset w 31 false), (.pwrState, bset (s.dev.reg .pwrState) 3 true)]) ∧
        (s.dev.power.transition = none →
          (powerState s.dev = g → Answers c s fun t => Becomes (s.across v .pwrStateReq) t { s.dev with out := s.dev.out ++ viaAck v } [(.pwrStateReq, bset w 31 false)]) ∧
          (powerState s.dev ≠ g → powerRefusal s.dev g ≠ 0 → Answers c s fun t => Becomes (s.across v .pwrStateReq) t { s.dev with out := s.dev.out ++ viaAck v }
            [(.pwrStateReq, bset w 31 false), (.pwrState, fset (s.dev.reg .pwrState) 7 4 (powerRefusal s.dev g))]) ∧
          (powerState s.dev ≠ g → powerRefusal s.dev g = 0 → Answers c s fun t => Becomes (s.across v .pwrStateReq) t { s.dev with power := { s.dev.power with transition := some g }, out := s.dev.out ++ viaAck v }
            [(.pwrStateReq, bset w 31 false), (.pwrState, bset (s.dev.reg .pwrState) 2 true)])))) ∧
    (powerRefusal s.dev 0 = 0 ∧ powerRefusal s.dev 3 = 0 ∧ (powerRefusal s.dev 1 = 0 ↔ ∀ p < 4, enginesIdle s.dev p false = true) ∧
      ((∃ c < 64, (s.dev.ctx c).state ≠ 0) → powerRefusal s.dev 2 = 2)) ∧
    (s.dev.power.transition = none → exec .pwrTransitionDone s = .next s) ∧
    (∀ g, s.dev.power.transition = some g → s.dev.power.heldReq = none →
      (g = 0 ∨ g = 1 → powerState s.dev ≠ 2 → Answers .pwrTransitionDone s fun t => powerState t.dev = g ∧ t.dev.bit .pwrState 2 = false ∧ t.dev.power.transition = none ∧ t.dev.mem = s.dev.mem ∧
        ∀ p < 4, voltOf t.dev p = if s.dev.power.clerk = false then voltOf s.dev p else
          max (if g = 0 then r418 s.dev p else if s.dev.bit (.pwrPartStatus p) 28 then min (min 600 (heatMv s.dev p)) (voltOf s.dev p) else min 600 (heatMv s.dev p)) (leastMv s.dev p) % 1024) ∧
      (g = 2 → Answers .pwrTransitionDone s fun t => powerState t.dev = 2 ∧ (∀ p < 4, t.dev.bit (.memStatus p) 3 = true) ∧ (∀ n < 16, t.dev.portState n = 0) ∧ t.dev.lines = []) ∧
      (g = 0 → powerState s.dev = 2 → s.dev.held = [] → Answers .pwrTransitionDone s fun t => powerState t.dev = 0 ∧ (∀ p < 4, t.dev.bit (.memStatus p) 3 = false) ∧
        (∀ p < 4, ∀ a, windowBase p 0 ≤ a → a < windowBase p 19 → t.dev.mem.get a = 0#8) ∧ (∀ n < 16, s.dev.portState n = 0 → s.dev.bit (.crrPortCtrl n) 0 = true → (s.dev.modImage = none ∨ s.dev.portRole n % 4 ≠ 3) → t.dev.portState n = 1)) ∧
      (g = 3 → Runs .pwrTransitionDone s (s.dev.railsOff true))) ∧
    (∀ g h, s.dev.power.transition = some g → g = 1 → powerState s.dev ≠ 2 → s.dev.power.heldReq = some h → h = 0 → Answers .pwrTransitionDone s fun t => powerState t.dev = 1 ∧ t.dev.power.heldReq = none ∧ t.dev.power.transition = some 0 ∧ t.dev.bit .pwrState 3 = false) ∧
    (∀ v (value : W32), Granted s.dev v .power .clerkCycleReq →
      (value = 0xC7C1#32 → s.dev.power.clerk = true → Runs (.cycleRequest v value) s
        ({ s.dev.across v .clerkCycleReq with tick := s.dev.tick + 1, out := s.dev.out ++ [.tray 1 [Config.cycleCause s.dev.tick]] ++ viaAck v } : Dev)) ∧
      (value ≠ 0xC7C1#32 ∨ s.dev.power.clerk = false → Runs (.cycleRequest v value) s ({ s.dev.across v .clerkCycleReq with out := s.dev.out ++ viaAck v } : Dev)))

/-- Management messages and the SPDM responder. On the tray bus the module takes its dynamic address and answers control
messages with the standby island powered, and PLDM once the Clerk runs. The SPDM responder answers on each of its two
transports: a version, capabilities after it, algorithms after those when both extended entries are offered, then
digests, parts of the certificate chain of slot 0, and measurements; a request out of order, with an operand it does
not take, or of another kind is answered with an error. A signed answer covers the transcript of its connection; while
the signing unit still works for the other transport, the end of which is a free value, it is deferred, and
RESPOND_IF_READY brings it. Error codes and layouts are the model's (log entry 13); nonces and signatures are free.
Under conditions on the state and the operands alone it concludes that exec answers a next state for:
mctpControlMessage, pldmBaseDiscovery, pldmSensorRead, getVersion, getCapabilities, negotiateAlgorithms, getDigests,
getCertificate, challenge, getMeasurements, respondIfReady, spdmUnsupportedRequest, dynamicAddressAssignment. -/
def Obligations.ManagementAnswers : Prop :=
  ∀ (s : State),
    (s.dev.power.standby = true → (∀ a < 128, Runs (.dynamicAddressAssignment a) s { s.dev with i3cAddr := some a }) ∧
      ∀ msg, Runs (.mctpControlMessage msg) s { s.dev with out := s.dev.out ++ [.tray 4 (msg.map (·.toNat))] }) ∧
    (s.dev.power.standby = false → (∀ a, exec (.dynamicAddressAssignment a) s = .next s) ∧ ∀ msg, exec (.mctpControlMessage msg) s = .next s) ∧
    (s.dev.power.clerk = true → (∀ msg, Runs (.pldmBaseDiscovery msg) s { s.dev with out := s.dev.out ++ [.tray 6 [0, 2, 5]] }) ∧
      (∀ n, Runs (.pldmSensorRead n) s { s.dev with out := s.dev.out ++ [.tray 7 (n :: (sensorValue s.dev n).toList)] }) ∧
      ∀ p < 4, sensorValue s.dev (2 + p) = some (s.dev.fld (.pwrPartPower p) 15 0) ∧ sensorValue s.dev (6 + p) = some (voltOf s.dev p) ∧ sensorValue s.dev (14 + p) = some (hotPart s.dev p) ∧
        ∀ k < 8, sensorValue s.dev (18 + 8 * p + k) = some (stackTemp s.dev p k)) ∧
    (s.dev.power.clerk = false → (∀ msg, exec (.pldmBaseDiscovery msg) s = .next s) ∧ ∀ n, exec (.pldmSensorRead n) s = .next s) ∧
    (∀ (tr : Transport) (msg : List Byte) (c c' : Spdm), c = s.dev.conn tr → c' = { c with transcript := c.transcript ++ msg } →
      (spdmUp s.dev tr = false → exec (.getVersion tr msg) s = .next s ∧ exec (.getCapabilities tr msg) s = .next s ∧ (∀ a h, exec (.negotiateAlgorithms tr msg a h) s = .next s) ∧
        exec (.getDigests tr msg) s = .next s ∧ (∀ k o n, exec (.getCertificate tr msg k o n) s = .next s) ∧ (∀ k, exec (.challenge tr msg k) s = .next s) ∧
        (∀ i b, exec (.getMeasurements tr msg i b) s = .next s) ∧ (∀ b, exec (.respondIfReady tr msg b) s = .next s) ∧ exec (.spdmUnsupportedRequest tr msg) s = .next s) ∧
      (spdmUp s.dev tr = true →
        (Answers (.getVersion tr msg) s fun t => Says s t tr { Spdm.reset with version := true, transcript := msg } 0x04 [0x13#8]) ∧
        (Answers (.spdmUnsupportedRequest tr msg) s fun t => Says s t tr c' 0x7F [7#8]) ∧
        (c.version = true → Answers (.getCapabilities tr msg) s fun t => Says s t tr { c' with caps := true } 0x61 [12#8, 0x16#8, 0#8, 0#8, 0#8]) ∧
        (c.version = false → Answers (.getCapabilities tr msg) s fun t => Says s t tr c' 0x7F [4#8]) ∧
        (c.caps = true → ∀ a h, (3, 0x1FA7, 1) ∈ a → (3, 0x1FA7, 1) ∈ h → Answers (.negotiateAlgorithms tr msg a h) s fun t =>
          Says s t tr { c' with algs := true } 0x63 [3#8, 0xA7#8, 0x1F#8, 1#8, 0#8, 3#8, 0xA7#8, 0x1F#8, 1#8, 0#8]) ∧
        (∀ a h, c.caps = false ∨ (3, 0x1FA7, 1) ∉ a ∨ (3, 0x1FA7, 1) ∉ h → Answers (.negotiateAlgorithms tr msg a h) s fun t => Says s t tr c' 0x7F [if c.caps then 1#8 else 4#8]) ∧
        (c.algs = true → Answers (.getDigests tr msg) s fun t => Says s t tr c' 0x01 (1#8 :: shake256 certChain)) ∧
        (c.algs = false → s.dev.recovery = false → ∀ r, (r = .getDigests tr msg ∨ (∃ k o n, r = .getCertificate tr msg k o n) ∨ (∃ k, r = .challenge tr msg k) ∨ ∃ i b, r = .getMeasurements tr msg i b) →
          Answers r s fun t => Says s t tr c' 0x7F [4#8]) ∧
        (s.dev.recovery = true → ∀ r, ((∃ k o n, r = .getCertificate tr msg k o n) ∨ (∃ k, r = .challenge tr msg k) ∨ ∃ i b, r = .getMeasurements tr msg i b) → Answers r s fun t => Says s t tr c' 0x7F [7#8]) ∧
        (c.algs = true → s.dev.recovery = false →
          (∀ slot off len, Answers (.getCertificate tr msg slot off len) s fun t =>
            (slot ≠ 0 ∨ certChain.length ≤ off → Says s t tr c' 0x7F [1#8]) ∧
            (∀ k, slot = 0 → off < certChain.length → k = min len (certChain.length - off) →
              Says s t tr c' 0x02 (natLe 2 k ++ natLe 2 (certChain.length - off - k) ++ slice certChain off k))) ∧
          (∀ slot, slot ≠ 0 → Answers (.challenge tr msg slot) s fun t => Says s t tr c' 0x7F [1#8]) ∧
          (∀ i, (∀ b, measurements s.dev i = some b → Answers (.getMeasurements tr msg i false) s fun t => Says s t tr c' 0x60 b) ∧
            (11 ≤ i → i ≠ 0xFF → ∀ sg, Answers (.getMeasurements tr msg i sg) s fun t => Says s t tr c' 0x7F [1#8])) ∧
          (s.dev.signing = none ∨ s.dev.signing = some tr → (Answers (.challenge tr msg 0) s fun t => Signs s t tr { c' with deferred := none } 0x03 (shake256 certChain)) ∧
            ∀ i b, measurements s.dev i = some b → Answers (.getMeasurements tr msg i true) s fun t => Signs s t tr { c' with deferred := none } 0x60 b) ∧
          (∀ u s', u ≠ tr → s.dev.signing = some u → s' = { s with dev := { s.dev with tick := s.dev.tick + 1 } } →
            (Config.signed s.dev.tick = false → (Answers (.challenge tr msg 0) s fun t => Says s' t tr { c' with deferred := some .challenge } 0x7F [0x42#8, 12#8, 2#8]) ∧
              ∀ i b, measurements s.dev i = some b → Answers (.getMeasurements tr msg i true) s fun t => Says s' t tr { c' with deferred := some (.measurements i) } 0x7F [0x42#8, 12#8, 2#8]) ∧
            (Config.signed s.dev.tick = true → (Answers (.challenge tr msg 0) s fun t => Signs s' t tr { c' with deferred := none } 0x03 (shake256 certChain)) ∧
              ∀ i b, measurements s.dev i = some b → Answers (.getMeasurements tr msg i true) s fun t => Signs s' t tr { c' with deferred := none } 0x60 b))) ∧
        (s.dev.recovery = false → (c.deferred = some .challenge → (Answers (.respondIfReady tr msg true) s fun t => Signs s t tr { c with deferred := none } 0x03 (shake256 certChain)) ∧
            (s.dev.signing ≠ none → Runs (.respondIfReady tr msg false) s { s.dev with out := s.dev.out ++ [.spdm tr 0x7F [0x42#8, 12#8, 2#8]] })) ∧
          (c.deferred = none → ∀ b, Runs (.respondIfReady tr msg b) s { s.dev with out := s.dev.out ++ [.spdm tr 0x7F [4#8]] })))) ∧
    measurement s.dev 1 = some ([1#8, 0#8, 64#8, 0#8] ++ s.dev.meas 0) ∧ measurement s.dev 10 = some ([10#8, 0x80#8, 4#8, 0#8] ++ natLe 4 (s.dev.regN .secSvn))

/-- The security operations. A GO while BUSY changes nothing. SVN_COMMIT raises FUSED_MIN to the SVN of the running image
and never lowers it, and fails with STATE in recovery mode. FW_WRITE writes an image that verifies to flash and
nothing else, unless the flash is protected or fails, with FLASH_FAULT; whether it fails, and what it then holds, is a
free value. An image that does not verify leaves the flash untouched, raises FW_REJECTED and ends with its cause, and
so does a source that is not 4 KiB aligned. An anchor record that is accepted fills or empties its slot, blows the
fuse of a revoked slot, shows both, extends SEC_MEAS[7] and raises ANCHOR_CHANGE; a rejected one changes no slot and
raises ANCHOR_REJECTED; while the loader fetches or verifies the operation waits. A PLDM update writes the flash under
the same checks. Whether a signature verifies is Falcon-1024's verification, which the model computes (log entry 3).
Under conditions on the state and the operands alone it concludes that exec answers a next state for:
pldmFirmwareUpdate, anchorAdd, anchorRevoke, fwWrite, svnCommit. -/
def Obligations.SecurityOperations : Prop :=
  ∀ (s : State) (v : Via), Granted s.dev v .sec .secOpCtrl →
    (s.dev.bit .secOpStatus 0 = true → ∀ c, ((∃ r, c = .anchorAdd v r) ∨ (∃ r, c = .anchorRevoke v r) ∨ (∃ b, c = .fwWrite v b) ∨ c = .svnCommit v) →
      Runs c s ({ s.dev.across v .secOpCtrl with out := s.dev.out ++ viaAck v } : Dev)) ∧
    (s.dev.bit .secOpStatus 0 = false →
      (s.dev.recovery = true → Answers (.svnCommit v) s fun t => SecFails s t v 4 9 (secInc 0x400 9)) ∧
      (s.dev.recovery = false → Answers (.svnCommit v) s fun t => ∃ n w u, n = max s.sec.fusedMin (s.dev.fld .secSvn 31 16) ∧ fget w 15 0 = s.dev.fld .secAnchorState 15 0 ∧
        (∀ m < 16, bitN w.toNat (16 + m) = decide (m ∈ s.sec.revoked ∧ m ≠ 0)) ∧
        Becomes (s.across v .secOpCtrl) u { s.dev with out := s.dev.out ++ viaAck v } (secDone s.dev 4 ++ [(.secSvn, fset (s.dev.reg .secSvn) 15 0 n), (.secAnchorState, w)]) ∧
        t = { u with sec := { s.sec with fusedMin := n } }) ∧
      (∀ image, s.dev.regN .secOpSrc % 4096 ≠ 0 → Answers (.fwWrite v image) s fun t => SecFails s t v 3 1 (secInc 0x400 257)) ∧
      (∀ image, secGiven s.dev image → Answers (.fwWrite v image) s fun t =>
        (∀ c, firmwareCause s.sec image = some c → SecFails s t v 3 c (secInc 0x400 (c + 256))) ∧
        (firmwareCause s.sec image = none →
          (flashProtected s.dev = true → SecFails s t v 3 8 (secInc 0x400 264)) ∧
          (flashProtected s.dev = false →
            (Config.flashWrite s.dev.tick = none → ∃ u, Becomes (s.across v .secOpCtrl) u { s.dev with tick := s.dev.tick + 1, out := s.dev.out ++ viaAck v } (secDone s.dev 3) ∧ t = { u with sec := { s.sec with flash := some image } }) ∧
            (∀ kept, Config.flashWrite s.dev.tick = some kept → SecFails { s with dev := { s.dev with tick := s.dev.tick + 1 }, sec := { s.sec with flash := if kept then s.sec.flash else none } } t v 3 8 (secInc 0x400 264))))) ∧
      (∀ c op r, ((c = .anchorAdd v r ∧ op = 1) ∨ (c = .anchorRevoke v r ∧ op = 2)) →
        (s.dev.loadState = 1 ∨ s.dev.loadState = 2 → Answers c s fun t => Becomes (s.across v .secOpCtrl) t { s.dev with secWait := some (op, r), out := s.dev.out ++ viaAck v } (secBusy s.dev 1)) ∧
        (secGiven s.dev r → r.length = 3328 → s.dev.loadState ≠ 1 → s.dev.loadState ≠ 2 → ∀ k, k = anchorCause s.sec (s.dev.fld .secAnchorState 15 0) op r →
          Answers c s fun t =>
            (∀ x, k = some x → SecFails s t v 1 x (secInc 0x403 (anchorSlot r % 16 + x * 256))) ∧
            (k = none → flashProtected s.dev = true → SecFails s t v 1 8 (secInc 0x403 (anchorSlot r % 16 + 2048))) ∧
            (k = none → flashProtected s.dev = false → Config.flashWrite s.dev.tick ≠ none →
              SecFails { s with dev := { s.dev with tick := s.dev.tick + 1 } } t v 1 8 (secInc 0x403 (anchorSlot r % 16 + 2048))) ∧
            (k = none → flashProtected s.dev = false → Config.flashWrite s.dev.tick = none → ∀ n sec', n = anchorSlot r → sec' = s.sec.anchor (s.dev.fld .secAnchorState 15 0) op r → 1 ≤ n ∧ n < 16 ∧ n ∉ s.sec.revoked ∧
              (op = 1 → (mapGet? sec'.anchors n).map (·.record) = some r ∧ sec'.revoked = s.sec.revoked) ∧ (op = 2 → mapGet? sec'.anchors n = none ∧ n ∈ sec'.revoked) ∧
              (∀ m, m ≠ n → mapGet? sec'.anchors m = mapGet? s.sec.anchors m ∧ (m ∈ sec'.revoked ↔ m ∈ s.sec.revoked)) ∧ sec'.fusedMin = s.sec.fusedMin ∧ sec'.flash = s.sec.flash ∧
              ∃ w u, (∀ m < 16, bitN w.toNat m = if m = n then decide (op = 1) else s.dev.bit .secAnchorState m) ∧ (∀ m < 16, bitN w.toNat (16 + m) = decide (m ∈ sec'.revoked ∧ m ≠ 0)) ∧
                Becomes (s.across v .secOpCtrl) u { s.dev with tick := s.dev.tick + 1, out := s.dev.out ++ viaAck v } ([(.secAnchorState, w), (.secSvn, fset (s.dev.reg .secSvn) 15 0 s.sec.fusedMin)] ++
                  measChange s.dev 7 (anchorStoreDigest sec' (fget w 15 0)) ++ secBusy s.dev 1) ∧
                t = { u with sec := sec', dev := (u.dev.raise (secInc 0x402 (n + (if op = 1 then 0 else 256) + field r 0x720 2 % 16 * 4096))).secEnd none })))) ∧
    (∀ image, (s.dev.power.standby = true → s.dev.power.clerk = true → Answers (.pldmFirmwareUpdate image) s fun t =>
        (∀ c d fl, (firmwareCause s.sec image = some c ∧ d = s.dev ∧ fl = s.sec.flash) ∨
            (firmwareCause s.sec image = none ∧ c = 8 ∧ flashProtected s.dev = true ∧ d = s.dev ∧ fl = s.sec.flash) ∨
            (firmwareCause s.sec image = none ∧ c = 8 ∧ flashProtected s.dev = false ∧ d = { s.dev with tick := s.dev.tick + 1 } ∧ ∃ kept, Config.flashWrite s.dev.tick = some kept ∧ fl = if kept then s.sec.flash else none) →
          t = { s with sec := { s.sec with flash := fl }, dev := { d.raise (secInc 0x400 (c + 256)) with out := (d.raise (secInc 0x400 (c + 256))).out ++ [.tray 5 [c]] } }) ∧
        (firmwareCause s.sec image = none → flashProtected s.dev = false → Config.flashWrite s.dev.tick = none →
          t = { s with sec := { s.sec with flash := some image }, dev := { s.dev with tick := s.dev.tick + 1, out := s.dev.out ++ [.tray 5 [0]] } })) ∧
      (s.dev.power.clerk = false → exec (.pldmFirmwareUpdate image) s = .next s))

/-- The embedding stages complete on operands that can be read. A stage of an E-tile whose operand words name lodged
objects of its partition, whose lists are well formed, whose rows have shards of this tile and whose destinations have
room completes: SPLIT with one progress count per entry, SORT with its passes, GATHER_POOL with keys and entries,
COMBINE and SCATTER with their records, each storing in its destinations alone; an update without rows opens its
journal, and RECOVER leaves an unused journal and empties one whose discard is asked for. (The results themselves are
what StageLifeCycle says of the same functions.) Under conditions on the state and the operands alone it concludes
that exec answers a next state for: split, sort, gatherPool, combine, scatter, adagrad, adam, recover. -/
def Obligations.EmbeddingStages : Prop :=
  ∀ (s : State) (l : LetterId) (stage : Nat) (x : Letter) (p n : Nat) (r : Rec) (d : Dev) (w : Who), w = stageWho x p r → n = stNode r →
    (Acting s.dev l stage 3 1 x p r d → (bitN (eOpt r 5) 0 = true → stOutA r ≠ 0xFFFF → chanRoom d x.id p (stOutA r) (.token 0) = true) →
      (∀ (b : BatchList) (m : List MapEnt) (ob om o : Obj), eOpt r 0 = 0 → Operand d x p n (eOpt r 1) ob → Operand d x p n (eOpt r 2) om → Operand d x p n (eOpt r 3) o →
        (eOpt r 4 ≠ 0xFF → ∃ oo, Operand d x p n (eOpt r 4) oo) → Reads d (readBatch x w (eOpt r 1)) b → Reads d (readMap x w (eOpt r 2)) m →
        (∀ e ∈ b.ents, (ownerOf m e).isSome = true) → dataBase + 16 * b.ents.length ≤ o.size → Answers (.split l stage) s fun t =>
          StageOver s t l stage ∧ KeptBut s.dev t.dev.mem o.base (dataBase + 16 * b.ents.length) ∧ t.dev.reg (.embSortProgress p n) = d.reg (.embSortProgress p n) + BitVec.ofNat 64 b.ents.length) ∧
      (∀ (es : List Ent) (oi o ow : Obj), eOpt r 0 = 1 → Operand d x p n (eOpt r 1) oi → Operand d x p n (eOpt r 3) o → Operand d x p n (eOpt r 4) ow →
        Reads d (readEntries x w (eOpt r 1)) es → es.length ≤ 65536 → (∀ e ∈ es, ∃ f k v, locate (shardsIn d) e.key = some (f, k) ∧ Reads d (readShard w f.id false) v) →
        (runsAt es.length es.length).2 + 4 * es.length ≤ o.size → 32 * es.length ≤ ow.size → Answers (.sort l stage) s fun t =>
          StageOver s t l stage ∧ KeptBut s.dev t.dev.mem o.base ((runsAt es.length es.length).2 + 4 * es.length) ∧ field (t.dev.mem.read o.base 4) 0 4 = es.length ∧
          t.dev.reg (.embSortProgress p n) = d.reg (.embSortProgress p n) + BitVec.ofNat 64 (sortPasses es.length * es.length))) ∧
    (Acting s.dev l stage 4 1 x p r d → s.dev.bit (.embStatus p n) 6 = false → (bitN (eOpt r 8) 1 = true → stOutA r ≠ 0xFFFF → chanRoom d x.id p (stOutA r) (.token 0) = true) →
      (∀ (es : List Ent) (ru : RunsObj) (len : Nat) (got : List ((List Byte × Nat) × Bool)) (oa ob oc o : Obj), eOpt r 0 = 0 → Operand d x p n (eOpt r 2) oa → Operand d x p n (eOpt r 3) ob →
        Operand d x p n (eOpt r 4) oc → Operand d x p n (eOpt r 5) o → Reads d (readEntries x w (eOpt r 2)) es → Reads d (readRuns x w (eOpt r 3) es.length) ru →
        (∀ u ∈ ru.uniq, ∃ f k v, locate (shardsIn d) u.1 = some (f, k) ∧ f.rowLen = len ∧ ownedBy d p n f = true ∧ Reads d (readShard w f.id false) v) →
        bitN (eOpt r 8) 0 = false → Reads d (fetchRows w p n false (ru.uniq.filterMap fun u => locate (shardsIn d) u.1)) got →
        64 + ru.uniq.length * 4160 ≤ oc.size → dataBase + es.length * up64 (16 + 4 * len) ≤ o.size → Answers (.gatherPool l stage) s fun t =>
          StageOver s t l stage ∧ (∀ b, (b < oc.base ∨ oc.base + (64 + ru.uniq.length * 4160) ≤ b) → (b < o.base ∨ o.base + (dataBase + es.length * up64 (16 + 4 * len)) ≤ b) → t.dev.mem.get b = s.dev.mem.get b) ∧
          t.dev.reg (.embGatherProgress p n) = d.reg (.embGatherProgress p n) + BitVec.ofNat 64 (ru.uniq.length + es.length)) ∧
      (∀ (b : BatchList) (recs : List RecIn) (oa ob o : Obj) (first count : Nat), eOpt r 0 = 1 → Operand d x p n (eOpt r 2) oa → Operand d x p n (eOpt r 3) ob → Operand d x p n (eOpt r 5) o →
        Reads d (readBatch x w (eOpt r 3)) b → Reads d (readRecords x w (eOpt r 2) (recordFmt d x 0) fun _ bag => if bag < b.bags then some (b.feat bag).2 else none) recs →
        first = wordFirst (x.word (eOpt r 5)) → count = ceilDiv b.samples 128 * ceilDiv b.cols 8 → Holds o first count → Answers (.combine l stage) s fun t =>
          StageOver s t l stage ∧ KeptButParcels s.dev t.dev.mem o first count ∧ t.dev.reg (.embGatherProgress p n) = d.reg (.embGatherProgress p n) + BitVec.ofNat 64 recs.length) ∧
      (∀ (b : BatchList) (es : List Ent) (oa ob oc o : Obj), eOpt r 0 = 2 → Operand d x p n (eOpt r 2) oa → Operand d x p n (eOpt r 3) ob → Operand d x p n (eOpt r 4) oc → Operand d x p n (eOpt r 5) o →
        (bitN (eOpt r 8) 2 = true → eOpt r 5 + 1 ≠ 0xFF → eOpt r 5 + 1 < x.nWords) → Reads d (readBatch x w (eOpt r 2)) b → Reads d (readEntries x w (eOpt r 3)) es → (∀ e ∈ es, e.bag < b.bags) →
        4096 * (wordFirst (x.word (eOpt r 4)) + ceilDiv b.samples 128 * ceilDiv b.cols 8) ≤ oc.size → dataBase + es.length * up64 (16 + 4 * b.cols) ≤ o.size →
        (∀ rt < ceilDiv b.samples 128, ∃ v, Reads d (matParcels x w (eOpt r 4) b.cols rt 0 b.cols) v ∧ ∀ e ∈ v.2, e.2.fmt = .fp32) → Answers (.scatter l stage) s fun t =>
          StageOver s t l stage ∧ KeptBut s.dev t.dev.mem o.base (dataBase + es.length * up64 (16 + 4 * b.cols)))) ∧
    (∀ (c : Instr) (adam : Bool) (ru : RunsObj) (recs : List RecIn) (oi or og oj : Obj), ((c = .adagrad l stage ∧ adam = false ∧ eOpt r 0 = 0) ∨ (c = .adam l stage ∧ adam = true ∧ eOpt r 0 = 1)) →
      Acting s.dev l stage 5 1 x p r d → Operand d x p n (eOpt r 1) oi → Operand d x p n (eOpt r 2) or → Operand d x p n (eOpt r 3) og → Operand d x p n (eOpt r 5) oj →
      eOpt r 4 < x.nWords → (adam = true → eOpt r 4 + 1 < x.nWords) → (eOpt r 6 ≠ 0xFF → eOpt r 6 < x.nWords) → Reads d (readEntries x w (eOpt r 1)) [] → Reads d (readRuns x w (eOpt r 2) 0) ru → ru.uniq = [] →
      Reads d (readRecords x w (eOpt r 3) (recordFmt d x 2) fun _ _ => none) recs → 64 ≤ oj.size → stepState d x.ctx = 1 → x.bracket = 1 → journalActive d p n x.ctx = false → Answers c s fun t =>
        StageOver s t l stage ∧ KeptBut s.dev t.dev.mem oj.base 64 ∧ t.dev.reg (.embJournal p n x.ctx) = BitVec.ofNat 64 (wordObj (x.word (eOpt r 5)) + 2 ^ 24)) ∧
    (∀ (oj : Obj) (h : List Byte), Acting s.dev l stage 5 2 x p r d → eOpt r 0 = 2 → Operand d x p n (eOpt r 5) oj → 64 ≤ oj.size → eOpt r 4 < x.nWords → x.word (eOpt r 4) < 2 →
      stepState d x.ctx = 0 → d.bit (.gateStep x.ctx) 6 = false → journalActive d p n x.ctx = false → h = d.mem.read oj.base 64 →
      (bitN (field h 0x15 1) 0 = false → Answers (.recover l stage) s fun t => StageOver s t l stage ∧ ∀ b, t.dev.mem.get b = s.dev.mem.get b) ∧
      (bitN (field h 0x15 1) 0 = true → field h 8 8 = 0 → Answers (.recover l stage) s fun t => StageOver s t l stage ∧ KeptBut s.dev t.dev.mem oj.base 64 ∧
        bitN (field (t.dev.mem.read oj.base 64) 0x15 1) 0 = false))

/-- The attention stages complete on operands that can be read. On a valid pool of the letter's context: FORK of one new,
empty sequence makes it valid; RELEASE of a sequence without pages makes it invalid; an APPEND without entries ends,
and one with one entry that can be applied ends with it applied; POOL_INIT with FRAMES 0 makes a pool without
sequences and readers invalid; FORWARD of one row over an empty sequence ends with the row statistic -Inf; BACKWARD of
one such row ends. Under conditions on the state and the operands alone it concludes that exec answers a next state
for: attForward, attBackward, attAppend, attFork, attRelease, attPoolInit. -/
def Obligations.AttentionStages : Prop :=
  ∀ (s : State) (l : LetterId) (stage : Nat) (x : Letter) (p n : Nat) (r : Rec) (d : Dev) (w : Who) (q : Pool) (o : Obj) (h : List Byte) (e : Nat), w = stageWho x p r → n = stNode r →
    Operand d x p n (tList r) o → h = d.mem.read o.base 64 → poolValid d p (tPool r) = true → q = pool d p (tPool r) → q.owner = x.ctx →
    (Acting s.dev l stage 7 3 x p r d →
      (tMode r = 5 → 64 ≤ o.footprint → field h 0x10 4 = 0 → (∀ k < q.seqs, seqValid d q k = false) → (∀ f < q.frames, pageReaders d q f = 0) → Answers (.attPoolInit l stage) s fun t =>
        StageOver s t l stage ∧ poolValid t.dev p (tPool r) = false ∧ t.dev.reg (.hallHistPool p (tPool r)) = 0#64) ∧
      (zeroRange h 4 60 = true →
        (tMode r = 2 → 64 ≤ o.footprint → field h 0 4 = 0 → Answers (.attAppend l stage) s fun t => StageOver s t l stage ∧ ∀ b, t.dev.mem.get b = s.dev.mem.get b) ∧
        (72 ≤ o.footprint → field h 0 4 = 1 → e = field (d.mem.read (o.base + 64) 8) 0 8 →
          (∀ row f, tMode r = 2 → (appendEntry x p r q 0 e).run d = (.ok row, f) → Answers (.attAppend l stage) s fun t => StageOver s t l stage ∧ t.dev.mem = f.mem ∧ t.dev.reg (.attProgress p n) = f.reg (.attProgress p n) + 1#64) ∧
          (tMode r = 3 → bitsN e 31 16 = 0xFFFF → bitsN e 63 32 = 0 → bitsN e 15 0 < q.seqs → seqValid d q (bitsN e 15 0) = false → 0x200 ≤ q.seqRec → Answers (.attFork l stage) s fun t =>
            StageOver s t l stage ∧ seqValid t.dev q (bitsN e 15 0) = true ∧ seqLen t.dev q (bitsN e 15 0) = 0 ∧ t.dev.reg (.attProgress p n) = d.reg (.attProgress p n) + 1#64) ∧
          (tMode r = 4 → e < q.seqs → e < 2 ^ 16 → seqValid d q e = true → seqPages d q e = [] → 0x200 ≤ q.seqRec → Answers (.attRelease l stage) s fun t =>
            StageOver s t l stage ∧ seqValid t.dev q e = false ∧ t.dev.reg (.attProgress p n) = d.reg (.attProgress p n) + 1#64)))) ∧
    (∀ v, 72 ≤ o.footprint → field h 0 4 = 1 → e = field (d.mem.read (o.base + 64) 8) 0 8 → bitsN e 31 16 = 0 → bitsN e 15 0 < q.seqs → seqValid d q (bitsN e 15 0) = true → seqLen d q (bitsN e 15 0) = 0 →
      seqPages d q (bitsN e 15 0) = [] → (tSeed r ≠ 0xFF → tSeed r < x.nWords) → tFlag r 1 = false → Reads d (matRow x p r false 0 (tA r) q.cols 0) v →
      (∀ ol, Acting s.dev l stage 7 1 x p r d → tMode r = 0 → tFlag r 2 = false → zeroRange h 4 60 = true → 1 ≤ q.heads → Operand d x p n (tLse r) ol → Holds ol (wordFirst (x.word (tLse r))) 1 →
        (histBase d p + 0x200 ≤ ol.base ∨ ol.base + ol.footprint ≤ histBase d p) → Answers (.attForward l stage) s fun t =>
          StageOver s t l stage ∧ field (t.dev.mem.read (ol.base + 4096 * wordFirst (x.word (tLse r))) 4) 0 4 = 0xFF800000) ∧
      (∀ v1 v2 v3, Acting s.dev l stage 7 2 x p r d → tMode r = 1 → zeroRange h 4 4 = true → zeroRange h 0x18 40 = true → field h 0xF 1 = 0 → field h 0x17 1 = 0 → Reads d (matRow x p r false 0 (tB r) q.cols 0) v1 →
        Reads d (matRow x p r false 0 (tC r) q.cols 0) v2 → Reads d (matRow x p r false 0 (tLse r) q.heads 0) v3 → Answers (.attBackward l stage) s fun t => StageOver s t l stage))

/-- Mailbag, franker, vector and tie stages complete, and a delivery lands. SEND queues its mailbag with every group
ready. GRAD takes the tile of its channel, a first addition storing it in the mailbag's object alone. EXCHANGE begins
a run. TIE_SUM adds a gradient of one parcel and sends its token. The franker converts the next part of a drained tile
and sends it. A vector stage starts with its checked card, and runs a group of a card without inputs. A delivered
parcel lands in its slot. Under conditions on the state and the operands alone it concludes that exec answers a next
state for: deliveryParcelLanded, frankerParcel, vectorStageStart, vectorElementGroup, tieSum, mailbagGrad,
mailbagSend, exchange. -/
def Obligations.StagesOnChannels : Prop :=
  ∀ (s : State) (l : LetterId) (stage : Nat) (x : Letter) (p n : Nat) (r : Rec) (d : Dev) (w : Who), w = stageWho x p r → n = stNode r →
    (∀ rd, Acting s.dev l stage 8 1 x p r d → mMode r = 1 → mFlag r 1 = false → findRed d p (mMailbag r) = some rd → (mWordSeed r ≠ 0xFF → mWordSeed r < x.nWords) → (p, x.ctx, mMailbag r) ∉ d.redBad →
      Answers (.mailbagSend l stage) s fun t => StageOver s t l stage ∧ t.dev.mem = s.dev.mem ∧
        ∃ b ∈ t.dev.bags, b.part = p ∧ b.ctx = x.ctx ∧ b.mailbag = mMailbag r ∧ b.letter = l ∧ b.chan = rdChan rd ∧ b.ready = List.range (rdGroups rd)) ∧
    (∀ q a rd o m k j t0 vals rest, stageAt s.dev l stage [8] = some (x, p, r) → mMode r = 0 → runOf s.dev l stage = some q → engineOut s.dev p n q.slot = false → mWordMb r < x.nWords → x.word (mWordMb r) = 1 →
      (producers s.dev x p r).head? = some a → findRed s.dev p (mMailbag r) = some rd → earlierGrad s.dev x p (mMailbag r) = false → dimsOf x a = (m, k, j) → s.dev.chan l p (stInA r) = .tile t0 vals :: rest →
      Lent s.dev p n (rdObj rd) o → (∀ e ∈ tileParcels m k t0, Holds o e.1 1) → q.pos + 1 < tileCount m k → Answers (.mailbagGrad l stage) s fun t =>
        t.dev.chan l p (stInA r) = rest ∧ (∃ q' ∈ t.dev.runs, q' = { q with pos := q.pos + 1 }) ∧ KeptBut s.dev t.dev.mem o.base o.footprint) ∧
    (∀ dir room e0 os od, Acting s.dev l stage 8 1 x p r d → mMode r = 2 → findExch s.dev (l, stage) = none → mFlag r 1 = false → xSrc r < x.nWords → bitsN (x.word (xSrc r)) 63 56 = 0 → xDst r < x.nWords → bitsN (x.word (xDst r)) 63 56 = 0 →
      mapGet? d.objs (wordObj (x.word (xDst r))) = some od → mapGet? d.objs (wordObj (x.word (xSrc r))) = some os → dataBase ≤ os.size →
      e0 = (⟨x.id, stIndex r, p, xSlot r, xKind r, x.route, x.ctx, x.gen, mapGet d.xruns (x.ctx, x.route, stIndex r) 0, [], false, [], [], [], []⟩ : Exch) → Reads d (outDir d e0) (dir, room) → (∀ c ∈ dir, c.2 = 0) →
      Answers (.exchange l stage) s fun t => mapGet t.dev.xruns (x.ctx, x.route, stIndex r) 0 = mapGet d.xruns (x.ctx, x.route, stIndex r) 0 + 1) ∧
    (∀ k e o o1 s1 rest rows cols v0 vs, Acting s.dev l stage 9 1 x p r d → recU r 16 1 = 1 → takeToken d x.id p (stInA r) = some (k, e) → (stOutA r ≠ 0xFFFF → chanRoom e x.id p (stOutA r) (.token 0) = true) → Lent e p n (uObj r) o → ∀ h, h = e.mem.read o.base 64 → 2 ≤ field h 0 4 → field h 0 4 ≤ 64 → rows = field h 4 4 → cols = field h 8 4 →
      zeroRange h 0xC 52 = true → 64 + 4 * field h 0 4 ≤ o.footprint → (u32s (e.mem.read (o.base + 64) (4 * field h 0 4)) (field h 0 4)).map (fun v => bitsN v 23 0) = s1 :: rest → gradParcels rows cols = 1 → Reads e (groupVals w s1 0) v0 → Reads e (addSlots w 0 rest v0) vs →
      Lent e p n s1 o1 → Holds o1 0 1 → Answers (.tieSum l stage) s fun t => StageOver s t l stage ∧ KeptButParcels s.dev t.dev.mem o1 0 1 ∧ t.dev.reg (.redUpdProgress p) = d.reg (.redUpdProgress p) + 1#64 ∧
        ∀ y, findLetter t.dev l = some y → y.result = none → stOutA r ≠ 0xFFFF → t.dev.chan l p (stOutA r) = e.chan l p (stOutA r) ++ [.token 0]) ∧
    (∀ q m k per t0 vals rest, stageAt s.dev l stage [1] = some (x, p, r) → runOf s.dev l stage = some q → engineOut s.dev p n q.slot = false → recU r 22 1 < x.nWords → bitN (x.word (recU r 22 1)) 63 = false → m = dimM (x.word (recU r 22 1)) → k = dimK (x.word (recU r 22 1)) →
      0 < m → 0 < k → (recU r 23 1 ≠ 0xFF → recU r 23 1 < x.nWords) → (recU r 21 1 ≠ 0xFF → recU r 21 1 < x.nWords ∧ bitsN (x.word (recU r 21 1)) 63 56 = 0) → fFlag r 0 = false → fFlag r 1 = false → fFlag r 2 = true → stOutA r ≠ 0xFFFF → (∀ i pl sd, chanRoom s.dev l p (stOutA r) (.parcel i pl sd) = true) →
      s.dev.chan l p (stInA r) = .tile t0 vals :: rest → tileTurn s.dev x p r = true → per = ceilDiv k (fTarget r).width → 128 / (fTarget r).width * (t0 / ceilDiv m 128) + q.pos < per → q.pos + 1 < 128 / (fTarget r).width → Answers (.frankerParcel l stage) s fun t =>
        (∃ pl sd, t.dev.chan l p (stOutA r) = s.dev.chan l p (stOutA r) ++ [.parcel (t0 % ceilDiv m 128 * per + (128 / (fTarget r).width * (t0 / ceilDiv m 128) + q.pos)) pl sd]) ∧
        (∃ q' ∈ t.dev.runs, q' = { q with pos := q.pos + 1 }) ∧ t.dev.mem = s.dev.mem ∧ t.dev.reg (.frkProgress p n) = s.dev.reg (.frkProgress p n) + 1#64) ∧
    (∀ o c ws dw, StageDue s.dev l stage 6 x p r → d = s.dev.startStage x p r 1 → Lent d p n (recU r 16 3) o → 256 ≤ o.footprint → c = d.mem.read o.base 256 → cardCause c r = none →
      ws = (List.range 3).filterMap (fun i => if (cardInput c i).1 = 3 then some (cardInput c i).2.2 else none) ++ (usedOuts c).filterMap (fun e => if e.2.store ∨ classStoch e.2.cls = true then some e.2.word else none) →
      (∀ i ∈ ws, vBase r + i < x.nWords ∧ bitsN (x.word (vBase r + i)) 63 56 = 0) → (∀ i ∈ (if field c 0x21 1 = 0xFF then [] else [field c 0x21 1]) ++ (List.range (field c 0x23 1)).map (· + field c 0x22 1), vBase r + i < x.nWords) →
      vBase r + field c 0x20 1 < x.nWords → dw = x.word (vBase r + field c 0x20 1) → bitN dw 63 = false → 0 < dimM dw → 0 < dimK dw → Answers (.vectorStageStart l stage) s fun t =>
        { newRun x p r with card := c } ∈ t.dev.runs ∧ (l, stage) ∉ t.dev.waits ∧ t.dev.mem = s.dev.mem) ∧
    (∀ q, stageAt s.dev l stage [6] = some (x, p, r) → runOf s.dev l stage = some q → engineOut s.dev p n q.slot = false → q.card ≠ [] → (∀ i < 3, (cardInput q.card i).1 = 0) → (q.pos + 1) % (128 * groupWidth q.card / 1024) ≠ 0 → q.buf.length + 1024 < 128 * groupWidth q.card → Answers (.vectorElementGroup l stage) s fun t =>
      t.dev.mem = s.dev.mem ∧ t.dev.reg (.vecProgress p n) = s.dev.reg (.vecProgress p n) + 1#64 ∧ ∃ q' ∈ t.dev.runs, q'.letter = l ∧ q'.stage = stage ∧ q'.pos = q.pos + 1 ∧ q'.buf.length = q.buf.length + 1024) ∧
    (∀ i k idx v o a win off en kind, findLetter s.dev l = some x → x.result = none → delivRec s.dev p i = some v → delivOut s.dev p (recU v 16 1) = false → delivEngine (recU v 16 1) = (en, kind) → idx = recU v 8 4 + k → k < (s.dev.deliv l p i).issued → k ∉ (s.dev.deliv l p i).landed → k ∉ (s.dev.deliv l p i).dropped →
      Lent s.dev p en (bitsN (recU v 4 4) 23 0) o → Holds o idx 1 → (Side.ofBytes (s.dev.mem.read (o.base + o.size + 512 * idx) 512)).named (bitsN (recU v 4 4) 23 0) idx = true → slotAddr s.dev p (recU v 16 1) (recU v 20 4 + k) = some a →
      place a = .window p win off → exists_ s.dev a 4608 true = true → routed s.dev (some (p, en)) a 4096 = true → routed s.dev (some (p, en)) (a + 4096) 512 = true → Answers (.deliveryParcelLanded l p i k) s fun t =>
        k ∈ (t.dev.deliv l p i).landed ∧ t.dev.mem.read a 4096 = s.dev.mem.read (o.base + 4096 * idx) 4096 ∧ KeptBut s.dev t.dev.mem a 4608)
end

