-- ==== Sys2Proof/Laws/Tables.lean ====
section
/-! SUPPORT. Laws of association lists: what a table reads as after a change. -/

namespace Sys2Proof.Machine

variable {κ α : Type} [DecidableEq κ]

@[simp] theorem mapGet?_nil (k : κ) : mapGet? ([] : Map κ α) k = none := rfl

@[simp] theorem mapGet?_cons (k' : κ) (v : α) (l : Map κ α) (k : κ) :
    mapGet? ((k', v) :: l) k = if k' = k then some v else mapGet? l k := rfl

@[simp] theorem mapGet?_mapSet (m : Map κ α) (k : κ) (v : α) (k' : κ) :
    mapGet? (mapSet m k v) k' = if k = k' then some v else mapGet? m k' := by
  induction m with
  | nil => simp [mapSet]
  | cons e m ih =>
    obtain ⟨a, b⟩ := e
    by_cases h : a = k
    · subst h; by_cases h' : a = k' <;> simp [mapSet, h']
    · by_cases h' : a = k'
      · subst h'; simp [mapSet, h, Ne.symm h]
      · simp [mapSet, h, h', ih]

@[simp] theorem mapGet_mapSet (m : Map κ α) (k : κ) (v : α) (k' : κ) (dflt : α) :
    mapGet (mapSet m k v) k' dflt = if k = k' then v else mapGet m k' dflt := by
  unfold mapGet; rw [mapGet?_mapSet]; split <;> rfl

@[simp] theorem mapGet_nil (k : κ) (dflt : α) : mapGet ([] : Map κ α) k dflt = dflt := rfl

@[simp] theorem mapGet?_mapErase (m : Map κ α) (k k' : κ) :
    mapGet? (mapErase m k) k' = if k = k' then none else mapGet? m k' := by
  induction m with
  | nil => simp [mapErase]
  | cons e m ih =>
    obtain ⟨a, b⟩ := e
    by_cases h : a = k
    · subst h
      by_cases h' : a = k'
      · subst h'; simpa [mapErase] using ih
      · simp [mapErase, h', ih]
    · by_cases h' : a = k'
      · subst h'; simp [mapErase, h, Ne.symm h]
      · simp [mapErase, h, h', ih]

end Sys2Proof.Machine
end

