-- ==== Sys2Proof/Laws/State.lean ====
section
/-! SUPPORT. Laws of the module's record: what each update leaves alone, and what a register reads as after a write. -/

namespace Sys2Proof.Machine

/-! ### The state around the module -/

@[simp] theorem State.onDev_pending (s : State) (f : Dev → Dev) : (s.onDev f).pending = s.pending := rfl
@[simp] theorem State.onDev_sec (s : State) (f : Dev → Dev) : (s.onDev f).sec = s.sec := rfl
@[simp] theorem State.onDev_dev (s : State) (f : Dev → Dev) : (s.onDev f).dev = f s.dev := rfl

/-! ### Registers -/

@[simp] theorem Dev.reg_setReg (d : Dev) (r : Reg) (v : W64) (q : Reg) :
    (d.setReg r v).reg q = if r = q then v else d.reg q := by
  simp [Dev.reg, Dev.setReg]

theorem Dev.setFld_eq (d : Dev) (r : Reg) (hi lo n : Nat) : d.setFld r hi lo n = d.setReg r (fset (d.reg r) hi lo n) := rfl
theorem Dev.setBit_eq (d : Dev) (r : Reg) (i : Nat) (b : Bool) : d.setBit r i b = d.setReg r (bset (d.reg r) i b) := rfl
theorem Dev.wrap_eq (d : Dev) (r : Reg) (k : Nat) : d.wrap r k = d.setReg r (d.reg r + BitVec.ofNat 64 k) := rfl
theorem Dev.addFld_eq (d : Dev) (r : Reg) (hi lo k : Nat) :
    d.addFld r hi lo k = d.setReg r (fset (d.reg r) hi lo (satAdd (hi + 1 - lo) (d.fld r hi lo) k)) := rfl

@[simp] theorem Dev.reg_setFld (d : Dev) (r : Reg) (hi lo n : Nat) (q : Reg) :
    (d.setFld r hi lo n).reg q = if r = q then fset (d.reg r) hi lo n else d.reg q := Dev.reg_setReg ..
@[simp] theorem Dev.reg_setBit (d : Dev) (r : Reg) (i : Nat) (b : Bool) (q : Reg) :
    (d.setBit r i b).reg q = if r = q then bset (d.reg r) i b else d.reg q := Dev.reg_setReg ..
@[simp] theorem Dev.reg_wrap (d : Dev) (r : Reg) (k : Nat) (q : Reg) :
    (d.wrap r k).reg q = if r = q then d.reg r + BitVec.ofNat 64 k else d.reg q := Dev.reg_setReg ..
@[simp] theorem Dev.reg_send (d : Dev) (o : Output) (q : Reg) : (d.send o).reg q = d.reg q := rfl

/-! ### What a register write leaves alone -/

@[simp] theorem Dev.setReg_tick (d : Dev) (r : Reg) (v : W64) : (d.setReg r v).tick = d.tick := rfl
@[simp] theorem Dev.setReg_mem (d : Dev) (r : Reg) (v : W64) : (d.setReg r v).mem = d.mem := rfl
@[simp] theorem Dev.setReg_out (d : Dev) (r : Reg) (v : W64) : (d.setReg r v).out = d.out := rfl
@[simp] theorem Dev.setReg_dies (d : Dev) (r : Reg) (v : W64) : (d.setReg r v).dies = d.dies := rfl
@[simp] theorem Dev.setReg_epochMarker (d : Dev) (r : Reg) (v : W64) : (d.setReg r v).epochMarker = d.epochMarker := rfl
@[simp] theorem Dev.setReg_epochHeld (d : Dev) (r : Reg) (v : W64) : (d.setReg r v).epochHeld = d.epochHeld := rfl
@[simp] theorem Dev.setReg_ctxs (d : Dev) (r : Reg) (v : W64) : (d.setReg r v).ctxs = d.ctxs := rfl
@[simp] theorem Dev.setReg_edges (d : Dev) (r : Reg) (v : W64) : (d.setReg r v).edges = d.edges := rfl
@[simp] theorem Dev.setReg_markers (d : Dev) (r : Reg) (v : W64) : (d.setReg r v).markers = d.markers := rfl
@[simp] theorem Dev.setReg_drains (d : Dev) (r : Reg) (v : W64) : (d.setReg r v).drains = d.drains := rfl
@[simp] theorem Dev.setReg_advances (d : Dev) (r : Reg) (v : W64) : (d.setReg r v).advances = d.advances := rfl
@[simp] theorem Dev.setReg_modImage (d : Dev) (r : Reg) (v : W64) : (d.setReg r v).modImage = d.modImage := rfl
@[simp] theorem Dev.setReg_parts (d : Dev) (r : Reg) (v : W64) : (d.setReg r v).parts = d.parts := rfl
@[simp] theorem Dev.setReg_loader (d : Dev) (r : Reg) (v : W64) : (d.setReg r v).loader = d.loader := rfl
@[simp] theorem Dev.setReg_mbx (d : Dev) (r : Reg) (v : W64) : (d.setReg r v).mbx = d.mbx := rfl
@[simp] theorem Dev.setReg_letters (d : Dev) (r : Reg) (v : W64) : (d.setReg r v).letters = d.letters := rfl
@[simp] theorem Dev.setReg_tlb (d : Dev) (r : Reg) (v : W64) : (d.setReg r v).tlb = d.tlb := rfl
@[simp] theorem Dev.setReg_objs (d : Dev) (r : Reg) (v : W64) : (d.setReg r v).objs = d.objs := rfl
@[simp] theorem Dev.setReg_pcie (d : Dev) (r : Reg) (v : W64) : (d.setReg r v).pcie = d.pcie := rfl
@[simp] theorem Dev.setReg_remotes (d : Dev) (r : Reg) (v : W64) : (d.setReg r v).remotes = d.remotes := rfl
@[simp] theorem Dev.setReg_nextTag (d : Dev) (r : Reg) (v : W64) : (d.setReg r v).nextTag = d.nextTag := rfl
@[simp] theorem Dev.setReg_flushWait (d : Dev) (r : Reg) (v : W64) : (d.setReg r v).flushWait = d.flushWait := rfl
@[simp] theorem Dev.setReg_lines (d : Dev) (r : Reg) (v : W64) : (d.setReg r v).lines = d.lines := rfl
@[simp] theorem Dev.setReg_reservations (d : Dev) (r : Reg) (v : W64) : (d.setReg r v).reservations = d.reservations := rfl
@[simp] theorem Dev.setReg_imsic (d : Dev) (r : Reg) (v : W64) : (d.setReg r v).imsic = d.imsic := rfl
@[simp] theorem Dev.setReg_fns (d : Dev) (r : Reg) (v : W64) : (d.setReg r v).fns = d.fns := rfl
@[simp] theorem Dev.setReg_engResets (d : Dev) (r : Reg) (v : W64) : (d.setReg r v).engResets = d.engResets := rfl
@[simp] theorem Dev.setReg_partResets (d : Dev) (r : Reg) (v : W64) : (d.setReg r v).partResets = d.partResets := rfl
@[simp] theorem Dev.setReg_incHeld (d : Dev) (r : Reg) (v : W64) : (d.setReg r v).incHeld = d.incHeld := rfl
@[simp] theorem Dev.setReg_incSeen (d : Dev) (r : Reg) (v : W64) : (d.setReg r v).incSeen = d.incSeen := rfl
@[simp] theorem Dev.setReg_incLost (d : Dev) (r : Reg) (v : W64) : (d.setReg r v).incLost = d.incLost := rfl
@[simp] theorem Dev.setReg_ports (d : Dev) (r : Reg) (v : W64) : (d.setReg r v).ports = d.ports := rfl
@[simp] theorem Dev.setReg_post (d : Dev) (r : Reg) (v : W64) : (d.setReg r v).post = d.post := rfl
@[simp] theorem Dev.setReg_podStores (d : Dev) (r : Reg) (v : W64) : (d.setReg r v).podStores = d.podStores := rfl
@[simp] theorem Dev.setReg_remap (d : Dev) (r : Reg) (v : W64) : (d.setReg r v).remap = d.remap := rfl
@[simp] theorem Dev.setReg_joined (d : Dev) (r : Reg) (v : W64) : (d.setReg r v).joined = d.joined := rfl
@[simp] theorem Dev.setReg_floods (d : Dev) (r : Reg) (v : W64) : (d.setReg r v).floods = d.floods := rfl
@[simp] theorem Dev.setReg_retrains (d : Dev) (r : Reg) (v : W64) : (d.setReg r v).retrains = d.retrains := rfl
@[simp] theorem Dev.setReg_stepFour (d : Dev) (r : Reg) (v : W64) : (d.setReg r v).stepFour = d.stepFour := rfl
@[simp] theorem Dev.setReg_chans (d : Dev) (r : Reg) (v : W64) : (d.setReg r v).chans = d.chans := rfl
@[simp] theorem Dev.setReg_tileOrder (d : Dev) (r : Reg) (v : W64) : (d.setReg r v).tileOrder = d.tileOrder := rfl
@[simp] theorem Dev.setReg_arrs (d : Dev) (r : Reg) (v : W64) : (d.setReg r v).arrs = d.arrs := rfl
@[simp] theorem Dev.setReg_parked (d : Dev) (r : Reg) (v : W64) : (d.setReg r v).parked = d.parked := rfl
@[simp] theorem Dev.setReg_delivs (d : Dev) (r : Reg) (v : W64) : (d.setReg r v).delivs = d.delivs := rfl
@[simp] theorem Dev.setReg_waits (d : Dev) (r : Reg) (v : W64) : (d.setReg r v).waits = d.waits := rfl
@[simp] theorem Dev.setReg_sums (d : Dev) (r : Reg) (v : W64) : (d.setReg r v).sums = d.sums := rfl
@[simp] theorem Dev.setReg_stash (d : Dev) (r : Reg) (v : W64) : (d.setReg r v).stash = d.stash := rfl
@[simp] theorem Dev.setReg_runs (d : Dev) (r : Reg) (v : W64) : (d.setReg r v).runs = d.runs := rfl
@[simp] theorem Dev.setReg_power (d : Dev) (r : Reg) (v : W64) : (d.setReg r v).power = d.power := rfl
@[simp] theorem Dev.setReg_held (d : Dev) (r : Reg) (v : W64) : (d.setReg r v).held = d.held := rfl
@[simp] theorem Dev.setReg_icache (d : Dev) (r : Reg) (v : W64) : (d.setReg r v).icache = d.icache := rfl
@[simp] theorem Dev.setReg_spdm (d : Dev) (r : Reg) (v : W64) : (d.setReg r v).spdm = d.spdm := rfl
@[simp] theorem Dev.setReg_signing (d : Dev) (r : Reg) (v : W64) : (d.setReg r v).signing = d.signing := rfl
@[simp] theorem Dev.setReg_i3cAddr (d : Dev) (r : Reg) (v : W64) : (d.setReg r v).i3cAddr = d.i3cAddr := rfl
@[simp] theorem Dev.setReg_secWait (d : Dev) (r : Reg) (v : W64) : (d.setReg r v).secWait = d.secWait := rfl
@[simp] theorem Dev.setReg_gateImage (d : Dev) (r : Reg) (v : W64) : (d.setReg r v).gateImage = d.gateImage := rfl
@[simp] theorem Dev.setReg_authNonce (d : Dev) (r : Reg) (v : W64) : (d.setReg r v).authNonce = d.authNonce := rfl
@[simp] theorem Dev.setReg_trains (d : Dev) (r : Reg) (v : W64) : (d.setReg r v).trains = d.trains := rfl
@[simp] theorem Dev.setReg_early (d : Dev) (r : Reg) (v : W64) : (d.setReg r v).early = d.early := rfl
@[simp] theorem Dev.setReg_evals (d : Dev) (r : Reg) (v : W64) : (d.setReg r v).evals = d.evals := rfl
@[simp] theorem Dev.setReg_rowCache (d : Dev) (r : Reg) (v : W64) : (d.setReg r v).rowCache = d.rowCache := rfl
@[simp] theorem Dev.setReg_stepParts (d : Dev) (r : Reg) (v : W64) : (d.setReg r v).stepParts = d.stepParts := rfl
@[simp] theorem Dev.setReg_updates (d : Dev) (r : Reg) (v : W64) : (d.setReg r v).updates = d.updates := rfl
@[simp] theorem Dev.setReg_decisions (d : Dev) (r : Reg) (v : W64) : (d.setReg r v).decisions = d.decisions := rfl
@[simp] theorem Dev.setReg_bags (d : Dev) (r : Reg) (v : W64) : (d.setReg r v).bags = d.bags := rfl
@[simp] theorem Dev.setReg_cycles (d : Dev) (r : Reg) (v : W64) : (d.setReg r v).cycles = d.cycles := rfl
@[simp] theorem Dev.setReg_redPast (d : Dev) (r : Reg) (v : W64) : (d.setReg r v).redPast = d.redPast := rfl
@[simp] theorem Dev.setReg_redEarly (d : Dev) (r : Reg) (v : W64) : (d.setReg r v).redEarly = d.redEarly := rfl
@[simp] theorem Dev.setReg_redSent (d : Dev) (r : Reg) (v : W64) : (d.setReg r v).redSent = d.redSent := rfl
@[simp] theorem Dev.setReg_redWait (d : Dev) (r : Reg) (v : W64) : (d.setReg r v).redWait = d.redWait := rfl
@[simp] theorem Dev.setReg_redFails (d : Dev) (r : Reg) (v : W64) : (d.setReg r v).redFails = d.redFails := rfl
@[simp] theorem Dev.setReg_redFailed (d : Dev) (r : Reg) (v : W64) : (d.setReg r v).redFailed = d.redFailed := rfl
@[simp] theorem Dev.setReg_redBad (d : Dev) (r : Reg) (v : W64) : (d.setReg r v).redBad = d.redBad := rfl
@[simp] theorem Dev.setReg_exchs (d : Dev) (r : Reg) (v : W64) : (d.setReg r v).exchs = d.exchs := rfl
@[simp] theorem Dev.setReg_xcounts (d : Dev) (r : Reg) (v : W64) : (d.setReg r v).xcounts = d.xcounts := rfl
@[simp] theorem Dev.setReg_xready (d : Dev) (r : Reg) (v : W64) : (d.setReg r v).xready = d.xready := rfl
@[simp] theorem Dev.setReg_xruns (d : Dev) (r : Reg) (v : W64) : (d.setReg r v).xruns = d.xruns := rfl
@[simp] theorem Dev.setReg_xbase (d : Dev) (r : Reg) (v : W64) : (d.setReg r v).xbase = d.xbase := rfl
@[simp] theorem Dev.setReg_posted (d : Dev) (r : Reg) (v : W64) : (d.setReg r v).posted = d.posted := rfl

/-! ### What a message leaves alone -/

@[simp] theorem Dev.send_out (d : Dev) (x : Output) : (d.send x).out = d.out ++ [x] := rfl
@[simp] theorem Dev.send_tick (d : Dev) (x : Output) : (d.send x).tick = d.tick := rfl
@[simp] theorem Dev.send_regs (d : Dev) (x : Output) : (d.send x).regs = d.regs := rfl
@[simp] theorem Dev.send_mem (d : Dev) (x : Output) : (d.send x).mem = d.mem := rfl
@[simp] theorem Dev.send_dies (d : Dev) (x : Output) : (d.send x).dies = d.dies := rfl
@[simp] theorem Dev.send_epochMarker (d : Dev) (x : Output) : (d.send x).epochMarker = d.epochMarker := rfl
@[simp] theorem Dev.send_epochHeld (d : Dev) (x : Output) : (d.send x).epochHeld = d.epochHeld := rfl
@[simp] theorem Dev.send_ctxs (d : Dev) (x : Output) : (d.send x).ctxs = d.ctxs := rfl
@[simp] theorem Dev.send_edges (d : Dev) (x : Output) : (d.send x).edges = d.edges := rfl
@[simp] theorem Dev.send_markers (d : Dev) (x : Output) : (d.send x).markers = d.markers := rfl
@[simp] theorem Dev.send_drains (d : Dev) (x : Output) : (d.send x).drains = d.drains := rfl
@[simp] theorem Dev.send_advances (d : Dev) (x : Output) : (d.send x).advances = d.advances := rfl
@[simp] theorem Dev.send_modImage (d : Dev) (x : Output) : (d.send x).modImage = d.modImage := rfl
@[simp] theorem Dev.send_parts (d : Dev) (x : Output) : (d.send x).parts = d.parts := rfl
@[simp] theorem Dev.send_loader (d : Dev) (x : Output) : (d.send x).loader = d.loader := rfl
@[simp] theorem Dev.send_mbx (d : Dev) (x : Output) : (d.send x).mbx = d.mbx := rfl
@[simp] theorem Dev.send_letters (d : Dev) (x : Output) : (d.send x).letters = d.letters := rfl
@[simp] theorem Dev.send_tlb (d : Dev) (x : Output) : (d.send x).tlb = d.tlb := rfl
@[simp] theorem Dev.send_objs (d : Dev) (x : Output) : (d.send x).objs = d.objs := rfl
@[simp] theorem Dev.send_pcie (d : Dev) (x : Output) : (d.send x).pcie = d.pcie := rfl
@[simp] theorem Dev.send_remotes (d : Dev) (x : Output) : (d.send x).remotes = d.remotes := rfl
@[simp] theorem Dev.send_nextTag (d : Dev) (x : Output) : (d.send x).nextTag = d.nextTag := rfl
@[simp] theorem Dev.send_flushWait (d : Dev) (x : Output) : (d.send x).flushWait = d.flushWait := rfl
@[simp] theorem Dev.send_lines (d : Dev) (x : Output) : (d.send x).lines = d.lines := rfl
@[simp] theorem Dev.send_reservations (d : Dev) (x : Output) : (d.send x).reservations = d.reservations := rfl
@[simp] theorem Dev.send_imsic (d : Dev) (x : Output) : (d.send x).imsic = d.imsic := rfl
@[simp] theorem Dev.send_fns (d : Dev) (x : Output) : (d.send x).fns = d.fns := rfl
@[simp] theorem Dev.send_engResets (d : Dev) (x : Output) : (d.send x).engResets = d.engResets := rfl
@[simp] theorem Dev.send_partResets (d : Dev) (x : Output) : (d.send x).partResets = d.partResets := rfl
@[simp] theorem Dev.send_incHeld (d : Dev) (x : Output) : (d.send x).incHeld = d.incHeld := rfl
@[simp] theorem Dev.send_incSeen (d : Dev) (x : Output) : (d.send x).incSeen = d.incSeen := rfl
@[simp] theorem Dev.send_incLost (d : Dev) (x : Output) : (d.send x).incLost = d.incLost := rfl
@[simp] theorem Dev.send_ports (d : Dev) (x : Output) : (d.send x).ports = d.ports := rfl
@[simp] theorem Dev.send_post (d : Dev) (x : Output) : (d.send x).post = d.post := rfl
@[simp] theorem Dev.send_podStores (d : Dev) (x : Output) : (d.send x).podStores = d.podStores := rfl
@[simp] theorem Dev.send_remap (d : Dev) (x : Output) : (d.send x).remap = d.remap := rfl
@[simp] theorem Dev.send_joined (d : Dev) (x : Output) : (d.send x).joined = d.joined := rfl
@[simp] theorem Dev.send_floods (d : Dev) (x : Output) : (d.send x).floods = d.floods := rfl
@[simp] theorem Dev.send_retrains (d : Dev) (x : Output) : (d.send x).retrains = d.retrains := rfl
@[simp] theorem Dev.send_stepFour (d : Dev) (x : Output) : (d.send x).stepFour = d.stepFour := rfl
@[simp] theorem Dev.send_chans (d : Dev) (x : Output) : (d.send x).chans = d.chans := rfl
@[simp] theorem Dev.send_tileOrder (d : Dev) (x : Output) : (d.send x).tileOrder = d.tileOrder := rfl
@[simp] theorem Dev.send_arrs (d : Dev) (x : Output) : (d.send x).arrs = d.arrs := rfl
@[simp] theorem Dev.send_parked (d : Dev) (x : Output) : (d.send x).parked = d.parked := rfl
@[simp] theorem Dev.send_delivs (d : Dev) (x : Output) : (d.send x).delivs = d.delivs := rfl
@[simp] theorem Dev.send_waits (d : Dev) (x : Output) : (d.send x).waits = d.waits := rfl
@[simp] theorem Dev.send_sums (d : Dev) (x : Output) : (d.send x).sums = d.sums := rfl
@[simp] theorem Dev.send_stash (d : Dev) (x : Output) : (d.send x).stash = d.stash := rfl
@[simp] theorem Dev.send_runs (d : Dev) (x : Output) : (d.send x).runs = d.runs := rfl
@[simp] theorem Dev.send_power (d : Dev) (x : Output) : (d.send x).power = d.power := rfl
@[simp] theorem Dev.send_held (d : Dev) (x : Output) : (d.send x).held = d.held := rfl
@[simp] theorem Dev.send_icache (d : Dev) (x : Output) : (d.send x).icache = d.icache := rfl
@[simp] theorem Dev.send_spdm (d : Dev) (x : Output) : (d.send x).spdm = d.spdm := rfl
@[simp] theorem Dev.send_signing (d : Dev) (x : Output) : (d.send x).signing = d.signing := rfl
@[simp] theorem Dev.send_i3cAddr (d : Dev) (x : Output) : (d.send x).i3cAddr = d.i3cAddr := rfl
@[simp] theorem Dev.send_secWait (d : Dev) (x : Output) : (d.send x).secWait = d.secWait := rfl
@[simp] theorem Dev.send_gateImage (d : Dev) (x : Output) : (d.send x).gateImage = d.gateImage := rfl
@[simp] theorem Dev.send_authNonce (d : Dev) (x : Output) : (d.send x).authNonce = d.authNonce := rfl
@[simp] theorem Dev.send_trains (d : Dev) (x : Output) : (d.send x).trains = d.trains := rfl
@[simp] theorem Dev.send_early (d : Dev) (x : Output) : (d.send x).early = d.early := rfl
@[simp] theorem Dev.send_evals (d : Dev) (x : Output) : (d.send x).evals = d.evals := rfl
@[simp] theorem Dev.send_rowCache (d : Dev) (x : Output) : (d.send x).rowCache = d.rowCache := rfl
@[simp] theorem Dev.send_stepParts (d : Dev) (x : Output) : (d.send x).stepParts = d.stepParts := rfl
@[simp] theorem Dev.send_updates (d : Dev) (x : Output) : (d.send x).updates = d.updates := rfl
@[simp] theorem Dev.send_decisions (d : Dev) (x : Output) : (d.send x).decisions = d.decisions := rfl
@[simp] theorem Dev.send_bags (d : Dev) (x : Output) : (d.send x).bags = d.bags := rfl
@[simp] theorem Dev.send_cycles (d : Dev) (x : Output) : (d.send x).cycles = d.cycles := rfl
@[simp] theorem Dev.send_redPast (d : Dev) (x : Output) : (d.send x).redPast = d.redPast := rfl
@[simp] theorem Dev.send_redEarly (d : Dev) (x : Output) : (d.send x).redEarly = d.redEarly := rfl
@[simp] theorem Dev.send_redSent (d : Dev) (x : Output) : (d.send x).redSent = d.redSent := rfl
@[simp] theorem Dev.send_redWait (d : Dev) (x : Output) : (d.send x).redWait = d.redWait := rfl
@[simp] theorem Dev.send_redFails (d : Dev) (x : Output) : (d.send x).redFails = d.redFails := rfl
@[simp] theorem Dev.send_redFailed (d : Dev) (x : Output) : (d.send x).redFailed = d.redFailed := rfl
@[simp] theorem Dev.send_redBad (d : Dev) (x : Output) : (d.send x).redBad = d.redBad := rfl
@[simp] theorem Dev.send_exchs (d : Dev) (x : Output) : (d.send x).exchs = d.exchs := rfl
@[simp] theorem Dev.send_xcounts (d : Dev) (x : Output) : (d.send x).xcounts = d.xcounts := rfl
@[simp] theorem Dev.send_xready (d : Dev) (x : Output) : (d.send x).xready = d.xready := rfl
@[simp] theorem Dev.send_xruns (d : Dev) (x : Output) : (d.send x).xruns = d.xruns := rfl
@[simp] theorem Dev.send_xbase (d : Dev) (x : Output) : (d.send x).xbase = d.xbase := rfl
@[simp] theorem Dev.send_posted (d : Dev) (x : Output) : (d.send x).posted = d.posted := rfl

/-! ### Fields of a register value -/

theorem fmask_testBit (hi lo i : Nat) (h : i < 64) :
    (fmask hi lo).getLsbD i = decide (lo ≤ i ∧ i < lo + (hi + 1 - lo)) := by
  unfold fmask
  rw [BitVec.getLsbD_ofNat]
  simp only [h, decide_true, Bool.true_and]
  rw [Nat.mul_comm, Nat.testBit_two_pow_mul]
  simp only [Nat.testBit_two_pow_sub_one]
  rw [Bool.eq_iff_iff]; simp; omega

theorem fset_getLsbD (v : W64) (hi lo n i : Nat) (h : i < 64) :
    (fset v hi lo n).getLsbD i =
      if lo ≤ i ∧ i < lo + (hi + 1 - lo) then n.testBit (i - lo) else v.getLsbD i := by
  unfold fset
  rw [BitVec.getLsbD_or, BitVec.getLsbD_and, BitVec.getLsbD_not, fmask_testBit hi lo i h, BitVec.getLsbD_ofNat]
  simp only [h, decide_true, Bool.true_and]
  rw [Nat.mul_comm, Nat.testBit_two_pow_mul, Nat.testBit_mod_two_pow]
  by_cases h1 : lo ≤ i ∧ i < lo + (hi + 1 - lo)
  · have h2 : i - lo < hi + 1 - lo := by omega
    simp only [h1, h2, decide_true, Bool.not_true, Bool.and_false, Bool.false_or, if_true, and_self, Bool.true_and]
  · by_cases h3 : lo ≤ i
    · have h2 : ¬ (i - lo < hi + 1 - lo) := by omega
      simp only [h1, h2, decide_false, if_false]; simp
    · simp [h3]

theorem fget_testBit (v : W64) (hi lo i : Nat) :
    (fget v hi lo).testBit i = (decide (i < hi + 1 - lo) && v.getLsbD (lo + i)) := by
  unfold fget bitsN
  rw [Nat.testBit_mod_two_pow, Nat.testBit_div_two_pow, Nat.add_comm i lo]; rfl

/-- A field reads as what it was set to. -/
theorem fget_fset_same (v : W64) (hi lo n : Nat) (h : hi < 64) :
    fget (fset v hi lo n) hi lo = n % 2 ^ (hi + 1 - lo) := by
  apply Nat.eq_of_testBit_eq; intro i
  rw [fget_testBit, Nat.testBit_mod_two_pow]
  by_cases hi' : i < hi + 1 - lo
  · rw [fset_getLsbD _ _ _ _ _ (by omega), if_pos ⟨by omega, by omega⟩]; simp [hi']
  · simp [hi']

/-- A field that lies wholly above or below another keeps its value. -/
theorem fget_fset_other (v : W64) (hi lo n hi' lo' : Nat) (h : hi' < 64) (hd : hi' < lo ∨ hi < lo') :
    fget (fset v hi lo n) hi' lo' = fget v hi' lo' := by
  apply Nat.eq_of_testBit_eq; intro i
  rw [fget_testBit, fget_testBit]
  by_cases hi'' : i < hi' + 1 - lo'
  · rw [fset_getLsbD _ _ _ _ _ (by omega), if_neg (by omega)]
  · simp [hi'']

@[simp] theorem fset_fset (v : W64) (hi lo n m : Nat) : fset (fset v hi lo n) hi lo m = fset v hi lo m := by
  apply BitVec.eq_of_getLsbD_eq; intro i hi'
  rw [fset_getLsbD _ _ _ _ _ hi', fset_getLsbD _ _ _ _ _ hi', fset_getLsbD _ _ _ _ _ hi']
  split <;> rfl

end Sys2Proof.Machine
end

