-- ==== Sys2Proof/Laws/Answers.lean ====
section
/-! SUPPORT. Laws of the words that claims are made in: what a list of register changes says, and what a granted write
does. -/

namespace Sys2Proof.Machine

theorem RegsRead.refl (d : Dev) : RegsRead d d [] := fun _ => rfl

/-- One more register written: the newest change counts. -/
theorem RegsRead.set {d e : Dev} {ch : Map Reg W64} (h : RegsRead d e ch) (r : Reg) (v : W64) :
    RegsRead d (e.setReg r v) ((r, v) :: ch) := by
  intro q; rw [Dev.reg_setReg]
  by_cases hq : r = q
  · simp [hq]
  · simp [hq, h q]

/-- Only the registers of the two modules matter. -/
theorem RegsRead.congr {d e e' : Dev} {ch : Map Reg W64} (h : RegsRead d e ch) (he : e'.regs = e.regs) : RegsRead d e' ch := by
  intro q; rw [← h q]; simp only [Dev.reg, he]

/-- Two lists of changes that give every register the same value say the same. -/
theorem RegsRead.same {d e : Dev} {ch ch' : Map Reg W64} (h : RegsRead d e ch)
    (hc : ∀ r, (mapGet? ch' r).getD (d.reg r) = (mapGet? ch r).getD (d.reg r)) : RegsRead d e ch' := by
  intro q; rw [h q, hc q]

/-! ### A write across the sorting offices -/

theorem Dev.each_keeps {α : Type} {Q : Dev → Prop} (l : List α) (f : Dev → α → Dev) (h : ∀ d x, Q d → Q (f d x)) :
    ∀ d : Dev, Q d → Q (d.each l f) := by
  induction l with
  | nil => exact fun d hd => hd
  | cons x xs ih => exact fun d hd => ih _ (h d x hd)

/-- The offices' forwarding of bytes changes byte counts only. -/
theorem Dev.forwarded_counts (d : Dev) (q a len : Nat) :
    (∃ m, d.forwarded q a len = { d with regs := m }) ∧ ∀ r, (∀ n, r ≠ .sortPortBytes n) → (d.forwarded q a len).reg r = d.reg r := by
  unfold Dev.forwarded
  refine Dev.each_keeps (Q := fun e => (∃ m, e = { d with regs := m }) ∧ ∀ r, (∀ n, r ≠ .sortPortBytes n) → e.reg r = d.reg r) _ _ ?_ d
    ⟨⟨d.regs, rfl⟩, fun _ _ => rfl⟩
  rintro e g ⟨⟨m, rfl⟩, hr⟩
  refine ⟨⟨_, rfl⟩, fun r hn => ?_⟩
  rw [← hr r hn, Dev.wrap, Dev.reg_setReg, if_neg fun hq => hn _ hq.symm]

theorem Dev.acrossAt_counts (d : Dev) (v : Via) (off len : Nat) :
    (∃ m, d.acrossAt v off len = { d with regs := m }) ∧ ∀ q, (∀ n, q ≠ .sortPortBytes n) → (d.acrossAt v off len).reg q = d.reg q := by
  unfold Dev.acrossAt
  split
  · exact ⟨⟨d.regs, rfl⟩, fun _ _ => rfl⟩
  · exact d.forwarded_counts _ _ _

/-- What `crossing` answers where the offices pass a write. -/
theorem crossing_pass {d : Dev} {v : Via} {off : Nat} (len : Nat) (h : OfficesPass d v off) :
    crossing d (viaPort v) (mmioPort off) (mmioBase + off) len true = (.ok (), d.acrossAt v off len) ∨
    ((v = .bar4 ∨ v = .bar0) ∧ d.acrossAt v off len = d ∧
      ∃ e, crossing d (viaPort v) (mmioPort off) (mmioBase + off) len true = (.error (.down (mmioPort off) (mmioBase + off)), e)) := by
  unfold crossing Dev.acrossAt
  replace h := h.2
  by_cases hp : viaPort v = mmioPort off
  · simp [hp]
  · by_cases h4 : 4 ≤ mmioPort off
    · have h5 := Nat.not_lt.mpr h4
      left; rw [if_neg hp, if_neg (fun c => h5 c.1), if_neg (fun c => h5 c.1), if_pos rfl, if_neg (fun c => c.elim hp fun c => h5 c.1)]
    · obtain h | h | h := h
      · exact absurd h hp
      · exact absurd h h4
      · by_cases hd : d.down (mmioPort off) = true
        · rw [if_pos hd] at h
          have h5 := Nat.not_le.mp h4
          exact .inr ⟨h, if_pos (.inr ⟨h5, hd⟩), _, by rw [if_neg hp, if_pos ⟨h5, hd⟩]⟩
        · rw [if_neg hd] at h
          left; rw [if_neg hp, if_neg (fun c => hd c.2), if_neg (fun c => by simp [h] at c), if_pos rfl, if_neg (fun c => c.elim hp fun c => hd c.2)]

theorem across_dark {d : Dev} {v : Via} {off len : Nat} (o : Nat) : blockDark (d.acrossAt v off len) o true = blockDark d o true := by
  obtain ⟨⟨m, hm⟩, hr⟩ := d.acrossAt_counts v off len
  have hs : (d.acrossAt v off len).stepFour = d.stepFour := by rw [hm]
  simp only [blockDark, hs, Dev.fld]
  rw [hr _ (by simp)]

/-- A granted write acts on the module as it is once the write has crossed the offices, and a core hears that its store is done. -/
theorem Dev.viaReg_granted {d : Dev} {v : Via} {g : Guard} {r : Reg} (h : Granted d v g r) (i : Instr) (f : Dev → Dev) :
    d.viaReg v g r i f = { f (d.across v r) with out := (f (d.across v r)).out ++ viaAck v } := by
  obtain ⟨h1, h2, h3⟩ := h
  unfold Dev.viaReg Dev.via
  rw [h1]
  have hb := h3.1
  obtain hc | ⟨rfl | rfl, ha, e, hc⟩ := crossing_pass r.info.width h3
  · rw [hc]
    cases v <;> simp [Dev.across, across_dark, h2, viaAck, Dev.send, hb]
  all_goals
    rw [hc, Dev.across, ha]
    simp [h2, viaAck, hb]

/-- A write that is not granted to the commander or the Clerk changes nothing. -/
theorem Dev.via_no {d : Dev} {v : Via} {g : Guard} {off len : Nat} (h : grant d v g (off < 0x100000) = .no) (hv : v = .bar0 ∨ v = .bar4 ∨ v = .clerk)
    (i : Instr) (f : Dev → Dev) : d.via v g off len i f = d := by
  unfold Dev.via; rw [h]
  obtain rfl | rfl | rfl := hv <;> rfl

theorem Dev.via_fault {d : Dev} {v : Via} {g : Guard} {off len hart : Nat} (h : grant d v g (off < 0x100000) = .fault hart)
    (i : Instr) (f : Dev → Dev) : d.via v g off len i f = d.send (.coreFault hart 7) := by
  unfold Dev.via; rw [h]

end Sys2Proof.Machine
end

