-- ==== Sys2Proof/Laws/Memory.lean ====
section
/-! SUPPORT. Laws of memory: a write is read back, leaves every other byte alone, and keeps the canonical form, as
do zeroing and making a range undefined. -/

namespace Sys2Proof.Machine

/-! ### Looking up cells -/

theorem cellGet?_append (xs ys : List Host.Cell) (a : Nat) :
    cellGet? (xs ++ ys) a = (cellGet? xs a).or (cellGet? ys a) := by
  induction xs with
  | nil => simp [cellGet?]
  | cons x xs ih => obtain ⟨b, v⟩ := x; by_cases h : b = a <;> simp [cellGet?, h, ih]

theorem cellGet?_filter (xs : List Host.Cell) (p : Nat → Bool) (a : Nat) :
    cellGet? (xs.filter fun c => p c.1) a = if p a then cellGet? xs a else none := by
  induction xs with
  | nil => simp [cellGet?]
  | cons x xs ih =>
    obtain ⟨b, v⟩ := x
    by_cases h : b = a
    · subst h; by_cases hp : p b <;> simp [cellGet?, hp, ih]
    · by_cases hp : p b <;> simp [cellGet?, hp, h, ih]

theorem cellGet?_newCells (hs : List Hole) (bs : List Byte) (a b : Nat) :
    cellGet? (newCells hs a bs) b =
      if a ≤ b then bs[b - a]?.bind fun v => if v = 0#8 ∧ (holeAt hs b).isNone then none else some v else none := by
  induction bs generalizing a with
  | nil => simp [newCells, cellGet?]
  | cons x xs ih =>
    simp only [newCells]
    by_cases hb : b = a
    · subst hb
      have hlt : ¬ b + 1 ≤ b := by omega
      by_cases hx : x = 0#8 ∧ (holeAt hs b).isNone
      · rw [if_pos hx, ih]; simp [hx]
      · rw [if_neg hx]; simp only [cellGet?, if_true]; simpa using hx
    · have step : cellGet? (newCells hs (a + 1) xs) b =
          if a ≤ b then (x :: xs)[b - a]?.bind fun v => if v = 0#8 ∧ (holeAt hs b).isNone then none else some v else none := by
        rw [ih]
        by_cases hab : a ≤ b
        · have h1 : a + 1 ≤ b := by omega
          have h2 : b - a = (b - (a + 1)) + 1 := by omega
          rw [if_pos h1, if_pos hab, h2, List.getElem?_cons_succ]
        · have h1 : ¬ a + 1 ≤ b := by omega
          rw [if_neg h1, if_neg hab]
      split
      · exact step
      · simp only [cellGet?]; rw [if_neg (Ne.symm hb)]; exact step

/-! ### Reading back -/

theorem Mem.unlisted_write (m : Mem) (a : Nat) (bs : List Byte) (b : Nat) : (m.write a bs).unlisted b = m.unlisted b := rfl

/-- One byte after a write: the written byte, or what was there. -/
theorem Mem.get_write (m : Mem) (a : Nat) (bs : List Byte) (b : Nat) :
    (m.write a bs).get b = if a ≤ b ∧ b < a + bs.length then bs.getD (b - a) 0#8 else m.get b := by
  unfold Mem.get
  rw [Mem.unlisted_write]
  simp only [Mem.write]
  rw [cellGet?_append, cellGet?_append, cellGet?_newCells,
    cellGet?_filter m.cells (fun c => decide (c < a)), cellGet?_filter m.cells (fun c => decide (a + bs.length ≤ c))]
  by_cases h1 : a ≤ b
  · by_cases h2 : b < a + bs.length
    · have h3 : ¬ b < a := by omega
      have h4 : ¬ a + bs.length ≤ b := by omega
      have h5 : b - a < bs.length := by omega
      simp only [h1, h2, h3, h4, List.getElem?_eq_getElem h5, decide_false, if_true, if_false, and_self,
        Option.none_or, Option.or_none, Option.bind_some, List.getD_eq_getElem?_getD, Option.getD_some, Bool.false_eq_true]
      split
      · rename_i hz
        simp [Mem.unlisted, Option.isNone_iff_eq_none.mp hz.2, hz.1]
      · rfl
    · have h3 : ¬ b < a := by omega
      have h4 : a + bs.length ≤ b := by omega
      have h5 : bs.length ≤ b - a := by omega
      simp [h1, h2, h3, h4, List.getElem?_eq_none h5]
  · have h3 : b < a := by omega
    have h4 : ¬ a + bs.length ≤ b := by omega
    simp [h1, h3, h4]

/-- What was written is read. -/
theorem Mem.read_write (m : Mem) (a : Nat) (bs : List Byte) : (m.write a bs).read a bs.length = bs := by
  apply List.ext_getElem
  · simp [Mem.read]
  · intro i h1 h2
    simp only [Mem.read, List.getElem_map, List.getElem_range, Mem.get_write]
    have : a ≤ a + i ∧ a + i < a + bs.length := by omega
    rw [if_pos this]
    simp [List.getElem?_eq_getElem h2]

/-! ### The canonical form -/

theorem rising_mono {b c : Nat} (h : b ≤ c) : ∀ {xs : List Host.Cell}, rising c xs = true → rising b xs = true
  | [], _ => rfl
  | (a, _) :: xs, hx => by
    simp only [rising, Bool.and_eq_true, decide_eq_true_eq] at hx ⊢
    exact ⟨by omega, hx.2⟩

theorem rising_filter (p : Host.Cell → Bool) : ∀ {b : Nat} {xs : List Host.Cell}, rising b xs = true → rising b (xs.filter p) = true
  | _, [], _ => rfl
  | b, (a, v) :: xs, hx => by
    simp only [rising, Bool.and_eq_true, decide_eq_true_eq] at hx
    have ih := rising_filter p hx.2
    rw [List.filter_cons]
    split
    · simp only [rising, Bool.and_eq_true, decide_eq_true_eq]; exact ⟨hx.1, ih⟩
    · exact rising_mono (by omega) ih

/-- Cells that lie below a bound go before cells that start there. -/
theorem rising_append {b c : Nat} {ys : List Host.Cell} (hbc : b ≤ c) (hy : rising c ys = true) :
    ∀ {xs : List Host.Cell}, rising b xs = true → (∀ e ∈ xs, e.1 < c) → rising b (xs ++ ys) = true
  | [], _, _ => rising_mono hbc hy
  | (a, v) :: xs, hx, hb => by
    simp only [rising, Bool.and_eq_true, decide_eq_true_eq, List.cons_append] at hx ⊢
    have ha : a < c := hb (a, v) (by simp)
    exact ⟨hx.1, rising_append (by omega) hy hx.2 fun e he => hb e (by simp [he])⟩

/-- Cells of a rising list that a filter keeps from `c` on rise from `c`. -/
theorem rising_from {b c : Nat} {xs : List Host.Cell} (h : rising b xs = true) :
    rising c (xs.filter fun e => decide (c ≤ e.1)) = true := by
  induction xs generalizing b with
  | nil => rfl
  | cons x xs ih =>
    obtain ⟨a, v⟩ := x
    simp only [rising, Bool.and_eq_true, decide_eq_true_eq] at h
    rw [List.filter_cons]
    split
    · rename_i hc
      simp only [rising, Bool.and_eq_true, decide_eq_true_eq]
      exact ⟨by simpa using hc, rising_filter _ h.2⟩
    · exact ih h.2

theorem rising_newCells (hs : List Hole) : ∀ (a : Nat) (bs : List Byte), rising a (newCells hs a bs) = true
  | _, [] => rfl
  | a, x :: xs => by
    have ih := rising_newCells hs (a + 1) xs
    simp only [newCells]
    split
    · exact rising_mono (by omega) ih
    · simp [rising, ih]

theorem newCells_mem (hs : List Hole) : ∀ (a : Nat) (bs : List Byte), ∀ e ∈ newCells hs a bs,
    (e.1 < a + bs.length) ∧ ¬ (e.2 = 0#8 ∧ (holeAt hs e.1).isNone)
  | _, [], e, he => by simp [newCells] at he
  | a, x :: xs, e, he => by
    have ih := newCells_mem hs (a + 1) xs
    simp only [newCells] at he
    split at he
    · have := ih e he; simp only [List.length_cons]; exact ⟨by omega, this.2⟩
    · rename_i hx
      rcases List.mem_cons.mp he with rfl | he
      · simp only [List.length_cons]; exact ⟨by omega, hx⟩
      · have := ih e he; simp only [List.length_cons]; exact ⟨by omega, this.2⟩

theorem Mem.wf_iff (m : Mem) :
    m.wf = true ↔ rising 0 m.cells = true ∧ ∀ e ∈ m.cells, ¬ (e.2 = 0#8 ∧ (holeAt m.holes e.1).isNone) := by
  simp only [Mem.wf, Bool.and_eq_true, List.all_eq_true]
  refine and_congr_right fun _ => forall₂_congr fun e _ => ?_
  cases h : (holeAt m.holes e.1).isNone <;> simp

/-- A write keeps the canonical form. -/
theorem Mem.wf_write {m : Mem} (h : m.wf = true) (a : Nat) (bs : List Byte) : (m.write a bs).wf = true := by
  rw [Mem.wf_iff] at h ⊢
  simp only [Mem.write]
  constructor
  · rw [List.append_assoc]
    refine rising_append (Nat.zero_le a) ?_ (rising_filter _ h.1) ?_
    · refine rising_append (Nat.le_add_right a bs.length) (rising_from h.1) (rising_newCells _ _ _) ?_
      intro e he; exact (newCells_mem _ _ _ e he).1
    · intro e he; simpa using (List.mem_filter.mp he).2
  · intro e he
    rcases List.mem_append.mp he with he | he
    · rcases List.mem_append.mp he with he | he
      · exact h.2 e (List.mem_filter.mp he).1
      · exact (newCells_mem _ _ _ e he).2
    · exact h.2 e (List.mem_filter.mp he).1

theorem holeAt_isSome (hs : List Hole) (a : Nat) : (holeAt hs a).isNone = !hs.any fun h => decide (h.lo ≤ a) && decide (a < h.hi) := by
  rw [holeAt, Option.isNone_map]
  induction hs with
  | nil => rfl
  | cons h hs ih =>
    rw [List.find?_cons, List.any_cons]
    by_cases hh : h.lo ≤ a ∧ a < h.hi
    · simp [hh]
    · simp only [hh, decide_false]; rw [ih]
      have : (decide (h.lo ≤ a) && decide (a < h.hi)) = false := by simpa using hh
      simp [this]

/-- Outside a range that is taken out, an undefined range covers what it covered. -/
theorem Hole.minus_covers (h : Hole) (lo hi a : Nat) (ha : ¬ (lo ≤ a ∧ a < hi)) :
    ((h.minus lo hi).any fun h => decide (h.lo ≤ a) && decide (a < h.hi)) = (decide (h.lo ≤ a) && decide (a < h.hi)) := by
  unfold Hole.minus
  split
  · simp
  · rename_i hn
    rw [Bool.eq_iff_iff]
    split <;> split <;> simp <;> omega

theorem holeAt_minus (hs : List Hole) (lo hi a : Nat) (ha : ¬ (lo ≤ a ∧ a < hi)) :
    (holeAt (hs.flatMap (·.minus lo hi)) a).isNone = (holeAt hs a).isNone := by
  rw [holeAt_isSome, holeAt_isSome, List.any_flatMap]
  congr 1
  induction hs with
  | nil => rfl
  | cons h hs ih => rw [List.any_cons, List.any_cons, Hole.minus_covers h lo hi a ha, ih]

theorem Hole.minus_draw (h : Hole) (lo hi : Nat) : ∀ k ∈ h.minus lo hi, k.draw = h.draw := by
  intro k hk
  unfold Hole.minus at hk
  split at hk
  · simp at hk; rw [hk]
  · simp only [List.mem_append] at hk
    rcases hk with hk | hk <;> split at hk <;> simp at hk <;> rw [hk]

theorem holeAt_append (xs ys : List Hole) (a : Nat) : holeAt (xs ++ ys) a = (holeAt xs a).or (holeAt ys a) := by
  unfold holeAt; rw [List.find?_append]; cases List.find? _ xs <;> simp

/-- Outside a range that is taken out, undefined bytes are what they were. -/
theorem holeAt_minus_eq (hs : List Hole) (lo hi a : Nat) (ha : ¬ (lo ≤ a ∧ a < hi)) :
    holeAt (hs.flatMap (·.minus lo hi)) a = holeAt hs a := by
  induction hs with
  | nil => rfl
  | cons h hs ih =>
    rw [List.flatMap_cons, holeAt_append, ih, show h :: hs = [h] ++ hs from rfl, holeAt_append]
    congr 1
    have hc := Hole.minus_covers h lo hi a ha
    have hd := Hole.minus_draw h lo hi
    cases hx : List.find? (fun h => decide (h.lo ≤ a ∧ a < h.hi)) (h.minus lo hi) with
    | none =>
      have h0 : (h.minus lo hi).any (fun h => decide (h.lo ≤ a) && decide (a < h.hi)) = false := by
        rw [List.find?_eq_none] at hx
        rw [Bool.eq_false_iff, ne_eq, List.any_eq_true]
        rintro ⟨x, hm, hp⟩
        exact hx x hm (by simpa using hp)
      rw [hc] at h0
      have : ¬ (h.lo ≤ a ∧ a < h.hi) := by simpa using h0
      unfold holeAt
      rw [hx, List.find?_cons]
      simp [this]
    | some x =>
      have hm := List.mem_of_find?_eq_some hx
      have hp := List.find?_some hx
      have h1 : (h.minus lo hi).any (fun h => decide (h.lo ≤ a) && decide (a < h.hi)) = true :=
        List.any_eq_true.mpr ⟨x, hm, by simpa using hp⟩
      rw [hc] at h1
      have : h.lo ≤ a ∧ a < h.hi := by simpa using h1
      unfold holeAt
      rw [hx, List.find?_cons]
      simp [this, hd x hm]

theorem Mem.get_outside {m n : Mem} {a : Nat} (h1 : cellGet? n.cells a = cellGet? m.cells a)
    (h2 : holeAt n.holes a = holeAt m.holes a) : n.get a = m.get a := by
  simp only [Mem.get, Mem.unlisted, h1, h2]

theorem cellGet?_outside (xs : List Host.Cell) (lo hi a : Nat) :
    cellGet? (xs.filter fun c => ¬ (lo ≤ c.1 ∧ c.1 < hi)) a = if lo ≤ a ∧ a < hi then none else cellGet? xs a := by
  rw [cellGet?_filter xs (fun c => decide ¬ (lo ≤ c ∧ c < hi))]
  by_cases h : lo ≤ a ∧ a < hi <;> simp [h]

/-- Making a range undefined leaves every other byte, and gives its own bytes the free values of the draw. -/
theorem Mem.get_undefine (m : Mem) (lo hi k a : Nat) :
    (m.undefine lo hi k).get a = if lo ≤ a ∧ a < hi then Config.freeByte k a else m.get a := by
  by_cases h : lo ≤ a ∧ a < hi
  · rw [if_pos h]
    simp only [Mem.get, Mem.undefine, cellGet?_outside, if_pos h, Mem.unlisted, Option.getD_none]
    simp [holeAt, h]
  · rw [if_neg h]
    apply Mem.get_outside
    · simp only [Mem.undefine, cellGet?_outside, if_neg h]
    · simp only [Mem.undefine]
      rw [show (⟨lo, hi, k⟩ :: m.holes.flatMap (·.minus lo hi)) = [⟨lo, hi, k⟩] ++ m.holes.flatMap (·.minus lo hi) from rfl,
        holeAt_append, holeAt_minus_eq _ _ _ _ h]
      simp [holeAt, h]

/-- Zeroing a range leaves every other byte. -/
theorem Mem.get_zero_outside (m : Mem) (lo hi a : Nat) (h : ¬ (lo ≤ a ∧ a < hi)) : (m.zero lo hi).get a = m.get a := by
  apply Mem.get_outside
  · simp only [Mem.zero, cellGet?_outside, if_neg h]
  · simp only [Mem.zero, holeAt_minus_eq _ _ _ _ h]

/-- Zeroing a range keeps the canonical form. -/
theorem Mem.wf_zero {m : Mem} (h : m.wf = true) (lo hi : Nat) : (m.zero lo hi).wf = true := by
  rw [Mem.wf_iff] at h ⊢
  refine ⟨rising_filter _ h.1, fun e he => ?_⟩
  obtain ⟨he, hp⟩ := List.mem_filter.mp he
  have ha : ¬ (lo ≤ e.1 ∧ e.1 < hi) := by simp at hp; omega
  simp only [Mem.zero]
  rw [holeAt_minus _ _ _ _ ha]
  exact h.2 e he

/-- Making a range undefined keeps the canonical form. -/
theorem Mem.wf_undefine {m : Mem} (h : m.wf = true) (lo hi k : Nat) : (m.undefine lo hi k).wf = true := by
  rw [Mem.wf_iff] at h ⊢
  refine ⟨rising_filter _ h.1, fun e he => ?_⟩
  obtain ⟨he, hp⟩ := List.mem_filter.mp he
  have ha : ¬ (lo ≤ e.1 ∧ e.1 < hi) := by simp at hp; omega
  simp only [Mem.undefine]
  intro hn
  refine h.2 e he ⟨hn.1, ?_⟩
  rw [← holeAt_minus _ lo hi _ ha, holeAt_isSome]
  have := hn.2
  rw [holeAt_isSome, List.any_cons] at this
  simp only [Bool.not_eq_true', Bool.or_eq_false_iff] at this
  simp [this.2]

/-- Reset memory has the canonical form, and marking bursts bad keeps it. -/
theorem Mem.wf_reset : State.reset.dev.mem.wf = true := rfl
theorem Mem.wf_bad (m : Mem) (b : List Nat) : ({ m with bad := b } : Mem).wf = m.wf := rfl

end Sys2Proof.Machine
end

