-- ==== Sys2Proof/Laws/Objects.lean ====
section
/-! SUPPORT. Laws of the accesses by identifier: what a load and a store of an object in its partition's slab do, and when the
fabric carries them. -/

namespace Sys2Proof.Machine

/-! ### Running an action -/

@[simp] theorem Act.run_pure {α : Type} (a : α) (d : Dev) : Act.run (pure a) d = (.ok a, d) := rfl
@[simp] theorem run_devGet (d : Dev) : devGet.run d = (.ok d, d) := rfl
@[simp] theorem run_devMod (f : Dev → Dev) (d : Dev) : (devMod f).run d = (.ok (), f d) := rfl
@[simp] theorem run_stop {α : Type} (e : Stop) (d : Dev) : Act.run (stop e : Act α) d = (.error e, d) := rfl

/-- One action after another: the second runs on what the first leaves, unless the first stops. -/
theorem Act.run_bind {α β : Type} (a : Act α) (f : α → Act β) (d : Dev) :
    Act.run (a >>= f) d = match a.run d with
      | (.ok v, e) => (f v).run e
      | (.error s, e) => (.error s, e) := by
  show ExceptT.bindCont f (a d).1 (a d).2 = _
  unfold Act.run StateT.run ExceptT.run
  rcases h : a d with ⟨r | v, e⟩ <;> rfl

theorem Act.run_ok {α β : Type} {a : Act α} {f : α → Act β} {d e : Dev} {v : α} (h : a.run d = (.ok v, e)) :
    Act.run (a >>= f) d = (f v).run e := by rw [Act.run_bind, h]

/-! ### Slab addresses -/

theorem place_slab {a p : Nat} : place a = .slab p ↔ p < 4 ∧ slabBase p ≤ a ∧ a < slabBase (p + 1) := by
  unfold place slabBase
  constructor
  · intro h
    split at h
    · rename_i h1; injection h with h2; subst h2; omega
    · split at h
      · cases h
      · split at h <;> cases h
  · rintro ⟨h4, h1, h2⟩
    rw [if_pos (by omega)]; congr; omega

theorem homeOf_slab {a p : Nat} (h : place a = .slab p) : homeOf a = p := by unfold homeOf; rw [h]

/-- An address within a lent object lies in the slab. -/
theorem Lent.place {d : Dev} {p n id : Nat} {o : Obj} (h : Lent d p n id o) {off : Nat} (ho : off ≤ o.footprint) :
    place (o.base + off) = .slab p := by
  obtain ⟨_, _, _, _, _, hp, hb, _⟩ := h
  rw [place_slab] at hp ⊢
  omega

/-- A calm slab holds back no access (R143-R145, R161). -/
theorem Calm.home {d : Dev} {p a : Nat} (h : Calm d p) (ha : Machine.place a = .slab p) (len : Nat) (w : Bool) : homeCheck d p a len w = none := by
  obtain ⟨h1, h2, h3, h4, h5, _⟩ := h
  have hl : d.lostAt p a len = false := by
    unfold Dev.lostAt
    rw [List.any_eq_false]; intro g _
    simp [Dev.bit, Dev.fld, h3, fget, bitsN]
  simp [homeCheck, ha, hl, Dev.retraining, h4, h1, h2, Mem.isBad, h5]

theorem Dev.each_same {α : Type} {f : Dev → α → Dev} {d : Dev} (l : List α) (h : ∀ x ∈ l, f d x = d) : d.each l f = d := by
  induction l with
  | nil => rfl
  | cons x xs ih =>
    show Dev.each (f d x) xs f = d
    rw [h x (by simp)]; exact ih fun y hy => h y (by simp [hy])

/-- With no line cached, a load at the home reads memory and changes nothing. -/
theorem homeLoad_uncached {d : Dev} (h : d.lines = []) (a len : Nat) : homeLoad d a len = (d.mem.read a len, d) := by
  unfold homeLoad
  have : d.each (linesOf a len) snoopRead = d := Dev.each_same _ fun l _ => by unfold snoopRead; rw [h]; rfl
  simp [this]

/-- With no line cached, a store at the home writes memory, and reservations of its lines go. -/
theorem homeStore_uncached {d : Dev} (h : d.lines = []) (a : Nat) (bs : List Byte) :
    ∃ rs, homeStore d a bs = { d with mem := d.mem.write a bs, reservations := rs } := by
  unfold homeStore
  have key : ∀ ls : List Nat, ∃ rs, d.each ls (fun d l => snoopWrite d l (decide (a ≤ l) && decide (l + 64 ≤ a + bs.length))) = { d with reservations := rs } := by
    intro ls
    refine Dev.each_keeps (Q := fun e => ∃ rs, e = { d with reservations := rs }) ls _ ?_ d ⟨d.reservations, rfl⟩
    rintro _ l ⟨rs, rfl⟩
    unfold snoopWrite
    split <;> exact ⟨rs.filter (·.2 ≠ l), by simp [h, Dev.each]⟩
  obtain ⟨rs, hr⟩ := key (linesOf a bs.length)
  split
  · refine ⟨rs, ?_⟩
    simp only [Bool.decide_and] at hr ⊢
    rw [hr]
  · exact ⟨d.reservations, rfl⟩

/-! ### Lent objects -/

/-- An access to its own partition's slab that exists and is routed reaches it. -/
theorem reach_home {d : Dev} {p n a len : Nat} {store : Bool} (hp : Machine.place a = .slab p) (he : exists_ d a len store = true)
    (hr : routed d (some (p, n)) a len = true) : reach d (some (p, n)) a len store = (.ok (), d) := by
  simp [reach, crossing, portOf, homeOf_slab hp, he, hr]

/-- A lent object is read at once, and to read it changes nothing (R138, R152). -/
theorem Lent.load {d : Dev} {p n id : Nat} {o : Obj} {w : Who} (h : Lent d p n id o) (hw : w.src = some (p, n)) {off len : Nat}
    (hl : off + len ≤ o.footprint) : (objLoad w id off len).run d = (.ok (d.mem.read (o.base + off) len), d) := by
  have hp := h.place (off := off) (by omega)
  have he : exists_ d (o.base + off) len false = true := by
    have := h.2.2.2.2.2.2.1
    simp [exists_, hp]; omega
  obtain ⟨ho, _, ht, hs, _, _, _, hc, hr⟩ := h
  have hb : o.loadBase = o.base := by simp [Obj.loadBase, hs]
  rw [objLoad, Act.run_ok (v := o) (e := d) (by simp [getObj, Act.run_bind, ho]), if_neg (by omega), hb, hw]
  show localLoad (some (p, n)) (o.base + off) len d = _
  unfold localLoad
  rw [reach_home hp he (hr _ _ hp)]
  simp [homeOf_slab hp, hc.home hp, heldLine, hc.2.2.2.2.2, homeLoad_uncached hc.2.2.2.2.2]
  rfl

/-- A store to a lent object writes its bytes, and nothing else but the reservations of its lines changes. -/
theorem Lent.store {d : Dev} {p n id : Nat} {o : Obj} {w : Who} (h : Lent d p n id o) (hw : w.src = some (p, n)) {off : Nat} {bs : List Byte}
    (hl : off + bs.length ≤ o.footprint) :
    ∃ rs, (objStore w id off bs).run d = (.ok (), { d with mem := d.mem.write (o.base + off) bs, reservations := rs }) := by
  have hp := h.place (off := off) (by omega)
  have he : exists_ d (o.base + off) bs.length true = true := by
    have := h.2.2.2.2.2.2.1
    simp [exists_, hp]; omega
  obtain ⟨ho, _, ht, hs, _, _, _, hc, hr⟩ := h
  have hb : o.loadBase = o.base := by simp [Obj.loadBase, hs]
  obtain ⟨rs, hst⟩ := homeStore_uncached hc.2.2.2.2.2 (o.base + off) bs
  have hls : (localStore (some (p, n)) (o.base + off) bs).run d = (.ok (), { d with mem := d.mem.write (o.base + off) bs, reservations := rs }) := by
    show localStore (some (p, n)) (o.base + off) bs d = _
    unfold localStore
    rw [reach_home hp he (hr _ _ hp)]
    simp [homeOf_slab hp, hc.home hp, heldLine, hc.2.2.2.2.2, hst]
    rfl
  refine ⟨rs, ?_⟩
  rw [objStore, Act.run_ok (v := o) (e := d) (by simp [getObj, Act.run_bind, ho]), if_neg (by omega), Act.run_ok (run_devGet d),
    if_neg (by simp [hs]), hb, hw, Act.run_ok hls, if_neg (by simp [hs])]
  rfl

end Sys2Proof.Machine
end

