-- ==== Sys2Proof/Tests/Slice0.lean ====
section
/-! SUPPORT. Small tests: ill-formed commands are refused by the well-formedness check; for the statements that have
hypotheses, concrete states that meet them (`wit_…`), most with what the command then does. Expected values are taken
from the spec's rules by hand. -/

namespace Sys2Proof.Tests
set_option Elab.async false
open Sys2Proof Sys2Proof.Machine

/-- The command answers a next state that passes the check. -/
def goes (c : Instr) (s : State) (P : State → Bool) : Bool :=
  match exec c s with
  | .next t => P t
  | _ => false

/-- A device with some registers given. -/
def regs (rs : List (Reg × Nat)) (d : Dev) : Dev := { d with regs := rs.map (fun e => (e.1, BitVec.ofNat 64 e.2)) ++ d.regs }

/-- The state of a device, with reset fuses and an empty queue. -/
def st (d : Dev) : State := { State.reset with dev := d }

/-- A module with its rails up, every partition released, trained, installed and enabled, the commander's BARs on, context 3 OPEN
and mailbox 5 privileged. -/
def up : Dev :=
  regs [(.gateBoot, 0xF03), (.memStatus 0, 1), (.memStatus 1, 1), (.memStatus 2, 1), (.memStatus 3, 1), (.sortStatus 0, 0),
    (.sortStatus 1, 0), (.structPartState, 0x1111), (.fltStatus 0, 8), (.fltStatus 1, 8), (.fltStatus 2, 8), (.fltStatus 3, 8), (.mbxCfg 5, 0x20)]
    { Dev.reset with
      stepFour := true, ctxs := [(3, ⟨0, 1, 0#64, 0, []⟩)], pcie := { Pcie.reset with memSpace := true, busMaster := true, retry := false },
      power := { Power.reset with standby := true, pwrEn := true, rails := true, clerk := true, gateLoaded := true, authDone := true, millivolts := 48000 } }

/-- A routing table that goes along the row first, over the 32 nodes of the grid. -/
def fab : Rec := (List.range 34).flatMap fun s => (List.range 34).map fun t => BitVec.ofNat 8 (
  if 32 ≤ s ∨ 32 ≤ t then 0xFF else if s = t then 0xFE else if s % 8 < t % 8 then s + 1 else if t % 8 < s % 8 then s - 1 else if s / 8 < t / 8 then s + 8 else s - 8)

/-- A core of partition 0 in machine mode, and one in user mode. -/
def coreM : Via := .core 9 .m
def coreU : Via := .core 9 .u

/-- A letter that the reader has taken from commander mailbox 5, of context 3. -/
def l5 : LetterId := ⟨5, 77⟩
def letter (op : Nat) (body : List Byte) : Letter :=
  { id := l5, opcode := op, flags := 0, ctx := 3, gen := 0, route := 0, postmark := 0, rcpt := 0x4000, encLen := 0, body := body,
    started := false, result := none, sat := 0, nonfin := 0, dead := 0, skipped := false, readThrough := false, stages := [],
    pcieLast := none, pcieStage := 0xFF, regions := [], zeroReads := 0, podAcks := 0, bracket := 0, flushErr := none, usesHost := false, usesPod := false }
def withLetter (d : Dev) (x : Letter) : State := st { d with letters := [x] }
/-- What became of letter 5.77: its status and DETAIL, or nothing yet. -/
def result (s : State) : Option (Option (Nat × Nat)) := (findLetter s.dev l5).map (·.result)

/-- `Due` as a check. -/
def dueB (d : Dev) (l : LetterId) (op : Nat) (x : Letter) : Bool :=
  decide (findLetter d l = some x ∧ x.opcode = op ∧ mayStart d x = true ∧ letterCheck d l.mbx op x.ctx x.gen x.route x.body = none ∧ (∀ r ∈ d.runs, r.letter ≠ x.id) ∧ (∀ e ∈ d.chans, e.1.1 ≠ x.id) ∧ (∀ e ∈ d.tileOrder, e.1 ≠ x.id) ∧
    (∀ e ∈ d.delivs, e.letter ≠ x.id) ∧ (∀ e ∈ d.waits, e.1 ≠ x.id) ∧ (∀ e ∈ d.updates, e.letter ≠ x.id) ∧ (∀ e ∈ d.bags, e.letter ≠ x.id) ∧
    (∀ e ∈ d.exchs, e.letter ≠ x.id) ∧ x.pcieLast = none ∧ x.regions = [] ∧ x.flushErr = none)
theorem due {d : Dev} {l : LetterId} {op : Nat} {x : Letter} (h : dueB d l op x = true) : Due d l op x := by
  unfold Due Unworked; exact of_decide_eq_true h

/-- A module whose register file lists no EMB_JOURNAL has no journal in use. -/
theorem no_journals {d : Dev} (c : Nat) (h : (d.regs.all fun e => match e.1 with | .embJournal .. => false | _ => true) = true) : ∀ p t, journalActive d p t c = false := by
  intro p t
  have key : ∀ l : Map Reg W64, (l.all fun e => match e.1 with | .embJournal .. => false | _ => true) = true → mapGet? l (Reg.embJournal p t c) = none := by
    intro l
    induction l with
    | nil => intro _; rfl
    | cons e l ih =>
      intro h
      rw [List.all_cons, Bool.and_eq_true] at h
      have : e.1 ≠ Reg.embJournal p t c := fun he => by simp [he] at h
      simp only [mapGet?, this, if_false]; exact ih h.2
  simp only [journalActive, Dev.bit, Dev.fld, Dev.reg, mapGet, key d.regs h]
  show decide (fget (BitVec.ofNat 64 0) 24 24 = 1) = false
  decide

/-! ### Well-formedness: each check refuses a term outside its range -/

/-- All of a list of commands are refused. -/
def refused (cs : List Instr) : Bool := cs.all fun c => !c.wf

theorem test_wf_accepts : ([.note l5, .stackTempChange 3 7 80, .engineReset .bar4 0 16 1, .directoryRequest 3 64 (.read 53),
    .registerWrite coreM 0x1000 8 0#64, .coreAccess 191 .u 8 (.lr 4), .doorbell (.bar0 255 4095) 8 0#64] : List Instr).all (·.wf) = true := by decide
theorem test_wf_part : refused [.partitionReset .bar4 4 .register, .engineResetDone 4, .hallRtClear .bar4 4, .idlePartitionWake 4] = true := by decide
theorem test_wf_port : refused [.portDown 16, .keepaliveReceive ⟨16, 0⟩, .crrPortEnableWrite .bar4 16 true, .portUpReceive 0 16] = true := by decide
theorem test_wf_mailbox : refused [.mbxEnable .bar4 256, .letterFetch 256 [] none, .note ⟨256, 0⟩, .fnTransitionDone (.mailbox 256)] = true := by decide
theorem test_wf_ctx : refused [.contextReset .bar4 64, .teardownBound 64, .commitActionsDone 64] = true := by decide
theorem test_wf_12 : refused [.ackReceive 0 4096, .nakReceive 0 4096, .normPartialReceive 0 4096 0 0 0#64] = true := by decide
theorem test_wf_hart : refused [.coreAccess 192 .m 0 .fenceI, .imsicSetipnum .bar4 192 .machine 1#32, .mbxArm (.core 192 .m) 0] = true := by decide
theorem test_wf_core : refused [.partCoreRun .bar4 0 48, .partCoreHold .bar4 0 48] = true := by decide
theorem test_wf_agent : refused [.snoopTimeout 0 54, .directoryRequest 0 0 (.own 54), .snoopHoldExpire 0 54 0] = true := by decide
theorem test_wf_line : refused [.directoryRequest 0 32 .uncachedRead, .directoryRequest 0 (2 ^ 46) .uncachedRead] = true := by decide
theorem test_wf_die : refused [.epochMarkerArrive 100] = true := by decide
theorem test_wf_edge : refused [.generationMarkerArrive 0 115] = true := by decide
theorem test_wf_module : refused [.admitReceive 256, .memberLostReceive 0 256, .getMeasurements .doe [] 256 false] = true := by decide
theorem test_wf_stack : refused [.stackTempChange 0 8 0, .channelLost 0 8] = true := by decide
theorem test_wf_channel : refused [.pcRetrainStart 0 0 32 0] = true := by decide
theorem test_wf_pseudo : refused [.pcRetrainStart 0 0 0 2] = true := by decide
theorem test_wf_mtile : refused [.arrayBlock 0 12 0, .frkClearCounts .bar4 0 12] = true := by decide
theorem test_wf_array : refused [.arrayBlock 0 0 4, .arrayResume 0 0 4] = true := by decide
theorem test_wf_atile : refused [.vectorEccError 0 15 true, .attClearCounts .bar4 0 18] = true := by decide
theorem test_wf_etile : refused [.cacheInval .bar4 0 11, .embeddingEccError 0 16 false] = true := by decide
theorem test_wf_node : refused [.engineReset .bar4 0 32 0] = true := by decide
theorem test_wf_slot : refused [.engineReset .bar4 0 0 8, .creditReceive ⟨0, 0⟩ 8 0] = true := by decide
theorem test_wf_letter : refused [.note ⟨0, 2 ^ 32⟩, .runRoute ⟨0, 2 ^ 32⟩] = true := by decide
theorem test_wf_stage : refused [.split l5 64, .arrayStageStart l5 64] = true := by decide
theorem test_wf_obj : refused [.promoteCopyDone (2 ^ 24)] = true := by decide
theorem test_wf_16 : refused [.stackTempChange 0 0 65536, .pldmSensorRead 65536] = true := by decide
theorem test_wf_32 : refused [.hostReadTimeout (2 ^ 32), .deliveryIssue l5 0 0 (2 ^ 32)] = true := by decide
theorem test_wf_64 : refused [.updateDoneReceive 0 0 (2 ^ 64) false 0#64, .joinReceive 0 (2 ^ 64) []] = true := by decide
theorem test_wf_office : refused [.sortingOfficeRequest 2 ⟨none, 0, none, 8⟩] = true := by decide
theorem test_wf_mask : refused [.structGo .bar4 16] = true := by decide
theorem test_wf_size : refused [.registerWrite .bar4 0 2 0#64, .doorbell (.bar0 0 0) 16 0#64] = true := by decide
theorem test_wf_via : refused [.mbxArm (.engine 64 0 0 0 none 0) 0, .mbxArm (.engine 0 5 0 0 none 0) 0, .mbxArm (.engine 0 0 32 0 none 0) 0] = true := by decide
theorem test_wf_fn : refused [.fnTransitionDone (.engine 4 0 0), .fnTransitionDone (.partition 4), .fnTransitionDone (.port 16)] = true := by decide
theorem test_wf_bell : refused [.doorbell (.bar0 256 0) 8 0#64, .doorbell (.bar0 0 4096) 8 0#64, .doorbell (.mmio .bar4 256) 8 0#64] = true := by decide
theorem test_wf_msix : refused [.msixUnmask (.vector 2048)] = true := by decide
theorem test_wf_office_request : refused [.sortingOfficeRequest 0 ⟨none, 2 ^ 46, none, 8⟩, .sortingOfficeRequest 0 ⟨some (64, 0), 0, none, 8⟩,
    .sortingOfficeRequest 0 ⟨none, 0, some [], 8⟩] = true := by decide
theorem test_wf_memory_request : refused [.memoryRequest ⟨2 ^ 46, none, 8, .clean⟩, .memoryRequest ⟨0, some [], 8, .clean⟩] = true := by decide
theorem test_wf_core_op : refused [.coreAccess 0 .m 0 (.load 3), .coreAccess 0 .m 0 (.amoAdd 2 0), .coreAccess 0 .m 0 (.lr 1), .coreAccess 0 .m 0 (.sc [0#8])] = true := by decide
theorem test_wf_dir_request : refused [.directoryRequest 0 0 (.writeBack 0 []), .directoryRequest 0 0 (.uncachedPartial 60 [0#8, 0#8, 0#8, 0#8, 0#8])] = true := by decide
theorem test_wf_slots : refused [.letterFetch 0 [[]] none] = true := by decide
theorem test_wf_ring : refused [.incidentRingEnable .bar4 (some 4) 0#32] = true := by decide
theorem test_wf_straps : refused [.input48vGood 32] = true := by decide
theorem test_wf_i3c : refused [.dynamicAddressAssignment 128] = true := by decide
theorem test_wf_cert : refused [.challenge .doe [] 16, .getCertificate .doe [] 16 0 0] = true := by decide
theorem test_wf_readings : refused [.powerSample 0 0 [1, 2, 3], .powerSample 0 0 [1, 2, 3, 65536]] = true := by decide
theorem test_wf_lengths : refused [.stackTrainingDone 0 [256], .bar2Read (2 ^ 42) (.read 8), .bar2Read 0 (.read 4097), .phaseOneStart 0 8, .exchangeFrameReceive [],
    .phaseOneSummaryReceive 0 0 0 0 [], .groupFrameReceive 0 0 0 0 [], .groupNakReceive 0 0 0 0 0 3, .refuseReceive 0 0 0 4, .cascadeOpenReceive 0 (2 ^ 256),
    .thermalTrip 132 0, .anchorAdd .bar4 [], .anchorRevoke .bar4 []] = true := by decide

/-! ### Fuses, reset, frames (`FusesSafeStep`, `FusesOnlyBySecurity`, `FrameCodec`, `QueueKept`) -/

theorem wit_FusesSafeStep : State.reset.sec.safe ∧ goes .clerkHeartbeat State.reset (fun _ => true) = true :=
  ⟨⟨fun n a h => by simp [State.reset, Sec.reset, mapGet?] at h, fun n h => by simp [State.reset, Sec.reset] at h⟩, by decide +kernel⟩

theorem wit_FusesOnlyBySecurity : State.reset.dev.secWait = none ∧ State.reset.dev.held = [] ∧ State.reset.dev.posted = [] ∧ goes .clerkStop State.reset (fun t => decide (t.sec = State.reset.sec)) = true := by decide +kernel

theorem wit_QueueKept : goes .clerkStop { State.reset with pending := [.clerkHeartbeat] } (fun t => t.pending = [.clerkHeartbeat]) = true := by decide +kernel

/-- A postcard frame (R343): 0x2 in KIND, header fields and one body byte; its own bytes parse. -/
def frame0 : Frame := ⟨2, 3, 1, 5, 255, 0, 7, [1#8, 2#8]⟩
theorem wit_FrameCodec : (frame0.vc < 4 ∧ frame0.dl < 2 ∧ frame0.src < 256 ∧ frame0.dst < 256 ∧ frame0.hdr < 2 ^ 64 ∧
    frame0.kind = 2 ∧ frame0.body.length ≤ 256) ∧ Frame.parse (frame0.bytes 4095 0) = some ({ frame0 with key := 0 }, 4095, 0) := by decide +kernel
theorem wit_FrameCodec_data : ∀ k ∈ [(1, 16), (3, 4608), (4, 5312)], (List.replicate k.2 0#8).length = k.2 := by decide +kernel

theorem test_decode_none : decodeTableWord 16 0 = none ∧ (State.reset.withFetchWord 16 0) = State.reset := by decide

/-! ### Power, boot and chip reset (`RailsUpAndDown`, `FirmwareBoots`, `GateComesUp`, `ChipResets`) -/

def cold : State := st { Dev.reset with power := { Power.reset with standby := true, pwrEn := true } }

theorem wit_standby_power_up : goes .standbyIslandPowerUp State.reset (fun t => t.dev.power.standby) = true := by decide +kernel
theorem wit_pwr_en : State.reset.dev.power.pwrEn = false ∧ goes (.pwrEnAssert 50) State.reset (fun t => t.dev.power.pwrEn && !t.dev.power.off) = true := by decide +kernel
theorem wit_input_48v : (cold.dev.power.standby = true ∧ cold.dev.power.pwrEn = true ∧ cold.dev.power.rails = false ∧ cold.dev.power.off = false) := by decide
theorem wit_rails : (st up).dev.power.rails = true ∧ goes .undervoltageRemoval (st up) (fun t => !t.dev.power.rails && t.dev.power.off) = true ∧
    goes .overvoltageRemoval (st up) (fun t => !t.dev.trained 0) = true := by decide +kernel
theorem wit_rails_more : goes .inputOverloadRemoval (st up) (fun t => !t.dev.gateReady && t.dev.power.standby) = true ∧
    goes .pwrEnDeassert (st up) (fun t => !t.dev.power.pwrEn && !t.dev.power.off && !t.dev.power.rails) = true ∧
    goes .standbyIslandLoss (st up) (fun t => !t.dev.power.standby) = true := by decide +kernel
/-- R425: a die trips at 115 °C, a stack at 110 °C; below that nothing happens. -/
theorem wit_thermal_trip : (131 < 132 ∧ (if 131 < 100 then 115 else 110) ≤ 110) ∧ goes (.thermalTrip 131 110) (st up) (fun t => t.dev.regN .thermTrip = 131 + 256 + 110 * 65536 && !t.dev.power.rails) = true ∧
    goes (.thermalTrip 5 114) (st up) (fun t => t.dev.power.rails) = true := by decide +kernel

/-- Flash with an image too short to be one: step 2 of R440 fails with LENGTH. -/
def shortFlash : State := { cold with sec := { Sec.reset with flash := some [0#8] }, dev := { cold.dev with power := { cold.dev.power with rails := true } } }
theorem wit_FirmwareBoots : (shortFlash.dev.power.rails = true ∧ shortFlash.dev.power.clerk = false ∧ shortFlash.dev.stepFour = false ∧ shortFlash.dev.recovery = false ∧
    shortFlash.sec.flash = some [0#8] ∧ shortFlash.dev.bit .thermTrip 8 = false ∧ shortFlash.dev.incSeen = false ∧ firmwareCause shortFlash.sec [0#8] = some 2) := by decide +kernel

def preGate : State := { shortFlash with dev := { shortFlash.dev with power := { shortFlash.dev.power with clerk := true } } }
def preAuth : State := { preGate with dev := { preGate.dev with power := { preGate.dev.power with gateLoaded := true } } }
def preReady : State := { preAuth with dev := { preAuth.dev with power := { preAuth.dev.power with authDone := true } } }
theorem wit_gate_section : (preGate.dev.power.rails = true ∧ preGate.dev.power.gateLoaded = false ∧ preGate.dev.power.clerk = true ∧ preGate.sec.flash = some [0#8]) := by decide
theorem wit_die_authentication : (preAuth.dev.power.gateLoaded = true ∧ preAuth.dev.power.authDone = false ∧ preAuth.dev.power.clerk = true ∧ preAuth.dev.incSeen = false) ∧
    24 * 0 ≤ 5 ∧ 5 ∉ ([0, 1] : List Nat) := by decide
theorem wit_gate_ready : (preReady.dev.power.authDone = true ∧ preReady.dev.pcie.perst = false ∧ preReady.dev.fld .gateBoot 2 0 < 2 ∧ preReady.dev.fns = [] ∧ preReady.dev.recovery = false) ∧
    goes .gateReady preReady (fun t => t.dev.gateReady && !t.dev.pcie.retry && t.dev.bit (.crrPortCtrl 15) 0) = true := by decide +kernel

theorem wit_chip_reset_value : grant up .bar4 .high true = .yes ∧ goes (.chipReset .bar4 1#32) (st up) (fun t => t = st up) = true := by decide +kernel
theorem wit_gate_is_ready : (st up).dev.gateReady = true ∧ State.reset.dev.gateReady = false ∧
    goes .perstAssert State.reset (fun t => t.dev.pcie.perst) = true ∧ goes .perstDeassert (st up) (fun t => !t.dev.pcie.perst) = true := by decide +kernel

/-! ### Published functions that the model uses (log entry 3) -/

/-- SHAKE256 of the empty string begins 46 B9 DD 2B (FIPS 202). -/
theorem test_shake256 : (shake256 []).take 4 = [0x46#8, 0xB9#8, 0xDD#8, 0x2B#8] := by decide +kernel
/-- CRC-32C of the digits 1 to 9 is E3069283. -/
theorem test_crc32c : crc32c [0x31#8, 0x32#8, 0x33#8, 0x34#8, 0x35#8, 0x36#8, 0x37#8, 0x38#8, 0x39#8] = 0xE3069283#32 := by decide +kernel

/-! ### PCIe, registers, the apertures -/

/-- Before gate ready; and after it. -/
def preCfg : Dev := { up with pcie := { up.pcie with retry := true } }
theorem wit_config_retry : (preCfg.power.rails = true ∧ preCfg.pcie.perst = false ∧ preCfg.pcie.retry = true) ∧
    goes (.pcieConfigRequest (.command true true)) (st preCfg) (fun t => t = st { preCfg with out := [.cfgRetry] }) = true := by decide +kernel
theorem wit_config : (up.power.rails = true ∧ up.pcie.perst = false ∧ up.pcie.retry = false) ∧ cfgWord up 0 = 0x40961FA7#32 ∧
    128 ∈ [128, 256, 512] ∧ 4096 ∈ [128, 256, 512, 1024, 2048, 4096] ∧
    goes (.pcieConfigRequest (.sizes 512 4096)) (st up) (fun t => t.dev.pcie.mps = 512 && t.dev.pcie.mrrs = 4096) = true := by decide +kernel
theorem wit_bar2 : 30 ≤ 42 ∧ 42 ≤ 42 ∧ goes (.pcieConfigRequest (.bar2Size 42)) (st up) (fun t => t.dev.pcie.bar2Log2 = 42) = true := by decide +kernel

/-- Vector 2,047 pending under a mask (R118). -/
def msixD : Dev := regs [(.msixPba 31, 2 ^ 63), (.msixEntry 8188, 0x1000), (.msixEntry 8190, 7), (.msixEntry 8191, 1)] { up with pcie := { up.pcie with msixEnable := true } }
theorem wit_msix : (2047 < 2048 ∧ msixD.pcie.msixEnable = true ∧ msixD.pcie.funcMask = false ∧ msixD.bit (.msixPba (2047 / 64)) (2047 % 64) = true) ∧
    goes (.msixUnmask (.vector 2047)) (st msixD) (fun t => t.dev.out = [.msix 2047 0x1000 7#32] && !t.dev.bit (.msixPba 31) 63 && !t.dev.bit (.msixEntry 8191) 0) = true := by decide +kernel
theorem wit_msix_not_pending : msixD.bit (.msixPba (0 / 64)) (0 % 64) = false ∧ goes (.msixUnmask (.vector 0)) (st msixD) (fun t => t.dev.out.isEmpty) = true := by decide +kernel
theorem wit_msix_function : goes (.msixUnmask .function) (st up) (fun t => !t.dev.pcie.funcMask) = true ∧ goes (.msixUnmask .enable) (st up) (fun t => t.dev.pcie.msixEnable) = true := by decide +kernel

/-- A write of a plain register: MBX_BASE of mailbox 0 by a core in machine mode. -/
theorem wit_RegisterWriteByType : ∃ off r b, barTarget up coreM off = some off ∧ grant up coreM (guardAt off) (decide (off < 0x100000)) = .yes ∧ imsicAt off = none ∧
    blockDark up off true = false ∧ Reg.ofOffset off = some (r, b) ∧ ownRow r = false ∧ sizeOk r b 8 = true ∧ writeIgnored up r = false ∧ r = .mbxBase 0 ∧ OfficesPass up coreM off :=
  ⟨(Reg.mbxBase 0).info.offset, .mbxBase 0, 0, by unfold OfficesPass; decide +kernel⟩
theorem wit_RegisterWriteByType_plain (k : Nat) : rowCmds up coreM (.mbxBase 0) 8 0x1000 k = [] := rfl
theorem wit_register_write : goes (.registerWrite coreM (Reg.mbxBase 0).info.offset 8 0x1000#64) (st up) (fun t => t.dev.regN (.mbxBase 0) = 0x1000) = true := by decide +kernel

theorem wit_PrivilegedWrites : (guardAt 0x1010 ≠ .open_ ∧ guardAt 0x1010 ≠ .noEngine ∧ guardAt (Reg.mbxCtrl 5).info.offset = .noEngine ∧ CoreMode.u.high = false ∧ CoreMode.hs.high = true ∧ barsOn State.reset.dev = false) ∧
    goes (.registerWrite coreU 0x1010 4 1#64) (st up) (fun t => t = st { up with out := [.coreFault 9 7] }) = true := by decide +kernel

theorem wit_own_registers : grant up coreU .open_ true = .yes ∧ goes (.gateApertureBaseWrite coreU 0xFFFFFFFF#32) (st up) (fun t => t.dev.regN .gateApertureBase = 0xFFF) = true ∧
    goes (.gateMmioWindowWrite .bar4 0x00800001#32) (st up) (fun t => t.dev.regN .gateMmioWindow = 0x00800000) = true := by decide +kernel
/-- R421: PWR_CAP is clamped to 1,000-4,000 W; R424: the junction target to 70-95 °C. -/
theorem wit_caps : (grant up .clerk .sec (decide (Reg.pwrCap.info.offset < 0x100000)) = .yes ∧ blockDark up Reg.pwrCap.info.offset true = false) ∧
    goes (.pwrCapWrite .clerk 999#32) (st up) (fun t => t.dev.fld .pwrCap 15 0 = 1000) = true ∧ goes (.pwrCapWrite .clerk 4001#32) (st up) (fun t => t.dev.fld .pwrCap 15 0 = 4000) = true ∧
    goes (.thermCtrlWrite .clerk 96#32) (st up) (fun t => t.dev.fld .thermCtrl 7 0 = 95) = true := by decide +kernel
theorem wit_caps_granted : Granted up .clerk .power .pwrCap ∧ Granted up .bar4 .power .thermCtrl ∧ Granted up coreM .high .structModuleNumber := by unfold Granted OfficesPass; decide +kernel
def blank : Dev := regs [(.structPartState, 0)] up
theorem wit_module_number : (blank.loadState = 0 ∧ ∀ p < 4, blank.installed p = false) ∧ (∃ p < 4, up.installed p = true) ∧
    goes (.structModuleNumberWrite coreM 7#32) (st blank) (fun t => modNumber t.dev = 7) = true ∧ goes (.structModuleNumberWrite coreM 7#32) (st up) (fun t => modNumber t.dev = 0) = true := by decide +kernel

/-- BAR2 at the bottom of partition 0's slab. -/
def barData : List Byte := [1#8, 2#8, 3#8, 4#8]
theorem wit_Aperture : (apertureOn up 0x40 4 = true ∧ homeAway up (apertureAddr up 0x40) = false ∧ barData.length = 4 ∧ place (apertureAddr up 0x40) = .slab 0 ∧
    exists_ up (apertureAddr up 0x40) 4 true = true ∧ up.installing 0 = false ∧ (∀ w, homeCheck up 0 (apertureAddr up 0x40) 4 w = none) ∧ up.lines = []) ∧
    goes (.bar2Write 0x40 barData) (st up) (fun t => t.dev.mem.read 0x40 4 = barData && t.dev.mem.get 0x44 = 0#8) = true ∧
    goes (.bar2Read 0x40 (.read 4)) (st up) (fun t => t.dev.out = [.completion [0#8, 0#8, 0#8, 0#8] false]) = true := by decide +kernel
def untrained : Dev := regs [(.memStatus 0, 0)] up
theorem wit_ApertureDown : (apertureOn untrained 0x40 4 = true ∧ homeAway untrained (apertureAddr untrained 0x40) = true) ∧
    goes (.bar2Read 0x40 (.read 4)) (st untrained) (fun t => t.dev.out = [.completion (List.replicate 4 0xFF#8) true] && t.dev.incHeld.length = 1 && t.dev.regN (.sortDownAnswers 0) = 1) = true := by decide +kernel

/-- A letter's read of the commander is outstanding. -/
def readD : Dev := { up with letters := [{ letter 1 [] with started := true }], remotes := [⟨9, 9, 0x5000, 4, false, some (3, 0), .letter l5 2, none, none⟩] }
theorem wit_GateReadsEnd : (((hostReads readD).find? fun q => q.req = 9) = some ⟨9, 9, 0x5000, 4, false, some (3, 0), .letter l5 2, none, none⟩ ∧
    (findLetter readD l5).isSome = true ∧ readD.edgeGen gateEdge 3 = 0 ∧ CplStatus.poisoned ≠ .success) ∧
    goes (.hostReadCompletion 9 .success barData) (st readD) (fun t => t.dev.remotes.map (·.data) = [some barData]) = true ∧
    goes (.hostReadCompletion 9 .poisoned []) (st readD) (fun t => t.dev.remotes.isEmpty && bitN t.dev.pcie.aer 12 && result t = some (some (0x13, 2))) = true ∧
    goes (.hostReadTimeout 9) (st readD) (fun t => t.dev.remotes.isEmpty && t.dev.incHeld.length = 1 && result t = some (some (0x13, 2))) = true := by decide +kernel
theorem wit_GateReadsEnd_stale : ({ readD with edges := [((gateEdge, 3), 1)] } : Dev).edgeGen gateEdge 3 ≠ 0 ∧
    goes (.hostReadCompletion 9 .success barData) (st { readD with edges := [((gateEdge, 3), 1)] }) (fun t => t.dev.remotes.isEmpty && result t = some none) = true := by decide +kernel

/-! ### Cores, the directory, interrupt files, base dies, sorting offices -/

/-- Hart 5 runs; 64 bytes 1 to 64 stand at 0x40. -/
def core5 : Dev := regs [(.partCoreStatus 0 5, 1)] { up with mem := up.mem.write 0x40 ((List.range 64).map fun i => BitVec.ofNat 8 (i + 1)), reservations := [(5, 0x40), (7, 0x80)] }
theorem wit_OwnLine : OwnLine core5 5 0x7C 4 ∧ OwnLine core5 5 0x40 64 := by
  refine ⟨⟨by decide, by decide +kernel, rfl, rfl, .inl (by decide +kernel), by decide, by decide, by decide +kernel, by decide +kernel⟩,
    ⟨by decide, by decide +kernel, rfl, rfl, .inl (by decide +kernel), by decide, by decide, by decide +kernel, by decide +kernel⟩⟩
theorem wit_core_load : goes (.coreAccess 5 .u 0x7C (.load 4)) (st core5) (fun t => t.dev.out = [.coreValue 5 0x403F3E3D] && t.dev.lines.map (·.st) = [2]) = true ∧
    goes (.coreAccess 5 .u 0x48 (.lr 8)) (st core5) (fun t => mapGet? t.dev.reservations 5 = some 0x40) = true := by decide +kernel
theorem wit_core_store : goes (.coreAccess 5 .s 0x48 (.store [0xEE#8])) (st core5) (fun t => t.dev.out = [.coreDone 5] && t.dev.mem.get 0x48 = 9#8 && t.dev.lines.map (·.st) = [3]) = true := by decide +kernel
theorem wit_core_amo : (opIsAmo (.amoMin 4 0xFFFFFFFF) = true ∧ opLen (.amoMin 4 0xFFFFFFFF) = 4) ∧
    goes (.coreAccess 5 .m 0x40 (.amoMin 4 0xFFFFFFFF)) (st core5) (fun t => t.dev.out = [.coreValue 5 0x04030201] && (t.dev.lines.map fun x => x.data.take 4) = [[0xFF#8, 0xFF#8, 0xFF#8, 0xFF#8]]) = true := by decide +kernel
theorem wit_core_sc : (mapGet? core5.reservations 5 = some (0x40 / 64 * 64) ∧ goes (.coreAccess 5 .m 0x40 (.sc [1#8, 0#8, 0#8, 0#8])) (st core5) (fun t => t.dev.out = [.coreValue 5 0]) = true) ∧
    mapGet? core5.reservations 5 ≠ some (0x80 / 64 * 64) ∧ goes (.coreAccess 5 .m 0x80 (.sc [1#8, 0#8, 0#8, 0#8])) (st core5) (fun t => t.dev.out = [.coreValue 5 1] && t.dev.lines.isEmpty) = true := by decide +kernel
def fetched : Dev := { core5 with icache := [((5, 0x40), List.replicate 64 7#8)] }
theorem wit_core_fetch : mapGet? core5.icache (5, 0x40) = none ∧ mapGet? fetched.icache (5, 0x40) = some (List.replicate 64 7#8) ∧
    goes (.coreAccess 5 .m 0x40 (.fetch 4)) (st fetched) (fun t => t.dev.out = [.coreValue 5 0x07070707]) = true ∧
    goes (.coreAccess 5 .m 0x40 .fenceI) (st fetched) (fun t => t.dev.icache.isEmpty) = true := by decide +kernel
theorem wit_core_cbo : goes (.coreAccess 5 .m 0x40 .cboZero) (st core5) (fun t => (t.dev.lines.map (·.data)) = [List.replicate 64 0#8]) = true ∧
    goes (.coreAccess 5 .m 0x40 .cboFlush) (st core5) (fun t => t.dev.reservations = [(7, 0x80)]) = true := by decide +kernel

theorem wit_CoreElsewhere : (5 < 192 ∧ core5.fld (.partCoreStatus 0 5) 1 0 = 1 ∧ freeTag core5 = some 0 ∧ core5.held = [] ∧ core5.installed 0 = true ∧ place 0x100000007F8 = .slab 1 ∧ core5.lines = [] ∧
    core5.down 1 = false ∧ core5.installing 1 = false ∧ 0x100000007F8 % 2048 + 8 ≤ 2048 ∧ ∀ w, homeCheck core5 1 0x100000007F8 8 w = none) ∧
    goes (.coreAccess 5 .u 0x100000007F8 (.store [1#8, 2#8, 3#8, 4#8, 5#8, 6#8, 7#8, 8#8])) (st core5) (fun t => t.dev.mem.get 0x100000007FF = 8#8 && t.dev.out = [.coreDone 5]) = true := by decide +kernel
theorem wit_core_commander : (0x1FF8 < 2 ^ 54 ∧ core5.pcie.busMaster = true ∧ 0x1FF8 % 4096 + 8 ≤ 4096 ∧ 8 ≤ core5.pcie.mps ∧ 8 ≤ core5.pcie.mrrs ∧ ∀ r ∈ core5.remotes, r.who ≠ .core 5) ∧
    goes (.coreAccess 5 .u (0x1FF8 + 2 ^ 55) (.load 8)) (st core5) (fun t => t.dev.out = [.pcieRead 0 0x1FF8 8]) = true := by decide +kernel
theorem wit_core_amo_elsewhere : goes (.coreAccess 5 .u 0x10000000000 (.amoAdd 4 3)) (st core5) (fun t => t.dev.mem.get 0x10000000000 = 3#8 && t.dev.out = [.coreValue 5 0]) = true := by decide +kernel

/-- One case of each line of `CoreFaults`; and hart 6, which does not run. -/
theorem wit_CoreFaults : core5.fld (.partCoreStatus (6 / 48) (6 % 48)) 1 0 ≠ 1 ∧ place 0x100000000000 = .unmapped ∧
    (opIsAmo (.amoAdd 4 5) = true ∧ untag (2 ^ 55 + 8) ≠ .pod (modNumber core5) ((2 ^ 55 + 8) % 2 ^ 46)) ∧ place 0x200030000000 = .window 0 3 0 ∧
    (opIsLrSc (.lr 4) = true ∧ place 0x10000000000 = .slab 1) ∧ (place (mmioBase + 0x100000) = .mmio 0x100000 ∧ secBlock 0x100000 = true) := by decide +kernel
theorem test_CoreFaults : ([(0x100000000000, CoreOp.load 8, 5), (0x100000000000, .store [1#8], 7), (2 ^ 55 + 8, .amoAdd 4 5, 7), (0x200030000000, .lr 4, 7), (0x200030000000, .amoAdd 4 1, 7),
    (0x10000000000, .sc [1#8, 1#8, 1#8, 1#8], 7), (mmioBase + 0x100000, .load 4, 5), (mmioBase + 0x40000, .load 4, 5), (0x100000000000, .fetch 4, 1)] : List (Nat × CoreOp × Nat)).all
    (fun x => goes (.coreAccess 5 .u x.1 x.2.1) (st core5) fun t => t.dev.out = [.coreFault 5 x.2.2]) = true := by decide +kernel

/-- Agent 3 holds the line at 0x40 in M, past its hold; within it; in E. -/
def lineM : Dev := { core5 with lines := [⟨0, 3, 0x40, 3, List.replicate 64 0x5A#8, false⟩] }
def lineHeld : Dev := { core5 with lines := [⟨0, 3, 0x40, 3, List.replicate 64 0x5A#8, true⟩] }
def lineE : Dev := { core5 with lines := [⟨0, 3, 0x40, 2, List.replicate 64 0x5A#8, true⟩] }
theorem wit_DirectoryServes : (routed lineM (some (0, 19)) 0x40 64 = true ∧ 0x40 % 64 = 0 ∧ coherent 0x40 = true ∧ homeOf 0x40 = 0 ∧ exists_ lineM 0x40 64 true = true ∧ lineM.bit (.cohStatus 0) 0 = false ∧ lineM.held = [] ∧
    (∀ w, homeCheck lineM 0 0x40 64 w = none) ∧ 7 ≠ 3 ∧ (List.replicate 64 0x5A#8).length = 64) := by decide +kernel
theorem test_directory_read : goes (.directoryRequest 0 0x40 (.read 7)) (st lineM) (fun t => t.dev.mem.get 0x40 = 0x5A#8 && (t.dev.lines.map fun x => (x.agent, x.st)) = [(3, 1), (7, 1)]) = true ∧
    goes (.directoryRequest 0 0x40 (.own 7)) (st lineM) (fun t => t.dev.mem.get 0x40 = 1#8 && (t.dev.lines.map fun x => (x.agent, x.st)) = [(7, 3)]) = true := by decide +kernel
theorem test_directory_others : goes (.directoryRequest 0 0x40 (.evict 3)) (st lineE) (fun t => t.dev.lines.isEmpty) = true ∧
    goes (.directoryRequest 0 0x40 (.uncachedPartial 63 [9#8])) (st lineM) (fun t => t.dev.mem.get 0x7F = 9#8 && t.dev.mem.get 0x7E = 0x5A#8 && t.dev.lines.isEmpty) = true ∧
    goes (.directoryRequest 0 0x80 (.read 7)) (st core5) (fun t => (t.dev.lines.map fun x => (x.agent, x.st)) = [(7, 2)]) = true := by decide +kernel
theorem wit_HoldDefers : (exists_ lineHeld 0x40 64 false = true ∧ lineHeld.held = []) ∧
    goes (.directoryRequest 0 0x40 (.own 7)) (st lineHeld) (fun t => t.dev.held = [.dir 0 0x40 (.own 7)] && t.dev.regN (.cohHoldDefers 0) = 1) = true ∧
    goes (.snoopHoldExpire 0 3 0x40) (st { lineHeld with held := [.dir 0 0x40 (.own 7)] }) (fun t => t.dev.held.isEmpty && (t.dev.lines.map fun x => (x.agent, x.st)) = [(7, 3)]) = true := by decide +kernel

theorem wit_imsic : (grant up coreU .open_ false = .yes ∧ mmioPort (0x10000000 + 191 / 48 * 0x1000000 + 0x40000) = 3 ∧ up.down 3 = false ∧ up.installing 3 = false ∧ blockDark up (0x10000000 + 191 / 48 * 0x1000000 + 0x40000) true = false) ∧
    goes (.imsicSetipnum coreU 191 .supervisor 255#32) (st up) (fun t => mapGet? t.dev.imsic (191, .supervisor) = some (2 ^ 255)) = true ∧
    goes (.imsicSetipnum coreU 191 .supervisor 0#32) (st up) (fun t => t.dev.imsic.isEmpty) = true := by decide +kernel
theorem wit_core_run : Granted up .bar4 .high (.partCoreCtrl 0 47) ∧ Granted untrained .bar4 .high (.partCoreCtrl 0 47) := by unfold Granted OfficesPass; decide +kernel
theorem wit_core_run_effect : (up.fld (.partCoreStatus 0 47) 1 0 = 0 ∧ up.trained 0 = true ∧ untrained.trained 0 = false ∧ untrained.regN (.partBootAddr 0) < windowBase 0 19) ∧
    goes (.partCoreRun .bar4 0 47) (st up) (fun t => t.dev.fld (.partCoreStatus 0 47) 1 0 = 1 && t.dev.bit (.cohAgents 0) 47) = true ∧
    goes (.partCoreRun .bar4 0 47) (st untrained) (fun t => t.dev.fld (.partCoreStatus 0 47) 1 0 = 0 && t.dev.bit (.partCoreCtrl 0 47) 0) = true ∧
    goes (.partCoreHold .bar4 0 3) (st lineM) (fun t => t.dev.lines.isEmpty && t.dev.mem.get 0x7F = 0x5A#8) = true := by decide +kernel

/-- The last 64 bytes of partition 1's slab. -/
theorem wit_BaseDieServes : (place 0x1FFFFFFFFC0 = .slab 1 ∧ 0x1FFFFFFFFC0 + 64 ≤ slabBase (1 + 1) ∧ up.held = [] ∧ ∀ w, homeCheck up 1 0x1FFFFFFFFC0 64 w = none) ∧
    goes (.memoryRequest ⟨0x1FFFFFFFFC0, none, 64, .corrected⟩) (st up) (fun t => t.dev.out = [.memReply (List.replicate 64 0#8)] && t.dev.regN (.memEccCorr 1 (pcLoc 0 0x1FFFFFFFFC0).stack) = 1) = true ∧
    goes (.memoryRequest ⟨0x1FFFFFFFFC0, none, 64, .uncorrectable⟩) (st up) (fun t => t.dev.out = [.memError] && t.dev.mem.isBad 0x1FFFFFFFFC0 1) = true := by decide +kernel
def down1 : Dev := regs [(.sortStatus 0, 2), (.sortStatus 1, 2)] up
theorem wit_SortingOffice : (0x10000000800 / 2048 % 2 = 1 ∧ place 0x10000000800 = .slab 1 ∧ up.held = [] ∧ up.down 1 = false ∧ exists_ up 0x10000000800 8 true = true ∧ up.edgeGen (96 + 5 * 1 + 1) 3 ≠ 1) ∧
    down1.down 1 = true ∧ goes (.sortingOfficeRequest 1 ⟨none, 0x10000000800, none, 8⟩) (st down1) (fun t => t.dev.out = [.officeDown 1] && t.dev.regN (.sortDownAnswers 1) = 1) = true ∧
    goes (.sortingOfficeRequest 1 ⟨some (3, 0), 0x10000000800, some [7#8], 1⟩) (st up) (fun t => t.dev.mem.get 0x10000000800 = 7#8) = true := by decide +kernel
def installing1 : Dev := regs [(.structPartState, 0x1121), (.sortStatus 0, 0x20), (.sortStatus 1, 0x20)] up
theorem wit_SortingOffice_install : installing1.installing 1 = true ∧ goes (.sortingOfficeRequest 1 ⟨none, 0x10000000800, none, 8⟩) (st installing1) (fun t => t.dev.held.length = 1 && t.dev.out.isEmpty) = true := by decide +kernel

/-! ### The loader -/

/-- An image of 4 KiB is to be fetched from partition 0's slab. -/
def load0 : Dev := regs [(.structSrcAddr, 0x100000), (.structSrcLen, 4096)] up
theorem wit_struct_ctrl : Granted load0 coreM .high .structCtrl := by unfold Granted OfficesPass; decide +kernel
theorem wit_LoaderStarts : (load0.loadState = 0 ∧ 1 % 16 ≠ 0 ∧ load0.regN .structSrcAddr / 2 ^ 54 % 2 = 0 ∧ load0.regN .structSrcAddr < 2 ^ 56 ∧ load0.regN .structSrcAddr % 4096 = 0 ∧
    2304 ≤ load0.fld .structSrcLen 31 0 ∧ load0.fld .structSrcLen 31 0 ≤ 64 * 2 ^ 20 ∧ load0.fld .structSrcLen 31 0 % 64 = 0) ∧
    goes (.structGo coreM 1) (st load0) (fun t => t.dev.loadState = 1 && t.dev.bit .structCtrl 4) = true := by decide +kernel
/-- The codes of R64 for what GO refuses at once. -/
theorem wit_LoaderStarts_fails : (16 % 16 = 0 ∧ (regs [(.structSrcAddr, 0x100800)] load0).regN .structSrcAddr % 4096 ≠ 0 ∧ (regs [(.structSrcLen, 2240)] load0).fld .structSrcLen 31 0 < 2304) ∧
    goes (.structGo coreM 0) (st load0) (fun t => t.dev.fld .structCause 7 0 = 0x52 && t.dev.bit .structStatus 9 && t.dev.incHeld.length = 1) = true ∧
    goes (.structGo coreM 1) (st (regs [(.structSrcAddr, 0x100800)] load0)) (fun t => t.dev.fld .structCause 7 0 = 1) = true ∧
    goes (.structGo coreM 1) (st (regs [(.structSrcLen, 2240)] load0)) (fun t => t.dev.fld .structCause 7 0 = 2) = true := by decide +kernel

/-- The loader in one of its states. -/
def loading (n : Nat) (l : Loader) : Dev := { regs [(.structStatus, n), (.structCtrl, 0x11)] up with loader := l }
def fetchL : Loader := ⟨0x100000, 2304, 1, true, [], []⟩
theorem wit_LoaderFetches : ((loading 1 { fetchL with fetching := false }).loadState = 1 ∧ (loading 1 fetchL).memReady = true ∧ (loading 1 fetchL).bit .secOpStatus 0 = false ∧
    untag fetchL.src = .localAddr 0x100000 ∧ place 0x100000 = .slab 0 ∧ 0x100000 + fetchL.len ≤ slabBase (0 + 1) ∧ up.down 0 = false ∧ up.installing 0 = false ∧ up.lines = [] ∧
    homeCheck up 0 0x100000 2304 false = none ∧ untag (2 ^ 55 + 4096) = .host 4096 ∧ up.pcie.busMaster = true) ∧
    goes .structFetchStart (st (loading 1 { fetchL with fetching := false })) (fun t => t.dev.loader.fetching) = true ∧
    goes (.structFetchDone [] true) (st (loading 1 fetchL)) (fun t => t.dev.loadState = 0 && t.dev.fld .structCause 7 0 = 1) = true := by decide +kernel
theorem wit_LoaderRequestsWhileBusy : (loading 5 fetchL).loadState = 5 ∧ (loading 4 fetchL).loadState = 4 ∧
    goes (.structGo coreM 2) (st (loading 5 fetchL)) (fun t => t.dev.bit .structStatus 10 && t.dev.loadState = 5 && t.dev.fld .structCtrl 3 0 = 2) = true ∧
    goes (.structAbort coreM) (st (loading 4 fetchL)) (fun t => t.dev.loadState = 0 && t.dev.fld .structCause 7 0 = 0x54) = true ∧
    goes (.structAbort coreM) (st (loading 5 fetchL)) (fun t => t.dev.loadState = 5 && t.dev.bit .structCtrl 5) = true := by decide +kernel
/-- An image whose LENGTH is not the length fetched: SIZE (R63, R64). -/
theorem wit_LoaderChecks : ((loading 2 fetchL).loadState = 2 ∧ headerFail fetchL.len ((loading 2 fetchL).fld .structVersion 15 8) fetchL.image = some 2) ∧
    goes .structVerifyDone (st (loading 2 fetchL)) (fun t => t.dev.loadState = 0 && t.dev.fld .structCause 7 0 = 2) = true := by decide +kernel
/-- A header that passes, and a signature block that names slot 1, which is empty. -/
def img0 : List Byte :=
  natLe 4 0x41524F4B ++ natLe 2 1 ++ natLe 2 0 ++ natLe 4 2304 ++ natLe 4 256 ++ List.replicate 240 0#8 ++ natLe 2 1 ++ natLe 2 100 ++ List.replicate 2044 0#8
theorem wit_LoaderVerify : img0.length = 2304 ∧ headerFail 2304 0 (patch img0 0x1C (natLe 4 256)) = none ∧ signatureFail Sec.reset 1 (patch img0 0x1C (natLe 4 256)) = some 7 := by decide +kernel
theorem wit_LoaderValidate : (loading 3 fetchL).loadState = 3 ∧ (validateFail (loading 3 fetchL) 1 fetchL.image).isSome = true ∧
    goes .structValidateDone (st (loading 3 fetchL)) (fun t => t.dev.loadState = 0 && t.dev.bit .structStatus 9) = true := by decide +kernel
/-- CHECK of an image for partition 1 that is degraded, and of one for partition 0 that is blank. -/
def checkL : Loader := { fetchL with mask := 2, image := patch img0 0x26 [2#8] }
def degraded1 : Dev := { regs [(.memStatus 1, 3), (.structStatus, 4)] up with loader := checkL }
def blankCheck : Dev := { regs [(.structStatus, 4), (.structPartState, 0)] up with loader := checkL }
theorem wit_LoaderCheck : (degraded1.loadState = 4 ∧ bitN degraded1.loader.mask 1 = true ∧ degraded1.degraded 1 = true ∧ deviceFail degraded1 = some (0x52, 0xFF, 0)) ∧
    (deviceFail blankCheck = none ∧ maskParts blankCheck.loader.mask = [1]) ∧
    goes .structCheckDone (st blankCheck) (fun t => t.dev.loadState = 5 && t.dev.installing 1 && t.dev.loader.todo = [1] && t.dev.bit (.sortStatus 0) 5) = true := by decide +kernel
def install1 : Dev := { regs [(.structStatus, 5), (.structPartState, 0x1121)] up with loader := { checkL with todo := [1] } }
theorem wit_LoaderInstalls : (install1.held = [] ∧ install1.incSeen = false ∧ install1.loadState = 5 ∧ install1.loader.todo = [1] ∧ install1.loader.mask = 2 ^ 1) ∧
    goes (.structInstallDone true) (st install1) (fun t => !t.dev.installing 1 && !t.dev.installed 1 && t.dev.installed 0 && t.dev.fld .structCause 7 0 = 0x53) = true ∧
    (install1.loadState = 5 ∧ bitN install1.loader.mask 1 = true ∧ up.loadState ≠ 5) ∧
    goes (.structureTableError 1) (st install1) (fun t => t.dev.loadState = 0 && !t.dev.installed 1 && t.dev.fld .structCause 7 0 = 0x53) = true ∧
    goes (.structureTableError 0) (st up) (fun t => !t.dev.installed 0 && t.dev.installed 1) = true := by decide +kernel

/-! ### The epoch, doorbells, letters -/

theorem wit_EpochMarker : Granted up coreU .open_ .gateEpoch := by unfold Granted OfficesPass; decide +kernel
def marker2 : Dev := { up with epochMarker := some (9, [7]) }
theorem wit_EpochMarker_clauses : (up.epochMarker = none ∧ marker2.epochMarker = some (9, [7]) ∧ 7 ∈ [7]) ∧
    goes (.gateEpochWrite coreU 0x1000007#32) (st up) (fun t => t.dev.fld .gateEpoch 23 0 = 7 && t.dev.bit .gateEpoch 31) = true ∧
    goes (.gateEpochWrite coreU 8#32) (st marker2) (fun t => t.dev.epochHeld = some 8 && t.dev.epochMarker = some (9, [7])) = true ∧
    goes (.epochMarkerArrive 7) (st marker2) (fun t => t.dev.epochMarker = some (9, []) && mapGet t.dev.dies 7 (0, 0) = (9, 0)) = true ∧
    goes .epochMarkerDone (st { up with epochMarker := some (9, []), epochHeld := some 5 }) (fun t => (t.dev.epochMarker.map (·.1)) = some 5 && t.dev.epochHeld = none) = true := by decide +kernel

/-- Mailbox 5 enabled, its ring of 16 slots in commander memory, privileged; three slots in use. -/
def mail : Dev := regs [(.mbxCfg 5, 0x24), (.mbxBase 5, 2 ^ 55 + 0x10000), (.mbxStatus 5, 2), (.mbxTail 5, 3), (.mbxHead 5, 0), (.mbxSeq 5, 77), (.mbxCtrl 5, 1)] up
def bell (tail pm : Nat) : W64 := BitVec.ofNat 64 (pm + tail * 2 ^ 32 + 5 * 2 ^ 48)
theorem wit_DoorbellRule : barsOn mail = true ∧ Granted mail coreU .noEngine (.mbxDoorbell 5) := by unfold Granted OfficesPass; decide +kernel
/-- R110, R111: TAIL 17 slots from HEAD is too far in a ring of 16, 16 is not. -/
theorem wit_DoorbellRule_clauses : (mail.mbState 5 = 2 ∧ bitsN (bell 17 0).toNat 55 48 = 5 ∧ 2 ^ mail.fld (.mbxCfg 5) 3 0 < (17 + 65536 - mail.fld (.mbxHead 5) 15 0) % 65536) ∧
    goes (.doorbell (.bar0 5 0) 8 (bell 17 0)) (st mail) (fun t => t.dev.bit (.mbxStatus 5) 10 && t.dev.incHeld.length = 1 && t.dev.fld (.mbxTail 5) 15 0 = 3) = true ∧
    goes (.doorbell (.bar0 5 0) 8 (bell 16 9)) (st mail) (fun t => t.dev.fld (.mbxTail 5) 15 0 = 16 && (t.dev.mb 5).bell = 9#32) = true ∧
    goes (.doorbell (.bar0 5 0) 8 (bell 3 9)) (st mail) (fun t => t.dev.fld (.mbxTail 5) 15 0 = 3 && (t.dev.mb 5).bell = (mail.mb 5).bell && !t.dev.bit (.mbxStatus 5) 9) = true := by decide +kernel
theorem wit_DoorbellRule_dropped : bitsN (bell 4 0).toNat 55 48 ≠ 6 ∧ goes (.doorbell (.bar0 5 4) 4 (bell 4 0)) (st mail) (fun t => t.dev.bit (.mbxStatus 5) 9 && t.dev.fld (.mbxTail 5) 15 0 = 3) = true ∧
    goes (.doorbell (.mmio coreU 5) 8 (bell 4 0)) (st mail) (fun t => t.dev.fld (.mbxTail 5) 15 0 = 4) = true ∧
    goes (.doorbell (.bar0 6 0) 8 (bell 4 0)) (st mail) (fun t => t.dev.bit (.mbxStatus 6) 9) = true := by decide +kernel

/-- NOTE with NOTIFY clear for context 3, SEQ 77, of one slot, with its postmark (R103, R113). -/
def noteRaw : List Byte := natLe 1 0x3F ++ natLe 1 0 ++ natLe 1 3 ++ natLe 1 0 ++ natLe 4 0 ++ natLe 4 77 ++ natLe 4 0 ++ natLe 8 0x4000 ++ List.replicate 104 0#8
def note : List Byte := patch noteRaw 0xC (natLe 4 (77 ^^^ checkOf noteRaw))
/-- A letter of no opcode. -/
def noteOp : List Byte := let b := patch noteRaw 0 [0x3E#8]; patch b 0xC (natLe 4 (77 ^^^ checkOf b))
/-- Context 3 is open. -/
def mail3 : Dev := { mail with ctxs := [(3, ⟨0, 1, 0, 0x10000, [7]⟩)] }
set_option maxRecDepth 100000 in
theorem wit_LettersFetched : ((mail3.mb 5).attempts = 0 ∧ mayFetch mail3 5 = true ∧ untag (mail3.regN (.mbxBase 5)) = .host 0x10000 ∧ mail3.pcie.busMaster = true ∧
    (∀ b ∈ [note], b.length = 128) ∧ [note].length = 1 + field note 3 1 % 4 ∧ note = [note].flatten ∧ postmarkOk mail3 5 note = true ∧ field note 0x10 8 % 32 = 0 ∧
    formatCheck note = none ∧ findLetter mail3 l5 = none) ∧
    goes (.letterFetch 5 [note] none) (st mail3) (fun t => t.dev.fld (.mbxHead 5) 15 0 = 1 && t.dev.regN (.mbxSeq 5) = 78 && result t = some none) = true := by decide +kernel
/-- A wrong postmark counts an attempt; the eighth is late (R115, R116). -/
def late7 : Dev := { mail3 with mbx := [(5, { mail3.mb 5 with attempts := 7 })] }
set_option maxRecDepth 100000 in
theorem wit_LettersFetched_fails : (postmarkOk mail3 5 noteRaw = false ∧ (late7.mb 5).attempts = 7 ∧ (mail3.mb 5).attempts < 7 ∧ formatCheck noteOp = some (2, 0x3E)) ∧
    goes (.letterFetch 5 [noteRaw] none) (st mail3) (fun t => (t.dev.mb 5).attempts = 1 && t.dev.letters.isEmpty) = true ∧
    goes (.letterFetchRetry 5 [noteRaw] (some .uncorrectable)) (st late7) (fun t => t.dev.mbState 5 = 4 && t.dev.bit (.mbxStatus 5) 8 && t.dev.incHeld.length = 1) = true ∧
    goes (.letterFetch 5 [noteOp] none) (st mail3) (fun t => result t = some (some (2, 0x3E))) = true := by decide +kernel
theorem wit_LettersFetched_none : (regs [(.mbxStatus 5, 4)] mail).mbState 5 = 4 ∧ goes (.letterFetch 5 [note] none) (st (regs [(.mbxStatus 5, 4)] mail)) (fun t => t = st (regs [(.mbxStatus 5, 4)] mail)) = true := by decide +kernel

theorem wit_Switches : Granted mail coreU .noEngine (.mbxCtrl 5) ∧ Granted mail coreM .open_ (.crrPortCtrl 3) := by unfold Granted OfficesPass; decide +kernel
def off5 : Dev := regs [(.mbxStatus 5, 0), (.mbxCtrl 5, 0)] mail
theorem wit_mailbox_switch : (mapGet off5.fns (.mailbox 5) [] = [] ∧ off5.mbState 5 = 0 ∧ mbxBadCfg off5 5 = false ∧ off5.memReady = true ∧ off5.bit (.mbxCfg 5) 4 = false ∧
    mbxBadCfg (regs [(.mbxBase 5, 0x800)] off5) 5 = true ∧ mail.mbState 5 = 2) ∧
    goes (.mbxEnable coreU 5) (st off5) (fun t => t.dev.mbState 5 = 2) = true ∧ goes (.mbxEnable coreU 5) (st (regs [(.mbxBase 5, 0x800)] off5)) (fun t => t.dev.mbState 5 = 0 && t.dev.bit (.mbxStatus 5) 11) = true ∧
    goes (.mbxDisable coreU 5) (st mail) (fun t => t.dev.mbState 5 = 0) = true ∧ goes (.mbxDisable coreU 5) (withLetter mail (letter 0x3F [])) (fun t => t.dev.mbState 5 = 3) = true := by decide +kernel
theorem wit_mailbox_enabling : (regs [(.gateBoot, 2)] off5).memReady = false ∧ goes (.mbxEnable coreU 5) (st (regs [(.gateBoot, 2)] off5)) (fun t => t.dev.mbState 5 = 1) = true ∧
    goes (.mbxArm coreU 5) (st (regs [(.mbxStatus 5, 4)] mail)) (fun t => t.dev.mbState 5 = 2) = true ∧ goes (.mbxArm coreU 5) (st mail) (fun t => t.dev.mbState 5 = 2 && !t.dev.bit (.mbxCtrl 5) 1) = true := by decide +kernel
/-- FN_DISABLE and FN_ENABLE of array 2 of tile 5 of partition 1. -/
def fnOff : Letter := letter 0x31 (natLe 1 1 ++ natLe 1 1 ++ natLe 1 5 ++ natLe 1 0 ++ natLe 2 2 ++ natLe 2 0)
theorem wit_fn_letters : Due (withLetter up fnOff).dev l5 0x31 fnOff ∧ letterFn fnOff = some (.engine 1 5 2) ∧ mapGet up.fns (.engine 1 5 2) [] = [] ∧ fnState up (.engine 1 5 2) = 2 ∧
    letterFn (letter 0x31 (natLe 8 0x10000000000)) = none := by unfold Due Unworked; decide +kernel
theorem wit_fn_effect : goes (.fnDisable l5) (withLetter up fnOff) (fun t => fnState t.dev (.engine 1 5 2) = 3 && result t = some none) = true ∧
    goes (.fnEnable l5) (withLetter up { fnOff with opcode := 0x30 }) (fun t => result t = some (some (0, 0))) = true ∧
    goes (.fnDisable l5) (withLetter up (letter 0x31 (natLe 8 0x10000000000))) (fun t => result t = some (some (0x40, 0))) = true := by decide +kernel
def fnRuns : State := withLetter { regs [(.fltFnEngine 1 5, 2 + 2 * 8 + 3 * 64 + 2 * 512 + 2 * 4096 + 2 * 32768)] up with fns := [(.engine 1 5 2, [⟨false, some l5⟩])] } { fnOff with started := true }
theorem wit_fn_done : (2 < slotCount 5 ∧ fnState fnRuns.dev (.engine 1 5 2) = 3 ∧ mapGet fnRuns.dev.fns (.engine 1 5 2) [] = [⟨false, some l5⟩] ∧ findLetter fnRuns.dev l5 = some { fnOff with started := true }) ∧
    goes (.fnTransitionDone (.engine 1 5 2)) fnRuns (fun t => fnState t.dev (.engine 1 5 2) = 0 && result t = some (some (0, 0))) = true := by decide +kernel
def port3 : Dev := regs [(.crrPortStatus 3, 1), (.crrPortCtrl 3, 1)] up
theorem wit_port_switch : (mapGet up.fns (.port 3) [] = [] ∧ up.portState 3 = 0 ∧ port3.portState 3 = 1 ∧ (port3.port 3).replay = [] ∧ port3.podStores = [] ∧ port3.remotes = [] ∧ port3.remap = []) ∧
    goes (.crrPortEnableWrite coreM 3 true) (st up) (fun t => t.dev.portState 3 = 1 && t.dev.bit (.crrPortCtrl 3) 0) = true ∧
    goes (.crrPortEnableWrite coreM 3 false) (st port3) (fun t => t.dev.portState 3 = 6 && goes (.fnTransitionDone (.port 3)) t (fun u => u.dev.portState 3 = 0)) = true := by decide +kernel
theorem wit_port_queues : ∀ m, (port3.port m).queue = [] := fun _ => rfl

theorem wit_LettersWithoutStages : Due (withLetter up (letter 0x3F [])).dev l5 0x3F (letter 0x3F []) ∧ Due (withLetter up (letter 7 (natLe 8 1))).dev l5 7 (letter 7 (natLe 8 1)) ∧
    Due (withLetter up (letter 8 [])).dev l5 8 (letter 8 []) ∧ (∀ e ∈ up.early, e.ctx ≠ 3) ∧ freeTag up = some 0 :=
  ⟨due (by decide +kernel), due (by decide +kernel), due (by decide +kernel), by decide +kernel, by decide +kernel⟩
theorem wit_note_fence_seal : goes (.note l5) (withLetter up (letter 0x3F [])) (fun t => result t = some (some (0, 0))) = true ∧
    goes (.fence l5) (withLetter { up with tlb := [((3, 5), (1, 1)), ((4, 5), (1, 1))] } (letter 7 (natLe 8 1))) (fun t => (t.dev.tlb.map (·.1)) = [(4, 5)] && result t = some (some (0, 0))) = true ∧
    goes (.seal l5) (withLetter { up with early := [{ letter 1 [] with pcieLast := some 0x80, id := ⟨5, 70⟩ }] } (letter 8 [])) (fun t => t.dev.early.isEmpty && t.dev.out = [.pcieZeroRead 0 0x80] && result t = some (some (0, 0))) = true := by decide +kernel
/-- COPY of 64 bytes in partition 0 by context 3, whose tables map the first 1 GiB page to itself. -/
def copyX : Letter := letter 6 (natLe 8 64 ++ natLe 8 0x20000 ++ natLe 8 0x30040 ++ natLe 8 0)
def copyD : Dev := { up with parts := [(0, ⟨[], [], fab, [], [], [], []⟩)], ctxs := [(3, ⟨0, 1, 0, 0x10000, []⟩)], mem := ((up.mem.write 0x10000 (natLe 8 0x11001)).write 0x11000 (natLe 8 15)).write 0x20000 (List.replicate 64 7#8) }
theorem wit_copy : Due (withLetter copyD copyX).dev l5 6 copyX ∧ copyX.opnd 0x18 1 = 0 ∧ copyX.opnd 0 8 = 64 ∧ fnState copyD (.engine 0 18 1) = 2 ∧ fnState copyD (.partition 0) = 2 ∧ copyD.tlb = [] ∧
    copyD.installed 0 = true ∧ engineOut copyD 0 18 1 = false ∧ powerState copyD = 0 ∧ copyD.power.transition = none ∧ runOn copyD 0 18 1 = none ∧ ringAhead (withLetter copyD copyX).dev l5 0 18 1 = false ∧ copyX.opnd 8 8 % 2 ^ 21 + 64 ≤ 2 ^ 21 ∧ copyX.opnd 0x10 8 % 2 ^ 21 + 64 ≤ 2 ^ 21 := by unfold Due Unworked; decide +kernel
theorem wit_calm : Calm copyD 0 := ⟨by decide +kernel, by decide +kernel, fun _ => rfl, rfl, rfl, rfl⟩
theorem wit_mapped : Mapped copyD 3 0 0x20000 0x20000 ∧ Mapped copyD 3 0 0x30040 0x30040 := by
  unfold Mapped
  exact ⟨⟨by decide, by decide +kernel, by decide, by decide +kernel, by decide +kernel, 0x11000, by decide +kernel⟩,
    ⟨by decide, by decide +kernel, by decide, by decide +kernel, by decide +kernel, 0x11000, by decide +kernel⟩⟩
/-- CTX_OPEN of context 3 with seed 99 and route 7, which the structure has. -/
def openX : Letter := letter 0x20 (natLe 8 99 ++ natLe 8 0x10000 ++ natLe 8 1 ++ natLe 2 7)
def openD : Dev := { up with ctxs := [], modImage := some ⟨[], [], [[7#8, 0#8, 1#8, 0#8, 1#8, 0#8, 0#8, 0#8]], [], [], []⟩ }
theorem wit_ctx_open : (Due (withLetter openD openX).dev l5 0x20 openX  ∧ openX.ctx = 3) := by unfold Due Unworked; decide +kernel

/-- The receipt of a NOTE, into commander memory and into partition 1's slab. -/
def rcptX : Letter := { letter 0x3F [] with started := true, result := some (0, 0), rcpt := 0x4000 + 2 ^ 55 }
def rcptD (x : Letter) : Dev := (withLetter mail x).dev
theorem wit_ReceiptIsTwoWrites : (findLetter (rcptD rcptX) l5 = some rcptX ∧ (rcptD rcptX).posted = [] ∧ (rcptD rcptX).resetting (5 / 64) = false ∧ tearWaits (rcptD rcptX) rcptX = false ∧ (rcptD rcptX).mbState 5 = 2 ∧
    heldStores (rcptD rcptX) l5 = false ∧ (rcptD rcptX).bit (.mbxCfg 5) 5 = true ∧ (rcptD rcptX).bit (.mbxCfg 5) 4 = false ∧ 0x4000 % 32 = 0 ∧ 32 ≤ mail.pcie.mps ∧ mail.modImage = none) ∧
    goes (.letterComplete l5) (st (rcptD rcptX)) (fun t => (t.dev.out.map fun o => match o with | .pcieWrite a bs => (a, bs.length) | _ => (0, 0)) = [(0x4000, 28), (0x401C, 4)] && t.dev.letters.isEmpty) = true := by decide +kernel
theorem wit_receipt_local : place 0x10000004000 = .slab 1 ∧ mail.down 1 = false ∧ mail.installing 1 = false ∧ bitN rcptX.flags 1 = false ∧
    goes (.letterComplete l5) (st (rcptD { rcptX with rcpt := 0x10000004000 })) (fun t => leNat (t.dev.mem.read 0x10000004000 4) = 77 && t.dev.mem.get 0x1000000401F = 0x83#8 && t.dev.letters.isEmpty) = true := by decide +kernel
theorem wit_receipt_calm : Calm (rcptD { rcptX with rcpt := 0x10000004000 }) 1 := ⟨by decide +kernel, by decide +kernel, fun _ => rfl, rfl, rfl, rfl⟩

/-! ### Objects -/

/-- LODGE of object 9: 128 bytes at 4 KiB of partition 1's slab, stacked tier, HASHED as its segment is. -/
def lodgeX : Letter := letter 2 (natLe 4 9 ++ natLe 1 1 ++ natLe 1 0 ++ natLe 1 1 ++ natLe 1 0 ++ natLe 8 128 ++ natLe 8 0x10000001000)
def obj9 : Obj := { home := 1, tier := 0, iset := 1, size := 128, base := 0x10000001000, state := 0, dirty := false, sram := 0, pins := [], slots := [], held := [], joiners := [], waiting := [], evicts := [] }
theorem wit_lodge : Due (withLetter up lodgeX).dev l5 2 lodgeX ∧ lodgeX.bracket = 0 ∧ up.lines = [] ∧ lodgeX.opnd 0 3 = 9 ∧ lodgeCheck (withLetter up lodgeX).dev 9 obj9 = none ∧
    lodgeCheck (withLetter up lodgeX).dev 9 { obj9 with base := 0x10000000800 } = some (0x10, 0) := by unfold Due Unworked; decide +kernel
theorem test_lodge : goes (.lodge l5) (withLetter up lodgeX) (fun t => (mapGet? t.dev.objs 9) = some obj9 && t.dev.fld (.hallObjStatus 1) 21 0 = 1 && t.dev.bit (.memSegUsed 1) 0 && result t = some (some (0, 0))) = true := by decide +kernel

def withObj (o : Obj) (x : Letter) : State := withLetter { up with objs := [(9, o)], letters := [] } x
def unlodgeX : Letter := letter 3 (natLe 8 9)
theorem wit_unlodge : Due (withObj obj9 unlodgeX).dev l5 3 unlodgeX ∧ isHandle 9 = false ∧ isHandle 0xFF0001 = true ∧ mapGet? (withObj obj9 unlodgeX).dev.objs 9 = some obj9 ∧
    (withObj obj9 unlodgeX).dev.down obj9.home = false ∧ down1.down obj9.home = true := by unfold Due Unworked; decide +kernel
theorem test_unlodge : goes (.unlodge l5) (withObj obj9 unlodgeX) (fun t => t.dev.objs.isEmpty && result t = some (some (0, 0))) = true ∧
    goes (.unlodge l5) (withObj { obj9 with state := 2 } unlodgeX) (fun t => t.dev.objs.length = 1 && result t = some (some (0x21, 2))) = true ∧
    goes (.unlodge l5) (withLetter up unlodgeX) (fun t => result t = some (some (0x20, 0))) = true ∧
    goes (.unlodge l5) (withLetter { down1 with objs := [(9, obj9)] } unlodgeX) (fun t => result t = some (some (0x14, 1))) = true := by decide +kernel
def stashX : Letter := letter 3 (natLe 8 0xFF0001)
def stashD : Dev := { up with stash := [((1, 3, 0xFF0001), ⟨1, 1, 1, some 0, false, none⟩), ((1, 4, 0xFF0001), ⟨1, 1, 1, some 0, false, none⟩)] }
theorem wit_unlodge_handle : Due (withLetter stashD stashX).dev l5 3 stashX ∧ (∃ e ∈ stashD.stash, e.1.2.1 = stashX.ctx ∧ e.1.2.2 = 0xFF0001) ∧ stashBusy (withLetter stashD stashX).dev 3 0xFF0001 = false := by unfold Due Unworked; decide +kernel
theorem test_unlodge_handle : goes (.unlodge l5) (withLetter stashD stashX) (fun t => (t.dev.stash.map (·.1)) = [(1, 4, 0xFF0001)] && result t = some (some (0, 0))) = true := by decide +kernel

/-- PROMOTE of object 9 to a 4 KiB boundary of a tile's open space in partition 1; EVICT of it. -/
def promX : Letter := letter 4 (natLe 8 9 ++ natLe 8 (windowBase 1 0))
def evictX : Letter := letter 5 (natLe 8 9)
theorem wit_promote : Due (withObj obj9 promX).dev l5 4 promX ∧ Due (withObj obj9 evictX).dev l5 5 evictX ∧ promX.opnd 0 3 = 9 ∧ promX.opnd 8 8 = windowBase 1 0 ∧
    sramCheck (withObj obj9 promX).dev 1 (windowBase 1 0) obj9.footprint = none ∧ 3 ∉ obj9.pins ∧ ({ obj9 with pins := [3, 4] } : Obj).pins.filter (· ≠ 3) ≠ [] := by unfold Due Unworked; decide +kernel
theorem test_promote : goes (.promote l5) (withObj obj9 promX) (fun t => (t.dev.objs.map fun e => (e.2.state, e.2.sram, e.2.pins)) = [(1, windowBase 1 0, [3])] && result t = some none) = true ∧
    goes (.promote l5) (withObj { obj9 with state := 1, pins := [4] } promX) (fun t => (t.dev.objs.map fun e => (e.2.state, e.2.pins, e.2.joiners)) = [(1, [4, 3], [l5])] && result t = some none) = true ∧
    goes (.promote l5) (withObj { obj9 with state := 1, pins := [4], evicts := [⟨5, 70⟩] } promX) (fun t => (t.dev.objs.map fun e => (e.2.joiners, e.2.evicts)) = [([⟨5, 70⟩, l5], [])]) = true ∧
    goes (.promote l5) (withObj { obj9 with state := 2, pins := [4] } promX) (fun t => (t.dev.objs.map fun e => e.2.pins) = [[4, 3]] && result t = some (some (0, 0))) = true ∧
    goes (.promote l5) (withObj { obj9 with state := 3 } promX) (fun t => (t.dev.objs.map fun e => e.2.waiting) = [[(l5, 3, windowBase 1 0)]] && result t = some none) = true ∧
    goes (.promote l5) (withObj { obj9 with tier := 1, state := 2 } promX) (fun t => result t = some (some (0x21, 2))) = true := by decide +kernel
theorem test_evict : goes (.evict l5) (withObj { obj9 with state := 2, pins := [3, 4] } evictX) (fun t => (t.dev.objs.map fun e => (e.2.state, e.2.pins)) = [(2, [4])] && result t = some (some (0, 0))) = true ∧
    goes (.evict l5) (withObj { obj9 with state := 2, pins := [3] } evictX) (fun t => (t.dev.objs.map fun e => (e.2.state, e.2.evicts)) = [(3, [l5])] && result t = some none) = true ∧
    goes (.evict l5) (withObj { obj9 with state := 2, pins := [4] } evictX) (fun t => result t = some (some (0, 0))) = true := by decide +kernel

/-- The copy of object 9 to its SRAM place, which letter 5.77 waits for; the write-back of the dirty copy. -/
def copying (n : Nat) : State :=
  let o : Obj := { obj9 with state := n, sram := windowBase 1 0, pins := if n = 1 then [3] else [], joiners := if n = 1 then [l5] else [], evicts := if n = 1 then [] else [l5], dirty := n = 3 }
  withLetter { up with objs := [(9, o)], parts := [(1, ⟨[], [], fab, [], [], [], []⟩)], mem := (up.mem.write 0x10000001000 [5#8]).write (windowBase 1 0) (if n = 3 then [6#8] else []) } { letter 4 [] with started := true }
theorem wit_ObjectCopied : (obj9.footprint = 128 ∧ (copying 1).dev.installing 1 = false ∧ place obj9.base = .slab 1 ∧ obj9.base + obj9.footprint ≤ slabBase (1 + 1) ∧
    exists_ (copying 1).dev (windowBase 1 0) 128 true = true ∧ place (windowBase 1 0) = .window 1 0 0 ∧ (∀ p < 4, dirRegion (copying 1).dev p = none) ∧ (copying 1).dev.drains = [] ∧ routed (copying 1).dev (some (1, 18)) 0x10000001000 128 = true ∧ routed (copying 1).dev (some (1, 18)) (windowBase 1 0) 128 = true) := by decide +kernel
theorem wit_ObjectCopied_letter : (∀ y ∈ (copying 3).dev.letters, y.id = l5 → y.started = true) ∧ (findLetter (copying 3).dev l5).isSome = true ∧ Calm (copying 3).dev 1 ∧ Calm (copying 1).dev 1 :=
  ⟨by decide +kernel, by decide +kernel, ⟨by decide +kernel, by decide +kernel, fun _ => rfl, rfl, rfl, rfl⟩, ⟨by decide +kernel, by decide +kernel, fun _ => rfl, rfl, rfl, rfl⟩⟩
theorem test_copies : goes (.promoteCopyDone 9) (copying 1) (fun t => t.dev.mem.get (windowBase 1 0) = 5#8 && (t.dev.objs.map fun e => e.2.state) = [2] && result t = some (some (0, 0)) && t.dev.regN (.redUpdProgress 1) = 1) = true ∧
    goes (.evictWritebackDone 9) (copying 3) (fun t => t.dev.mem.get 0x10000001000 = 6#8 && (t.dev.objs.map fun e => e.2.state) = [0] && result t = some (some (0, 0))) = true := by decide +kernel

theorem wit_InterleaveSet : Granted up coreM .open_ (.memSegIset 2) := by unfold Granted OfficesPass; decide +kernel
/-- R135: segment 0 is in use and keeps its bit. -/
theorem test_interleave : goes (.memSegIsetWrite coreM 2 0#32) (st (regs [(.memSegUsed 2, 1)] up)) (fun t => t.dev.fld (.memSegIset 2) 15 0 = 1 && t.dev.mem.holes.length = 15) = true := by decide +kernel

/-! ### Steps -/

/-- A structure of one member, this module its postmaster; the cascade is open; context 3 is open. -/
def upS : Dev := (({ up with modImage := some ⟨[0,0,0,0,0,0,0,0] ++ List.replicate 56 0#8, [[0,0,0,0,0,0,0,0]], [[0, 0, 1, 0, 1, 0, 0, 0], [2, 0, 1, 1, 1, 0, 0, 0]], [], [], []⟩ }).setFld .gateCascade 1 0 2).setCtx 3 ⟨0, 1, 0#64, 0, [0, 2]⟩
/-- The step of context 3 stands at a state, with step 9 open. -/
def atState (n : Nat) (d : Dev) : Dev := (d.setFld (.gateStep 3) 2 0 n).setReg (.gateStepOpen 3) 9#64
def stepX (op : Nat) : Letter := letter op (natLe 8 9)
/-- EVAL_BEGIN names a forward-only route. -/
def evalX : Letter := { stepX 0x14 with route := 2 }
def ended (n dt : Nat) (t : State) : Bool := result t = some (some (n, dt))

theorem wit_StepLetters : Due (withLetter upS (stepX 0x10)).dev l5 0x10 (stepX 0x10) ∧ cascadeOpen upS = true ∧ cascadeOpen up = false ∧ stepState upS 3 = 0 ∧ upS.epochMarker = none ∧
    Due (withLetter (atState 3 upS) (stepX 0x12)).dev l5 0x12 (stepX 0x12) ∧ postmasterOf upS = modNumber upS ∧
    Due (withLetter (atState 4 upS) (stepX 0x13)).dev l5 0x13 (stepX 0x13) ∧ Due (withLetter upS evalX).dev l5 0x14 evalX ∧ Due (withLetter upS (stepX 0x15)).dev l5 0x15 (stepX 0x15) :=
  ⟨due (by decide +kernel), by decide +kernel, by decide +kernel, by decide +kernel, by decide +kernel, due (by decide +kernel), by decide +kernel,
   due (by decide +kernel), due (by decide +kernel), due (by decide +kernel)⟩
/-- R304, R88: the epoch operand acts; a CLOSED cascade, an open step and the wrong number do not begin. -/
theorem test_stepBegin : goes (.stepBegin l5) (withLetter upS (letter 0x10 (natLe 8 9 ++ natLe 4 (2 ^ 31 + 77)))) (fun t => ended 0 0 t && stepState t.dev 3 = 1 && t.dev.reg (.gateStepOpen 3) = 9#64 && t.dev.regN .gateEpoch = 2 ^ 31 + 77) = true ∧
    goes (.stepBegin l5) (withLetter up (stepX 0x10)) (ended 0x30 0) = true ∧ goes (.stepBegin l5) (withLetter (atState 3 upS) (stepX 0x10)) (ended 0x30 0x12) = true ∧
    goes (.stepBegin l5) (withLetter (regs [(.gateStepCommitted 3, 5)] ((upS.setBit (.gateStep 3) 7 true))) (stepX 0x10)) (ended 0x30 0x10) = true := by decide +kernel
theorem test_stepCommit : goes (.stepCommit l5) (withLetter (atState 3 upS) (stepX 0x12)) (fun t => result t = some none && stepState t.dev 3 = 4 && t.dev.out = [.own (Msg.updateDone 0 3 9 0 0#64).bytes]) = true ∧
    goes (.stepCommit l5) (withLetter (atState 1 upS) (stepX 0x12)) (ended 0x30 0x11) = true := by decide +kernel
theorem test_stepAbort : goes (.stepAbort l5) (withLetter (atState 4 upS) (stepX 0x13)) (fun t => result t = some none && stepState t.dev 3 = 4 && t.dev.out = [.own (Msg.abortReq 0 3 9).bytes]) = true ∧
    goes (.stepAbort l5) (withLetter (atState 5 upS) (stepX 0x13)) (ended 0x30 0) = true := by decide +kernel
def evald : Dev := { ((regs [(.gateStepCommitted 3, 9)] upS).setBit (.gateStep 3) 7 true).setBit (.gateStep 3) 6 true with evals := [(3, 9)] }
theorem test_evalBegin : goes (.evalBegin l5) (withLetter ((regs [(.gateStepCommitted 3, 9)] upS).setBit (.gateStep 3) 7 true) evalX) (fun t => ended 0 0 t && t.dev.bit (.gateStep 3) 6 && t.dev.evals = [(3, 9)]) = true ∧
    goes (.evalBegin l5) (withLetter upS evalX) (ended 0x30 0x10) = true := by decide +kernel
theorem test_evalEnd : goes (.evalEnd l5) (withLetter evald (stepX 0x15)) (fun t => ended 0 0 t && t.dev.bit (.gateStep 3) 6 = false && t.dev.evals = []) = true ∧
    goes (.evalEnd l5) (withLetter upS (stepX 0x15)) (ended 0x30 0x10) = true ∧
    goes (.evalEnd l5) (st { evald with letters := [stepX 0x15, { letter 1 [] with id := ⟨5, 76⟩, bracket := 2, started := true }] }) (fun t => result t = some none && t.dev.bit (.gateStep 3) 6) = true := by decide +kernel

def updX (clip : Nat) : Letter := letter 0x11 (natLe 8 9 ++ natLe 4 clip ++ natLe 4 0)
/-- STEP_UPDATE has run: the norm is known, and nothing has to be updated in any partition. -/
def updating (norm : W64) (skip : Bool) : State :=
  withLetter { atState 2 upS with updates := [⟨l5, 3, 0#32, skip, [], 0#64, [], some norm⟩] } { updX 0 with started := true }
theorem wit_StepUpdates : Due (withLetter (atState 1 upS) (updX 0)).dev l5 0x11 (updX 0) ∧ (updX 0).bracket = 0 ∧ (updX 0x7F800000).opnd 8 4 = 0x7F800000 ∧
    updateParts (atState 1 upS) 3 = [] ∧ normRec (atState 1 upS) = none ∧ (updating 0#64 false).dev.updates.find? (·.ctx = 3) = some ⟨l5, 3, 0#32, false, [], 0#64, [], some 0#64⟩ ∧
    finite64 0#64 = true ∧ finite64 0x7FF0000000000000#64 = false ∧ Unworked { (updating 0#64 false).dev with updates := [] } { updX 0 with started := true } :=
  ⟨due (by decide +kernel), by decide +kernel, by decide +kernel, by decide +kernel, by decide +kernel, by decide +kernel, by decide +kernel, by decide +kernel, by unfold Unworked; decide +kernel⟩
theorem wit_StepUpdates_journals : ∀ p t, journalActive (updating 0x7FF0000000000000#64 true).dev p t 3 = false := no_journals 3 (by decide +kernel)
theorem test_stepUpdate : goes (.stepUpdate l5) (withLetter (atState 1 upS) (updX 0)) (fun t => result t = some none && stepState t.dev 3 = 2 && t.dev.updates.length = 1) = true ∧
    goes (.stepUpdate l5) (withLetter (atState 1 upS) (updX 0x7F800000)) (ended 1 0x28) = true ∧ goes (.stepUpdate l5) (withLetter upS (updX 0)) (ended 0x30 0x10) = true := by decide +kernel
theorem test_updateLocal : goes (.updateLocalDone 3) (updating 0#64 false) (fun t => ended 0 0 t && stepState t.dev 3 = 3 && t.dev.updates = []) = true ∧
    goes (.updateLocalDone 3) (updating 0x7FF0000000000000#64 false) (fun t => decide (t = updating 0x7FF0000000000000#64 false)) = true ∧
    goes (.updateLocalDone 3) (updating 0x7FF0000000000000#64 true) (fun t => ended 0 0 t && stepState t.dev 3 = 3 && t.dev.bit (.gateStep 3) 5) = true := by decide +kernel

/-- Three members' norm: modules 0, 1 and 2, and a mailbag record of OP 2 in partition 0 with no dimension. -/
def norms (parts : Map Nat W64) : State :=
  let d := atState 2 upS
  let d := { d with modImage := some ⟨[0,0,0,0,0,0,0,0] ++ List.replicate 56 0#8, [[0,0,0,0,0,0,0,0], [1,0,0,0,0,0,0,0], [2,0,0,0,0,0,0,0]], [], [], [], []⟩,
                    parts := [(0, ⟨[], [], [], [], [], [[1,2,0,0] ++ List.replicate 28 0#8], []⟩)],
                    updates := [⟨l5, 3, 0#32, false, [0], 0#64, parts, none⟩] }
  withLetter d { updX 0 with started := true }
theorem wit_norm : normRec (norms []).dev = some (0, [1,2,0,0] ++ List.replicate 28 0#8) ∧ redCurrent (norms []).dev 3 0 9 = true ∧ redCurrent (norms []).dev 3 0 8 = false ∧
    (∃ k ∈ normMembers (norms []).dev, k ≠ 1 ∧ mapGet? ([] : Map Nat W64) k = none) ∧ redDims (norms []).dev ([1,2,0,0] ++ List.replicate 28 0#8) = [] := by decide +kernel
/-- The step is open and STEP_UPDATE has not come: the partial is kept for it. -/
def openNorm : State := st { (norms []).dev.setFld (.gateStep 3) 2 0 1 with updates := [] }
theorem wit_normEarly : (normRec openNorm.dev).isSome = true ∧ openNorm.dev.updates.find? (·.ctx = 3) = none ∧ redCurrent openNorm.dev 3 0 9 = true ∧ stepState openNorm.dev 3 = 1 ∧
    (∀ e ∈ normRec openNorm.dev, mapGet? (earlyPartials openNorm.dev e.1 (rdMailbag e.2) 3) 1 = none ∧ redDims openNorm.dev e.2 = []) ∧
    goes (.normPartialReceive 3 0 9 1 5#64) openNorm (fun t => (t.dev.redEarly.map fun e => (e.src, e.load.words)) = [(1, [5#32, 0#32])]) = true := by decide +kernel
theorem test_normPartial : goes (.normPartialReceive 3 0 9 1 5#64) (norms [(0, 1#64)]) (fun t => (t.dev.updates.map fun u => (u.partials, u.norm)) = [([(0, 1#64), (1, 5#64)], none)] && t.dev.reg (.redProgress 0) = 1#64) = true ∧
    goes (.normPartialReceive 3 0 8 1 5#64) (norms []) (fun t => t.dev.regN (.redStale 0) = 1 && (t.dev.updates.map (·.partials)) = [[]]) = true ∧
    goes (.normPartialReceive 3 0 9 1 5#64) (norms [(1, 1#64)]) (fun t => decide (t = norms [(1, 1#64)])) = true := by decide +kernel

/-- The polls of the postmaster: votes so far, and the decision. -/
def polled (votes : Map Nat (Bool × W64)) (o : Option Bool) : State :=
  let d := (norms []).dev
  st { d with updates := [], letters := [], post := { d.post with polls := [⟨3, 9, votes, o⟩] } }
theorem wit_StepDecisions : isPostmaster (polled [] none).dev = true ∧ isMember (polled [] none).dev 1 = true ∧ (findPoll (polled [] none).dev 3 9).decided = none ∧
    (findPoll (polled [] (some true)).dev 3 9).decided ≠ none ∧ mapGet? (findPoll (polled [] none).dev 3 9).votes 1 = none ∧ normMembers (polled [] none).dev = [0, 1, 2] ∧
    stepOpen (atState 4 upS) 3 = 9 ∧ stepState (atState 4 upS) 3 = 4 ∧ mapGet? upS.decisions (3, 9) = none := by decide +kernel
theorem wit_StepDecisions_ports : (∀ n < 16, (polled [] none).dev.portState n ≠ 3) ∧ (∀ n < 16, (atState 4 upS).portState n ≠ 3) := by decide +kernel
theorem wit_StepDecisions_journals : ∀ p t, journalActive (atState 5 upS) p t 3 = false := no_journals 3 (by decide +kernel)
def decidedAs (b : Option Bool) (t : State) : Bool := (findPoll t.dev 3 9).decided = b
theorem test_updateDone : goes (.updateDoneReceive 1 3 9 false 5#64) (polled [(0, false, 5#64), (2, false, 5#64)] none) (fun t => decidedAs (some true) t && t.dev.out = [.own (Msg.commit 3 9).bytes]) = true ∧
    goes (.updateDoneReceive 1 3 9 false 5#64) (polled [(0, false, 5#64)] none) (fun t => decidedAs none t && t.dev.out = []) = true ∧
    goes (.updateDoneReceive 1 3 9 true 5#64) (polled [(0, false, 5#64)] none) (fun t => decidedAs (some false) t && t.dev.out = [.own (Msg.abort 3 9).bytes]) = true ∧
    goes (.updateDoneReceive 1 3 9 true 5#64) (polled [(0, false, 5#64)] (some true)) (fun t => decide (t = polled [(0, false, 5#64)] (some true))) = true := by decide +kernel
theorem test_abortReq : goes (.abortReqReceive 1 3 9) (polled [] none) (fun t => decidedAs (some false) t && t.dev.out = [.own (Msg.abort 3 9).bytes]) = true := by decide +kernel

def running1 : Letter := { letter 1 [] with started := true, bracket := 1 }
theorem test_decisions : goes (.commitReceive 0 3 9) (withLetter (atState 4 upS) { stepX 0x12 with started := true }) (fun t => stepState t.dev 3 = 5 && t.dev.decisions = [((3, 9), true)]) = true ∧
    goes (.abortReceive 0 3 9) (withLetter (atState 4 upS) running1) (fun t => stepState t.dev 3 = 6 && ended 0x31 0 t && t.dev.decisions = [((3, 9), false)]) = true ∧
    goes (.abortReceive 0 3 9) (withLetter (atState 4 upS) { running1 with ctx := 4 }) (fun t => result t = some none) = true := by decide +kernel
theorem test_commitActions : goes (.commitActionsDone 3) (withLetter (atState 5 upS) { stepX 0x12 with started := true })
      (fun t => stepState t.dev 3 = 0 && t.dev.bit (.gateStep 3) 3 && t.dev.regN (.gateStepCommitted 3) = 9 && t.dev.bit (.gateStep 3) 7 && ended 0 0 t) = true ∧
    goes (.commitActionsDone 3) (st ((atState 5 upS).setBit (.gateStep 3) 5 true)) (fun t => stepState t.dev 3 = 0 && t.dev.bit (.gateStep 3) 3 = false) = true := by decide +kernel
theorem test_abortActions : goes (.abortActionsDone 3) (withLetter (atState 6 upS) { stepX 0x13 with started := true })
      (fun t => stepState t.dev 3 = 0 && t.dev.bit (.gateStep 3) 3 = false && t.dev.regN (.gateStepCommitted 3) = 0 && t.dev.fld (.gateStep 3) 63 32 = 1 && ended 0 0 t) = true ∧
    goes (.abortActionsDone 3) (withLetter (atState 6 upS) { updX 0 with started := true }) (ended 0x31 0) = true := by decide +kernel

/-! ### Engine stages -/

/-- A stage record of route 0: index, kind, node, array, IN_B, OUT_A, options. -/
def stg (i kind node arr inB outA : Nat) (opts : List Nat) : Rec :=
  natLe 2 0 ++ natLe 1 i ++ natLe 1 kind ++ natLe 1 node ++ natLe 1 arr ++ natLe 2 0 ++ natLe 2 0xFFFF ++ natLe 2 inB ++ natLe 2 outA ++ natLe 2 0xFFFF ++
  (opts ++ List.replicate (16 - opts.length) 0).map (BitVec.ofNat 8 ·)
/-- Partition 0 with some stages, a mailbag record, a 128 KiB pigeonhole on every array node and a parcel buffer on node 2. -/
def upE (stages : List Rec) : Dev :=
  regs ((List.range 19).map fun n => (.fltFnEngine 0 n, 0x12492)) { upS with
    parts := [(0, ⟨[], [natLe 1 2 ++ natLe 1 2 ++ natLe 2 0 ++ natLe 4 0x10000 ++ natLe 4 0x80000, natLe 1 2 ++ natLe 1 1 ++ natLe 2 0 ++ natLe 4 0x100000 ++ natLe 4 0x100000], fab, stages, [],
      [[1,0,0,0] ++ natLe 4 6 ++ natLe 4 9 ++ natLe 4 1024 ++ List.replicate 16 0#8], [natLe 2 0 ++ natLe 2 4 ++ natLe 4 9 ++ natLe 4 0 ++ natLe 4 2 ++ [2#8, 1#8, 0#8, 0#8] ++ natLe 4 0 ++ List.replicate 8 0#8]⟩)] }
/-- A running RUN_ROUTE letter with some operand words. -/
def rl (ws : List Nat) : Letter := { letter 1 (ws.flatMap (natLe 8)) with started := true, encLen := 8 * ws.length }
def running (ws : List Nat) (stages : List Rec) : State := withLetter (upE stages) (rl ws)

/-- Each one-command stage at index 1 of the route, on an engine of its kind, and how the letter ends: FORMAT without
operand words, OBJECT_UNKNOWN for a pool that is none; a SEND of mailbag 6 goes through, TIE_SUM waits for its token. -/
def sendS : Rec := stg 1 8 18 0 0xFFFF 0xFFFF [1, 0, 0, 0xFF, 6]
def tieS : Rec := stg 1 9 18 0 0xFFFF 0xFFFF [1]
def oneShots : List (Instr × Rec × Option (Nat × Nat)) := [
  (.split l5 1, stg 1 3 12 0 0xFFFF 0xFFFF [0], some (1, 0)), (.sort l5 1, stg 1 3 12 0 0xFFFF 0xFFFF [1], some (1, 0)),
  (.gatherPool l5 1, stg 1 4 12 0 0xFFFF 0xFFFF [0], some (1, 0)), (.combine l5 1, stg 1 4 12 0 0xFFFF 0xFFFF [1], some (1, 0)),
  (.scatter l5 1, stg 1 4 12 0 0xFFFF 0xFFFF [2], some (1, 0)), (.adagrad l5 1, stg 1 5 12 0 0xFFFF 0xFFFF [0], some (1, 0)),
  (.adam l5 1, stg 1 5 12 0 0xFFFF 0xFFFF [1], some (1, 0)), (.recover l5 1, stg 1 5 12 0 0xFFFF 0xFFFF [2], some (1, 0)),
  (.attForward l5 1, stg 1 7 16 0 0xFFFF 0xFFFF [0], some (0x20, 0)), (.attBackward l5 1, stg 1 7 16 0 0xFFFF 0xFFFF [1], some (0x20, 0)),
  (.attAppend l5 1, stg 1 7 16 0 0xFFFF 0xFFFF [2], some (0x20, 0)), (.attFork l5 1, stg 1 7 16 0 0xFFFF 0xFFFF [3], some (0x20, 0)),
  (.attRelease l5 1, stg 1 7 16 0 0xFFFF 0xFFFF [4], some (0x20, 0)), (.attPoolInit l5 1, stg 1 7 16 0 0xFFFF 0xFFFF [5], some (1, 0)),
  (.mailbagSend l5 1, sendS, none), (.tieSum l5 1, tieS, none)]
theorem wit_StageLifeCycle_due : (oneShots.all fun e => stageAt (running [] [e.2.1]).dev l5 1 [stKind e.2.1] = some (rl [], 0, e.2.1) && runOf (running [] [e.2.1]).dev l5 1 = none &&
    canStart (running [] [e.2.1]).dev (rl []) 0 e.2.1 && (stKind e.2.1 ≠ 4 || !(running [] [e.2.1]).dev.bit (.embStatus 0 12) 6)) = true := by decide +kernel
theorem test_oneShots : (([0, 2, 5, 9, 13] : List Nat).all fun i => match oneShots[i]? with | some e => goes e.1 (running [] [e.2.1]) (fun t => result t = some e.2.2) | none => false) = true := by decide +kernel
theorem wit_StageLifeCycle_ok : ((sendStage (rl []) 0 sendS).run ((running [] [sendS]).dev.startStage (rl []) 0 sendS 1)).1.isOk = true ∧
    ((tieSum (rl []) 0 tieS).run ((running [] [tieS]).dev.startStage (rl []) 0 tieS 1)).1.isOk = false := by decide +kernel
theorem test_stages : goes (.mailbagSend l5 1) (running [] [sendS]) (fun t => (t.dev.bags.map (·.mailbag)) = [6] && t.dev.runs = [] && (t.dev.letters.map (·.stages)) = [[1]]) = true ∧
    goes (.tieSum l5 1) (running [] [tieS]) (fun t => t.dev.runs = [newRun (rl []) 0 tieS] && t.dev.fld (.fltWait 0 18) 3 2 = 1) = true := by decide +kernel
/-- The cascade is open but the engine is busy: the stage waits for it. -/
def busyS : State := st { (running [] [sendS]).dev with runs := [{ newRun { rl [] with id := ⟨5, 70⟩ } 0 sendS with stage := 9 }] }
theorem wit_StageLifeCycle_waits : stageAt busyS.dev l5 1 [8] = some (rl [], 0, sendS) ∧ runOf busyS.dev l5 1 = none ∧ canStart busyS.dev (rl []) 0 sendS = false ∧ cascadeOpen busyS.dev = true := by decide +kernel
theorem test_waits : goes (.mailbagSend l5 1) busyS (fun t => t.dev.waits = [(l5, 1)] && t.dev.bags = []) = true := by decide +kernel

/-- Stages that take one command a parcel, group or tile: they start, and stop for want of operand words. -/
def frankS : Rec := stg 1 1 3 0 0xFFFF 0xFFFF []
def gradS : Rec := stg 1 8 18 0 0xFFFF 0xFFFF [0, 0, 0, 0xFF, 6]
def vecS : Rec := stg 1 6 16 0 0xFFFF 0xFFFF [9]
def xchS : Rec := stg 1 8 18 0 0xFFFF 0xFFFF [2, 0, 0, 0xFF, 0, 0, 0, 0, 0, 1]
theorem wit_StageLifeCycle_steps : (([(frankS, 1), (gradS, 8), (vecS, 6), (xchS, 8)] : List (Rec × Nat)).all fun e => stageAt (running [] [e.1]).dev l5 1 [e.2] = some (rl [], 0, e.1) &&
    runOf (running [] [e.1]).dev l5 1 = none && canStart (running [] [e.1]).dev (rl []) 0 e.1 && !engineOut (running [] [e.1]).dev 0 (stNode e.1) (slotOf e.2 0) &&
    runOf ((running [] [e.1]).dev.startStage (rl []) 0 e.1 3) l5 1 = some (newRun (rl []) 0 e.1)) = true ∧ earlierGrad (running [] [gradS]).dev (rl []) 0 6 = false := by decide +kernel
theorem test_steps : goes (.frankerParcel l5 1) (running [] [frankS]) (fun t => result t = some (some (1, 0))) = true ∧
    goes (.mailbagGrad l5 1) (running [] [gradS]) (fun t => result t = some (some (1, 0))) = true ∧
    goes (.exchange l5 1) (running [] [xchS]) (fun t => result t = some (some (1, 0))) = true ∧
    goes (.vectorStageStart l5 1) (running [] [vecS]) (fun t => result t = some (some (0x20, 0))) = true := by decide +kernel

/-! An array stage on node 2, array 1: C = A · A of one row tile, in BF16, drained to channel 5. -/

def arrS (opts : List Nat) : Rec := stg 1 0 2 1 4 5 opts
def prod : Rec := arrS [0, 1, 1, 0, 0, 0, 0xFF, 1]
def side9 (i : Nat) : List Byte := Side.toBytes ⟨8, 0, 0x3F80, 0, 2048, 9, i, 0#32, []⟩
/-- Object 9: two BF16 parcels; the first row begins 2.0, 3.0. -/
def matD (stages : List Rec) : Dev :=
  let d := upE stages
  { d with objs := [(9, { obj9 with home := 0, base := 0x1000, iset := 3, size := 8192 })],
           mem := ((d.mem.write 0x1000 [0x00#8, 0x40#8, 0x40#8, 0x40#8]).write 0x3000 (side9 0)).write 0x3200 (side9 1) }
def dims (m n k : Nat) : Nat := m + n * 2 ^ 21 + k * 2 ^ 42
def arr0 : ArrRun := freshArr (rl []) prod
def onArr (d : Dev) (ar : ArrRun) (r : Rec) : State :=
  withLetter { d with arrs := [((0, 2, 1), ar)], runs := [newRun (rl []) 0 r] } (rl [9, dims 1 1 32])
theorem wit_ArrayStages : canStart (withLetter (matD [prod]) (rl [9, dims 1 1 32])).dev (rl [9, dims 1 1 32]) 0 prod = true ∧ stNode prod = 2 ∧ stArr prod = 1 ∧
    stageAt (withLetter (matD [prod]) (rl [9, dims 1 1 32])).dev l5 1 [0] = some (rl [9, dims 1 1 32], 0, prod) ∧ ArrayFits (rl [9, dims 1 1 32]) prod ∧
    arrStage (onArr (matD [prod]) arr0 prod).dev 0 2 1 = some (arr0, rl [9, dims 1 1 32], prod) ∧ dimsOf (rl [9, dims 1 1 32]) prod = (1, 1, 32) ∧ aKbEnd prod 32 = 1 ∧ tileCount 1 1 = 1 := by
  unfold ArrayFits; decide +kernel
theorem wit_ArrayStages_block : ((operandBlock (rl [9, dims 1 1 32]) (stageWho (rl [9, dims 1 1 32]) 0 prod) 0 0xFFFF 1 32 0 0 0 0).run (onArr (matD [prod]) arr0 prod).dev).1.isOk = true := by decide +kernel
theorem test_arrayStart : goes (.arrayStageStart l5 1) (withLetter (matD [prod]) (rl [9, dims 1 1 32])) (fun t => t.dev.arr 0 2 1 = some arr0 && t.dev.fld (.arrStatus 0 2 1) 2 0 = 1) = true ∧
    goes (.arrayStageStart l5 1) (withLetter { matD [prod] with parked := [((0, 2, 1), arr0)] } (rl [9, dims 1 1 32])) (fun t => t.dev.waits = [(l5, 1)]) = true := by decide +kernel
/-- 2 · 2 + 3 · 3 = 13.0, from the first cell of a bank. -/
theorem test_arrayBlock : goes (.arrayBlock 0 2 1) (onArr (matD [prod]) { arr0 with live := some [0#32] } prod) (fun t => (t.dev.arr 0 2 1).map (fun a => (a.live, a.next)) = some (some [0x41500000#32], 1) && t.dev.reg (.arrProgress 0 2 1) = 1#64) = true := by decide +kernel
def full : ArrRun := { arr0 with next := 1, live := some [7#32] }
def draining : ArrRun := { arr0 with tile := 1, drain := some (0, [7#32]) }
theorem test_passEnd : goes (.arrayPassEnd 0 2 1) (onArr (matD [prod]) full prod) (fun t => t.dev.arr 0 2 1 = some draining && t.dev.fld (.arrStatus 0 2 1) 5 4 = 3) = true ∧
    goes (.arrayPassEnd 0 2 1) (onArr (matD [prod]) arr0 prod) (fun t => decide (t = onArr (matD [prod]) arr0 prod)) = true := by decide +kernel
theorem test_drain : goes (.arrayDrainDone 0 2 1) (onArr (matD [prod]) { draining with tile := 0 } prod) (fun t => t.dev.chan l5 0 5 = [.tile 0 [7#32]] && (t.dev.arr 0 2 1).map (·.drain) = some none) = true := by decide +kernel
def accum : Rec := arrS [2, 1, 1, 0, 0, 0, 0, 1]
theorem wit_ArrayStages_token : (takeToken { (onArr (matD [accum]) arr0 accum).dev with chans := [((l5, 0, 4), [.token 3])] } l5 0 (stInB accum)).map (·.1) = some 3 ∧ aFlag accum 1 = true := by decide +kernel
theorem test_token : goes (.drainTokenArrive 0 2 1) (st { (onArr (matD [accum]) arr0 accum).dev with chans := [((l5, 0, 4), [.token 3])] }) (fun t => (t.dev.arr 0 2 1).map (·.tokens) = some [3]) = true := by decide +kernel
theorem test_parity : goes (.arrayParityError 0 2 1 false) (onArr (matD [prod]) full prod) (fun t => (t.dev.arr 0 2 1).map (fun a => (a.live, a.next, a.faulted)) = some (none, 0, [0]) && t.dev.fld (.arrStatus 0 2 1) 2 0 = 4 && t.dev.regN (.arrRecompute 0 2 1) = 1) = true ∧
    goes (.arrayParityError 0 2 1 false) (onArr (matD [prod]) { full with faulted := [0] } prod) (fun t => t.dev.fld (.arrStatus 0 2 1) 6 0 = 69 && t.dev.incHeld.length = 1) = true := by decide +kernel

/-! Preemption: route 0 is preemptible and a stage of a higher priority waits for the array. -/

def prodHi : Rec := stg 2 0 2 1 4 5 [0, 2, 1, 0, 0, 0, 0xFF, 1]
def l6 : LetterId := ⟨5, 78⟩
def nextX : Letter := { rl [9, dims 1 1 32] with id := l6 }
def preD : Dev :=
  let d := matD [prod, prodHi]
  let d := { d with modImage := d.modImage.map fun i => { i with routes := [natLe 2 0 ++ [1#8, 2#8, 2#8, 0#8, 0#8, 0#8]] } }
  (onArr d { arr0 with next := 1 } prod).dev
def preS : State := st { preD with letters := preD.letters ++ [nextX], waits := [(l6, 2)] }
theorem wit_ArrayPreemption : pigeonSlot preS.dev 0 2 2 = some (windowBase 0 2 + 0x30000) ∧ pigeonSlot preS.dev 0 2 3 = some (windowBase 0 2 + 0x40000) ∧
    arrStage preS.dev 0 2 1 = some ({ arr0 with next := 1 }, rl [9, dims 1 1 32], prod) ∧ stageAt preS.dev l6 2 [0] = some (nextX, 0, prodHi) ∧ runOf preS.dev l6 2 = none ∧
    waitingOn preS.dev 0 2 1 = some (nextX, prodHi) ∧ mayPreempt preS.dev 0 2 1 { arr0 with next := 1 } (rl [9, dims 1 1 32]) prod nextX prodHi = true ∧
    mayPreempt preS.dev 0 2 1 { arr0 with next := 1 } (rl [9, dims 1 1 32]) prod nextX prod = false := by decide +kernel
theorem wit_ArrayPreemption_fits : ArrayFits nextX prodHi ∧ Granted preS.dev coreM .open_ (.arrCtrl 0 2 1) := by unfold ArrayFits Granted OfficesPass; decide +kernel
def parkedAs (t : State) : Bool := mapGet? t.dev.parked (0, 2, 1) = some { arr0 with next := 1 } && t.dev.regN (.arrPark 0 2 1) = 3 + 2 ^ 6 && t.dev.regN (.arrParkPos 0 2 1) = 1 &&
  t.dev.bit (.arrStatus 0 2 1) 3 && t.dev.regN (.arrPreempts 0 2 1) = 1 && t.dev.arr 0 2 1 = some (freshArr nextX prodHi)
theorem test_preempt : goes (.arrayPreemption 0 2 1 l6 2 0) preS parkedAs = true ∧ goes (.preempt coreM 0 2 1 0) preS (fun t => parkedAs t && t.dev.out = [.coreDone 9]) = true ∧
    goes (.preempt coreM 0 2 1 0) (st preD) (fun t => decide (t = st { preD with out := [.coreDone 9] })) = true := by decide +kernel
def resS : State := st { preD with arrs := [], runs := preD.runs.map fun q => { q with parked := true }, parked := [((0, 2, 1), { arr0 with next := 1 })] }
theorem wit_ArrayPreemption_resume : mapGet? resS.dev.parked (0, 2, 1) = some { arr0 with next := 1 } ∧ runOn resS.dev 0 2 1 = none ∧ engineOut resS.dev 0 2 1 = false := by decide +kernel
theorem test_resume : goes (.arrayResume 0 2 1) resS (fun t => t.dev.parked = [] && t.dev.arr 0 2 1 = some { arr0 with next := 1 } && (t.dev.runs.map (·.parked)) = [false] && t.dev.fld (.arrStatus 0 2 1) 2 0 = 1) = true := by decide +kernel

/-! RUN_ROUTE -/

def routeD (d : Dev) : Dev := regs [(.fltStatus 0, 8)] { upE [sendS] with regs := d.regs ++ (upE [sendS]).regs }
theorem wit_RouteLetters : Due (withLetter (upE [sendS]) (letter 1 [])).dev l5 1 (letter 1 []) ∧ (∃ q ∈ stagesOf (upE [sendS]) 0, isUpdate q.2 = false ∧ stIndex q.2 ∉ (letter 1 []).stages) :=
  ⟨due (by decide +kernel), by decide +kernel⟩
def endsAs (n dt : Nat) (d : Dev) : Bool := goes (.runRoute l5) (withLetter d (letter 1 [])) (fun t => result t = some (some (n, dt)))
theorem test_runRoute : goes (.runRoute l5) (withLetter (atState 1 (upE [sendS])) (letter 1 [])) (fun t => (t.dev.letters.map fun y => (y.started, y.bracket)) = [(true, 1)]) = true ∧
    goes (.runRoute l5) (withLetter ((upE [sendS]).setFld .pwrState 1 0 1) (letter 1 [])) (fun t => (t.dev.letters.map (·.started)) = [false] && t.dev.power.transition = some 0) = true ∧
    goes (.runRoute l5) (withLetter ((upE [sendS]).setBit (.fltHold 0) 3 true) (letter 1 [])) (fun t => (t.dev.letters.map (·.started)) = [false]) = true := by decide +kernel
theorem test_runRoute_refused : endsAs 0x40 0 ((upE [sendS]).setFld (.fltFnEngine 0 18) 2 0 1) = true ∧ endsAs 0x31 0 (atState 6 (upE [sendS])) = true ∧
    goes (.runRoute l5) (withLetter (upE [sendS]) { letter 1 [] with route := 5 }) (fun t => (t.dev.letters.map fun y => (y.started, y.result)) = [(false, some (8, 5))]) = true := by decide +kernel

/-! Deliveries: one record of two parcels of object 9 to the slots of node 2, for stage 1. -/

def delD : Dev := matD [stg 1 1 2 0 0xFFFF 0xFFFF []]
def delR : Rec := natLe 2 0 ++ natLe 2 0 ++ natLe 4 9 ++ natLe 4 0 ++ natLe 4 2 ++ [2#8, 1#8, 0#8, 0#8] ++ natLe 4 0 ++ List.replicate 8 0#8
def delS (d : Deliv) : State := withLetter { delD with parts := delD.parts.map (fun (e : Nat × PartImage) => (e.1, { e.2 with delivery := [delR] })), delivs := [d] } (rl [])
def dl (issued : Nat) (landed dropped : List Nat) : Deliv := ⟨l5, 0, 0, issued, landed, dropped⟩
theorem wit_Deliveries : findLetter (delS (dl 0 [] [])).dev l5 = some (rl []) ∧ (rl []).result = none ∧ (rl []).started = true ∧ delivRec (delS (dl 0 [] [])).dev 0 0 = some delR ∧ recU delR 0 2 = (rl []).route ∧
    inLookahead (delS (dl 0 [] [])).dev (rl []) 0 delR = true ∧ slotsBusy (delS (dl 0 [] [])).dev (rl []) 0 0 delR = false ∧ recU delR 17 1 = 1 ∧
    stageAt (delS (dl 0 [] [])).dev l5 1 [0, 1, 2, 3, 4, 5, 6, 7, 8, 9] = some (rl [], 0, stg 1 1 2 0 0xFFFF 0xFFFF []) := by decide +kernel
theorem wit_Deliveries_landed : ((parcelLoad ⟨some 0, 2, 1, 0, 3, 0, some l5, 1, 0⟩ 9 1).run (delS (dl 2 [] [])).dev).1.isOk = true ∧ slotAddr (delS (dl 2 [] [])).dev 0 2 1 = some (windowBase 0 2 + 0x100000 + 4608) := by decide +kernel
theorem test_deliveryIssue : goes (.deliveryIssue l5 0 0 5) (delS (dl 0 [] [])) (fun t => t.dev.delivs = [dl 2 [] []]) = true ∧
    goes (.deliveryIssue l5 0 0 5) (delS (dl 1 [] [1])) (fun t => decide (t = delS (dl 1 [] [1]))) = true := by decide +kernel
set_option maxRecDepth 100000 in
theorem test_deliveryLanded : goes (.deliveryParcelLanded l5 0 0 0) (delS (dl 2 [] [])) (fun t => t.dev.delivs = [dl 2 [0] []]) = true := by decide +kernel
set_option maxRecDepth 100000 in
theorem test_deliveryStored : goes (.deliveryParcelLanded l5 0 0 0) (delS (dl 2 [] [])) (fun t => t.dev.mem.get (windowBase 0 2 + 0x100001) = 0x40#8) = true := by decide +kernel
theorem test_windowReady : goes (.windowStageReady l5 1) (delS (dl 1 [] [])) (fun t => t.dev.delivs = [dl 1 [] [1]] && (t.dev.letters.map (·.readThrough)) = [true]) = true := by decide +kernel

/-! Counts and errors of the engines: those of a franker, an E-tile, the vector and attention engines and the mailbags. -/

def withRun (r : Rec) : State := withLetter { upE [r] with runs := [newRun (rl []) 0 r] } (rl [])
def eccs : List ((Bool → Instr) × Rec × Nat × Reg × Reg × Nat) := [
  (.frankerEccError 0 3, frankS, 4, .frkEccCorr 0 3, .frkStatus 0 3, 21), (.embeddingEccError 0 12, stg 1 3 12 0 0xFFFF 0xFFFF [], 0, .embEccCorr 0 12, .embStatus 0 12, 131),
  (.vectorEccError 0 16, vecS, 0, .vecEccCorr 0 16, .vecStatus 0 16, 12), (.attentionEccError 0 16, stg 1 7 16 0 0xFFFF 0xFFFF [], 1, .attEccCorr 0 16, .attStatus 0 16, 13),
  (.mailbagEccError 0, sendS, 0, .redEccCorr 0, .redStatus 0, 19)]
theorem wit_CountsAndErrors : (eccs.all fun e => (runLetter (withRun e.2.1).dev 0 (stNode e.2.1) e.2.2.1).map (·.1) = some (newRun (rl []) 0 e.2.1) && runOn (upE []) 0 (stNode e.2.1) e.2.2.1 = none) = true := by decide +kernel
theorem test_eccs : (eccs.all fun e => goes (e.1 true) (withRun e.2.1) (fun t => t.dev.regN e.2.2.2.1 = 1 && t.dev.incHeld = []) &&
    goes (e.1 false) (withRun e.2.1) (fun t => t.dev.regN e.2.2.2.2.1 = e.2.2.2.2.2 && t.dev.incHeld.length = 1)) = true ∧
    ((eccs.take 4).all fun e => goes (e.1 false) (st (upE [])) fun t => decide (t = st (upE []))) = true := by decide +kernel
def clears : List (Instr × Reg) := [(.frkClearCounts coreM 0 3, .frkSat 0 3 7), (.embClearCounts coreM 0 12, .embNonfinite 0 12 7), (.vecClearCounts coreM 0 16, .vecSat 0 16 7),
  (.attClearCounts coreM 0 16, .attNonfinite 0 16 7), (.redClearCounts coreM 0, .redSat 0 7), (.hallRtClear coreM 0, .hallRt 0 7)]
theorem wit_CountsAndErrors_granted : (([.frkCtrl 0 3, .embCtrl 0 12, .vecCtrl 0 16, .attCtrl 0 16, .redCtrl 0, .hallRtCtrl 0] : List Reg).all fun r =>
    grant up coreM .open_ (decide (r.info.offset < 0x100000)) = .yes && !blockDark up r.info.offset true) = true := by decide +kernel
theorem test_clears : ((clears.take 3).all fun e => goes e.1 (st (regs [(e.2, 5), (.hallStashStatus 0, 9)] up)) fun t => t.dev.regN e.2 = 0 && t.dev.regN (.hallStashStatus 0) = 9) = true := by decide +kernel
theorem test_cacheInval : goes (.cacheInval coreM 0 12) (st up) (fun t => t.dev.bit (.embCtrl 0 12) 1 && t.dev.bit (.embStatus 0 12) 6) = true ∧
    goes (.cacheInvalApply 0 12) (st (up.setBit (.embStatus 0 12) 6 true)) (fun t => t.dev.bit (.embStatus 0 12) 6 = false) = true ∧
    goes (.cacheInvalApply 0 12) (st up) (fun t => decide (t = st up)) = true := by decide +kernel

/-! A card of one step: v5 = v3 + 2.0, where v3 is the column; output 0 sends v5 as FP32 on channel 5. -/

def card : List Byte := natLe 4 1 ++ List.replicate 12 0#8 ++ [5#8, 2#8, 9#8, 0#8, 0#8, 0#8, 0#8, 0#8] ++ List.replicate 8 0#8 ++ [0#8, 0xFF#8, 0#8, 0#8] ++ List.replicate 28 0#8 ++
  natLe 4 0x40000000 ++ List.replicate 60 0#8 ++ natLe 4 (1 + 5 * 2 ^ 6 + 3 * 2 ^ 10 + 16 * 2 ^ 15) ++ List.replicate 124 0#8
def cardS : Rec := stg 1 6 16 0 0xFFFF 5 [9, 0, 0, 0, 56, 229, 51, 165, 245, 194, 4, 209]
def cardD : Dev :=
  let d := upE [cardS, stg 2 1 3 0 0xFFFF 0xFFFF []]
  { d with objs := [(9, { obj9 with home := 0, base := 0x1000, size := 256 })], mem := d.mem.write 0x1000 card }
theorem wit_StageLifeCycle_card : ((cardLoad (rl [dims 1 1 1]) 0 cardS).run (withLetter cardD (rl [dims 1 1 1])).dev).1.toOption = some card := by decide +kernel
set_option maxRecDepth 100000 in
theorem test_cardGroup : goes (.vectorElementGroup l5 1) (st { (withLetter cardD (rl [dims 1 1 1])).dev with runs := [{ newRun (rl []) 0 cardS with card := card }] })
    (fun t => ((t.dev.chan l5 0 5).map fun i => match i with | .parcel 0 pl _ => pl.take 5 | _ => []) = [[0#8, 0#8, 0#8, 0x40#8, 0#8]] && (t.dev.letters.map (·.stages)) = [[1]]) = true := by decide +kernel

/-! ### Reduction and exchange -/

/-- A structure of three modules in a ring along X, this one module 0 and postmaster; its port 0 leads to module 1, port 4 to module 2. -/
def mem_ (m : Nat) : Rec := natLe 1 m ++ natLe 1 m ++ List.replicate 6 0#8 ++ [0#8, 3#8, 3#8, 3#8, 4#8] ++ List.replicate 11 3#8
def ringD (stages : List Rec) : Dev :=
  { upE stages with modImage := some ⟨[0,0,3,1,1,0,0,0] ++ List.replicate 56 0#8, [mem_ 0, mem_ 1, mem_ 2], [], [], [], []⟩ }
/-- The same with both ports OPEN. -/
def cabD (stages : List Rec) : Dev := regs [(.crrPortStatus 0, 3), (.crrPortStatus 4, 3), (.crrPortRole 0, 0), (.crrPortRole 4, 4)] (ringD stages)

def sumBody (step : Nat) : List Byte := natLe 4 6 ++ natLe 4 0 ++ [100#8, 0#8, 0#8, 0#8] ++ natLe 4 1 ++ natLe 8 step ++ List.replicate 128 0xFF#8
def grpBody : List Byte := natLe 4 6 ++ List.replicate 4284 0#8 ++ [1#8] ++ List.replicate 1023 0#8
def bag0 : Bag := { part := 0, chan := 1, ctx := 3, gen := 0, step := 0, mailbag := 6, letter := l5, stage := 1, key := 0, active := false, ready := [0], grps := [], gone := false, done := false }
/-- A SEND has queued mailbag 6. -/
def bagged (d : Dev) : State := withLetter { d with bags := [bag0] } { rl [] with stages := [1] }
theorem wit_MailbagFrames : (sumBody 0).length = 152 ∧ halted (ringD []) 0 18 0 = false ∧ (findRed (ringD []) 0 6).isSome = true ∧ findRed (ringD []) 0 7 = none ∧ redCurrent (ringD []) 3 0 0 = true ∧
    redCurrent (ringD []) 3 1 0 = false ∧ findBag (ringD []) 0 3 6 = none ∧ findBag (bagged (ringD [])).dev 0 3 6 = some bag0 ∧ grpBody.length = 5312 ∧
    expects (st { (bagged (ringD [])).dev with redEarly := [⟨0, 3, 6, 0, 1, 0, 0, 1, ⟨0, [], [], 0⟩, 0⟩] }).dev bag0 0 1 0 0 0 = false := by decide +kernel
theorem wit_MailbagFrames_residue : ∃ k < 1024, residue (BitVec.ofNat 32 (field grpBody (0xC0 + 4 * k) 4)) ≠ field grpBody (0x10C0 + k) 1 := ⟨0, by decide +kernel, by decide +kernel⟩
theorem test_summary : goes (.phaseOneSummaryReceive 0 3 0 1 (sumBody 0)) (st (ringD [])) (fun t => (t.dev.redEarly.map fun e => (e.mailbag, e.phase, e.src, e.load.exp)) = [(6, 1, 1, 100)]) = true ∧
    goes (.phaseOneSummaryReceive 0 3 1 1 (sumBody 0)) (st (ringD [])) (fun t => t.dev.regN (.redStale 0) = 1 && t.dev.redEarly = []) = true ∧
    goes (.phaseOneSummaryReceive 0 3 0 1 (natLe 4 7 ++ (sumBody 0).drop 4)) (st (ringD [])) (fun t => decide (t = st (ringD []))) = true := by decide +kernel
set_option maxRecDepth 100000 in
theorem test_groupFrame : goes (.groupFrameReceive 0 3 0 1 grpBody) (st (cabD [])) (fun t => t.dev.regN (.redResidueErr 0) = 1 && t.dev.redEarly = [] && t.dev.out.length = 1) = true := by decide +kernel
def sentD : Dev := { cabD [] with redSent := [⟨0, 3, 6, 0, 0, 0, 0, [1#8, 2#8]⟩] }
theorem wit_groupNak : neighbour sentD (modNumber sentD) 0 0 = some 1 ∧ neighbour sentD (modNumber sentD) 0 1 = some 2 := by decide +kernel
theorem test_groupNak : goes (.groupNakReceive 0 3 6 0 0 0) (st sentD) (fun t => t.dev.regN (.redReplays 0) = 1 && t.dev.out.length = 1) = true ∧
    goes (.groupNakReceive 0 3 6 1 0 0) (st sentD) (fun t => decide (t = st sentD)) = true := by decide +kernel
theorem test_mailbagFailed : goes (.mailbagFailedReceive 0 3 6) (bagged (ringD [sendS])) (fun t => result t = some (some (0x32, 1)) && t.dev.bags = [] && t.dev.bit (.redChan 0 1) 23) = true ∧
    goes (.mailbagFailedReceive 0 3 6) (st (ringD [])) (fun t => t.dev.redBad = [(0, 3, 6)]) = true := by decide +kernel
/-- Mailbag 6 names no dimension, so this module is alone in it. -/
theorem wit_phaseOneStart : nextBag (bagged (ringD [sendS])).dev 0 1 = some bag0 ∧ rdOp (bagRec (bagged (ringD [sendS])).dev bag0) ≠ 2 ∧ redN (bagged (ringD [sendS])).dev (bagRec (bagged (ringD [sendS])).dev bag0) ≤ 1 ∧
    (∀ g < rdGroups (bagRec (bagged (ringD [sendS])).dev bag0), g ∈ bag0.ready) ∧ nextBag (ringD []) 0 1 = none ∧ cascadeOpen (ringD []) = true := by decide +kernel
theorem test_phaseOneStart : goes (.phaseOneStart 0 1) (bagged (ringD [sendS])) (fun t => t.dev.bags = [] && result t = some (some (0, 0))) = true := by decide +kernel

def xch0 : Rec := stg 1 8 18 0 0xFFFF 0xFFFF [2, 0, 0, 0xFF, 0, 0, 0, 0, 0, 1, 0, 0, 0]
def exch0 : Exch := ⟨l5, 1, 0, 0, 0, 0, 3, 0, 0, [], false, [], [], [], []⟩
def xchD : Dev := { ringD [xch0] with exchs := [exch0] }
def dataFrame : List Byte := List.replicate 4096 7#8 ++ (natLe 2 0 ++ natLe 2 0 ++ natLe 2 17 ++ natLe 2 0 ++ natLe 4 0 ++ natLe 4 16 ++ natLe 8 0 ++ natLe 1 3 ++ natLe 1 0 ++ natLe 2 0) ++ List.replicate 484 0#8
theorem wit_ExchangeMessages : (ringD [xch0]).exchs = [] ∧ (∃ i < 16, ∃ b, ([(0, 0), (5, 80)] : List (Nat × Nat))[i]? = some (5, b) ∧ xStage (ringD [xch0]) 0 0 (i / 4) (i % 4) = none) ∧
    xStage (ringD [xch0]) 0 0 0 0 ≠ none ∧ exchOf xchD 3 0 0 0 0 0 = some exch0 := ⟨rfl, ⟨1, by decide, 80, rfl, by decide +kernel⟩, by decide +kernel, by decide +kernel⟩
theorem wit_ExchangeMessages_frame : dataFrame.length = 4608 ∧ field dataFrame (4096 + 6) 2 / 16 = modNumber xchD ∧ (xchD.ctx 3).gen = field dataFrame (4096 + 0x1A) 2 := by decide +kernel
theorem test_counts : goes (.countPostcardReceive 3 0 0 0 17 [(5, 80)]) (st (ringD [xch0])) (fun t => t.dev.xcounts = [⟨3, 0, 0, 0, 0, 17, 5, 80⟩]) = true ∧
    goes (.countPostcardReceive 3 0 0 0 17 [(0, 0), (5, 80)]) (st (cabD [xch0])) (fun t => t.dev.xcounts = [] && t.dev.out.length = 1) = true := by decide +kernel
/-- A count postcard that comes back ends the source's letter with ADDRESS_FAULT and the stage index (R367). -/
theorem wit_counts_back : 0 / 16 = modNumber xchD ∧ exchOf xchD 3 0 0 0 (0 / 4 % 4) (0 % 4) = some exch0 ∧ 17 / 16 ≠ modNumber xchD ∧
    goes (.countPostcardReceive 3 0 0 0 0 []) (withLetter xchD (rl [])) (fun t => result t = some (some (0x10, 1)) && t.dev.exchs = []) = true := by decide +kernel
theorem test_ready : goes (.readyReceive 3 0 0 0 17 2) (st (ringD [xch0])) (fun t => t.dev.xready = [⟨3, 0, 0, 0, 2, 17, 0, 0⟩]) = true ∧
    goes (.readyReceive 3 0 0 0 17 18) (st (ringD [xch0])) (fun t => decide (t = st (ringD [xch0]))) = true := by decide +kernel
theorem test_exchangeFrame : goes (.exchangeFrameReceive dataFrame) (st (ringD [xch0])) (fun t => t.dev.regN (.redProgress 0) = 1) = true ∧
    goes (.exchangeFrameReceive (dataFrame.take 4607)) (st (ringD [xch0])) (fun t => decide (t = st (ringD [xch0]))) = true := by decide +kernel

/-! ### Courier links and the cascade -/

/-- A frame for this module that has no further effect here, and one for module 1. -/
def fr (dst : Nat) : Frame := { kind := 2, vc := 0, dl := 0, src := 1, dst := dst, hdr := 0, key := 0, body := [9#8] }
def lk (q : Port) : Dev := { cabD [] with ports := [(0, q)] }
def kept3 : Port := { Port.reset with replay := [(5, 0, fr 1), (6, 0, fr 1), (7, 3, fr 1)], nextSeq := 8, expect := 2 }
theorem wit_LinkFrames : ((lk kept3).portState 0 = 3 ∧ (lk kept3).port 0 = kept3 ∧ kept3.queue = [] ∧ inSession (lk kept3) 0 = true ∧ oldest (lk kept3) 0 = some 5) ∧
    (Frame.parse ((fr 0).bytes 2 5)).map (fun e => (e.1.dst, e.2)) = some (0, 2, 5) ∧ Frame.parse ((fr 0).bytes 2 5 ++ [0#8]) = none ∧ (lk kept3).portState 1 ≠ 3 ∧ (lk kept3).portState 1 ≠ 6 := by decide +kernel
theorem test_frames : goes (.frameReceive 0 ⟨(fr 0).bytes 2 5, 0, 0⟩) (st (lk kept3)) (fun t => (t.dev.port 0).expect = 3 && ((t.dev.port 0).replay.map (·.1)) = [6, 7] && t.dev.out = [ctl t.dev 0 1 [2], ctl t.dev 0 3 [0, 1]]) = true ∧
    goes (.frameReceive 0 ⟨(fr 0).bytes 1 5, 0, 0⟩) (st (lk kept3)) (fun t => (t.dev.port 0).expect = 2 && t.dev.out = [ctl t.dev 0 1 [1]]) = true ∧
    goes (.frameReceive 0 ⟨(fr 0).bytes 4 5, 0, 0⟩) (st (lk kept3)) (fun t => (t.dev.port 0).nakSent && t.dev.out = [ctl t.dev 0 2 [2]]) = true ∧
    goes (.frameReceive 0 ⟨[1#8], 0, 0⟩) (st (lk { kept3 with nakSent := true })) (fun t => decide (t = st (lk { kept3 with nakSent := true }))) = true := by decide +kernel
theorem test_ackNak : goes (.ackReceive 0 6) (st (lk kept3)) (fun t => ((t.dev.port 0).replay.map (·.1)) = [7]) = true ∧
    goes (.nakReceive 0 6) (st (lk kept3)) (fun t => ((t.dev.port 0).replay.map fun e => (e.1, e.2.1)) = [(6, 1), (7, 4)] && t.dev.regN (.crrPortRetry 0) = 2 && t.dev.portState 0 = 4 && t.dev.out.length = 2) = true ∧
    goes (.replayTimeout 0) (st (lk { kept3 with replay := [(5, 0, fr 1)] })) (fun t => t.dev.out = [.frame 0 ((fr 1).bytes 5 1)] && t.dev.portState 0 = 3) = true := by decide +kernel
theorem wit_LinkFrames_credit : (fr 1).cls = 0 ∧ ({ kept3 with queue := [fr 1] } : Port).replay.length < 64 := by decide +kernel
theorem test_credit : goes (.creditReceive ⟨0, 4⟩ 0 1) (st (lk { kept3 with queue := [fr 1], credits := [(0, 0)] })) (fun t => (t.dev.port 0).queue = [] && ((t.dev.port 0).replay.map (·.1)) = [5, 6, 7, 8] &&
      (t.dev.port 0).nextSeq = 9 && mapGet? (t.dev.port 0).credits 0 = some 0) = true ∧
    goes (.creditReceive ⟨0, 4⟩ 1 7) (st (lk { kept3 with credits := [(1, 3)] })) (fun t => (t.dev.port 0).credits = [(1, 5)]) = true ∧
    goes (.keepaliveReceive ⟨0, 4⟩) (st (lk kept3)) (fun t => decide (t = st (lk kept3))) = true := by decide +kernel

/-- Port 0 in a state, beside that as `ringD`. -/
def ps (n : Nat) (q : Port) (d : Dev) : State := st { regs [(.crrPortStatus 0, n), (.crrPortRole 0, 0)] d with ports := [(0, q)] }
def cabled0 : Port := { Port.reset with cabled := true }
def linked : Port := { cabled0 with linkUp := true }
def dig0 : List Byte := List.replicate 8 0#8
def hello0 (t : State) : Output := ctl t.dev 0 6 ([0, 0, 0] ++ List.replicate 8 0)
theorem wit_LinkStates : (ps 1 cabled0 (ringD [])).dev.resetting 0 = false ∧ helloReady (ps 1 cabled0 up).dev 0 = false ∧ helloReady (ps 1 cabled0 (ringD [])).dev 0 = true ∧ (ps 1 linked up).dev.modImage = none ∧
    helloAgrees (ps 2 linked (ringD [])).dev 0 1 4 dig0 = true ∧ helloAgrees (ps 2 linked (ringD [])).dev 0 1 0 dig0 = false ∧ (ps 3 linked up).dev.podStores = [] ∧ (ps 3 linked up).dev.remotes = [] ∧ up.fld .gateCascade 1 0 = 0 := by decide +kernel
theorem wit_LinkStates_down : (∀ m < 16, ((ps 4 linked up).dev.port m).queue = []) ∧ (ps 4 linked (ringD [])).dev.remap = [] ∧ (ps 4 linked (ringD [])).dev.modImage ≠ none := by decide +kernel
/-- A DOWN port whose link trains again says HELLO. -/
theorem wit_LinkStates_up : (ps 5 cabled0 (ringD [])).dev.resetting 0 = false ∧ cabled0.cabled = true ∧ cabled0.linkUp = false ∧
    goes (.portLinkTrained 0) (ps 5 cabled0 (ringD [])) (fun t => t.dev.portState 0 = 2 && (t.dev.port 0).linkUp) = true := by decide +kernel
theorem test_portLinkTrained : goes (.portLinkTrained 0) (ps 1 cabled0 up) (fun t => t.dev.out = [ctl t.dev 0 5 []] && (t.dev.port 0).linkUp) = true ∧
    goes (.portLinkTrained 0) (ps 1 cabled0 (ringD [])) (fun t => t.dev.out = [hello0 t] && t.dev.portState 0 = 2) = true := by decide +kernel
theorem test_closed : goes (.closedFrameTimer 0) (ps 1 linked up) (fun t => t.dev.out = [ctl t.dev 0 5 []]) = true ∧ goes (.mismatchRetry 0) (ps 1 { linked with backoff := true } (ringD [])) (fun t => t.dev.out = [hello0 t] && t.dev.portState 0 = 2) = true ∧
    goes (.closedReceive 0) (ps 2 linked (ringD [])) (fun t => (t.dev.port 0).backoff) = true ∧ goes (.helloTimeout 0) (ps 2 linked (ringD [])) (fun t => (t.dev.port 0).backoff) = true ∧
    goes (.helloBackoffExpire 0) (ps 2 { linked with backoff := true } (ringD [])) (fun t => (t.dev.port 0).tries = 1 && t.dev.out = [hello0 t]) = true := by decide +kernel
theorem test_hello : goes (.helloReceive 0 1 4 4 dig0) (ps 2 linked (ringD [])) (fun t => t.dev.out = [ctl t.dev 0 7 [], hello0 t] && (t.dev.port 0).agreed && t.dev.fld (.crrPortStatus 0) 15 8 = 1 && t.dev.fld (.crrPortStatus 0) 19 16 = 4) = true ∧
    goes (.helloReceive 0 1 4 0 dig0) (ps 2 linked (ringD [])) (fun t => t.dev.portState 0 = 1 && t.dev.bit (.crrPortStatus 0) 3 && t.dev.incHeld.length = 1) = true ∧
    goes (.helloReceive 0 1 4 0 dig0) (ps 10 { linked with mismatch := some (1, 4, 0) } (ringD [])) (fun t => t.dev.portState 0 = 1 && t.dev.incHeld = []) = true := by decide +kernel
theorem test_helloAck : goes (.helloAckReceive 0) (ps 2 { linked with agreed := true } up) (fun t => t.dev.portState 0 = 3 && (t.dev.port 0) = { linked with agreed := true, acked := true }) = true ∧
    goes (.helloAckReceive 0) (ps 2 linked up) (fun t => t.dev.portState 0 = 2 && (t.dev.port 0).acked) = true := by decide +kernel
theorem test_retrain : goes (.keepaliveTimer 0) (ps 3 linked up) (fun t => t.dev.out = [ctl t.dev 0 4 []]) = true ∧ goes (.receiveTimeout 0) (ps 3 linked up) (fun t => t.dev.portState 0 = 4 && t.dev.regN (.crrPortRetrain 0) = 1) = true ∧
    goes (.cableRemove 0) (ps 3 linked up) (fun t => t.dev.portState 0 = 4 && (t.dev.port 0).cabled = false) = true ∧ goes (.retrain coreM 0) (ps 3 linked up) (fun t => t.dev.portState 0 = 4 && t.dev.bit (.crrPortCtrl 0) 1) = true ∧
    goes (.retrain coreM 0) (ps 1 linked up) (fun t => t.dev.portState 0 = 1 && t.dev.bit (.crrPortCtrl 0) 1 = false) = true ∧ goes (.cableInsert 0) (ps 5 Port.reset up) (fun t => t.dev.portState 0 = 1 && (t.dev.port 0).cabled) = true := by decide +kernel
theorem test_retrainEnds : goes (.portRetrainDone 0) (ps 4 { kept3 with cabled := true } (ringD [])) (fun t => t.dev.portState 0 = 3 && t.dev.out.length = 3 && ((t.dev.port 0).replay.map (·.2.1)) = [1, 1, 1]) = true ∧
    goes (.portRetrainDone 0) (ps 4 linked up) (fun t => t.dev.portState 0 = 3 && t.dev.out = []) = true ∧
    goes (.portDown 0) (ps 4 linked (ringD [])) (fun t => t.dev.portState 0 = 5 && t.dev.bit (.crrPortStatus 0) 4 && t.dev.incHeld.length = 1 && t.dev.out = [.own (Msg.portDown 0 0).bytes]) = true := by decide +kernel

/-! Admission: module 0 is the postmaster of the ring. -/

def post0 (adm : Map Nat Nat) (opened : Bool) (d : Dev) : State := st { d with post := { d.post with admitted := adm, opened := opened } }
def dig1 : List Byte := [1#8] ++ List.replicate 7 0#8
/-- The same for a member that is not the postmaster, in JOINING. -/
def joinD : Dev := (({ ringD [] with modImage := some ⟨[0,0,3,1,1,0,2,0] ++ List.replicate 56 0#8, [mem_ 0, mem_ 1, mem_ 2], [], [], [], []⟩ }).setFld .gateCascade 1 0 1)
theorem wit_CascadeAdmission : isPostmaster (ringD []) = true ∧ isPostmaster joinD = false ∧ modNumber (ringD []) = 0 ∧ slice dig0 0 8 = cascadeDigest8 (ringD []) ∧ slice dig1 0 8 ≠ cascadeDigest8 (ringD []) ∧
    (∃ r ∈ membersOf (ringD []), recU r 0 1 ≠ 1 ∧ mapGet? ([] : Map Nat Nat) (recU r 0 1) = none) ∧ (∀ r ∈ membersOf (ringD []), recU r 0 1 = 0 ∨ mapGet? ([(1, 11), (2, 12)] : Map Nat Nat) (recU r 0 1) ≠ none) ∧
    joinD.fld .gateCascade 1 0 = 1 ∧ joinD.joined = false ∧ 1 < (membersOf joinD).length ∧ joinD.bit .gateCascade 2 = false := by decide +kernel
theorem wit_CascadeAdmission_ports : (∀ n < 16, (ringD []).portState n ≠ 3) ∧ (∀ n < 16, joinD.portState n ≠ 3) := by decide +kernel
theorem wit_CascadeAdmission_loss : (∀ r ∈ membersOf (ringD []), ∃ f ∈ facing (ringD []) (recU r 0 1), f ≠ (1, 4) ∧ f ∉ (ringD []).post.down) ∧ isMember (ringD []) 1 = true ∧
    facing (ringD []) 0 = [(1, 4), (2, 0)] ∧ (∀ f ∈ facing (ringD []) 0, f = (1, 4) ∨ f ∈ [(2, 0)]) := by decide +kernel
theorem test_join : goes (.joinReceive 1 11 dig0) (post0 [] false (ringD [])) (fun t => t.dev.post.admitted = [(1, 11)] && t.dev.fld .gateCascade 24 16 = 1) = true ∧
    goes (.joinReceive 0 10 dig0) (post0 [(1, 11), (2, 12)] false (ringD [])) (fun t => t.dev.post.opened && t.dev.out = [.own (Msg.admitted 0).bytes, .own (Msg.cascadeOpen 7).bytes]) = true ∧
    goes (.joinReceive 1 13 dig0) (post0 [(1, 11)] false (ringD [])) (fun t => t.dev.post.admitted = [] && t.dev.out = [.own (Msg.refuse 1 11 2).bytes, .own (Msg.refuse 1 13 2).bytes]) = true ∧
    goes (.joinReceive 1 11 dig0) (post0 [] false joinD) (fun t => decide (t = post0 [] false joinD)) = true := by decide +kernel
theorem test_admitted : goes (.admitReceive 0) (st (joinD.setFld .gateCascade 4 2 5)) (fun t => t.dev.joined && t.dev.fld .gateCascade 4 2 = 0) = true ∧ goes (.admitReceive 1) (st joinD) (fun t => decide (t = st joinD)) = true ∧
    goes (.cascadeOpenReceive 0 7) (st joinD) (fun t => cascadeOpen t.dev && t.dev.regN (.gateMembers 0) = 7 && t.dev.fld .gateCascade 24 16 = 3) = true ∧
    goes (.cascadeOpenReceive 0 7) (st (joinD.setBit .gateCascade 2 true)) (fun t => cascadeOpen t.dev = false) = true := by decide +kernel
theorem test_resend : goes .joinResend (st joinD) (fun t => decide (t = st (joinD.admission 2 (.join 0 Config.serial dig0)))) = true ∧ goes .joinResend (st { joinD with joined := true }) (fun t => decide (t = st { joinD with joined := true })) = true ∧
    goes (.refuseReceive 0 1 5 1) (st joinD) (fun t => decide (t = st joinD)) = true := by decide +kernel
theorem test_memberLoss : goes (.portDownReceive 1 4) (post0 [] false (ringD [])) (fun t => t.dev.post.down = [(1, 4)] && t.dev.post.lost = []) = true ∧
    goes (.portDownReceive 1 4) (st { ringD [] with post := { (ringD []).post with down := [(2, 0)] } }) (fun t => t.dev.post.lost = [0]) = true ∧
    goes (.portUpReceive 1 4) (st { ringD [] with post := { (ringD []).post with down := [(2, 0), (1, 4)] } }) (fun t => t.dev.post.down = [(2, 0)]) = true ∧
    goes (.memberLostReceive 0 2) (st { ringD [] with floods := [(Msg.memberLost 2).bytes] }) (fun t => decide (t = st { ringD [] with floods := [(Msg.memberLost 2).bytes] })) = true ∧
    goes (.memberLostReceive 0 2) (st (cabD [])) (fun t => t.dev.floods = [(Msg.memberLost 2).bytes] && t.dev.out.length = 1) = true := by decide +kernel

/-! ### Resets, incidents and stacks -/

/-- Context 3 is OPEN with a running letter and one that has not started; a request holds generation 1 when asked for. -/
def ctxS (holds : Bool) : State :=
  st { upE [] with letters := [rl [], { letter 1 [] with id := l6 }, { rl [] with id := ⟨5, 79⟩, ctx := 4 }],
                   remotes := if holds then [⟨1, 1, 64, 8, false, some (3, 1), .letter l5 1, none, none⟩] else [] }
def drain0 : Drain := ⟨3, none, 0, 1, [], [], []⟩
theorem wit_ContextReset : Granted up coreM .high .gateCtxReset ∧ (ctxS false).dev.bit .gateCtxReset 30 = false ∧ ((ctxS false).dev.ctx 3).state = 1 ∧ (up.ctx 4).state ≠ 1 ∧ genHeld (ctxS false).dev 3 1 = false ∧
    genHeld (ctxS true).dev 3 1 = true ∧ drained { up with drains := [drain0] } drain0 = true ∧ drained { up with drains := [drain0], markers := [⟨3, 1, 1, [106]⟩] } drain0 = false := by unfold Granted OfficesPass; decide +kernel
theorem test_contextReset : goes (.contextReset coreM 3) (ctxS false) (fun t => (t.dev.ctx 3).gen = 1 && (t.dev.letters.map (·.result)) = [some (0x51, 1), some (5, 1), none] && (t.dev.drains.map fun r => (r.oldGen, r.cause, r.paths)) = [(0, 1, [.memory])] &&
      t.dev.bit .gateCtxReset 30 && (t.dev.markers.map (·.left.length)) = [115]) = true ∧
    goes (.contextReset coreM 3) (ctxS true) (fun t => (t.dev.ctx 3).gen = 0 && t.dev.advances = [(3, 1)] && t.dev.bit .gateCtxReset 30) = true ∧
    goes (.contextReset coreM 5) (ctxS false) (fun t => t.dev.fld .gateCtxReset 5 0 = 5 && t.dev.bit .gateCtxReset 30 = false && t.dev.drains = []) = true := by decide +kernel
theorem test_generation : goes (.generationAdvance 3) (st { (ctxS false).dev with advances := [(3, 3)] }) (fun t => (t.dev.ctx 3).gen = 1 && (t.dev.letters.map (·.result)) = [some (0x51, 3), some (5, 1), none] && t.dev.advances = []) = true ∧
    goes (.generationMarkerArrive 3 106) (st { up with markers := [⟨3, 1, 1, [106]⟩] }) (fun t => t.dev.edgeGen 106 3 = 1 && t.dev.markers = []) = true ∧
    goes (.contextResetDone 3) (st (({ up with drains := [drain0] }).setFld .gateCtxReset 31 30 3)) (fun t => t.dev.drains = [] && t.dev.fld .gateCtxReset 31 30 = 0 && t.dev.incHeld.length = 1) = true := by decide +kernel

def tearX : Letter := letter 0x21 []
def tearD (paths : List DrainPath) : Drain := ⟨3, some l5, 0, 0, paths, [], []⟩
def tearing (paths : List DrainPath) : State := withLetter { (upE []).setCtx 3 ⟨1, 2, 0#64, 0x5000, []⟩ with drains := [tearD paths] } { tearX with started := true }
theorem wit_ContextTeardown : Due (withLetter (upE []) tearX).dev l5 0x21 tearX ∧ (((upE []).ctx 3).state = 1) ∧ (((upE []).ctx 4).state ≠ 1) ∧ latched (tearing [.memory]).dev 3 1 = true ∧
    (tearing [.memory]).dev.incSeen = false := ⟨due (by decide +kernel), by decide +kernel, by decide +kernel, by decide +kernel, by decide +kernel⟩
theorem wit_ContextTeardown_journals : ∀ p t, journalActive (tearing [.memory]).dev p t 3 = false := no_journals 3 (by decide +kernel)
/-- A letter that a check of R108 refuses: its context is CLOSED. -/
theorem wit_letter_refused : (0x21, Instr.ctxTear l5) ∈ letterCommands l5 ∧ findLetter (withLetter (upE []) { tearX with ctx := 4 }).dev l5 = some { tearX with ctx := 4 } ∧
    mayStart (withLetter (upE []) { tearX with ctx := 4 }).dev { tearX with ctx := 4 } = true ∧ Unworked (withLetter (upE []) { tearX with ctx := 4 }).dev { tearX with ctx := 4 } ∧
    letterCheck (withLetter (upE []) { tearX with ctx := 4 }).dev 5 0x21 4 0 0 [] = some (4, 0) := by unfold Unworked; decide +kernel
theorem test_ctxTear : goes (.ctxTear l5) (withLetter (upE []) tearX) (fun t => t.dev.ctx 3 = { (upE []).ctx 3 with state := 2, gen := 1 } && result t = some none && (t.dev.drains.map (·.paths)) = [[.fabric, .memory]]) = true ∧
    goes (.ctxTear l5) (withLetter (upE []) { tearX with ctx := 4 }) (fun t => result t = some (some (4, 0))) = true := by decide +kernel
theorem test_drainMarker : goes (.drainMarkerReturn 3 .memory) (tearing [.memory]) (fun t => t.dev.drains = [] && (t.dev.ctx 3).state = 0 && (t.dev.ctx 3).root = 0x5000 && result t = some (some (0, 0))) = true ∧
    goes (.drainMarkerReturn 3 .memory) (tearing [.fabric, .memory]) (fun t => (t.dev.drains.map (·.paths)) = [[.fabric]] && result t = some none) = true ∧
    goes (.teardownBound 3) (tearing [.fabric, .memory]) (fun t => t.dev.drains = [] && result t = some (some (0, 0)) && t.dev.incHeld.length = 1) = true := by decide +kernel

/-- A stage of context 3 runs on franker node 3; its partition has 720 mV. -/
def engS : State := st (regs [(.pwrPartStatus 0, 720 * 4 + 2)] (withRun frankS).dev)
def engR : EngReset := ⟨0, 3, 4, [3], false, false⟩
theorem wit_EngineReset : Granted engS.dev coreM .high (.fltEngReset 0) ∧ engS.dev.bit (.fltStatus 0) 4 = false ∧ inReset engS.dev 0 = false ∧ suspects engS.dev 0 3 4 false = [3] ∧ slotCount 3 = 6 ∧
    engResetOf { up with engResets := [engR] } 0 = some engR ∧ fnState { upE [] with engResets := [engR] } (.engine 0 3 4) = 2 := by unfold Granted OfficesPass; decide +kernel
theorem test_engineReset : goes (.engineReset coreM 0 3 4) engS (fun t => t.dev.runs = [] && (t.dev.ctx 3).gen = 1 && result t = some (some (0x51, 2)) && t.dev.engResets = [{ engR with named := true }] && t.dev.bit (.fltStatus 0) 4) = true ∧
    goes (.engineReset coreM 0 3 6) engS (fun t => t.dev.runs.length = 1 && t.dev.engResets = [] && t.dev.bit (.fltStatus 0) 4 = false) = true := by decide +kernel
theorem test_engineResetEnds : goes (.engineResetDone 0) (st ({ upE [] with engResets := [engR] }.engBusy 0 true)) (fun t => t.dev.engResets = [] && t.dev.bit (.fltStatus 0) 4 = false && t.dev.fld (.fltResets 0) 15 0 = 1 && t.dev.incHeld.length = 1) = true ∧
    goes (.engineResetTimeout 0) (st ({ upE [] with engResets := [engR] }.engBusy 0 true)) (fun t => (t.dev.engResets.map (·.abandoned)) = [true] && t.dev.fld (.fltStatus 0) 5 4 = 2 && t.dev.incHeld.length = 1) = true := by decide +kernel

/-- The pigeonhole of node 2 holds a byte, and its parcel buffer another. -/
def partS : State := st { engS.dev with mem := (engS.dev.mem.write (windowBase 0 2 + 0x10000) [9#8]).write 0x1000 [8#8] }
theorem wit_PartitionReset : Granted partS.dev coreM .high (.fltCtrl 0) ∧ powerState partS.dev = 0 ∧ partS.dev.power.transition = none ∧ partS.dev.held = [] ∧ partS.dev.loadState ≠ 5 ∧ partS.dev.bit (.cohStatus 0) 0 = false ∧
    (∀ x ∈ lettersIn partS.dev 0, (partS.dev.ctx x.ctx).state = 1) ∧ partS.dev.incSeen = false := by unfold Granted OfficesPass; decide +kernel
theorem test_directoryEcc : goes (.directoryEccError 0 true) partS (fun t => t.dev.regN (.cohDirEccCorr 0) = 1 && t.dev.partResets = []) = true := by decide +kernel
def fenced : State := st ({ upE [] with partResets := [⟨0, 1, false, true, [3], []⟩], letters := [] }.setDown 0 true |>.setFld (.fltStatus 0) 1 0 1)
theorem test_fenceLifted : goes (.partitionFenceLifted 0 []) fenced (fun t => t.dev.resetting 0 = false && (t.dev.partResets.map (·.fence)) = [false]) = true ∧
    goes (.partitionResetComplete 0) (st { upE [] with partResets := [⟨0, 1, false, false, [3], []⟩] }) (fun t => t.dev.partResets = [] && t.dev.bit (.fltStatus 0) 6 && t.dev.fld (.fltResets 0) 31 16 = 1 && t.dev.incHeld.length = 1) = true := by decide +kernel
theorem wit_PartitionReset_second : inReset fenced.dev 0 = true ∧ Granted fenced.dev coreM .high (.fltCtrl 0) ∧ fenced.dev.held = [] := by unfold Granted OfficesPass; decide +kernel
theorem test_secondReset : goes (.partitionReset coreM 0 .training) fenced (fun t => decide (t = st { fenced.dev with out := [.coreDone 9] })) = true ∧ goes (.snoopTimeout 0 7) fenced (fun t => decide (t = fenced)) = true := by decide +kernel

/-! Incident rings and stacks -/

def inc0 : Inc := { cls := 0x283, eng := 0x20, die := dieGate, part := none, d0 := 1 }
def ringS (base : Nat) : State := st { regs [(.gateIncRingBase, base)] up with incHeld := [(none, inc0.bytes 7)] }
theorem wit_Incidents : (ringS 0x1000).dev.incSeen = false ∧ Granted (ringS 0x1000).dev coreM .high (ringCfg none) ∧ (inc0.bytes 7).length = 64 ∧ none ∉ (ringS 0x1000).dev.incLost ∧ place 0x1000 = .slab 0 ∧
    (ringS 0x1000).dev.installing 0 = false ∧ (ringS 0x1000).dev.down 0 = false ∧ (ringS 0x1000).dev.bit (ringCfg none) 16 = false := by unfold Granted OfficesPass; decide +kernel
theorem wit_Incidents_calm : Calm (ringS 0x1000).dev 0 := ⟨by decide +kernel, by decide +kernel, fun _ => rfl, rfl, rfl, rfl⟩
theorem test_ringEnable : goes (.incidentRingEnable coreM none 0x10006#32) (ringS 0x1000) (fun t => t.dev.incSeen && t.dev.incHeld = [] && t.dev.fld .gateIncRingTail 15 0 = 1 && t.dev.mem.read 0x1000 64 = (inc0.bytes 7).take 63 ++ [0x80#8]) = true ∧
    goes (.incidentRingEnable coreM none 0x10006#32) (ringS 0x1020) (fun t => t.dev.bit .gateIncRingCfg 17 && t.dev.bit .gateIncRingCfg 16 = false && t.dev.incHeld.length = 1) = true ∧
    goes (.incidentRingEnable coreM (some 1) 0x10006#32) (st { (ringS 0x1000).dev with regs := (.fltRingBase 1, 0x2000#64) :: (ringS 0x1000).dev.regs }) (fun t => t.dev.incSeen && t.dev.incHeld.length = 1) = true := by decide +kernel
theorem test_stacks : goes (.stackTempChange 0 3 96) (st up) (fun t => t.dev.regN (.memStackTemp 0 3) = 96 + 2 * 256) = true ∧
    goes (.pcRetrainStart 0 3 7 1) (st up) (fun t => t.dev.retrains = [(0, 3, 7, 1)] && t.dev.bit (.memStackTemp 0 3) 10 && t.dev.fld (.memRetrain 0 3) 15 0 = 1) = true ∧
    goes (.pcRetrainDone 0 3 2) (st { up with retrains := [(0, 3, 7, 1)] }) (fun t => t.dev.retrains = [] && t.dev.fld (.memRetrain 0 3) 31 16 = 2) = true ∧
    goes (.channelLost 0 3) (st { up with retrains := [(0, 3, 7, 1)] }) (fun t => t.dev.retrains = [] && t.dev.bit (.memChanLost 0 3) 7 && t.dev.degraded 0 && t.dev.down 0 && t.dev.fld (.fltStatus 0) 1 0 = 2 && t.dev.incHeld.length = 1) = true := by decide +kernel
/-- Partition 0's stacks are not trained yet. -/
def untrained0 : Dev := regs [(.memStatus 0, 0), (.gateBoot, 0xE02)] up
theorem wit_Stacks : stackBusy up 0 3 = false ∧ up.bit (.memChanLost 0 3) 7 = false ∧ up.trained 0 = true ∧ up.held = [] ∧ untrained0.stepFour = true ∧ untrained0.bit .gateBoot 8 = false := by decide +kernel
theorem test_trainingDone : goes (.stackTrainingDone 0 []) (st untrained0) (fun t => t.dev.trained 0 && t.dev.bit .gateBoot 8) = true ∧
    goes (.stackTrainingDone 0 [33]) (st untrained0) (fun t => t.dev.degraded 0 && t.dev.bit .gateBoot 8 && t.dev.bit (.memChanLost 0 1) 1 && t.dev.down 0) = true := by decide +kernel

/-! ### Power, the Clerk, management and security -/

theorem wit_PowerLoops : up.power.clerk = true ∧ powerState up = 0 ∧ up.incSeen = false ∧ (∀ p < 4, resetFloor up p = false) ∧ (Dev.reset).power.clerk = false := by decide +kernel
def drowseD : Dev := up.setFld .pwrState 1 0 2
def sampled (volts : Nat) : Dev := { regs ((.pwrCap, 4000) :: (List.range 4).map fun p => (.pwrPartStatus p, volts * 4)) up with power := { up.power with samples := [(5000, []), (5000, [])] } }
theorem wit_PowerLoops_over : (sampled 600).power.samples ≠ [] ∧ 2 * 98 * capW (sampled 600) < 100 * fastTwice (sampled 600) ∧ (∀ p < 4, leastMv (sampled 600) p ≤ voltOf (sampled 600) p) ∧ (∀ p < 4, voltOf (sampled 560) p = leastMv (sampled 560) p) ∧
    (sampled 560).power.floorRaised = false := by decide +kernel
theorem test_powerSample : goes (.powerSample 4001 48000 [900, 800]) (st up) (fun t => t.dev.fld .pwrInput 15 0 = 4001 && t.dev.fld .pwrInput 31 16 = 4800 && t.dev.fld .pwrPeak 15 0 = 4001 && t.dev.fld (.pwrPartPower 1) 15 0 = 800) = true ∧
    goes (.powerSample 4001 39999 []) (st drowseD) (fun t => t.dev.power.supplyHold && t.dev.out = [.tray 3 [0x305, 3999]]) = true := by decide +kernel
theorem test_powerDecision : goes .powerDecision (st Dev.reset) (fun t => decide (t = st Dev.reset)) = true := by decide +kernel
theorem test_clerk : goes .clerkHeartbeat (st up) (fun t => t.dev.reg .clerkHeartbeat = 1#64) = true ∧ goes .clerkStop (st up) (fun t => t.dev.power.clerk = false) = true := by decide +kernel
theorem test_thermal : goes (.thermalLoop [107, 60] [96] 25 33) (st drowseD) (fun t => t.dev.regN (.thermDie 0) = 107 + 2 ^ 8 + 2 ^ 9 && t.dev.regN (.thermDie 1) = 60 && t.dev.power.hotDies = [0] && t.dev.regN (.memStackTemp 0 0) = 96 + 2 * 2 ^ 8 &&
      t.dev.fld .thermCoolant 15 0 = 25 + 33 * 256) = true := by decide +kernel
theorem wit_activity : enginesIdle up 0 true = true ∧ enginesIdle (up.setFld (.frkStatus 0 3) 2 0 1) 0 true = false ∧ (up.setBit (.pwrPartStatus 0) 30 true).bit (.pwrPartStatus 0) 30 = true ∧ up.bit (.pwrPartStatus 0) 30 = false := by decide +kernel
theorem test_activity : goes .activityLoop (st up) (fun t => mapGet? t.dev.power.idle 0 = some 1) = true ∧
    goes .activityLoop (st { up with power := { up.power with idle := [(0, 8)] } }) (fun t => mapGet? t.dev.power.idle 0 = some 9) = true ∧
    goes (.idlePartitionWake 0) (st up) (fun t => decide (t = st up)) = true := by decide +kernel
theorem wit_upkeep : mapGet? up.power.trainedAt (0, 3) = none ∧ stackTemp (up.setFld (.memStackTemp 0 3) 7 0 60) 0 3 = 60 ∧ mapGet? up.power.sweeps (0, 3) = none ∧ stackBusy up 0 3 = false := by decide +kernel
theorem test_upkeep : goes .channelUpkeep (st ({ up with power := { up.power with trainedAt := [((0, 3), 30)] } }.setFld (.memStackTemp 0 3) 7 0 60)) (fun t => t.dev.retrains = [(0, 3, 0, 0)] && mapGet? t.dev.power.trainedAt (0, 3) = some 60 &&
      mapGet? t.dev.power.trainedAt (0, 2) = some 0) = true ∧
    goes .linkUpkeep (st (regs [(.crrPortFecCorr 0, 313)] (cabD []))) (fun t => t.dev.portState 0 = 4 && t.dev.portState 4 = 3) = true ∧
    goes .deadlineStatistics (st (regs [(.hallRtOther 0, 7)] up)) (fun t => t.dev.regN (.clerkRt 0) = 7) = true := by decide +kernel

theorem wit_PowerStates : Granted up coreM .power .pwrStateReq ∧ Granted up coreM .power .clerkCycleReq ∧ powerRefusal up 1 = 0 ∧ powerRefusal { up with ctxs := [] } 2 = 0 ∧ powerRefusal (upE []) 2 = 2 := by unfold Granted OfficesPass; decide +kernel
def asked (g : Option Nat) (d : Dev) : State := st { d with power := { d.power with transition := g } }
theorem test_powerRequests : goes (.pwrRequestIdle coreM) (st up) (fun t => t.dev.power.transition = some 1 && t.dev.bit .pwrState 2) = true ∧ goes (.pwrRequestOff coreM) (st up) (fun t => t.dev.power.transition = some 3) = true ∧
    goes (.pwrRequestDrowse coreM) (st (upE [])) (fun t => t.dev.power.transition = none && t.dev.fld .pwrState 7 4 = 2) = true ∧ goes (.pwrRequestActive coreM) (asked (some 1) up) (fun t => t.dev.power.heldReq = some 0 && t.dev.bit .pwrState 3) = true ∧
    goes (.pwrRequestActive coreM) (st up) (fun t => t.dev.power.transition = none && t.dev.out = [.coreDone 9]) = true := by decide +kernel
theorem test_powerEnters : goes .pwrTransitionDone (asked (some 2) up) (fun t => powerState t.dev = 2 && t.dev.bit (.memStatus 3) 3 && t.dev.portState 5 = 0) = true ∧
    goes .pwrTransitionDone (asked (some 3) up) (fun t => t.dev.power.rails = false && t.dev.power.off) = true ∧ goes .pwrTransitionDone (st up) (fun t => decide (t = st up)) = true := by decide +kernel
theorem test_cycle : goes (.cycleRequest coreM 0xC7C1#32) (st up) (fun t => (match t.dev.out with | [.tray 1 [_], .coreDone 9] => true | _ => false)) = true ∧ goes (.cycleRequest coreM 0xC7C0#32) (st up) (fun t => t.dev.out = [.coreDone 9]) = true := by decide +kernel

/-- A connection that has negotiated everything. -/
def conn3 : Spdm := { Spdm.reset with version := true, caps := true, algs := true, transcript := [1#8] }
def spdmS (c : Spdm) (sig : Option Transport) : State := st { up with spdm := [(.mctp, c)], signing := sig }
theorem wit_ManagementAnswers : up.power.standby = true ∧ spdmUp up .mctp = true ∧ spdmUp Dev.reset .mctp = false ∧ up.recovery = false ∧ (spdmS conn3 none).dev.conn .mctp = conn3 ∧ measurements up 1 = some ([1#8, 0#8, 64#8, 0#8] ++ up.meas 0) ∧
    (Dev.reset).power.standby = false := by decide +kernel
theorem test_tray : goes (.dynamicAddressAssignment 9) (st up) (fun t => t.dev.i3cAddr = some 9) = true ∧ goes (.mctpControlMessage [3#8]) (st up) (fun t => t.dev.out = [.tray 4 [3]]) = true ∧
    goes (.pldmBaseDiscovery []) (st up) (fun t => t.dev.out = [.tray 6 [0, 2, 5]]) = true ∧ goes (.pldmSensorRead 6) (st up) (fun t => t.dev.out = [.tray 7 [6, voltOf up 0]]) = true := by decide +kernel
def saysS (c : Instr) (s : State) (code : Nat) (body : List Byte) : Bool := goes c s fun t => t.dev.out = [.spdm .mctp code body]
theorem test_spdm : saysS (.getVersion .mctp [2#8]) (spdmS conn3 none) 4 [0x13#8] = true ∧ saysS (.getCapabilities .mctp []) (spdmS conn3 none) 0x61 [12#8, 0x16#8, 0#8, 0#8, 0#8] = true ∧ saysS (.getCapabilities .mctp []) (st up) 0x7F [4#8] = true ∧
    saysS (.negotiateAlgorithms .mctp [] [(3, 0x1FA7, 1)] [(0, 1, 1), (3, 0x1FA7, 1)]) (spdmS conn3 none) 0x63 [3#8, 0xA7#8, 0x1F#8, 1#8, 0#8, 3#8, 0xA7#8, 0x1F#8, 1#8, 0#8] = true ∧ saysS (.negotiateAlgorithms .mctp [] [(3, 0x1FA7, 1)] []) (spdmS conn3 none) 0x7F [1#8] = true ∧
    saysS (.getDigests .mctp []) (st up) 0x7F [4#8] = true ∧ saysS (.getCertificate .mctp [] 1 0 9) (spdmS conn3 none) 0x7F [1#8] = true ∧ saysS (.spdmUnsupportedRequest .mctp []) (spdmS conn3 none) 0x7F [7#8] = true := by decide +kernel
theorem test_spdmSigned : saysS (.getMeasurements .mctp [] 1 false) (spdmS conn3 none) 0x60 ([1#8, 0#8, 64#8, 0#8] ++ up.meas 0) = true ∧ saysS (.getMeasurements .mctp [] 11 true) (spdmS conn3 none) 0x7F [1#8] = true ∧
    goes (.challenge .mctp [] 0) (spdmS conn3 none) (fun t => t.dev.signing = some .mctp && t.dev.out.length = 1) = true ∧
    goes (.respondIfReady .mctp [] true) (spdmS { conn3 with deferred := some .challenge } none) (fun t => t.dev.signing = some .mctp && (t.dev.conn .mctp).deferred = none) = true ∧
    saysS (.respondIfReady .mctp [] false) (spdmS { conn3 with deferred := some .challenge } (some .doe)) 0x7F [0x42#8, 12#8, 2#8] = true := by decide +kernel

/-- The source registers of the security block name commander memory at 64 KiB, of some length. -/
def secS (len : Nat) (d : Dev) : State := st (regs [(.secOpSrc, 2 ^ 55 + 0x10000), (.secOpLen, len)] d)
theorem wit_SecurityOperations : Granted up coreM .sec .secOpCtrl ∧ up.bit .secOpStatus 0 = false ∧ up.loadState ≠ 1 ∧ up.loadState ≠ 2 ∧ (up.setBit .secStatus 0 true).recovery = true ∧ (secS 8 up).dev.pcie.busMaster = true ∧
    untag ((secS 8 up).dev.regN .secOpSrc) = .host 0x10000 ∧ (secS 8 up).dev.regN .secOpSrc % 4096 = 0 ∧ (secS 8 up).dev.regN .secOpLen = (List.replicate 8 0#8).length := by unfold Granted OfficesPass; decide +kernel
theorem test_svnCommit : goes (.svnCommit coreM) (st (up.setFld .secSvn 31 16 5)) (fun t => t.sec.fusedMin = 5 && t.dev.fld .secSvn 15 0 = 5 && t.dev.fld .secOpStatus 2 0 = 2) = true ∧
    goes (.svnCommit coreM) (st (up.setBit .secStatus 0 true)) (fun t => t.sec.fusedMin = 0 && t.dev.fld .secOpStatus 2 0 = 4 && t.dev.incHeld.length = 1) = true ∧
    goes (.svnCommit coreM) (st (up.setBit .secOpStatus 0 true)) (fun t => t.dev.out = [.coreDone 9] && t.dev.incHeld = []) = true := by decide +kernel
theorem test_fwWrite : goes (.fwWrite coreM []) (st (regs [(.secOpSrc, 2 ^ 55 + 8)] up)) (fun t => t.sec.flash = none && t.dev.fld .secOpStatus 2 0 = 4 && t.dev.incHeld.length = 1) = true ∧
    goes (.fwWrite coreM (List.replicate 8 0#8)) (secS 8 up) (fun t => t.sec.flash = none && t.dev.fld .secOpStatus 2 0 = 4 && t.dev.incHeld.length = 1) = true ∧
    goes (.pldmFirmwareUpdate (List.replicate 8 0#8)) (st up) (fun t => t.sec.flash = none && t.dev.out.length = 1 && t.dev.incHeld.length = 1) = true := by decide +kernel
theorem test_anchors : goes (.anchorAdd coreM (List.replicate 3328 0#8)) (secS 3328 up) (fun t => t.sec.anchors = [] && t.dev.fld .secOpStatus 2 0 = 4 && t.dev.incHeld.length = 1) = true ∧
    goes (.anchorRevoke coreM []) (st (up.setFld .structStatus 2 0 1)) (fun t => t.dev.secWait = some (2, []) && t.dev.bit .secOpStatus 0) = true := by decide +kernel

/-! ### Stages on lent objects (`EmbeddingStages`, `AttentionStages`, `StagesOnChannels`) -/

/-- The table carries every access of a node, and every answer. -/
def fabAll (n : Nat) : Bool := (List.range 32).all fun t => n = t || (fabricGoes fab t 16 n && fabricGoes fab n 16 t)
theorem fab_all : fabAll 12 = true ∧ fabAll 16 = true ∧ fabAll 18 = true ∧ fabAll 3 = true ∧ fabAll 2 = true := by decide +kernel

theorem bitsN_lt (x hi lo : Nat) : bitsN x hi lo < 2 ^ (hi + 1 - lo) := Nat.mod_lt _ (Nat.two_pow_pos _)
theorem nodeOf_lt (d : Dev) (a : Nat) : nodeOf d a < 32 := by
  unfold nodeOf
  split
  · rename_i p _; have := bitsN_lt (if bitN (d.regN (.memSegIset p)) (bitsN (a % 2 ^ 40) 39 36) then bitsN (bitsN (a % 2 ^ 40) 35 11) 8 0 ^^^ bitsN (bitsN (a % 2 ^ 40) 35 11) 17 9 ^^^ bitsN (bitsN (a % 2 ^ 40) 35 11) 24 18 else bitsN (bitsN (a % 2 ^ 40) 35 11) 8 0) 2 0
    unfold pcLoc; dsimp only; omega
  · rename_i h; unfold place at h
    split at h
    · cases h
    · split at h
      · injection h; omega
      · split at h <;> cases h
  · omega

theorem fab_routed {d : Dev} {im : PartImage} {n : Nat} (h1 : mapGet? d.parts 0 = some im) (h2 : im.fabric = fab) (h3 : d.installed 0 = true) (hn : fabAll n = true) :
    ∀ a k, place a = .slab 0 → routed d (some (0, n)) a k = true := by
  intro a k ha
  unfold routed
  rw [homeOf_slab ha]; dsimp only; rw [h1]
  simp only [h3, if_true, Option.map_some, h2]
  rw [Bool.or_eq_true]; right
  rw [List.all_eq_true]; intro g _
  have := List.all_eq_true.mp hn (nodeOf d g) (List.mem_range.mpr (nodeOf_lt d g))
  simpa using this

/-- No line of the register file is a lost channel. -/
theorem no_lost {d : Dev} (h : (d.regs.all fun e => match e.1 with | .memChanLost .. => false | _ => true) = true) (p k : Nat) : d.reg (.memChanLost p k) = 0#64 := by
  have key : ∀ l : Map Reg W64, (l.all fun e => match e.1 with | .memChanLost .. => false | _ => true) = true → mapGet? l (Reg.memChanLost p k) = none := by
    intro l
    induction l with
    | nil => intro _; rfl
    | cons e l ih =>
      intro h
      rw [List.all_cons, Bool.and_eq_true] at h
      have : e.1 ≠ Reg.memChanLost p k := fun he => by simp [he] at h
      simp only [mapGet?, this, if_false]; exact ih h.2
  simp only [Dev.reg, mapGet, key d.regs h]; rfl

/-- `Lent` and `Operand` as checks, for partition 0 with the table `fab`. -/
def lentB (d : Dev) (id : Nat) (o : Obj) : Bool :=
  decide (mapGet? d.objs id = some o ∧ isHandle id = false ∧ o.tier = 0 ∧ o.state = 0 ∧ place o.base = .slab 0 ∧ o.base + o.footprint < slabBase 1) &&
  decide (d.trained 0 = true ∧ d.bit (.memStatus 0) 3 = false ∧ d.retrains = [] ∧ d.mem.bad = [] ∧ d.lines = []) &&
  d.regs.all (fun e => match e.1 with | .memChanLost .. => false | _ => true) && d.installed 0 && decide ((mapGet? d.parts 0).map (·.fabric) = some fab)
theorem lent {d : Dev} {n id : Nat} {o : Obj} (hn : fabAll n = true) (h : lentB d id o = true) : Lent d 0 n id o := by
  simp only [lentB, Bool.and_eq_true, decide_eq_true_eq] at h
  obtain ⟨⟨⟨⟨⟨h1, h2, h3, h4, h5, h6⟩, h7, h8, h9, h10, h11⟩, h12⟩, h13⟩, h14⟩ := h
  obtain ⟨im, h15, h16⟩ := Option.map_eq_some_iff.mp h14
  exact ⟨h1, h2, h3, h4, by decide, h5, h6, ⟨h7, h8, no_lost h12 0, h9, h10, h11⟩, fab_routed h15 h16 h13 hn⟩
theorem operand {d : Dev} {x : Letter} {n i : Nat} {o : Obj} (hn : fabAll n = true)
    (h : (decide (i < x.nWords ∧ bitsN (x.word i) 63 56 = 0) && lentB d (wordObj (x.word i)) o) = true) : Operand d x 0 n i o := by
  simp only [Bool.and_eq_true, decide_eq_true_eq] at h
  exact ⟨h.1.1, h.1.2, lent hn h.2⟩

/-- `Reads` as a check: what is read keeps `P`. -/
def readsB {α : Type} (d : Dev) (a : Act α) (P : α → Bool) : Bool := match a.run d with | (.ok v, e) => decide (e = d) && P v | _ => false
theorem reads {α : Type} {d : Dev} {a : Act α} {P : α → Bool} (h : readsB d a P = true) : ∃ v, Reads d a v ∧ P v = true := by
  unfold readsB at h
  rcases hr : a.run d with ⟨_ | v, e⟩
  · simp [hr] at h
  · simp only [hr, Bool.and_eq_true, decide_eq_true_eq] at h
    exact ⟨v, by rw [Reads, hr, h.1], h.2⟩

/-! Lists of zeros -/

theorem leNat_zeros (n : Nat) : leNat (List.replicate n 0#8) = 0 := by induction n with | zero => rfl | succ n ih => simp [List.replicate_succ, leNat, ih]
theorem slice_zeros (n o k : Nat) : slice (List.replicate n 0#8) o k = List.replicate k 0#8 := by
  unfold slice; dsimp only; rw [List.drop_replicate, List.take_replicate, List.length_replicate, List.replicate_append_replicate]; congr 1; omega
theorem field_zeros (n o k : Nat) : field (List.replicate n 0#8) o k = 0 := by simp [field, slice_zeros, leNat_zeros]
theorem zeroRange_zeros (n o k : Nat) : zeroRange (List.replicate n 0#8) o k = true := by simp [zeroRange, slice_zeros]
theorem dirOk_zeros (a n : Nat) : dirOk a (List.replicate n (0, 0)) = some a := by induction n with | zero => rfl | succ n ih => simpa [List.replicate_succ, dirOk] using ih
/-- Nothing is written in a range. -/
def blankB (m : Mem) (a n : Nat) : Bool := m.holes.isEmpty && m.cells.all fun c => c.1 < a || a + n ≤ c.1
theorem read_blank {m : Mem} {a n : Nat} (h : blankB m a n = true) : m.read a n = List.replicate n 0#8 := by
  simp only [blankB, Bool.and_eq_true, List.isEmpty_iff] at h
  have key : ∀ (cs : List Host.Cell) (b : Nat), (cs.all fun c => c.1 < a || a + n ≤ c.1) = true → a ≤ b → b < a + n → cellGet? cs b = none := by
    intro cs
    induction cs with
    | nil => intros; rfl
    | cons c cs ih =>
      intro b hc h1 h2
      rw [List.all_cons, Bool.and_eq_true] at hc
      have : c.1 ≠ b := by intro he; have := hc.1; simp at this; omega
      simp only [cellGet?, this, if_false]; exact ih b hc.2 h1 h2
  apply List.ext_getElem
  · simp [Mem.read]
  · intro i h1 _
    simp only [Mem.read, List.length_map, List.length_range] at h1
    simp [Mem.read, Mem.get, key m.cells (a + i) h.2 (by omega) (by omega), Mem.unlisted, h.1, holeAt]

theorem size_footprint (o : Obj) : o.size ≤ o.footprint := by unfold Obj.footprint; split <;> omega
theorem needSize_ok {d : Dev} {x : Letter} {n i k : Nat} {o : Obj} (h : Operand d x 0 n i o) (hk : k ≤ o.size) : (needSize x i k).run d = (.ok (), d) := by
  rw [needSize, Act.run_ok (v := o) (e := d) (by simp [getObj, Act.run_bind, h.2.2.1]), if_neg (by omega)]; rfl
theorem wordLoad_ok {d : Dev} {x : Letter} {w : Who} {n i k off : Nat} {o : Obj} (h : Operand d x 0 n i o) (hw : w.src = some (0, n)) (hk : off + k ≤ o.size) :
    (wordLoad x w i off k).run d = (.ok (d.mem.read (o.base + off) k), d) := h.2.2.load hw (Nat.le_trans hk (size_footprint o))
/-- A list without entries, in an object that nothing has written. -/
theorem readDir_zeros {d : Dev} {x : Letter} {w : Who} {n i : Nat} {o : Obj} (h : Operand d x 0 n i o) (hw : w.src = some (0, n)) (hs : dataBase ≤ o.size)
    (hz : blankB d.mem o.base dataBase = true) : (readDir x w i).run d = (.ok (0, List.replicate 4096 (0, 0)), d) := by
  rw [readDir, Act.run_ok (needSize_ok h hs), Act.run_ok (wordLoad_ok h hw (by omega)), Nat.add_zero, read_blank hz, zeroRange_zeros]
  simp only [Bool.not_true, Bool.false_eq_true, if_false, Act.run_pure, field_zeros, List.map_const', List.length_range]
theorem reads_entries {d : Dev} {x : Letter} {w : Who} {n i : Nat} {o : Obj} (h : Operand d x 0 n i o) (hw : w.src = some (0, n)) (hs : dataBase ≤ o.size)
    (hz : blankB d.mem o.base dataBase = true) : Reads d (readEntries x w i) [] := by
  rw [Reads, readEntries, Act.run_ok (readDir_zeros h hw hs hz)]
  simp only [dirOk_zeros, maxEntries, Nat.not_lt_zero, ne_eq, not_true_eq_false, or_self, if_false]
  rw [Act.run_ok (needSize_ok h (by omega)), Act.run_ok (wordLoad_ok h hw (by omega))]
  have : (List.replicate 4096 ((0, 0) : Nat × Nat)).zipIdx.flatMap (fun e => List.replicate e.1.2 e.2) = [] := by
    rw [List.flatMap_eq_nil_iff]; rintro ⟨e, k⟩ he
    have h2 : e = (0, 0) := (List.mem_replicate.mp (List.fst_mem_of_mem_zipIdx he)).2
    simp [h2]
  rw [this]; rfl
theorem reads_records {d : Dev} {x : Letter} {w : Who} {n i : Nat} {o : Obj} (h : Operand d x 0 n i o) (hw : w.src = some (0, n)) (hs : dataBase ≤ o.size)
    (hz : blankB d.mem o.base dataBase = true) (f : EFmt) (len : Nat → Nat → Option Nat) : Reads d (readRecords x w i f len) [] := by
  rw [Reads, readRecords, Act.run_ok (readDir_zeros h hw hs hz)]
  have : ((List.replicate 4096 ((0, 0) : Nat × Nat)).zipIdx.filter fun e => e.1.2 ≠ 0) = [] := by
    rw [List.filter_eq_nil_iff]; rintro ⟨e, k⟩ he
    have h2 : e = (0, 0) := (List.mem_replicate.mp (List.fst_mem_of_mem_zipIdx he)).2
    simp [h2]
  simp only [this]; rfl

/-- A stage of route 0 that runs on objects of partition 0, with the letter's operand words. -/
def onObjs (r : Rec) (ws : List Nat) (objs : Map Nat Obj) (m : Mem) : State :=
  st { upE [r] with objs := objs, mem := m, runs := [newRun (rl ws) 0 r], letters := [rl ws] }
def obj (base size : Nat) : Obj := { obj9 with home := 0, base := base, size := size }
/-- An object with side records. -/
def objP (base size : Nat) : Obj := { obj base size with iset := 3 }
def actB (d : Dev) (kind st : Nat) (x : Letter) (r : Rec) : Bool :=
  decide (stageAt d l5 1 [kind] = some (x, 0, r) ∧ runOf d l5 1 ≠ none ∧ engineOut d 0 (stNode r) (slotOf (stKind r) (stArr r)) = false) && decide (st < 9)
theorem acting {d : Dev} {kind st : Nat} {x : Letter} {r : Rec} (h : actB d kind st x r = true) : Acting d l5 1 kind st x 0 r d := by
  simp only [actB, Bool.and_eq_true, decide_eq_true_eq] at h
  exact .inr ⟨h.1.1, h.1.2.1, h.1.2.2, rfl⟩

/-- A batch list of one sample, one feature of 8 columns and one entry, row 5; a shard map of one entry, owner 0. -/
def batch1 : List Byte := natLe 4 1 ++ natLe 2 1 ++ [0#8, 0#8] ++ natLe 4 1 ++ natLe 4 8 ++ List.replicate 48 0#8 ++ natLe 4 (8 * 65536) ++ List.replicate 60 0#8 ++
  natLe 4 0 ++ natLe 4 1 ++ List.replicate 56 0#8 ++ natLe 8 5
def embM : Mem := (up.mem.write 0x1000 batch1).write 0x2000 (natLe 4 1)
/-- The FP32 parcel of object 4, with its side record. -/
def parcel4 (m : Mem) : Mem := m.write 0x41000 (Side.toBytes ⟨9, 0, 0x3F80, 0, 1024, 4, 0, 0#32, []⟩)
def embObjs : Map Nat Obj := [(1, obj 0x1000 0x200), (2, obj 0x2000 80), (3, obj 0x20000 0x9000), (4, objP 0x40000 4096), (5, obj 0x50000 0x9000), (6, obj 0x60000 64)]
def splitR : Rec := stg 1 3 12 0 0xFFFF 0xFFFF [0, 0, 1, 2, 0xFF]
def splitS : State := onObjs splitR [1, 2, 3] embObjs embM
theorem wit_EmbeddingStages_split : Acting splitS.dev l5 1 3 1 (rl [1, 2, 3]) 0 splitR splitS.dev ∧ Operand splitS.dev (rl [1, 2, 3]) 0 12 0 (obj 0x1000 0x200) ∧
    Operand splitS.dev (rl [1, 2, 3]) 0 12 1 (obj 0x2000 80) ∧ Operand splitS.dev (rl [1, 2, 3]) 0 12 2 (obj 0x20000 0x9000) ∧
    (∃ m, Reads splitS.dev (readMap (rl [1, 2, 3]) (stageWho (rl [1, 2, 3]) 0 splitR) 1) m ∧ (ownerOf m 5).isSome = true) ∧
    (∃ b, Reads splitS.dev (readBatch (rl [1, 2, 3]) (stageWho (rl [1, 2, 3]) 0 splitR) 0) b ∧ decide (b.ents = [5] ∧ dataBase + 16 * b.ents.length ≤ 0x9000) = true) :=
  ⟨acting (by decide +kernel), operand fab_all.1 (by decide +kernel), operand fab_all.1 (by decide +kernel), operand fab_all.1 (by decide +kernel), reads (by decide +kernel), reads (by decide +kernel)⟩

/-- Objects 3 and 5 are lists without entries, object 6 an empty runs object. -/
def sortR : Rec := stg 1 3 12 0 0xFFFF 0xFFFF [1, 0, 0, 1, 2]
def sortS : State := onObjs sortR [3, 6, 1] embObjs embM
theorem sort_in : Operand sortS.dev (rl [3, 6, 1]) 0 12 0 (obj 0x20000 0x9000) := operand fab_all.1 (by decide +kernel)
theorem wit_EmbeddingStages_sort : Acting sortS.dev l5 1 3 1 (rl [3, 6, 1]) 0 sortR sortS.dev ∧ Operand sortS.dev (rl [3, 6, 1]) 0 12 1 (obj 0x60000 64) ∧ Operand sortS.dev (rl [3, 6, 1]) 0 12 2 (obj 0x1000 0x200) ∧
    Reads sortS.dev (readEntries (rl [3, 6, 1]) (stageWho (rl [3, 6, 1]) 0 sortR) 0) [] ∧ (runsAt 0 0).2 + 4 * 0 ≤ 64 :=
  ⟨acting (by decide +kernel), operand fab_all.1 (by decide +kernel), operand fab_all.1 (by decide +kernel), reads_entries sort_in rfl (by decide) (by decide +kernel), by decide⟩

def gatherR : Rec := stg 1 4 12 0 0xFFFF 0xFFFF [0, 0, 0, 1, 2, 3]
def gatherW : List Nat := [3, 6, 1, 5]
def gatherS : State := onObjs gatherR gatherW embObjs embM
theorem gather_in : Operand gatherS.dev (rl gatherW) 0 12 0 (obj 0x20000 0x9000) := operand fab_all.1 (by decide +kernel)
theorem wit_EmbeddingStages_gather : Acting gatherS.dev l5 1 4 1 (rl gatherW) 0 gatherR gatherS.dev ∧ gatherS.dev.bit (.embStatus 0 12) 6 = false ∧ Operand gatherS.dev (rl gatherW) 0 12 1 (obj 0x60000 64) ∧
    Operand gatherS.dev (rl gatherW) 0 12 2 (obj 0x1000 0x200) ∧ Operand gatherS.dev (rl gatherW) 0 12 3 (obj 0x50000 0x9000) ∧ Reads gatherS.dev (readEntries (rl gatherW) (stageWho (rl gatherW) 0 gatherR) 0) [] ∧
    (∃ ru, Reads gatherS.dev (readRuns (rl gatherW) (stageWho (rl gatherW) 0 gatherR) 1 0) ru ∧ decide (ru.uniq = [] ∧ 64 + ru.uniq.length * 4160 ≤ 0x200) = true) ∧
    Reads gatherS.dev (fetchRows (stageWho (rl gatherW) 0 gatherR) 0 12 false []) [] :=
  ⟨acting (by decide +kernel), by decide +kernel, operand fab_all.1 (by decide +kernel), operand fab_all.1 (by decide +kernel), operand fab_all.1 (by decide +kernel),
   reads_entries gather_in rfl (by decide) (by decide +kernel), reads (by decide +kernel), rfl⟩

def combineR : Rec := stg 1 4 12 0 0xFFFF 0xFFFF [1, 0, 0, 1, 0, 2]
def combineW : List Nat := [3, 1, 4]
def combineS : State := onObjs combineR combineW embObjs embM
theorem combine_in : Operand combineS.dev (rl combineW) 0 12 0 (obj 0x20000 0x9000) := operand fab_all.1 (by decide +kernel)
theorem wit_EmbeddingStages_combine : Acting combineS.dev l5 1 4 1 (rl combineW) 0 combineR combineS.dev ∧ Operand combineS.dev (rl combineW) 0 12 1 (obj 0x1000 0x200) ∧ Operand combineS.dev (rl combineW) 0 12 2 (objP 0x40000 4096) ∧
    (∃ b, Reads combineS.dev (readBatch (rl combineW) (stageWho (rl combineW) 0 combineR) 1) b ∧ decide (ceilDiv b.samples 128 * ceilDiv b.cols 8 = 1) = true) ∧
    (∀ f len, Reads combineS.dev (readRecords (rl combineW) (stageWho (rl combineW) 0 combineR) 0 f len) []) ∧ Holds (objP 0x40000 4096) 0 1 :=
  ⟨acting (by decide +kernel), operand fab_all.1 (by decide +kernel), operand fab_all.1 (by decide +kernel), reads (by decide +kernel),
   fun f len => reads_records combine_in rfl (by decide) (by decide +kernel) f len, by unfold Holds; decide⟩

def scatterR : Rec := stg 1 4 12 0 0xFFFF 0xFFFF [2, 0, 0, 1, 2, 3]
def scatterW : List Nat := [1, 3, 4, 5]
def scatterS : State := onObjs scatterR scatterW embObjs (parcel4 embM)
theorem scatter_in : Operand scatterS.dev (rl scatterW) 0 12 1 (obj 0x20000 0x9000) := operand fab_all.1 (by decide +kernel)
theorem wit_EmbeddingStages_scatter : Acting scatterS.dev l5 1 4 1 (rl scatterW) 0 scatterR scatterS.dev ∧ Operand scatterS.dev (rl scatterW) 0 12 0 (obj 0x1000 0x200) ∧ Operand scatterS.dev (rl scatterW) 0 12 2 (objP 0x40000 4096) ∧
    Operand scatterS.dev (rl scatterW) 0 12 3 (obj 0x50000 0x9000) ∧ Reads scatterS.dev (readEntries (rl scatterW) (stageWho (rl scatterW) 0 scatterR) 1) [] ∧
    (∃ v, Reads scatterS.dev (matParcels (rl scatterW) (stageWho (rl scatterW) 0 scatterR) 2 8 0 0 8) v ∧ (v.2.all fun e => decide (e.2.fmt = .fp32)) = true) :=
  ⟨acting (by decide +kernel), operand fab_all.1 (by decide +kernel), operand fab_all.1 (by decide +kernel), operand fab_all.1 (by decide +kernel),
   reads_entries scatter_in rfl (by decide) (by decide +kernel), reads (by decide +kernel)⟩

/-- An update without rows, in the open step of context 3; object 6 is both the empty runs object and the journal's place. -/
def updR (mode : Nat) : Rec := stg 1 5 12 0 0xFFFF 0xFFFF [mode, 0, 1, 2, 3, 5, 0xFF]
def updW : List Nat := [3, 6, 5, 0, 0, 7]
def updX1 : Letter := { rl updW with bracket := 1 }
def updS (mode : Nat) : State :=
  let d := atState 1 (upE [updR mode])
  st { d with objs := (7, obj 0x61000 64) :: embObjs, mem := embM, runs := [newRun updX1 0 (updR mode)], letters := [updX1] }
theorem upd_in : Operand (updS 0).dev updX1 0 12 0 (obj 0x20000 0x9000) ∧ Operand (updS 0).dev updX1 0 12 2 (obj 0x50000 0x9000) := ⟨operand fab_all.1 (by decide +kernel), operand fab_all.1 (by decide +kernel)⟩
theorem wit_EmbeddingStages_update : Acting (updS 0).dev l5 1 5 1 updX1 0 (updR 0) (updS 0).dev ∧ Acting (updS 1).dev l5 1 5 1 updX1 0 (updR 1) (updS 1).dev ∧ Operand (updS 0).dev updX1 0 12 1 (obj 0x60000 64) ∧
    Operand (updS 0).dev updX1 0 12 5 (obj 0x61000 64) ∧ Reads (updS 0).dev (readEntries updX1 (stageWho updX1 0 (updR 0)) 0) [] ∧
    (∃ ru, Reads (updS 0).dev (readRuns updX1 (stageWho updX1 0 (updR 0)) 1 0) ru ∧ decide (ru.uniq = []) = true) ∧
    (∀ f len, Reads (updS 0).dev (readRecords updX1 (stageWho updX1 0 (updR 0)) 2 f len) []) ∧ stepState (updS 0).dev 3 = 1 ∧ 4 + 1 < updX1.nWords :=
  ⟨acting (by decide +kernel), acting (by decide +kernel), operand fab_all.1 (by decide +kernel), operand fab_all.1 (by decide +kernel), reads_entries upd_in.1 rfl (by decide) (by decide +kernel), reads (by decide +kernel),
   fun f len => reads_records upd_in.2 rfl (by decide) (by decide +kernel) f len, by decide +kernel, by decide +kernel⟩
theorem wit_EmbeddingStages_journal : journalActive (updS 0).dev 0 12 3 = false := no_journals 3 (by decide +kernel) 0 12

/-- RECOVER on an unused journal, and on an empty one that is to be discarded. -/
def recR : Rec := stg 1 5 12 0 0xFFFF 0xFFFF [2, 0, 0, 0, 0, 1]
def recS (flag : Nat) : State := onObjs recR [1, 7] ((7, obj 0x61000 64) :: embObjs) (embM.write 0x61015 [BitVec.ofNat 8 flag])
theorem wit_EmbeddingStages_recover : Acting (recS 0).dev l5 1 5 2 (rl [1, 7]) 0 recR (recS 0).dev ∧ Operand (recS 0).dev (rl [1, 7]) 0 12 1 (obj 0x61000 64) ∧ stepState (recS 0).dev 3 = 0 ∧ (recS 0).dev.bit (.gateStep 3) 6 = false ∧
    bitN (field ((recS 0).dev.mem.read 0x61000 64) 0x15 1) 0 = false ∧ bitN (field ((recS 1).dev.mem.read 0x61000 64) 0x15 1) 0 = true ∧ field ((recS 1).dev.mem.read 0x61000 64) 8 8 = 0 ∧
    journalActive (recS 0).dev 0 12 3 = false :=
  ⟨acting (by decide +kernel), operand fab_all.1 (by decide +kernel), by decide +kernel, by decide +kernel, by decide +kernel, by decide +kernel, by decide +kernel, no_journals 3 (by decide +kernel) 0 12⟩
theorem test_recover : goes (.recover l5 1) (recS 0) (fun t => (t.dev.letters.map (·.stages)) = [[1]]) = true ∧ goes (.recover l5 1) (recS 1) (fun t => bitN (field (t.dev.mem.read 0x61000 64) 0x15 1) 0 = false) = true := by decide +kernel

/-- Pool 0 of context 3: BF16, one head of 32, one frame, two sequences, its data in object 8. -/
def poolB : List Byte := natLe 4 (8 + 2 ^ 24) ++ [8#8, 1#8] ++ natLe 2 32 ++ natLe 4 1 ++ natLe 4 2 ++ natLe 4 0x1000 ++ natLe 4 0x200 ++ natLe 4 1 ++ [3#8, 0#8] ++ natLe 2 8
def histC : Rec := natLe 1 19 ++ natLe 1 7 ++ natLe 2 0 ++ natLe 4 0x10000 ++ natLe 4 0x2000
def side (id i : Nat) : List Byte := Side.toBytes ⟨8, 0, 0x3F80, 0, 2048, id, i, 0#32, []⟩
/-- The pool in the history table; object 4 is a matrix of one row of 32, of zeros; `seq` is the VALID byte of sequence 0. -/
def attM (seq : Nat) : Mem := (((Mem.write ⟨[], [], []⟩ (windowBase 0 19 + 0x10000) poolB).write (windowBase 0 19 + 0x10205) [BitVec.ofNat 8 seq]).write 0x42000 (side 4 0)).write 0x42200 (side 4 1)
def attObjs : Map Nat Obj := [(1, obj 0x1000 0x100), (4, objP 0x40000 8192), (5, objP 0x50000 4096), (8, objP 0x80000 32768)]
def attW : List Nat := [1, 4, 5]
/-- A stage of the attention engine on node 16 in a mode; the list is word 0, every matrix word 1, the statistics word 2. -/
def attR (mode : Nat) : Rec := stg 1 7 16 0 0xFFFF 0xFFFF [mode, 0, 0, 8, 0, 1, 1, 1, 1, if mode = 0 then 2 else 1, 0xFF]
def attS (mode seq : Nat) (list : List Byte) : State :=
  let r := attR mode
  let d := upE [r]
  st { d with objs := attObjs, mem := (attM seq).write 0x1000 list, runs := [newRun (rl attW) 0 r], letters := [rl attW],
              parts := d.parts.map fun (e : Nat × PartImage) => (e.1, { e.2 with carve := histC :: e.2.carve }) }
/-- A list of one entry. -/
def one (e : Nat) : List Byte := natLe 4 1 ++ List.replicate 60 0#8 ++ natLe 8 e
def attRow (s : State) (r : Rec) (word cols : Nat) : Bool := readsB s.dev (matRow (rl attW) 0 r false 0 word cols 0) fun _ => true
/-- What every clause asks of the pool and the list. -/
def attPool (s : State) : Bool := decide (poolValid s.dev 0 0 = true ∧ (pool s.dev 0 0).owner = 3 ∧ (pool s.dev 0 0).seqs = 2 ∧ (pool s.dev 0 0).cols = 32 ∧ (pool s.dev 0 0).heads = 1 ∧ 0x200 ≤ (pool s.dev 0 0).seqRec)
theorem wit_AttentionStages : Operand (attS 0 1 (one 0)).dev (rl attW) 0 16 0 (obj 0x1000 0x100) ∧ (([0, 1, 2, 3, 4, 5] : List Nat).all fun m => attPool (attS m 1 (one 0)) && actB (attS m 1 (one 0)).dev 7 3 (rl attW) (attR m)) = true :=
  ⟨operand fab_all.2.1 (by decide +kernel), by decide +kernel⟩
theorem wit_AttentionStages_pool : Acting (attS 5 0 []).dev l5 1 7 3 (rl attW) 0 (attR 5) (attS 5 0 []).dev ∧ field ((attS 5 0 []).dev.mem.read 0x1000 64) 0x10 4 = 0 ∧ (∀ k < 2, seqValid (attS 5 0 []).dev (pool (attS 5 0 []).dev 0 0) k = false) ∧
    (∀ f < 1, pageReaders (attS 5 0 []).dev (pool (attS 5 0 []).dev 0 0) f = 0) ∧ goes (.attPoolInit l5 1) (attS 5 0 []) (fun t => poolValid t.dev 0 0 = false && (t.dev.letters.map (·.stages)) = [[1]]) = true :=
  ⟨acting (by decide +kernel), by decide +kernel, by decide +kernel, by decide +kernel, by decide +kernel⟩
theorem wit_AttentionStages_lists : zeroRange ((attS 2 1 []).dev.mem.read 0x1000 64) 4 60 = true ∧ field ((attS 2 1 []).dev.mem.read 0x1000 64) 0 4 = 0 ∧ goes (.attAppend l5 1) (attS 2 1 []) (fun t => (t.dev.letters.map (·.stages)) = [[1]]) = true ∧
    (bitsN (1 + 0xFFFF * 2 ^ 16) 31 16 = 0xFFFF ∧ seqValid (attS 3 1 []).dev (pool (attS 3 1 []).dev 0 0) 1 = false ∧ goes (.attFork l5 1) (attS 3 1 (one (1 + 0xFFFF * 2 ^ 16))) (fun t => seqValid t.dev (pool t.dev 0 0) 1) = true) ∧
    (seqValid (attS 4 1 []).dev (pool (attS 4 1 []).dev 0 0) 0 = true ∧ seqPages (attS 4 1 []).dev (pool (attS 4 1 []).dev 0 0) 0 = [] ∧ goes (.attRelease l5 1) (attS 4 1 (one 0)) (fun t => !seqValid t.dev (pool t.dev 0 0) 0) = true) := by decide +kernel
/-- Sequence 0 has one token, in frame 0; one more is appended to it. -/
def appS : State :=
  let s := attS 2 1 (one (2 ^ 32))
  let m := ((s.dev.mem.write (windowBase 0 19 + 0x10200) (natLe 4 1 ++ [1#8, 1#8])).write (windowBase 0 19 + 0x11000) (natLe 8 (2 ^ 63 + 2 ^ 32 + 1))).write 0x88000 ((List.range 8).flatMap (side 8))
  { s with dev := { s.dev with mem := m } }
theorem wit_AttentionStages_append : ((appendEntry (rl attW) 0 (attR 2) (pool appS.dev 0 0) 0 (2 ^ 32)).run appS.dev).1.toOption = some 1 ∧
    attPool appS = true ∧ actB appS.dev 7 3 (rl attW) (attR 2) = true := by decide +kernel
theorem wit_AttentionStages_rows : (attRow (attS 0 1 (one 0)) (attR 0) 1 32 && attRow (attS 1 1 (one 0)) (attR 1) 1 32 && attRow (attS 1 1 (one 0)) (attR 1) 1 1) = true ∧ seqLen (attS 0 1 []).dev (pool (attS 0 1 []).dev 0 0) 0 = 0 ∧
    Operand (attS 0 1 (one 0)).dev (rl attW) 0 16 2 (objP 0x50000 4096) ∧ Holds (objP 0x50000 4096) 0 1 ∧ 0x50000 + (objP 0x50000 4096).footprint ≤ windowBase 0 19 + 0x10000 :=
  ⟨by decide +kernel, by decide +kernel, operand fab_all.2.1 (by decide +kernel), by unfold Holds; decide, by decide +kernel⟩
theorem test_attForward : goes (.attForward l5 1) (attS 0 1 (one 0)) (fun t => leNat (t.dev.mem.read 0x50000 4) = 0xFF800000 && (t.dev.letters.map (·.stages)) = [[1]]) = true := by decide +kernel

def inA (ch : Nat) (r : Rec) : Rec := patch r 8 (natLe 2 ch)
/-- A stage that runs, with items in its channels. -/
def onChan (rs : List Rec) (r : Rec) (x : Letter) (objs : Map Nat Obj) (m : Mem) (cs : Map (LetterId × Nat × Nat) (List Item)) : State :=
  st { upE rs with objs := objs, mem := m, runs := [newRun x 0 r], letters := [x], chans := cs }
theorem wit_StagesOnChannels_send : Acting (onChan [sendS] sendS (rl []) [] up.mem []).dev l5 1 8 1 (rl []) 0 sendS (onChan [sendS] sendS (rl []) [] up.mem []).dev ∧ mMode sendS = 1 ∧ mFlag sendS 1 = false ∧
    (findRed (upE [sendS]) 0 (mMailbag sendS)).isSome = true ∧ mWordSeed sendS = 0xFF ∧ (0, 3, 6) ∉ (upE [sendS]).redBad := ⟨acting (by decide +kernel), by decide +kernel⟩

/-- An array stage of two row tiles, and the GRAD stage that takes them from channel 5 into mailbag 6, of object 9. -/
def prodG : Rec := stg 0 0 2 0 4 5 [0, 1, 1, 0, 0, 0, 0xFF, 1]
def gradR : Rec := inA 5 (stg 1 8 18 0 0xFFFF 0xFFFF [0, 0, 0, 0xFF, 6])
def gradG : State := onChan [prodG, gradR] gradR (rl [1, dims 129 8 32]) [(9, objP 0x40000 8192)] up.mem [((l5, 0, 5), [.tile 0 [7#32], .tile 1 [7#32]])]
theorem wit_StagesOnChannels_grad : (stageAt gradG.dev l5 1 [8] = some (rl [1, dims 129 8 32], 0, gradR) ∧ mMode gradR = 0 ∧ runOf gradG.dev l5 1 = some (newRun (rl []) 0 gradR) ∧ engineOut gradG.dev 0 18 (newRun (rl []) 0 gradR).slot = false ∧
    (rl [1, dims 129 8 32]).word (mWordMb gradR) = 1 ∧ (producers gradG.dev (rl [1, dims 129 8 32]) 0 gradR).head? = some prodG ∧ (findRed gradG.dev 0 6).map rdObj = some 9 ∧ earlierGrad gradG.dev (rl [1, dims 129 8 32]) 0 6 = false ∧
    dimsOf (rl [1, dims 129 8 32]) prodG = (129, 8, 32) ∧ gradG.dev.chan l5 0 (stInA gradR) = [.tile 0 [7#32], .tile 1 [7#32]] ∧ (∀ e ∈ tileParcels 129 8 0, (objP 0x40000 8192).hasSide = true ∧ 4096 * (e.1 + 1) ≤ 8192) ∧ 0 + 1 < tileCount 129 8) ∧
    Lent gradG.dev 0 18 9 (objP 0x40000 8192) := ⟨by decide +kernel, lent fab_all.2.2.1 (by decide +kernel)⟩

/-- EXCHANGE of an entry list without entries. -/
def xchR : Rec := stg 1 8 18 0 0xFFFF 0xFFFF [2, 0, 0, 0xFF, 0, 0, 0, 0, 0, 1]
def xchG : State := onChan [xchR] xchR (rl [3, 5]) embObjs embM []
def xchE : Exch := ⟨l5, 1, 0, 0, 0, 0, 3, 0, 0, [], false, [], [], [], []⟩
theorem wit_StagesOnChannels_exchange : Acting xchG.dev l5 1 8 1 (rl [3, 5]) 0 xchR xchG.dev ∧ (findExch xchG.dev (l5, 1) = none ∧ mFlag xchR 1 = false ∧ xSrc xchR = 0 ∧ xDst xchR = 1 ∧
      mapGet? xchG.dev.objs (wordObj ((rl [3, 5]).word 0)) = some (obj 0x20000 0x9000) ∧ mapGet? xchG.dev.objs (wordObj ((rl [3, 5]).word 1)) = some (obj 0x50000 0x9000) ∧ exchWord xchG.dev xchE (xSrc (exchRec xchG.dev xchE)) = 3) ∧
    Reads xchG.dev (outDir xchG.dev xchE) (List.replicate 4096 (0, 0), 0x9000 - dataBase) ∧ ∀ c ∈ List.replicate 4096 ((0, 0) : Nat × Nat), c.2 = 0 := by
  have hl : Lent xchG.dev 0 18 3 (obj 0x20000 0x9000) := lent fab_all.2.2.1 (by decide +kernel)
  have hw : exchWord xchG.dev xchE (xSrc (exchRec xchG.dev xchE)) = 3 := by decide +kernel
  refine ⟨acting (by decide +kernel), by decide +kernel, ?_, fun c hc => by rw [(List.mem_replicate.mp hc).2]⟩
  have hb : blankB xchG.dev.mem (0x20000 + 0) dataBase = true := by decide +kernel
  have hr : (objLoad (exchWho xchE) 3 0 dataBase).run xchG.dev = (.ok (List.replicate dataBase 0#8), xchG.dev) := by
    rw [hl.load rfl (by decide), show (obj 0x20000 0x9000).base = 0x20000 from rfl, read_blank hb]
  rw [Reads, outDir, hw]
  show Act.run (getObj 3 >>= _) xchG.dev = _
  rw [Act.run_ok (v := obj 0x20000 0x9000) (e := xchG.dev) (by simp [getObj, Act.run_bind, hl.1]),
    show wordObj 3 = 3 by decide, Act.run_ok hr]
  simp only [Act.run_pure, field_zeros, List.map_const', List.length_range]; rfl

/-- TIE_SUM of two slots of one parcel, named by object 5; the token has come on channel 5. -/
def tieR : Rec := inA 5 (stg 1 9 18 0 0xFFFF 0xFFFF [1, 0, 0, 0, 5])
def parcelAt (m : Mem) (id base : Nat) : Mem := m.write (base + 4096) (Side.toBytes ⟨9, 0, 0x3F80, 0, 1024, id, 0, 0#32, []⟩)
def tieM : Mem := parcelAt (parcelAt (up.mem.write 0x1000 (natLe 4 2 ++ natLe 4 1 ++ natLe 4 8 ++ List.replicate 52 0#8 ++ natLe 4 6 ++ natLe 4 7)) 6 0x40000) 7 0x50000
def tieG : State := onChan [tieR] tieR (rl []) [(5, obj 0x1000 0x100), (6, objP 0x40000 4096), (7, objP 0x50000 4096)] tieM [((l5, 0, 5), [.token 0])]
def tieD : Dev := ((takeToken tieG.dev l5 0 5).getD (0, tieG.dev)).2
theorem wit_StagesOnChannels_tie : Acting tieG.dev l5 1 9 1 (rl []) 0 tieR tieG.dev ∧ takeToken tieG.dev l5 0 (stInA tieR) = some (0, tieD) ∧ Lent tieD 0 18 (uObj tieR) (obj 0x1000 0x100) ∧
    (let h := tieD.mem.read 0x1000 64; field h 0 4 = 2 ∧ field h 4 4 = 1 ∧ field h 8 4 = 8 ∧ zeroRange h 0xC 52 = true ∧ gradParcels 1 8 = 1 ∧ u32s (tieD.mem.read 0x1040 8) 2 = [6, 7]) ∧ Lent tieD 0 18 6 (objP 0x40000 4096) ∧ Holds (objP 0x40000 4096) 0 1 ∧
    (∃ v, Reads tieD (groupVals (stageWho (rl []) 0 tieR) 6 0) v ∧ (v.length = 1024 : Bool) = true) ∧ ∃ v, Reads tieD (addSlots (stageWho (rl []) 0 tieR) 0 [7] (List.replicate 1024 0#32)) v ∧ (v.length = 1024 : Bool) = true :=
  ⟨acting (by decide +kernel), by decide +kernel, lent fab_all.2.2.1 (by decide +kernel), by decide +kernel, lent fab_all.2.2.1 (by decide +kernel), by unfold Holds; decide, reads (by decide +kernel), reads (by decide +kernel)⟩

/-- The franker sends the first of the two FP32 parcels of a drained tile of 1 by 16 from channel 5 to channel 6. -/
def frankR : Rec := inA 5 (stg 1 1 3 0 0xFFFF 6 [4, 9, 0, 0, 0, 0xFF, 0, 0xFF])
def frankG : State := onChan [frankR] frankR (rl [dims 1 1 16]) [] up.mem [((l5, 0, 5), [.tile 0 [0x3F800000#32]])]
theorem wit_StagesOnChannels_franker : (stageAt frankG.dev l5 1 [1] = some (rl [dims 1 1 16], 0, frankR) ∧ runOf frankG.dev l5 1 = some (newRun (rl []) 0 frankR) ∧ engineOut frankG.dev 0 3 (newRun (rl []) 0 frankR).slot = false ∧
    recU frankR 22 1 = 0 ∧ bitN ((rl [dims 1 1 16]).word 0) 63 = false ∧ dimM (dims 1 1 16) = 1 ∧ dimK (dims 1 1 16) = 16 ∧ recU frankR 21 1 = 0xFF ∧ recU frankR 23 1 = 0xFF ∧ fFlag frankR 0 = false ∧ fFlag frankR 1 = false ∧ fFlag frankR 2 = true ∧
    frankG.dev.chan l5 0 (stInA frankR) = [.tile 0 [0x3F800000#32]] ∧ tileTurn frankG.dev (rl [dims 1 1 16]) 0 frankR = true ∧ (fTarget frankR).width = 8 ∧ 128 / 8 * (0 / ceilDiv 1 128) + 0 < ceilDiv 16 8) ∧
    ∀ i pl sd, chanRoom frankG.dev l5 0 (stOutA frankR) (.parcel i pl sd) = true :=
  ⟨by decide +kernel, fun _ _ _ => rfl⟩
set_option maxRecDepth 100000 in
theorem test_frankSend : goes (.frankerParcel l5 1) frankG (fun t => ((t.dev.chan l5 0 6).map fun i => match i with | .parcel 0 pl _ => pl.take 4 | _ => []) = [[0#8, 0#8, 0x80#8, 0x3F#8]] && t.dev.reg (.frkProgress 0 3) = 1#64) = true := by decide +kernel

/-- A card without inputs, of one step; its group is two halves wide for a BF16 output. -/
def vecW : State := withLetter cardD (rl [dims 1 1 1])
def vecE : Dev := vecW.dev.startStage (rl [dims 1 1 1]) 0 cardS 1
theorem wit_StagesOnChannels_card : StageDue vecW.dev l5 1 6 (rl [dims 1 1 1]) 0 cardS ∧ Lent vecE 0 16 (recU cardS 16 3) { obj9 with home := 0, base := 0x1000, size := 256 } ∧ vecE.mem.read 0x1000 256 = card ∧ cardCause card cardS = none ∧
    ((List.range 3).filterMap (fun i => if (cardInput card i).1 = 3 then some (cardInput card i).2.2 else none) ++ (usedOuts card).filterMap (fun e => if e.2.store ∨ classStoch e.2.cls = true then some e.2.word else none)) = [] ∧
    field card 0x21 1 = 0xFF ∧ field card 0x23 1 = 0 ∧ vBase cardS + field card 0x20 1 = 0 ∧ bitN (dims 1 1 1) 63 = false ∧ 0 < dimM (dims 1 1 1) ∧ 0 < dimK (dims 1 1 1) :=
  ⟨by unfold StageDue; decide +kernel, lent fab_all.2.1 (by decide +kernel), by decide +kernel, by decide +kernel, by decide +kernel, by decide +kernel, by decide +kernel, by decide +kernel, by decide +kernel, by decide +kernel, by decide +kernel⟩
def cardB : List Byte := patch card 0x12 [8#8]
def vecB : State := st { vecW.dev with runs := [{ newRun (rl []) 0 cardS with card := cardB }] }
theorem wit_StagesOnChannels_group : stageAt vecB.dev l5 1 [6] = some (rl [dims 1 1 1], 0, cardS) ∧ runOf vecB.dev l5 1 = some { newRun (rl []) 0 cardS with card := cardB } ∧ engineOut vecB.dev 0 16 (newRun (rl []) 0 cardS).slot = false ∧ cardB ≠ [] ∧
    (∀ i < 3, (cardInput cardB i).1 = 0) ∧ (0 + 1) % (128 * groupWidth cardB / 1024) ≠ 0 := by decide +kernel

/-- The first parcel of object 9 lands in slot 0 of node 2. -/
theorem wit_StagesOnChannels_landed : (findLetter (delS (dl 2 [] [])).dev l5 = some (rl []) ∧ delivRec (delS (dl 2 [] [])).dev 0 0 = some delR ∧ delivEngine (recU delR 16 1) = (2, 1) ∧ recU delR 8 4 + 0 = 0 ∧
      (Side.ofBytes ((delS (dl 2 [] [])).dev.mem.read 0x3000 512)).named 9 0 = true ∧ slotAddr (delS (dl 2 [] [])).dev 0 (recU delR 16 1) (recU delR 20 4 + 0) = some (windowBase 0 2 + 0x100000) ∧
      place (windowBase 0 2 + 0x100000) = .window 0 2 0x100000 ∧ exists_ (delS (dl 2 [] [])).dev (windowBase 0 2 + 0x100000) 4608 true = true ∧ routed (delS (dl 2 [] [])).dev (some (0, 2)) (windowBase 0 2 + 0x100000) 4096 = true ∧
      routed (delS (dl 2 [] [])).dev (some (0, 2)) (windowBase 0 2 + 0x101000) 512 = true) ∧ Lent (delS (dl 2 [] [])).dev 0 2 9 { obj9 with home := 0, base := 0x1000, iset := 3, size := 8192 } ∧
    Holds { obj9 with home := 0, base := 0x1000, iset := 3, size := 8192 } 0 1 := ⟨by decide +kernel, lent fab_all.2.2.2.2 (by decide +kernel), by unfold Holds; decide⟩

/-! ### Further clauses: links, mailbags in flight, arrays, errors -/

theorem wit_copy_routed : ∀ a k, place a = .slab 0 → routed copyD (some (0, 18)) a k = true := fab_routed rfl rfl (by decide +kernel) fab_all.2.2.1

/-- 768 reads outstanding: no tag is free (R371). -/
def full768 : Dev := { core5 with remotes := (List.range 768).map fun k => ⟨k, k, 0, 8, false, none, .core 7, none, none⟩ }
theorem wit_core_tags : freeTag full768 = none ∧ (∀ r ∈ full768.remotes, r.who ≠ .core 5) ∧
    goes (.coreAccess 5 .u (0x1FF8 + 2 ^ 55) (.load 8)) (st full768) (fun t => t.dev.out = [.coreWait 5] && t.dev.remotes.length = 768 && t.dev.held.length = 1) = true := by decide +kernel

theorem wit_msix_masked : up.pcie.msixEnable = false ∧ goes (.msixUnmask (.vector 0)) (st (regs [(.msixEntry 3, 1)] up)) (fun t => !t.dev.bit (.msixEntry 3) 0 && t.dev.out.isEmpty) = true ∧
    barsOn up = true ∧ up.recovery = false := by decide +kernel
theorem test_atomic : goes (.bar2Read 0x40 (.atomic 4)) (st up) (fun t => t.dev.out = [.unsupported] && bitN t.dev.pcie.aer 20) = true := by decide +kernel
/-- An engine's write of a guarded register is an address fault (R32). -/
theorem test_engine_write : goes (.registerWrite (.engine 3 0 3 1 (some l5) 1) 0x1010 4 1#64) (running [] []) (fun t => result t = some (some (0x10, 1)) && t.dev.incHeld.length = 1) = true := by decide +kernel

/-- A burst in error, and a pseudo-channel that retrains, at the bottom of partition 1's slab. -/
theorem wit_StackedMemory_held : homeCheck { up with mem := { up.mem with bad := [0x10000000000 / 64] } } 1 0x10000000000 64 false = some (.mem 0x10000000000 1) ∧
    homeCheck { up with retrains := [(1, 0, 0, 0)] } 1 0x10000000000 64 false = some (.wait 3) ∧
    goes (.memoryRequest ⟨0x10000000000, none, 64, .clean⟩) (st { up with mem := { up.mem with bad := [0x10000000000 / 64] } }) (fun t => t.dev.out = [.memError]) = true ∧
    goes (.memoryRequest ⟨0x10000000000, none, 64, .clean⟩) (st { up with retrains := [(1, 0, 0, 0)] }) (fun t => t.dev.held.length = 1) = true := by decide +kernel

/-- Port 3 has role dimension 3 and stays DISABLED (R347). -/
def role3 : Dev := regs [(.crrPortRole 3, 3)] (ringD [])
theorem wit_Switches_role3 : (role3.portState 3 = 0 ∧ role3.modImage ≠ none ∧ role3.portRole 3 % 4 = 3) ∧
    goes (.crrPortEnableWrite coreM 3 true) (st role3) (fun t => t.dev.portState 3 = 0 && t.dev.bit (.crrPortCtrl 3) 0) = true := by decide +kernel

/-- A GRAD stage with WAIT_TOKEN on channel 7: it waits, and starts when the token has come (R354). -/
def waitG : Rec := stg 1 8 18 0 7 0xFFFF [0, 2, 0, 0xFF, 6]
def waitS (cs : Map (LetterId × Nat × Nat) (List Item)) : State := st { upE [waitG] with letters := [rl []], chans := cs }
theorem wit_StageLifeCycle_token : (stageAt (waitS []).dev l5 1 [8] = some (rl [], 0, waitG) ∧ mMode waitG = 0 ∧ mFlag waitG 1 = true ∧ runOf (waitS []).dev l5 1 = none ∧ earlierGrad (waitS []).dev (rl []) 0 6 = false ∧
      canStart (waitS []).dev (rl []) 0 waitG = true ∧ takeToken (waitS []).dev l5 0 (stInB waitG) = none ∧ cascadeOpen (waitS []).dev = true) ∧
    (takeToken (waitS [((l5, 0, 7), [.token 4])]).dev l5 0 (stInB waitG)).map (·.1) = some 4 ∧
    goes (.mailbagGrad l5 1) (waitS []) (fun t => t.dev.waits = [(l5, 1)] && t.dev.runs = []) = true ∧
    goes (.mailbagGrad l5 1) (waitS [((l5, 0, 7), [.token 4])]) (fun t => result t = some (some (1, 0)) && t.dev.chan l5 0 7 = []) = true := by decide +kernel
theorem wit_StageLifeCycle_vector : StageDue vecW.dev l5 1 6 (rl [dims 1 1 1]) 0 cardS ∧ ((cardLoad (rl [dims 1 1 1]) 0 cardS).run vecE).1.isOk = true ∧ ((cardLoad (rl [dims 1 1 1]) 0 cardS).run vecE).2.runs = vecE.runs := by unfold StageDue; decide +kernel

/-- A parity error while the recorded drain of a resumed stage runs (R195, R196); the resumption with a recorded drain. -/
def drain3 : Dev := { (onArr (matD [prod]) { arr0 with tile := 1, drain := some (0, [7#32]), sat := 2, drainSat := 3 } prod).dev.setFld (.arrStatus 0 2 1) 2 0 3 with
  parked := [((0, 2, 1), { arr0 with tile := 1, drain := some (0, [7#32]) })], letters := [{ rl [9, dims 1 1 32] with sat := 9 }] }
theorem wit_ArrayStages_parity : drain3.fld (.arrStatus 0 2 1) 2 0 = 3 ∧
    goes (.arrayParityError 0 2 1 true) (st drain3) (fun t => t.dev.parked = [] && (t.dev.letters.map (·.sat)) = [4] && t.dev.fld (.arrStatus 0 2 1) 2 0 = 4 && (t.dev.arr 0 2 1).map (fun a => (a.tile, a.drain, a.sat, a.drainSat)) = some (0, none, 0, 0)) = true := by decide +kernel
theorem wit_ArrayStages_feeders : FeedersFit (matD [prod]) (rl [9, dims 1 1 32]) 0 prod ∧ FeedersFit preS.dev nextX 0 prodHi := by
  constructor <;> (unfold FeedersFit; intro e he h; exfalso; revert h; revert e; decide +kernel)
def resD : State := st { resS.dev with parked := [((0, 2, 1), { arr0 with tile := 1, drain := some (0, [7#32]) })] }
theorem test_resumeDrain : goes (.arrayResume 0 2 1) resD (fun t => t.dev.fld (.arrStatus 0 2 1) 2 0 = 3 && t.dev.bit (.arrStatus 0 2 1) 5 && t.dev.parked = [] && (t.dev.arr 0 2 1).map (fun a => a.drain.map (·.1)) = some (some 0)) = true := by decide +kernel
/-- Lanes beyond M and columns beyond N stay zero. -/
theorem test_arrayLanes : goes (.arrayBlock 0 2 1) (onArr (matD [prod]) { arr0 with live := some (List.replicate 129 1#32) } prod) (fun t => (t.dev.arr 0 2 1).bind (·.live) = some (0x41500000#32 :: List.replicate 128 0#32)) = true := by decide +kernel

/-- A delivered parcel with the side record of another parcel. -/
def badSide : State := let s := delS (dl 2 [] []); st { s.dev with mem := s.dev.mem.write 0x3000 (side9 1) }
theorem wit_Deliveries_side : (Side.ofBytes (badSide.dev.mem.read 0x3000 512)).named 9 0 = false ∧
    goes (.deliveryParcelLanded l5 0 0 0) badSide (fun t => result t = some (some (0x13, 1)) && t.dev.incHeld.length = 1) = true := by decide +kernel

/-- A mailbag in flight: its group 0 waits with its summary for the one of module 1. -/
def grp1 : Grp := ⟨0, 1, 0, some ⟨90, List.replicate 128 0#8, [], 1⟩, none, 0⟩
def flightD : Dev :=
  let d := cabD [sendS]
  { d with parts := d.parts.map fun (e : Nat × PartImage) => (e.1, { e.2 with reduction := [[1,0,0,0] ++ natLe 4 6 ++ natLe 4 9 ++ natLe 4 1024 ++ [1#8] ++ List.replicate 15 0#8] }),
           bags := [{ bag0 with active := true, grps := [grp1] }], letters := [{ rl [] with stages := [1] }] }
theorem wit_CountsAndErrors_bag : runLetter flightD 0 18 0 = none ∧ (flightD.bags.find? fun b => b.part = 0 ∧ b.active).isSome = true ∧
    goes (.mailbagEccError 0 false) (st flightD) (fun t => t.dev.bit (.redStatus 0) 4 && t.dev.fld (.redStatus 0) 1 0 = 3 && t.dev.incHeld.length = 1) = true := by decide +kernel
theorem test_exchangeDead : goes (.exchangeFrameReceive (patch dataFrame (4096 + 0x1A) [1#8])) (st (ringD [xch0])) (fun t => t.dev.regN (.fltDead 0 3) = 1 && t.dev.regN (.redProgress 0) = 0) = true := by decide +kernel
/-- A reported failure that has been passed on before; a wrong residue for the third time. -/
def echoD : Dev := { cabD [] with redFailed := [((0, 3, 6), curStep (cabD []) 3)] }
theorem wit_MailbagFrames_echo : mapGet? echoD.redFailed (0, 3, 6) = some (curStep echoD 3) ∧ (findRed echoD 0 6).isSome = true ∧ goes (.mailbagFailedReceive 0 3 6) (st echoD) (fun t => decide (t = st echoD)) = true := by decide +kernel
set_option maxRecDepth 100000 in
theorem wit_MailbagFrames_third : mapGet { cabD [] with redFails := [((0, 3, 6, 0), 2)] }.redFails (0, 3, 6, 0) 0 + 1 = 3 ∧
    goes (.groupFrameReceive 0 3 0 1 grpBody) (st { cabD [] with redFails := [((0, 3, 6, 0), 2)] }) (fun t => t.dev.redBad = [(0, 3, 6)]) = true := by decide +kernel

/-! Frames of the other kinds on a session, and what acknowledges. -/

def ctlFrame : Frame := { fr 0 with kind := 1, body := List.replicate 16 0#8 }
theorem wit_LinkFrames_kinds : (Frame.parse (ctlFrame.bytes 0 5)).map (fun e => (e.1.kind, e.2.2)) = some (1, 5) ∧ (lk kept3).redWait = [] ∧ (∀ b ∈ (lk kept3).bags, (b.active && !b.gone) = false) ∧
    goes (.frameReceive 0 ⟨ctlFrame.bytes 0 5, 0, 0⟩) (st (lk kept3)) (fun t => (t.dev.port 0).expect = 2 && ((t.dev.port 0).replay.map (·.1)) = [6, 7] && t.dev.out = []) = true ∧
    goes (.keepaliveReceive ⟨0, 6⟩) (st (lk kept3)) (fun t => ((t.dev.port 0).replay.map (·.1)) = [7] && t.dev.out = []) = true ∧
    inSession (lk kept3) 1 = false ∧ goes (.keepaliveReceive ⟨1, 6⟩) (st (lk kept3)) (fun t => decide (t = st (lk kept3))) = true := by decide +kernel

/-! Letters of the next generation stay when a context is reset (R129). -/

theorem test_contextResetNext : goes (.contextReset coreM 3) (st { (ctxS false).dev with letters := [rl [], { letter 1 [] with id := l6, gen := 1 }] }) (fun t => (t.dev.letters.map (·.result)) = [some (0x51, 1), none]) = true := by decide +kernel
theorem wit_PartitionReset_down : (up.setFld (.fltStatus 0) 1 0 1).resetting 0 = true ∧ goes (.snoopTimeout 0 54) (st up) (fun t => t.dev.partResets = [] && !t.dev.bit (.cohStatus 0) 0) = true ∧
    goes (.directoryEccError 0 false) (st (up.setFld (.fltStatus 0) 1 0 1)) (fun t => t.dev.partResets = []) = true ∧
    goes (.snoopTimeout 0 7) (st up) (fun t => t.dev.partResets.map (·.cause) = [2]) = true := by decide +kernel

/-- Module m of the ring, with the mailbag in flight. -/
def flightAs (m : Nat) : Dev := regs [(.structModuleNumber, m)] flightD
/-- Whichever module is the home of group 0, one of the three is neither its home nor its start. -/
theorem wit_MailbagFrames_flight : (∃ m < 3, coord (flightAs m) (modNumber (flightAs m)) 0 ≠ homeAt (flightAs m) 0 0 ∧ coord (flightAs m) (modNumber (flightAs m)) 0 ≠ startAt (flightAs m) 0 0) ∧
    ∀ m < 3, findBag (flightAs m) 0 3 6 = some { bag0 with active := true, grps := [grp1] } ∧ expects (flightAs m) { bag0 with active := true, grps := [grp1] } 0 1 0 0 0 = true ∧ field (sumBody 0) 0x10 8 = 0 ∧
      (findRed (flightAs m) 0 6).map (redDims (flightAs m)) = some [0] ∧ (findRed (flightAs m) 0 6).map rdGroups = some 1 ∧ redCurrent (flightAs m) 3 0 0 = true ∧ halted (flightAs m) 0 18 0 = false := by
  refine ⟨?_, by decide +kernel⟩
  have hc : ∀ m < 3, coord (flightAs m) (modNumber (flightAs m)) 0 = m ∧ dimSize (flightAs m) 0 = 3 := by decide +kernel
  have hh : Config.ringHome 0 0 % 3 < 3 := Nat.mod_lt _ (by decide)
  generalize he : Config.ringHome 0 0 % 3 = h at hh
  have hm : ∀ m < 3, homeAt (flightAs m) 0 0 = h ∧ startAt (flightAs m) 0 0 = (h + 1) % 3 := by
    intro m hm
    have h1 : homeAt (flightAs m) 0 0 = h := by rw [homeAt, (hc m hm).2, he]
    refine ⟨h1, ?_⟩
    simp [startAt, nextAt, h1, (hc m hm).2]
  obtain rfl | rfl | rfl : h = 0 ∨ h = 1 ∨ h = 2 := by omega
  · exact ⟨2, by decide, by rw [(hc 2 (by decide)).1, (hm 2 (by decide)).1]; decide, by rw [(hc 2 (by decide)).1, (hm 2 (by decide)).2]; decide⟩
  · exact ⟨0, by decide, by rw [(hc 0 (by decide)).1, (hm 0 (by decide)).1]; decide, by rw [(hc 0 (by decide)).1, (hm 0 (by decide)).2]; decide⟩
  · exact ⟨1, by decide, by rw [(hc 1 (by decide)).1, (hm 1 (by decide)).1]; decide, by rw [(hc 1 (by decide)).1, (hm 1 (by decide)).2]; decide⟩

/-! Hypotheses about waiting writes, power, resets and room, on the states above. -/

theorem wit_BootPath : shortFlash.dev.power.tripDue = false ∧ (∀ k, diesPassed k [] = []) ∧ (∃ n, 96 ≤ n ∧ n < 100 ∧ n ≠ 98 ∧ n ∉ ([] : List Nat)) :=
  ⟨rfl, fun _ => List.filter_eq_nil_iff.mpr (by simp), 96, by decide⟩
theorem wit_BarClear : BarClear up 0x40 4 barData ∧ barWait up = false ∧ NoDirWait up :=
  have h : up.held = [] := rfl
  ⟨fun _ hm => absurd (h ▸ hm) (by simp), rfl, fun _ _ hm => absurd (h ▸ hm) (by simp)⟩
theorem wit_drowse : powerState (up.setFld .pwrState 1 0 2) = 2 ∧ (up.setFld .pwrState 1 0 2).fld (.partCoreStatus 0 47) 1 0 = 0 ∧ mapGet (up.setFld .pwrState 1 0 2).fns (.port 3) [] = [] ∧ (up.setFld .pwrState 1 0 2).portState 3 = 0 ∧
    (up.setFld .pwrState 1 0 2).incSeen = false ∧ powerState up ≠ 2 ∧ Granted (up.setFld .pwrState 1 0 2) coreM .open_ (.crrPortCtrl 3) := by unfold Granted OfficesPass; decide +kernel
theorem wit_DoorbellRule_offices : mail.recovery = false ∧ OfficesPass mail .bar0 (Reg.mbxDoorbell 5).info.offset := by unfold OfficesPass; decide +kernel
theorem wit_update_engine : redBusy up 0 = false ∧ updBusy up 0 = false ∧ updBusy { up with letters := [{ copyX with started := true }] } 0 = true := by decide +kernel
theorem wit_StackedMemory_across : 2048 < 0x100000007FC % 2048 + 8 ∧ ¬ 2048 < 0x100000007FC % 2048 + 4 := by decide
theorem wit_StepUpdates_power : powerState (updating 0x7FF0000000000000#64 true).dev = 0 ∧ (updating 0x7FF0000000000000#64 true).dev.power.transition = none := by decide +kernel
theorem wit_reservedWord : reservedWord (upE [sendS]) (letter 1 []) = none ∧ (upE [sendS]).power.transition = none := by decide +kernel
theorem wit_StageLifeCycle_group : vecFull { newRun (rl []) 0 cardS with card := cardB } = false ∧ vecFull { newRun (rl []) 0 cardS with card := cardB, buf := List.replicate 4096 (0, 0) } = true ∧
    (newRun (rl []) 0 cardS).buf.length + 1024 < 128 * groupWidth cardB := by decide +kernel
theorem wit_Deliveries_engine : delivOut (delS (dl 2 [] [])).dev 0 (recU delR 16 1) = false ∧ delivOut ((delS (dl 2 [] [])).dev.setFld (.frkStatus 0 2) 2 0 5) 0 (recU delR 16 1) = true := by decide +kernel
theorem wit_CountsAndErrors_franker : frkStage (withRun frankS).dev 0 3 = some (newRun (rl []) 0 frankS, rl [], frankS) ∧ frkStage up 0 3 = none ∧ runLetter up 0 18 0 = none ∧
    (∀ b ∈ up.bags, ¬ (b.part = 0 ∧ b.active = true)) := by decide +kernel
theorem wit_MailbagFrames_alone : aloneOn (bagged (ringD [sendS])).dev 0 18 0 bag0.ctx = true ∧ bagRoom ((bagged (ringD [sendS])).dev.activate bag0) { bag0 with active := true } = true := by decide +kernel
theorem wit_LinkFrames_bags : ∀ b ∈ (lk kept3).bags, b.active = true → b.gone = true ∧ (b.done = true ∨ b.grps = []) := by decide +kernel
theorem wit_ContextReset_idle : runParts (ctxS true).dev 3 = [] := by decide +kernel
theorem wit_ContextTeardown_owes : tearOwes (tearing [.memory]).dev (tearD [.memory]) l5 = false ∧ ({ tearX with started := true } : Letter).flushErr = none ∧
    tearOwes { (tearing [.memory]).dev with letters := [{ tearX with started := true }, { letter 1 [] with id := l6 }] } (tearD [.memory]) l5 = true := by decide +kernel
theorem wit_EngineReset_suspects : (∀ a ∈ engS.dev.advances, ¬ (a.2 = 2 ∧ a.1 ∈ engR.suspects)) ∧ (∃ a ∈ ({ up with advances := [(3, 2)] } : Dev).advances, a.2 = 2 ∧ a.1 ∈ engR.suspects) ∧
    goes (.engineResetDone 0) (st { upE [] with engResets := [engR], advances := [(3, 2)] }) (fun t => t.dev.engResets = [engR]) = true := by decide +kernel
theorem wit_PartitionReset_again : partS.dev.resetting 0 = false ∧ inReset partS.dev 0 = false ∧ (∀ r ∈ partS.dev.partResets, r.part = 0 → r.fence = false) ∧ fenced.dev.resetting 0 = true := by decide +kernel
theorem wit_Stacks_trains : 0 ∈ untrained0.trains ∧ 0 ∉ ({ untrained0 with trains := [1] } : Dev).trains := by decide +kernel
theorem wit_PowerLoops_drowse : powerState drowseD = 2 ∧ drowseD.incSeen = false ∧ powerState drowseD ≠ 0 ∧ powerState up ≠ 2 ∧ (∀ p < 4, voltOf (sampled 560) p ≤ 560) := by decide +kernel
theorem wit_Management_signing : (spdmS conn3 (some .doe)).dev.signing = some .doe ∧ (3, 0x1FA7, 1) ∈ ([(3, 0x1FA7, 1)] : List (Nat × Nat × Nat)) ∧ (3, 0x1FA7, 1) ∉ ([(0, 1, 1)] : List (Nat × Nat × Nat)) ∧
    (∀ k, Config.signed k = true ∨ Config.signed k = false) := ⟨rfl, by decide, by decide, fun k => by cases Config.signed k <;> simp⟩
theorem wit_Flash : flashProtected up = false ∧ ∀ k, Config.flashWrite k = none ∨ ∃ kept, Config.flashWrite k = some kept := ⟨by decide +kernel, fun k => by cases Config.flashWrite k <;> simp⟩
theorem wit_rooms : chanRoom frankG.dev l5 0 (stOutA frankR) (.token 0) = true ∧ tokenRoom (upE []) l5 0 0xFFFF = true := by decide +kernel

end Sys2Proof.Tests
end

section
/-! Register writes by their address: how a write that is admitted, and that no command follows, changes its register. -/

namespace Sys2Proof.Machine

/-! ### Bits of a written register -/

theorem testBit_byteMask (size b i : Nat) :
    ((2 ^ (8 * size) - 1) * 2 ^ (8 * b)).testBit i = decide (8 * b ≤ i ∧ i < 8 * b + 8 * size) := by
  rw [Nat.mul_comm, Nat.testBit_two_pow_mul, Nat.testBit_two_pow_sub_one, Bool.eq_iff_iff]
  simp only [Bool.and_eq_true, decide_eq_true_eq]
  omega

theorem testBit_byteValue (v size b i : Nat) :
    (v % 2 ^ (8 * size) * 2 ^ (8 * b)).testBit i = (decide (8 * b ≤ i ∧ i < 8 * b + 8 * size) && v.testBit (i - 8 * b)) := by
  rw [Nat.mul_comm, Nat.testBit_two_pow_mul, Nat.testBit_mod_two_pow, Bool.eq_iff_iff]
  simp only [Bool.and_eq_true, decide_eq_true_eq]
  constructor <;> rintro h <;> refine ⟨by omega, ?_⟩
  · exact h.2.2
  · exact ⟨by omega, h.2⟩

/-- One written bit: RW takes the value, and then W1C is cleared by a 1. -/
theorem accessType_bit : ∀ old v rw w1c : Bool,
    ((old && !rw || v && rw) && !(v && w1c)) = if rw ∧ ¬ (w1c ∧ v) then v else old && !(w1c && v) := by decide

/-- A write of plain bits writes one register and nothing else. -/
theorem regWrite_eq_setReg {r : Reg} {b size : Nat} (h : sizeOk r b size = true) (d : Dev) (v : Nat) :
    regWrite d r b size v = d.setReg r ((regWrite d r b size v).reg r) := by
  simp [regWrite, h]

/-- The access types of R7, bit by bit: of the written bytes an RW bit takes the value and a W1C bit written with 1 is
cleared. -/
theorem regWrite_getLsbD {r : Reg} {b size : Nat} (h : sizeOk r b size = true) (d : Dev) (value : W64) {i : Nat} (hi : i < 64) :
    ((regWrite d r b size value.toNat).reg r).getLsbD i =
      if 8 * b ≤ i ∧ i < 8 * b + 8 * size ∧ r.info.rw.testBit i ∧ ¬ (r.info.w1c.testBit i ∧ value.getLsbD (i - 8 * b)) then
        value.getLsbD (i - 8 * b)
      else (d.reg r).getLsbD i &&
        !(decide (8 * b ≤ i ∧ i < 8 * b + 8 * size) && r.info.w1c.testBit i && value.getLsbD (i - 8 * b)) := by
  have hv : value.toNat.testBit (i - 8 * b) = value.getLsbD (i - 8 * b) := rfl
  simp only [regWrite, h, Bool.not_true, Bool.false_eq_true, if_false, Dev.reg_setReg, if_true, BitVec.getLsbD_and,
    BitVec.getLsbD_or, BitVec.getLsbD_not, BitVec.getLsbD_ofNat, Nat.testBit_and, testBit_byteMask, testBit_byteValue, hv,
    BitVec.testBit_toNat, hi, decide_true, Bool.true_and]
  by_cases hm : 8 * b ≤ i ∧ i < 8 * b + 8 * size
  · simpa [hm] using accessType_bit ((d.reg r).getLsbD i) (value.getLsbD (i - 8 * b)) (r.info.rw.testBit i) (r.info.w1c.testBit i)
  · simp [hm, ← and_assoc]

/-! ### A write that is let through -/

/-- A write that is granted and that the offices pass acts on the module as it is once the write has crossed. -/
theorem Dev.via_pass {d : Dev} {v : Via} {g : Guard} {off : Nat} (hg : grant d v g (decide (off < 0x100000)) = .yes)
    (ho : OfficesPass d v off) (len : Nat) (i : Instr) (f : Dev → Dev) :
    d.via v g off len i f = { f (d.acrossAt v off len) with out := (f (d.acrossAt v off len)).out ++ viaAck v } := by
  have hb := ho.1
  unfold Dev.via
  rw [hg]
  obtain hc | ⟨hv, ha, e, hc⟩ := crossing_pass len ho
  · cases v <;> simp [hc, hb, viaAck, Dev.send]
  · obtain rfl | rfl := hv <;> simp [hc, ha, hb, viaAck]

/-- The offices' byte counts decide nothing about which writes a register ignores. -/
theorem writeIgnored_acrossAt (d : Dev) (v : Via) (off len : Nat) (r : Reg) :
    writeIgnored (d.acrossAt v off len) r = writeIgnored d r := by
  obtain ⟨⟨m, hm⟩, hr⟩ := d.acrossAt_counts v off len
  have hs : (d.acrossAt v off len).stash = d.stash := by rw [hm]
  have hfld : ∀ q hi lo, (∀ n, q ≠ .sortPortBytes n) → (d.acrossAt v off len).fld q hi lo = d.fld q hi lo := fun q _ _ hq => by
    rw [Dev.fld, hr q hq, Dev.fld]
  unfold writeIgnored
  split
  case h_1 => rw [overflowUsed, hs, overflowUsed]
  case h_2 | h_3 | h_4 | h_5 => rw [hfld _ _ _ (by simp)]
  case h_6 | h_7 | h_8 | h_9 => rw [Dev.bit, hfld _ _ _ (by simp), Dev.bit]
  all_goals rfl

/-- A register whose write has no effect of its own takes its plain bits. -/
theorem Dev.regTake_plain {d : Dev} {r : Reg} {b size : Nat} (hown : ownRow r = false) (hsz : sizeOk r b size = true)
    (hig : writeIgnored d r = false) (hflt : ∀ p, r ≠ .fltRingCfg p) (hinc : r ≠ .gateIncRingCfg) (hcoh : ∀ p, r ≠ .cohStatus p)
    (hport : ∀ n, r ≠ .crrPortStatus n) (hmsix : ∀ i, r ≠ .msixEntry i) (v : Nat) :
    d.regTake r b size v = regWrite d r b size v := by
  unfold Dev.regTake
  rw [if_neg (by simp [hown, hsz, hig])]
  split
  · exact absurd rfl (hflt _)
  · exact absurd rfl hinc
  · exact absurd rfl (hcoh _)
  · exact absurd rfl (hport _)
  · exact absurd rfl (hmsix _)
  · rfl

/-- A write of a lit block's register goes to that register. -/
theorem Dev.mmioTake_reg {d : Dev} {off b : Nat} {r : Reg} (hims : imsicAt off = none) (hdark : blockDark d off true = false)
    (hoff : Reg.ofOffset off = some (r, b)) (size v : Nat) : d.mmioTake off size v = d.regTake r b size v := by
  simp [Dev.mmioTake, hims, hdark, hoff]

/-- No command follows the plain bits of a write whose register has none for it. -/
theorem State.writeReg_noCommand {s : State} {v : Via} {off size b : Nat} {x : W64} {r : Reg}
    (hoff : Reg.ofOffset off = some (r, b)) (hown : ownRow r = false) (hovf : ∀ p, r ≠ .hallStashOvf p)
    (hrow : b = 0 → ∀ k, rowCmds s.dev v r size (x.toNat % 2 ^ (8 * size)) k = []) (i : Instr) :
    s.writeReg i v off size x = s.onDev fun d => d.via v (guardAt off) off size i fun d => d.mmioTake off size x.toNat := by
  have hbell : ∀ n, r ≠ .mbxDoorbell n := by rintro n rfl; cases hown
  unfold State.writeReg
  simp only [hoff]  -- `hbell` and `hovf` decide the two matches on the register
  split
  · rfl
  · rename_i hadm
    have hb : b = 0 := by
      by_contra hb
      exact hadm (.inr (.inl (by simp [hb])))
    simp [hb, hrow hb]

/-! ### Posted writes -/

theorem settle_nothing (k : Nat) {s : State} (h : s.dev.posted = []) : settle k s = s := by
  cases k with
  | zero => rfl
  | succ k => simp [settle, h]

/-- A command that posts no write is settled at once. -/
theorem settled_of_posted_eq {s t : State} (h : t.dev.posted = s.dev.posted) : settled s (.next t) = .next t := by
  simp only [settled, h, List.drop_length, List.take_length]
  rw [settle_nothing _ rfl, List.append_nil, ← h]

/-! ### The statement -/

/-- What REGISTER_WRITE leaves of a write that is let through and that nothing follows. -/
theorem exec_registerWrite_plain {s : State} {v : Via} {addr off size b : Nat} {value : W64} {r : Reg}
    (htgt : barTarget s.dev v addr = some off) (hgrant : grant s.dev v (guardAt off) (decide (off < 0x100000)) = .yes)
    (hpass : OfficesPass s.dev v off) (hims : imsicAt off = none) (hdark : blockDark s.dev off true = false)
    (hoff : Reg.ofOffset off = some (r, b)) (hown : ownRow r = false) (hsz : sizeOk r b size = true)
    (hovf : ∀ p, r ≠ .hallStashOvf p)
    (hrow : b = 0 → ∀ k, rowCmds s.dev v r size (value.toNat % 2 ^ (8 * size)) k = [])
    (htake : (s.dev.acrossAt v off size).regTake r b size value.toNat = regWrite (s.dev.acrossAt v off size) r b size value.toNat) :
    exec (.registerWrite v addr size value) s = .next { s with dev :=
      { (regWrite (s.dev.acrossAt v off size) r b size value.toNat) with out := s.dev.out ++ viaAck v } } := by
  obtain ⟨m, hm⟩ := (s.dev.acrossAt_counts v off size).1
  have hwrite := regWrite_eq_setReg hsz (s.dev.acrossAt v off size) value.toNat
  have hout : (regWrite (s.dev.acrossAt v off size) r b size value.toNat).out = s.dev.out := by rw [hwrite, hm]; rfl
  have hposted : (regWrite (s.dev.acrossAt v off size) r b size value.toNat).posted = s.dev.posted := by rw [hwrite, hm]; rfl
  have hact := s.writeReg_noCommand (v := v) hoff hown hovf hrow (.registerWrite v off size value)
  rw [State.onDev, Dev.via_pass hgrant hpass, Dev.mmioTake_reg hims (by rw [across_dark, hdark]) hoff, htake, hout] at hact
  show execRegisterWrite v addr size value s = _
  unfold execRegisterWrite
  rw [htgt]
  show settled s (.next _) = _
  rw [hact, settled_of_posted_eq hposted]

/-- Settles O12: the write crosses the offices, its register takes its plain bits, and neither a command of its own nor a posted
write follows. -/
theorem registerWriteByType : Obligations.RegisterWriteByType := by
  unfold Obligations.RegisterWriteByType
  intro s v addr off size b value r htgt hgrant hims hdark hoff hown hsz hig hflt hinc hcoh hport hmsix hovf hsort hpass hrow
  obtain ⟨⟨m, hm⟩, hcount⟩ := s.dev.acrossAt_counts v off size
  have htake := Dev.regTake_plain hown hsz ((writeIgnored_acrossAt s.dev v off size r).trans hig) hflt hinc hcoh hport hmsix value.toNat
  have hwrite := regWrite_eq_setReg hsz (s.dev.acrossAt v off size) value.toNat
  refine ⟨_, exec_registerWrite_plain htgt hgrant hpass hims hdark hoff hown hsz hovf hrow htake, ?_, fun q hq => ?_, fun i hi => ?_⟩
  · rw [hwrite, hm]; rfl
  · show (regWrite _ _ _ _ _).reg q = _
    rw [hwrite, Dev.reg_setReg, if_neg hq.symm]
  · show ((regWrite _ _ _ _ _).reg r).getLsbD i = _
    rw [regWrite_getLsbD hsz _ _ hi, hcount r hsort]

end Sys2Proof.Machine
end

section
/-! Letters: how a letter that is due starts, and how one ends for which nothing has been done. -/

namespace Sys2Proof.Machine

/-! ### Changes of registers alone -/

/-- `e` is `d` but for registers, and of those only ones of `P` read otherwise. -/
def OnlyRegs (P : Reg → Prop) (d e : Dev) : Prop := (∃ m, e = { d with regs := m }) ∧ ∀ r, ¬ P r → e.reg r = d.reg r

theorem OnlyRegs.refl (P : Reg → Prop) (d : Dev) : OnlyRegs P d d := ⟨⟨d.regs, rfl⟩, fun _ _ => rfl⟩

theorem OnlyRegs.setReg {P : Reg → Prop} {d e : Dev} (h : OnlyRegs P d e) {r : Reg} (hr : P r) (v : W64) : OnlyRegs P d (e.setReg r v) := by
  obtain ⟨⟨m, rfl⟩, hread⟩ := h
  refine ⟨⟨_, rfl⟩, fun q hq => ?_⟩
  have hne : r ≠ q := by rintro rfl; exact hq hr
  rw [Dev.reg_setReg, if_neg hne, hread q hq]

theorem OnlyRegs.trans {P : Reg → Prop} {d e f : Dev} (h : OnlyRegs P d e) (h' : OnlyRegs P e f) : OnlyRegs P d f := by
  obtain ⟨⟨m, rfl⟩, hr⟩ := h
  obtain ⟨⟨n, rfl⟩, hr'⟩ := h'
  exact ⟨⟨n, rfl⟩, fun r hp => (hr' r hp).trans (hr r hp)⟩

theorem OnlyRegs.each {P : Reg → Prop} {α : Type} {f : Dev → α → Dev} (hf : ∀ d x, OnlyRegs P d (f d x)) (l : List α) (d : Dev) :
    OnlyRegs P d (d.each l f) :=
  Dev.each_keeps (Q := OnlyRegs P d) l f (fun e x he => he.trans (hf e x)) d (.refl P d)

/-! ### The letters of the module -/

theorem findLetter_id {d : Dev} {l : LetterId} {x : Letter} (h : findLetter d l = some x) : x.id = l := by
  simpa using List.find?_some h

/-- A change of a letter that keeps its name is seen when the letter is looked up. -/
theorem findLetter_lettersWith (d e : Dev) (l : LetterId) (f : Letter → Letter) (hf : ∀ y, (f y).id = y.id)
    (he : e.letters = lettersWith d l f) : findLetter e l = (findLetter d l).map f := by
  unfold findLetter
  rw [he, lettersWith]
  induction d.letters with
  | nil => rfl
  | cons y ys ih =>
    by_cases hy : y.id = l
    · simp [hy, hf]
    · simpa [hy] using ih

theorem findLetter_modifyLetter (d : Dev) (l : LetterId) (f : Letter → Letter) (hf : ∀ y, (f y).id = y.id) :
    findLetter (modifyLetter d l f) l = (findLetter d l).map f := findLetter_lettersWith d _ l f hf rfl

/-- Two changes of the same letter, of which the first keeps its name, are one. -/
theorem lettersWith_lettersWith (d e : Dev) (l : LetterId) (f g : Letter → Letter) (hf : ∀ y, (f y).id = y.id)
    (he : e.letters = lettersWith d l f) : lettersWith e l g = lettersWith d l fun y => g (f y) := by
  rw [lettersWith, he, lettersWith, lettersWith, List.map_map]
  refine List.map_congr_left fun y _ => ?_
  by_cases hy : y.id = l <;> simp [hy, hf]

/-! ### The end of a letter that nothing works for -/

/-- What the mailbag engines show of their work: MB_STATE and their entry in FLT_WAIT (R370, R392). -/
def ShowsBags (r : Reg) : Prop := ∃ p, r = .redStatus p ∨ r = .fltWait p 18

theorem Dev.redState_showsBags (d : Dev) (p : Nat) : OnlyRegs ShowsBags d (d.redState p) := by
  have hst : ∀ n, OnlyRegs ShowsBags d (d.engState p 18 0 n) := fun n => (OnlyRegs.refl _ d).setReg ⟨p, .inl rfl⟩ _
  unfold Dev.redState
  split
  · exact .refl _ _
  · dsimp only
    split
    · exact hst _
    · exact (hst _).setReg ⟨p, .inr rfl⟩ _

/-- For a letter that nothing works for there is nothing to stop. -/
theorem Dev.dropWork_unworked {d : Dev} {x : Letter} (h : Unworked d x) : OnlyRegs ShowsBags d (d.dropWork x.id) := by
  obtain ⟨hruns, hchans, htiles, hdelivs, hwaits, hupds, hbags, hexchs, -⟩ := h
  have hfrks : letterFrks d x.id = [] := by
    have hr : d.runs.filter (fun r => r.letter = x.id ∧ r.node < 12 ∧ r.slot = 4) = [] := by
      rw [List.filter_eq_nil_iff]; intro r hr; simp [hruns r hr]
    have hd : d.delivs.filter (·.letter = x.id) = [] := by simpa [List.filter_eq_nil_iff] using hdelivs
    rw [letterFrks, hr, hd]; rfl
  have hruns : d.runs.filter (·.letter = x.id) = [] := by simpa [List.filter_eq_nil_iff] using hruns
  have hflying : d.bags.filter (fun b => b.letter = x.id ∧ b.active = true ∧ b.done = false) = [] := by
    rw [List.filter_eq_nil_iff]; intro b hb; simp [hbags b hb]
  have hchans : d.chans.filter (fun e => e.1.1 ≠ x.id) = d.chans := by simpa [List.filter_eq_self] using hchans
  have htiles : d.tileOrder.filter (·.1 ≠ x.id) = d.tileOrder := by simpa [List.filter_eq_self] using htiles
  have hdelivs : d.delivs.filter (·.letter ≠ x.id) = d.delivs := by simpa [List.filter_eq_self] using hdelivs
  have hwaits : d.waits.filter (·.1 ≠ x.id) = d.waits := by simpa [List.filter_eq_self] using hwaits
  have hupds : d.updates.filter (·.letter ≠ x.id) = d.updates := by simpa [List.filter_eq_self] using hupds
  have hexchs : d.exchs.filter (·.letter ≠ x.id) = d.exchs := by simpa [List.filter_eq_self] using hexchs
  have hbags : d.bags.filter (fun b => b.letter ≠ x.id ∨ b.done = true) = d.bags := by
    rw [List.filter_eq_self]; intro b hb; simp [hbags b hb]
  unfold Dev.dropWork
  rw [hruns, hfrks, hflying]
  simp only [Dev.each, List.foldl_nil, hchans, htiles, hdelivs, hwaits, hupds, hexchs, hbags]
  exact OnlyRegs.each Dev.redState_showsBags _ d

/-- A letter that nothing works for, and that has stored nothing, ends with its status at once; one whose status does not spoil a step
changes no other state (R122, R306). -/
theorem Dev.finish_unworked {d : Dev} {x : Letter} {st : Nat} (hx : findLetter d x.id = some x) (hres : x.result = none) (hw : Unworked d x)
    (hsp : spoils st = false) (dt : Nat) :
    OnlyRegs ShowsBags (modifyLetter d x.id fun y => { y with result := some (st, dt % 65536) }) (d.finish x.id st dt) := by
  have hdrop := Dev.dropWork_unworked (d := modifyLetter d x.id fun y => { y with result := some (st, dt % 65536) }) hw
  obtain ⟨-, -, -, -, -, -, -, -, hpcie, hregions, hflush⟩ := hw
  unfold Dev.finish
  simp only [hx, hres, hflush, hpcie, hregions, Dev.spoilBy, hsp, Option.isSome_none, Bool.false_eq_true, false_and, if_false]
  split <;> exact hdrop

/-! ### The start of a letter that is due

A letter's start marks it and counts an event on its reader's die (R87); nothing else reads otherwise. -/

section
variable (d : Dev) (x : Letter)

@[simp] theorem Dev.startLetter_letters : (d.startLetter x).letters = lettersWith d x.id Letter.begun := rfl
@[simp] theorem Dev.startLetter_power : (d.startLetter x).power = d.power := rfl
@[simp] theorem Dev.startLetter_evals : (d.startLetter x).evals = d.evals := rfl
@[simp] theorem Dev.startLetter_bit (r : Reg) (i : Nat) : (d.startLetter x).bit r i = d.bit r i := rfl
@[simp] theorem powerState_startLetter : powerState (d.startLetter x) = powerState d := rfl
@[simp] theorem stepState_startLetter (c : Nat) : stepState (d.startLetter x) c = stepState d c := rfl
@[simp] theorem stagesOf_startLetter (route : Nat) : stagesOf (d.startLetter x) route = stagesOf d route := rfl
@[simp] theorem findRoute_startLetter (route : Nat) : findRoute (d.startLetter x) route = findRoute d route := rfl
@[simp] theorem routeEnabled_startLetter (route : Nat) : routeEnabled (d.startLetter x) route = routeEnabled d route := rfl

end

section
variable {d : Dev} {l : LetterId} {op : Nat} {x : Letter}

theorem Due.found (h : Due d l op x) : findLetter d l = some x := h.1

theorem Due.id (h : Due d l op x) : x.id = l := findLetter_id h.found

theorem Due.unworked (h : Due d l op x) : Unworked d x := h.2.2.2.2

theorem Due.result (h : Due d l op x) : x.result = none := by
  obtain ⟨-, -, hmay, -⟩ := h
  simp only [mayStart, Bool.and_eq_true, Option.isNone_iff_eq_none] at hmay
  obtain ⟨⟨⟨⟨hres, -⟩, -⟩, -⟩, -⟩ := hmay
  exact hres

/-- The module with other event counts of its dies (R86). -/
def Dev.withDies (d : Dev) (ds : Map Nat (Nat × Nat)) : Dev := { d with dies := ds }

/-- A letter that is due does what its opcode says; beside it only its die's count may be left as it was. -/
theorem Due.onLetter (h : Due d l op x) (f : Letter → Dev → Dev) :
    ∃ ds, d.onLetter l op f = (f x (d.startLetter x)).withDies ds := by
  obtain ⟨hx, hop, hmay, hcheck, -⟩ := h
  unfold Dev.onLetter
  simp only [hx, hop, hmay, hcheck]
  rw [if_neg (by simp)]
  split <;> exact ⟨_, rfl⟩

/-- What a letter that is due answers: what its opcode does of it once it has started. -/
theorem Due.answers {s : State} {i : Instr} {f : Letter → Dev → Dev} {P : State → Prop} (h : Due s.dev l op x)
    (hexec : exec i s = .next (s.onDev fun d => d.onLetter l op f))
    (hP : ∀ b ds, f x (s.dev.startLetter x) = b → P { s with dev := b.withDies ds }) : Answers i s P := by
  obtain ⟨ds, hds⟩ := h.onLetter f
  refine ⟨_, hexec, ?_⟩
  rw [State.onDev, hds]
  exact hP _ ds rfl

theorem Due.findLetter_startLetter (h : Due d l op x) : findLetter (d.startLetter x) l = some x.begun := by
  rw [findLetter_lettersWith d _ l Letter.begun (fun _ => rfl) (by rw [Dev.startLetter_letters, h.id]), h.found]; rfl

/-- A change of the letter that has just started. -/
theorem Due.modifyLetter_startLetter (h : Due d l op x) {f : Letter → Letter} :
    modifyLetter (d.startLetter x) l f = { d.startLetter x with letters := lettersWith d l fun y => f y.begun } := by
  have hletters := lettersWith_lettersWith d (d.startLetter x) l Letter.begun f (fun _ => rfl) (by rw [Dev.startLetter_letters, h.id])
  rw [← hletters]; rfl

/-- A letter that is due and is refused ends, and nothing else happens. -/
theorem Due.finish {s : State} (h : Due s.dev l op x) {st dt : Nat} (hsp : spoils st = false) (hdt : dt < 65536) (ds : Map Nat (Nat × Nat)) :
    Ends s { s with dev := ((s.dev.startLetter x).finish l st dt).withDies ds } l st dt s.dev [] := by
  have hid := h.id
  have hfin := Dev.finish_unworked (d := s.dev.startLetter x) (x := x.begun) (st := st) (hid ▸ h.findLetter_startLetter) h.result h.unworked hsp dt
  rw [show x.begun.id = l from hid] at hfin
  obtain ⟨⟨m, hm⟩, hread⟩ := hfin
  refine ⟨?_, fun r hr => ?_⟩
  · rw [hm, h.modifyLetter_startLetter, Nat.mod_eq_of_lt hdt]; rfl
  · exact hread r fun ⟨p, hp⟩ => hp.elim (hr p).1 (hr p).2

end

/-! ### What an uncached load sees -/

/-- Two modules hold the same memory, cached lines and objects: what a stage reads of its vector card is the same. -/
structure SameStore (d e : Dev) : Prop where
  mem : e.mem = d.mem
  lines : e.lines = d.lines
  objs : e.objs = d.objs

theorem Dev.each_rel {α : Type} {R : Dev → Dev → Prop} {f : Dev → α → Dev} (hf : ∀ d e x, R d e → R (f d x) (f e x)) (l : List α) :
    ∀ d e : Dev, R d e → R (d.each l f) (e.each l f) := by
  induction l with
  | nil => exact fun _ _ h => h
  | cons x xs ih => exact fun d e h => ih _ _ (hf d e x h)

theorem SameStore.snoopRead {d e : Dev} (h : SameStore d e) (line : Nat) : SameStore (snoopRead d line) (snoopRead e line) := by
  unfold Machine.snoopRead
  rw [h.lines]
  refine Dev.each_rel (fun d e l h => ?_) _ _ _ h
  exact ⟨by simp only [h.mem], by simp only [h.lines], h.objs⟩

theorem SameStore.homeView_eq {d e : Dev} (h : SameStore d e) (a len : Nat) : homeView e a len = homeView d a len := by
  unfold homeView homeLoad
  split
  · exact congrArg (·.read a len) (Dev.each_rel (fun _ _ l h => h.snoopRead l) _ _ _ h).mem
  · exact congrArg (·.read a len) h.mem

section
variable {d e : Dev} (h : SameStore d e) (r : Rec)
include h

theorem SameStore.readWords_eq : readWords e r = readWords d r := by
  simp only [readWords, cardReads, h.mem, h.objs]

theorem SameStore.writeWords_eq : writeWords e r = writeWords d r := by
  simp only [writeWords, h.homeView_eq, h.objs]

theorem SameStore.objWords_eq : objWords e r = objWords d r := by
  simp only [objWords, h.readWords_eq, h.writeWords_eq]

theorem SameStore.dimsWords_eq : dimsWords e r = dimsWords d r := by
  simp only [dimsWords, h.homeView_eq, h.objs]

end

/-! ### RUN_ROUTE -/

/-- A letter with a stage left to run runs on. -/
theorem Dev.letterDone_undone {d : Dev} {l : LetterId} {y : Letter} {q : Nat × Rec} (hy : findLetter d l = some y)
    (hq : q ∈ stagesOf d y.route) (hrun : isUpdate q.2 = false) (hleft : stIndex q.2 ∉ y.stages) : d.letterDone l = d := by
  have hundone : ¬ allDone d y = true := by
    simp only [allDone, Bool.and_eq_true, List.all_eq_true, not_and_or]
    exact .inl fun hall => by simpa [hrun, hleft] using hall q hq
  simp [Dev.letterDone, hy, hundone]

section
variable {d : Dev} {l : LetterId} {op : Nat} {x : Letter}

/-- A letter that has just started and has a stage to run runs on, whatever else of it has changed. -/
theorem Due.letterDone_startLetter (h : Due d l op x) {q : Nat × Rec} (hq : q ∈ stagesOf d x.route) (hrun : isUpdate q.2 = false)
    (hleft : stIndex q.2 ∉ x.stages) {f : Letter → Letter} (hf : ∀ y, (f y).id = y.id ∧ (f y).route = y.route ∧ (f y).stages = y.stages) :
    (modifyLetter (d.startLetter x) l f).letterDone l = { d.startLetter x with letters := lettersWith d l fun y => f y.begun } := by
  have hy : findLetter (modifyLetter (d.startLetter x) l f) l = some (f x.begun) := by
    rw [findLetter_modifyLetter _ _ _ fun y => (hf y).1, h.findLetter_startLetter]; rfl
  obtain ⟨-, hroute, hstages⟩ := hf x.begun
  rw [Dev.letterDone_undone hy (q := q) (by rw [hroute]; exact hq) hrun (by rw [hstages]; exact hleft), h.modifyLetter_startLetter]

/-- A letter that finds the module not ACTIVE is not started; from IDLE it has the module brought back (R427). -/
theorem Due.unstart_power {s t : State} (h : Due s.dev l op x) (ds : Map Nat (Nat × Nat))
    (ht : t = { s with dev := ((if powerState s.dev = 1 ∧ s.dev.power.transition.isNone then (s.dev.startLetter x).powerBegin 0
      else s.dev.startLetter x).unstart l).withDies ds }) :
    t = { s with dev := { s.dev with letters := lettersWith s.dev l (fun y => { y.begun with started := false }), dies := t.dev.dies, power := { s.dev.power with transition := if powerState s.dev = 1 then some (s.dev.power.transition.getD 0) else s.dev.power.transition }, regs := t.dev.regs } } ∧
    ∀ r, r ≠ .pwrState → t.dev.reg r = s.dev.reg r := by
  subst ht
  have hunstart : (s.dev.startLetter x).unstart l = _ := h.modifyLetter_startLetter
  split
  next hidle =>
    have hbegin : ((s.dev.startLetter x).powerBegin 0).unstart l = ((s.dev.startLetter x).unstart l).powerBegin 0 := rfl
    refine ⟨?_, fun r hr => ?_⟩
    · rw [hbegin, hunstart, if_pos hidle.1, Option.isNone_iff_eq_none.mp hidle.2]; rfl
    · exact (Dev.reg_setBit ..).trans (if_neg hr.symm)
  next hstay =>
    have htrans : (if powerState s.dev = 1 then some (s.dev.power.transition.getD 0) else s.dev.power.transition) = s.dev.power.transition := by
      cases htr : s.dev.power.transition with
      | none => exact if_neg fun hidle => hstay ⟨hidle, by rw [htr]; rfl⟩
      | some n => exact ite_self _
    rw [hunstart, htrans]
    exact ⟨rfl, fun _ _ => rfl⟩

end

section
variable (d : Dev) (x : Letter)

theorem Dev.startLetter_sameStore : SameStore d (d.startLetter x) := ⟨rfl, rfl, rfl⟩

theorem reservedWord_startLetter : reservedWord (d.startLetter x) x = reservedWord d x := by
  have h := d.startLetter_sameStore x
  simp only [reservedWord, h.objWords_eq, h.dimsWords_eq, stagesOf_startLetter]

theorem handleWord_startLetter : handleWord (d.startLetter x) x = handleWord d x := by
  have h := d.startLetter_sameStore x
  simp only [handleWord, h.readWords_eq, h.writeWords_eq, stagesOf_startLetter]

theorem handleDropped_startLetter : handleDropped (d.startLetter x) x = handleDropped d x := rfl

end

/-- Some engine or partition of a route is not ENABLED. -/
theorem not_routeEnabled_iff {d : Dev} {route : Nat} : ¬ routeEnabled d route = true ↔
    ∃ q ∈ stagesOf d route, fnState d (.partition q.1) ≠ 2 ∨ fnState d (.engine q.1 (stNode q.2) (slotOf (stKind q.2) (stArr q.2))) ≠ 2 := by
  simp [routeEnabled, imp_iff_not_or]

/-- Settles O42: a due letter starts, and RUN_ROUTE judges it by what its start leaves alone; each of its answers is an end of the
letter, a letter taken back, or a letter that runs on because a stage of it is left. -/
theorem routeLetters : Obligations.RouteLetters := by
  unfold Obligations.RouteLetters
  rintro s l x _ hdue rfl ⟨q, hq, hrun, hleft⟩
  refine hdue.answers rfl fun b ds hb => ?_
  simp only [reservedWord_startLetter, powerState_startLetter, Dev.startLetter_power, stagesOf_startLetter, Dev.startLetter_bit,
    routeEnabled_startLetter, stepState_startLetter, Dev.startLetter_evals, findRoute_startLetter, handleWord_startLetter,
    handleDropped_startLetter, hdue.id] at hb
  by_cases hword : reservedWord s.dev x = none
  case neg =>
    obtain ⟨i, hi⟩ := Option.ne_none_iff_exists'.mp hword
    rw [if_pos (by simp [hi]), hi] at hb
    subst hb
    rw [if_pos hword]
    exact ⟨i, hi, fun hlt => hdue.finish rfl hlt ds⟩
  rw [if_neg (by simp [hword])] at hb
  rw [if_neg (not_not.mpr hword)]
  split at hb
  case isTrue hpower =>
    subst hb
    rw [if_pos hpower]
    exact hdue.unstart_power ds rfl
  case isFalse hpower =>
  rw [if_neg hpower]
  split at hb
  case isTrue hhold =>
    subst hb
    rw [if_pos (List.any_eq_true.mp hhold), Dev.unstart, hdue.modifyLetter_startLetter]
    rfl
  case isFalse hhold =>
  rw [if_neg (List.any_eq_true.not.mp hhold)]
  split at hb
  case isTrue hdisabled =>
    subst hb
    rw [if_pos (not_routeEnabled_iff.mp (by simpa using hdisabled))]
    exact hdue.finish rfl (by decide) ds
  case isFalse henabled =>
  rw [if_neg (not_routeEnabled_iff.not.mp (by simpa using henabled))]
  split at hb
  case isTrue habort =>
    subst hb
    rw [if_pos habort]
    exact hdue.finish rfl (by decide) ds
  case isFalse habort =>
  rw [if_neg habort]
  split at hb
  next i hforward hi =>
    subst hb
    rw [if_pos ⟨by simpa [Option.getD_eq_iff] using hforward, by simp [hi]⟩]
    exact ⟨i, hi, fun hlt => hdue.finish rfl hlt ds⟩
  next hother =>
  have hallowed : ¬ ((findRoute s.dev x.route).map rtForwardOnly = some true ∧ handleWord s.dev x ≠ none) := by
    rintro ⟨hforward, hhandle⟩
    obtain ⟨i, hi⟩ := Option.ne_none_iff_exists'.mp hhandle
    exact hother i (by simp [hforward]) hi
  rw [if_neg hallowed]
  split at hb
  case isTrue hdropped =>
    subst hb
    rw [if_pos hdropped]
    exact hdue.finish rfl (by decide) ds
  case isFalse hdropped =>
  rw [if_neg hdropped]
  rw [hdue.letterDone_startLetter hq hrun hleft] at hb
  · subst hb
    rfl
  · exact fun _ => ⟨rfl, rfl, rfl⟩

end Sys2Proof.Machine
end

section
/-! Addresses: where a module-local address lies (R25, R26), and which pseudo-channel holds a slab's bytes (R133-R135). -/

namespace Sys2Proof.Machine

/-! ### The address map (R25, R26) -/

theorem place_slabBase_add {p a : Nat} (hp : p < 4) (ha : a < 2 ^ 40) : place (slabBase p + a) = .slab p := by
  rw [place_slab]
  unfold slabBase
  omega

theorem place_windowBase_add {p w o : Nat} (hp : p < 4) (hw : w < 32) (ho : o < 0x10000000) :
    place (windowBase p w + o) = .window p w o := by
  unfold place windowBase
  rw [if_neg (by omega), if_pos (by omega)]
  simp only [Place.window.injEq]
  omega

theorem place_mmioBase_add {o : Nat} (ho : o < 2 ^ 32) : place (mmioBase + o) = .mmio o := by
  unfold place mmioBase
  rw [if_neg (by omega), if_neg (by omega), if_pos (by omega), Nat.add_sub_cancel_left]

/-- The three gaps of the map: above the slabs, above the windows, above MMIO. -/
theorem place_gap {a : Nat} (h : (0x40000000000 ≤ a ∧ a < 0x200000000000) ∨ (0x200800000000 ≤ a ∧ a < 0x3F0000000000) ∨
    0x3F0100000000 ≤ a) : place a = .unmapped := by
  unfold place mmioBase
  rw [if_neg (by omega), if_neg (by omega), if_neg (by omega)]

/-! ### The pseudo-channel map (R133-R135) -/

/-- The nine bits that choose stack, channel and pseudo-channel of granule g of segment s: its own low bits, or with them
the higher ones folded in, as the segment's interleave set says (R133, R135). -/
def pcSelect (iset s g : Nat) : Nat :=
  if bitN iset s then bitsN g 8 0 ^^^ bitsN g 17 9 ^^^ bitsN g 24 18 else bitsN g 8 0

theorem pcLoc_eq (iset : Nat) {a : Nat} (ha : a < 2 ^ 40) :
    pcLoc iset a =
      { stack := bitsN (pcSelect iset (bitsN a 39 36) (bitsN a 35 11)) 2 0,
        pc := bitsN (pcSelect iset (bitsN a 39 36) (bitsN a 35 11)) 3 3,
        chan := bitsN (pcSelect iset (bitsN a 39 36) (bitsN a 35 11)) 8 4,
        off := bitsN a 39 36 * 0x8000000 + bitsN (bitsN a 35 11) 24 9 * 0x800 + bitsN a 10 0 } := by
  unfold pcLoc
  rw [Nat.mod_eq_of_lt ha]
  rfl

theorem pcSelect_lt (iset s g : Nat) : pcSelect iset s g < 2 ^ 9 := by
  have hlow : bitsN g 8 0 < 2 ^ 9 := by unfold bitsN; omega
  have hmid : bitsN g 17 9 < 2 ^ 9 := by unfold bitsN; omega
  have hhigh : bitsN g 24 18 < 2 ^ 9 := by unfold bitsN; omega
  unfold pcSelect
  split
  · exact Nat.xor_lt_two_pow (Nat.xor_lt_two_pow hlow hmid) hhigh
  · exact hlow

/-- Folding is undone: of granules that agree above bit 8 the selection gives the low bits back. -/
theorem low_eq_of_pcSelect_eq {iset s g g' : Nat} (hhigh : bitsN g 24 9 = bitsN g' 24 9)
    (h : pcSelect iset s g = pcSelect iset s g') : bitsN g 8 0 = bitsN g' 8 0 := by
  have h17 : bitsN g 17 9 = bitsN g' 17 9 := by unfold bitsN at hhigh ⊢; omega
  have h24 : bitsN g 24 18 = bitsN g' 24 18 := by unfold bitsN at hhigh ⊢; omega
  unfold pcSelect at h
  split at h
  · rw [h17, h24] at h
    exact Nat.xor_left_injective (Nat.xor_left_injective h)
  · exact h

/-- A location is that of one slab address only, whatever the interleave sets. -/
theorem pcLoc_injective {iset a b : Nat} (ha : a < 2 ^ 40) (hb : b < 2 ^ 40) (h : pcLoc iset a = pcLoc iset b) : a = b := by
  rw [pcLoc_eq iset ha, pcLoc_eq iset hb] at h
  simp only [PcLoc.mk.injEq] at h
  obtain ⟨hstack, hchan, hpc, hoff⟩ := h
  have hseg : bitsN a 39 36 = bitsN b 39 36 := by unfold bitsN at hoff ⊢; omega
  have hhigh : bitsN (bitsN a 35 11) 24 9 = bitsN (bitsN b 35 11) 24 9 := by unfold bitsN at hoff ⊢; omega
  have hbyte : bitsN a 10 0 = bitsN b 10 0 := by unfold bitsN at hoff ⊢; omega
  rw [hseg] at hstack hchan hpc
  have hsel : pcSelect iset (bitsN b 39 36) (bitsN a 35 11) = pcSelect iset (bitsN b 39 36) (bitsN b 35 11) := by
    have hlt := pcSelect_lt iset (bitsN b 39 36) (bitsN a 35 11)
    have hlt' := pcSelect_lt iset (bitsN b 39 36) (bitsN b 35 11)
    generalize pcSelect iset (bitsN b 39 36) (bitsN a 35 11) = q at *
    generalize pcSelect iset (bitsN b 39 36) (bitsN b 35 11) = q' at *
    unfold bitsN at hstack hchan hpc
    omega
  have hlow := low_eq_of_pcSelect_eq hhigh hsel
  unfold bitsN at hseg hhigh hbyte hlow
  omega

theorem pcLoc_lt (iset a : Nat) :
    (pcLoc iset a).stack < 8 ∧ (pcLoc iset a).chan < 32 ∧ (pcLoc iset a).pc < 2 ∧ (pcLoc iset a).off < 2 ^ 31 := by
  have hmod : pcLoc iset a = pcLoc iset (a % 2 ^ 40) := by unfold pcLoc; rw [Nat.mod_mod]
  rw [hmod, pcLoc_eq iset (Nat.mod_lt a (by decide))]
  dsimp only
  unfold bitsN
  omega

/-- Settles O7: each range of the map holds the addresses formed in it, and a location gives its slab address back. -/
theorem addressMaps : Obligations.AddressMaps := by
  unfold Obligations.AddressMaps
  exact ⟨⟨fun _ _ => place_slabBase_add, fun _ _ _ => place_windowBase_add, fun _ => place_mmioBase_add, fun _ _ => place_gap⟩,
    fun _ _ _ => pcLoc_injective, pcLoc_lt⟩

end Sys2Proof.Machine
end

section
/-! The commander's configuration requests and MSI-X (R118, R371, R372): which field a request changes, and which pending
messages an unmask sends. -/

namespace Sys2Proof.Machine

/-! ### Bits -/

/-- Taking the bits of a mask out of a word borrows from no other bit. -/
theorem sub_and_eq_xor {w : Nat} (x y : BitVec w) : x - (x &&& y) = x ^^^ (x &&& y) := by
  rw [sub_eq_iff_eq_add, BitVec.add_eq_or_of_and_eq_zero] <;> ext i hi <;>
    simp only [BitVec.getElem_or, BitVec.getElem_and, BitVec.getElem_xor, BitVec.getElem_zero] <;>
    cases x[i] <;> cases y[i] <;> rfl

theorem testBit_sub_and (a m i : Nat) : (a - (a &&& m)).testBit i = (a.testBit i && !m.testBit i) := by
  have hxor : a - (a &&& m) = a ^^^ (a &&& m) := by
    have ha : a < 2 ^ max a.size m.size := lt_of_lt_of_le a.lt_size_self (Nat.pow_le_pow_right (by decide) (le_max_left ..))
    have hm : m < 2 ^ max a.size m.size := lt_of_lt_of_le m.lt_size_self (Nat.pow_le_pow_right (by decide) (le_max_right ..))
    have h := congrArg BitVec.toNat (sub_and_eq_xor (BitVec.ofNatLT a ha) (BitVec.ofNatLT m hm))
    rw [BitVec.toNat_sub_of_le Nat.and_le_left] at h
    exact h
  rw [hxor, Nat.testBit_xor, Nat.testBit_and]
  cases a.testBit i <;> cases m.testBit i <;> rfl

theorem Dev.bit_eq_getLsbD (d : Dev) (r : Reg) (i : Nat) : d.bit r i = (d.reg r).getLsbD i := by
  have hfld : d.fld r i i = (d.reg r).toNat / 2 ^ i % 2 := by
    rw [Dev.fld, fget, bitsN, Nat.add_sub_cancel_left, pow_one]
  rw [Dev.bit, hfld, ← BitVec.testBit_toNat, Nat.testBit_eq_decide_div_mod_eq]

/-- A bit reads as what it was set to; no other bit changes. -/
theorem Dev.bit_setBit (d : Dev) (r q : Reg) {i j : Nat} (hj : j < 64) (b : Bool) :
    (d.setBit r i b).bit q j = if r = q ∧ i = j then b else d.bit q j := by
  rw [Dev.bit_eq_getLsbD, Dev.reg_setBit, Dev.bit_eq_getLsbD]
  by_cases hr : r = q
  · subst hr
    rw [if_pos rfl, bset, fset_getLsbD _ _ _ _ _ hj]
    by_cases hi : i = j
    · subst hi
      cases b <;> simp
    · rw [if_neg (by omega), if_neg (by simp [hi])]
  · rw [if_neg hr, if_neg (by simp [hr])]

/-! ### Pending messages -/

/-- One vector of `Dev.msixFlush`: its message goes out when it is pending and not masked. -/
def Dev.msixTry (d : Dev) (v : Nat) : Dev :=
  if d.bit (.msixPba (v / 64)) (v % 64) ∧ !d.msixMasked v then (d.setBit (.msixPba (v / 64)) (v % 64) false).msixSendNow v else d

theorem Dev.msixFlush_eq (d : Dev) (vs : List Nat) : d.msixFlush vs = d.each vs Dev.msixTry := rfl

/-- `e` is `d` but for messages sent and for pending bits: masks and vectors stand. -/
def Notified (d e : Dev) : Prop := (∃ m o, e = { d with regs := m, out := o }) ∧ ∀ r, (∀ w, r ≠ .msixPba w) → e.reg r = d.reg r

theorem Notified.refl (d : Dev) : Notified d d := ⟨⟨d.regs, d.out, rfl⟩, fun _ _ => rfl⟩

theorem Notified.trans {d e f : Dev} (h : Notified d e) (h' : Notified e f) : Notified d f := by
  obtain ⟨⟨m, o, rfl⟩, hr⟩ := h
  obtain ⟨⟨n, q, rfl⟩, hr'⟩ := h'
  exact ⟨⟨n, q, rfl⟩, fun r hp => (hr' r hp).trans (hr r hp)⟩

theorem Notified.masked {d e : Dev} (h : Notified d e) (v : Nat) : e.msixMasked v = d.msixMasked v := by
  obtain ⟨⟨m, o, he⟩, hr⟩ := h
  have hpcie : e.pcie = d.pcie := by rw [he]
  rw [Dev.msixMasked, Dev.msixMasked, Dev.bit_eq_getLsbD, Dev.bit_eq_getLsbD, hr _ (by simp), hpcie]

theorem Dev.msixTry_notified (d : Dev) (v : Nat) : Notified d (d.msixTry v) := by
  unfold Dev.msixTry
  split
  · refine ⟨⟨_, _, rfl⟩, fun r hr => ?_⟩
    rw [Dev.msixSendNow, Dev.reg_send, Dev.reg_setBit, if_neg fun h => hr _ h.symm]
  · exact .refl d

theorem Dev.msixFlush_notified (d : Dev) (vs : List Nat) : Notified d (d.msixFlush vs) :=
  Dev.each_keeps (Q := Notified d) vs _ (fun e v he => he.trans (e.msixTry_notified v)) d (.refl d)

/-- The pending bit of vector u after vector v has had its turn. -/
theorem Dev.msixTry_pending (d : Dev) (v u : Nat) :
    (d.msixTry v).bit (.msixPba (u / 64)) (u % 64) = (d.bit (.msixPba (u / 64)) (u % 64) && (decide (u ≠ v) || d.msixMasked u)) := by
  have hsame : Reg.msixPba (v / 64) = .msixPba (u / 64) ∧ v % 64 = u % 64 ↔ u = v := by
    rw [Reg.msixPba.injEq]
    omega
  have hsend : ∀ (e : Dev) (r : Reg) (i : Nat), (e.msixSendNow v).bit r i = e.bit r i := fun _ _ _ => rfl
  unfold Dev.msixTry
  split
  case isTrue h =>
    rw [hsend, Dev.bit_setBit _ _ _ (Nat.mod_lt u (by decide)), if_congr hsame rfl rfl]
    by_cases huv : u = v
    · subst huv
      have hm : d.msixMasked u = false := by simpa using h.2
      simp [hm]
    · simp [huv]
  case isFalse h =>
    by_cases huv : u = v
    · subst huv
      cases hb : d.bit (.msixPba (u / 64)) (u % 64) <;> simp_all
    · simp [huv]

/-- A flush clears the pending bits of its vectors that are not masked. -/
theorem Dev.msixFlush_pending (vs : List Nat) (d : Dev) (u : Nat) :
    (d.msixFlush vs).bit (.msixPba (u / 64)) (u % 64) = (d.bit (.msixPba (u / 64)) (u % 64) && (decide (u ∉ vs) || d.msixMasked u)) := by
  induction vs generalizing d with
  | nil => simp [Dev.msixFlush, Dev.each]
  | cons v vs ih =>
    show ((d.msixTry v).msixFlush vs).bit _ _ = _
    rw [ih, Dev.msixTry_pending, (d.msixTry_notified v).masked]
    cases d.msixMasked u <;> simp [Bool.and_assoc]

theorem mem_pendingVectors {d : Dev} {v : Nat} (hv : v < 2048) (h : d.bit (.msixPba (v / 64)) (v % 64) = true) : v ∈ pendingVectors d := by
  refine List.mem_flatMap.mpr ⟨v / 64, List.mem_range.mpr (by omega), ?_⟩
  have hword : d.reg (.msixPba (v / 64)) ≠ 0#64 := by
    intro hz
    rw [Dev.bit_eq_getLsbD, hz] at h
    simp at h
  rw [if_neg hword]
  exact List.mem_filterMap.mpr ⟨v % 64, List.mem_range.mpr (Nat.mod_lt v (by decide)), by simp [h]; omega⟩

/-- After a flush of every pending vector those are pending that were, and that are masked. -/
theorem Dev.msixFlush_pendingVectors (d : Dev) {v : Nat} (hv : v < 2048) :
    (d.msixFlush (pendingVectors d)).bit (.msixPba (v / 64)) (v % 64) = (d.bit (.msixPba (v / 64)) (v % 64) && d.msixMasked v) := by
  rw [Dev.msixFlush_pending]
  cases h : d.bit (.msixPba (v / 64)) (v % 64) with
  | false => rfl
  | true => simp [mem_pendingVectors hv h]

/-- While every vector is masked a flush does nothing. -/
theorem Dev.msixFlush_masked {d : Dev} (h : ∀ v, d.msixMasked v = true) (vs : List Nat) : d.msixFlush vs = d := by
  rw [Dev.msixFlush_eq]
  exact Dev.each_same vs fun v _ => if_neg (by simp [h v])

/-! ### Configuration requests -/

/-- A request that is served, once the rails are up, PERST# is high and the gate is ready (R42, R371). -/
theorem exec_pcieConfigRequest_served {s : State} {op : CfgOp} {f : Dev → Dev}
    (hf : exec (.pcieConfigRequest op) s =
      .next (s.onDev fun d => if (!d.power.rails) = true ∨ d.pcie.perst = true then d else if d.pcie.retry = true then d.send .cfgRetry else f d))
    (hrails : s.dev.power.rails = true) (hperst : s.dev.pcie.perst = false) (hretry : s.dev.pcie.retry = false) :
    exec (.pcieConfigRequest op) s = .next { s with dev := f s.dev } := by
  rw [hf, State.onDev, if_neg (by simp [hrails, hperst]), if_neg (by simp [hretry])]

/-- A BAR's base is written; other numbers name no BAR. -/
def Pcie.setBar (p : Pcie) (n : Nat) (v : W64) : Pcie :=
  { p with bar0 := if n = 0 then v else p.bar0, bar2 := if n = 2 then v else p.bar2, bar4 := if n = 4 then v else p.bar4 }

theorem exec_pcieConfigRequest_barBase (s : State) (n : Nat) (v : W64) :
    exec (.pcieConfigRequest (.barBase n v)) s = .next (s.onDev fun d => if (!d.power.rails) = true ∨ d.pcie.perst = true then d
      else if d.pcie.retry = true then d.send .cfgRetry else { d with pcie := d.pcie.setBar n v }) := by
  match n with
  | 0 | 2 | 4 => rfl
  | 1 | 3 | _ + 5 => rfl

/-! ### Unmasks -/

/-- The vector's own mask bit is cleared, and its message goes out if it waited for that alone. -/
theorem exec_msixUnmask_vector {s : State} {v : Nat} (hv : v < 2048) :
    exec (.msixUnmask (.vector v)) s = .next { s with dev := (s.dev.setBit (.msixEntry (4 * v + 3)) 0 false).msixTry v } := by
  have h : (if v < 2048 then (s.dev.setBit (.msixEntry (4 * v + 3)) 0 false).msixFlush [v] else s.dev) =
      (s.dev.setBit (.msixEntry (4 * v + 3)) 0 false).msixTry v := if_pos hv
  rw [← h]
  rfl

theorem Dev.unmask_pending (d : Dev) (v : Nat) :
    (d.setBit (.msixEntry (4 * v + 3)) 0 false).bit (.msixPba (v / 64)) (v % 64) = d.bit (.msixPba (v / 64)) (v % 64) := by
  rw [Dev.bit_setBit _ _ _ (Nat.mod_lt v (by decide)), if_neg (by simp)]

theorem Dev.unmask_masked (d : Dev) (v : Nat) :
    (d.setBit (.msixEntry (4 * v + 3)) 0 false).msixMasked v = (d.pcie.funcMask || !d.pcie.msixEnable) := by
  have hbit : (d.setBit (.msixEntry (4 * v + 3)) 0 false).bit (.msixEntry (4 * v + 3)) 0 = false := by
    rw [Dev.bit_setBit _ _ _ (by decide), if_pos ⟨rfl, rfl⟩]
  have hpcie : (d.setBit (.msixEntry (4 * v + 3)) 0 false).pcie = d.pcie := rfl
  rw [Dev.msixMasked, hbit, hpcie, Bool.false_or]

/-- A vector that is not pending, or stays masked, sends nothing. -/
theorem msixUnmask_silent {s : State} {v : Nat} (hv : v < 2048)
    (h : s.dev.bit (.msixPba (v / 64)) (v % 64) = false ∨ s.dev.pcie.msixEnable = false ∨ s.dev.pcie.funcMask = true) :
    Answers (.msixUnmask (.vector v)) s fun t =>
      Becomes s t s.dev [(.msixEntry (4 * v + 3), bset (s.dev.reg (.msixEntry (4 * v + 3))) 0 false)] := by
  refine ⟨_, exec_msixUnmask_vector hv, ?_⟩
  have hquiet : (s.dev.setBit (.msixEntry (4 * v + 3)) 0 false).msixTry v = s.dev.setBit (.msixEntry (4 * v + 3)) 0 false := by
    refine if_neg ?_
    rw [Dev.unmask_pending, Dev.unmask_masked]
    obtain h | h | h := h <;> simp [h]
  rw [hquiet]
  exact ⟨rfl, (RegsRead.refl s.dev).set _ _⟩

/-- A pending vector that is no longer masked sends its message and is pending no more. -/
theorem msixUnmask_sends {s : State} {v : Nat} (hv : v < 2048) (hpending : s.dev.bit (.msixPba (v / 64)) (v % 64) = true)
    (hen : s.dev.pcie.msixEnable = true) (hmask : s.dev.pcie.funcMask = false) :
    Answers (.msixUnmask (.vector v)) s fun t =>
      Becomes s t { s.dev with out := s.dev.out ++
          [.msix v (s.dev.regN (.msixEntry (4 * v)) + 2 ^ 32 * s.dev.regN (.msixEntry (4 * v + 1)))
            ((s.dev.reg (.msixEntry (4 * v + 2))).truncate 32)] }
        [(.msixPba (v / 64), bset (s.dev.reg (.msixPba (v / 64))) (v % 64) false),
         (.msixEntry (4 * v + 3), bset (s.dev.reg (.msixEntry (4 * v + 3))) 0 false)] := by
  refine ⟨_, exec_msixUnmask_vector hv, ?_⟩
  have hsends : (s.dev.setBit (.msixEntry (4 * v + 3)) 0 false).msixTry v =
      ((s.dev.setBit (.msixEntry (4 * v + 3)) 0 false).setBit (.msixPba (v / 64)) (v % 64) false).msixSendNow v := by
    refine if_pos ?_
    rw [Dev.unmask_pending, Dev.unmask_masked]
    simp [hpending, hen, hmask]
  have hentry : ∀ k, k < 3 → ((s.dev.setBit (.msixEntry (4 * v + 3)) 0 false).setBit (.msixPba (v / 64)) (v % 64) false).reg (.msixEntry (4 * v + k)) =
      s.dev.reg (.msixEntry (4 * v + k)) := by
    intro k hk
    rw [Dev.reg_setBit, if_neg (by simp), Dev.reg_setBit, if_neg (by simp; omega)]
  have hpba : (s.dev.setBit (.msixEntry (4 * v + 3)) 0 false).reg (.msixPba (v / 64)) = s.dev.reg (.msixPba (v / 64)) := by
    rw [Dev.reg_setBit, if_neg (by simp)]
  rw [hsends]
  refine ⟨?_, ?_⟩
  · rw [Dev.msixSendNow, Dev.regN, Dev.regN, hentry 1 (by decide), hentry 2 (by decide), ← Nat.add_zero (4 * v), hentry 0 (by decide)]
    rfl
  · have hset := ((RegsRead.refl s.dev).set (.msixEntry (4 * v + 3)) (bset (s.dev.reg (.msixEntry (4 * v + 3))) 0 false)).set
      (.msixPba (v / 64)) (bset (s.dev.reg (.msixPba (v / 64))) (v % 64) false)
    have hclear : (s.dev.setBit (.msixEntry (4 * v + 3)) 0 false).setBit (.msixPba (v / 64)) (v % 64) false =
        (s.dev.setBit (.msixEntry (4 * v + 3)) 0 false).setReg (.msixPba (v / 64)) (bset (s.dev.reg (.msixPba (v / 64))) (v % 64) false) := by
      rw [Dev.setBit_eq _ (.msixPba (v / 64)), hpba]
    refine hset.congr ?_
    rw [Dev.msixSendNow, Dev.send_regs, hclear]
    rfl

/-- The module with other MSI-X control, its pending messages let go. -/
def Dev.withControl (d : Dev) (p : Pcie) : Dev := Dev.msixFlush { d with pcie := p } (pendingVectors { d with pcie := p })

/-- Only messages and pending bits follow a change of MSI-X control. -/
theorem Dev.withControl_eq (d : Dev) (p : Pcie) : ∃ m o, d.withControl p = { d with pcie := p, regs := m, out := o } :=
  (Dev.msixFlush_notified _ _).1

/-- Of the vectors those stay pending that stay masked. -/
theorem Dev.withControl_pending (d : Dev) (p : Pcie) {v : Nat} (hv : v < 2048) :
    (d.withControl p).bit (.msixPba (v / 64)) (v % 64) =
      (d.bit (.msixPba (v / 64)) (v % 64) && (d.bit (.msixEntry (4 * v + 3)) 0 || p.funcMask || !p.msixEnable)) :=
  Dev.msixFlush_pendingVectors _ hv

/-- MSI-X control that masks every vector sends nothing. -/
theorem Dev.withControl_masked (d : Dev) {p : Pcie} (h : p.msixEnable = false ∨ p.funcMask = true) : d.withControl p = { d with pcie := p } :=
  Dev.msixFlush_masked (fun v => by obtain h | h := h <;> simp [Dev.msixMasked, h]) _

/-! ### The statement -/

section
variable {s : State} (hrails : s.dev.power.rails = true) (hperst : s.dev.pcie.perst = false)
include hrails hperst

theorem pcieConfigRequest_retry (hretry : s.dev.pcie.retry = true) (op : CfgOp) :
    exec (.pcieConfigRequest op) s = .next { s with dev := { s.dev with out := s.dev.out ++ [.cfgRetry] } } := by
  show Host.Outcome.next (s.onDev _) = _
  rw [State.onDev, if_neg (by simp [hrails, hperst]), if_pos hretry]
  rfl

variable (hretry : s.dev.pcie.retry = false)
include hretry

/-- The payload and the read request size each take the values that PCIe gives them, and keep theirs otherwise. -/
theorem pcieConfigRequest_sizes (a b : Nat) :
    exec (.pcieConfigRequest (.sizes a b)) s = .next { s with dev := { s.dev with pcie := { s.dev.pcie with
      mps := if a ≤ 512 ∧ a ∈ [128, 256, 512] then a else s.dev.pcie.mps,
      mrrs := if b ∈ [128, 256, 512, 1024, 2048, 4096] then b else s.dev.pcie.mrrs } } } :=
  exec_pcieConfigRequest_served (f := fun d => { d with pcie := { d.pcie with
    mps := if a ≤ 512 ∧ a ∈ [128, 256, 512] then a else d.pcie.mps,
    mrrs := if b ∈ [128, 256, 512, 1024, 2048, 4096] then b else d.pcie.mrrs } }) rfl hrails hperst hretry

theorem pcieConfigRequest_bar2Size (k : Nat) : Answers (.pcieConfigRequest (.bar2Size k)) s fun t =>
    t = { s with dev := { s.dev with pcie := { s.dev.pcie with bar2Log2 := if 30 ≤ k ∧ k ≤ 42 then k else s.dev.pcie.bar2Log2 } } } := by
  refine ⟨_, exec_pcieConfigRequest_served (f := fun d => if 30 ≤ k ∧ k ≤ 42 then { d with pcie := { d.pcie with bar2Log2 := k } } else d)
    rfl hrails hperst hretry, ?_⟩
  split <;> rfl

theorem pcieConfigRequest_msix (on mask : Bool) : Answers (.pcieConfigRequest (.msix on mask)) s fun t =>
    t = { s with dev := { s.dev with pcie := { s.dev.pcie with msixEnable := on, funcMask := mask }, regs := t.dev.regs, out := t.dev.out } } ∧
    ((on = false ∨ mask = true) → t.dev.out = s.dev.out ∧ ∀ r, t.dev.reg r = s.dev.reg r) := by
  refine ⟨_, exec_pcieConfigRequest_served (f := fun d => d.withControl { d.pcie with msixEnable := on, funcMask := mask })
    rfl hrails hperst hretry, ?_, fun hoff => ?_⟩
  · obtain ⟨m, o, hcontrol⟩ := s.dev.withControl_eq { s.dev.pcie with msixEnable := on, funcMask := mask }
    rw [hcontrol]
  · rw [Dev.withControl_masked _ hoff]
    exact ⟨rfl, fun _ => rfl⟩

end

/-- Unmasking the function or enabling MSI-X changes that field, sends messages and clears pending bits, and no more. -/
theorem msixUnmask_control {s : State} {what : MsixWhat} {p : Pcie} (h : exec (.msixUnmask what) s = .next { s with dev := s.dev.withControl p }) :
    Answers (.msixUnmask what) s fun t =>
      t = { s with dev := { s.dev with pcie := p, regs := t.dev.regs, out := t.dev.out } } ∧
      ∀ v < 2048, t.dev.bit (.msixPba (v / 64)) (v % 64) =
        (s.dev.bit (.msixPba (v / 64)) (v % 64) && (s.dev.bit (.msixEntry (4 * v + 3)) 0 || p.funcMask || !p.msixEnable)) := by
  obtain ⟨m, o, hcontrol⟩ := s.dev.withControl_eq p
  exact ⟨_, h, by rw [hcontrol], fun v hv => s.dev.withControl_pending p hv⟩

/-- Settles O11: a request that is served changes its own field, and an unmask sends what was pending and is masked no more. -/
theorem configurationSpace : Obligations.ConfigurationSpace := by
  unfold Obligations.ConfigurationSpace
  refine ⟨fun s hrails hperst => ⟨fun hretry op => ⟨_, pcieConfigRequest_retry hrails hperst hretry op, rfl⟩, fun hretry => ?_⟩,
    fun s v hv hen hmask => ⟨fun hp => msixUnmask_sends hv hp hen hmask, fun hp => msixUnmask_silent hv (.inl hp)⟩,
    fun s v hv h => msixUnmask_silent hv (.inr h), fun s v hv => ?_, fun s => ?_, fun s => ?_⟩
  · have served := fun (op : CfgOp) (f : Dev → Dev) hf => exec_pcieConfigRequest_served (s := s) (op := op) (f := f) hf hrails hperst hretry
    refine ⟨fun off => ⟨_, served _ _ rfl, rfl⟩, rfl, fun k i => ⟨_, served _ _ rfl, rfl⟩, fun i => ⟨_, served _ _ rfl, rfl⟩,
      fun m => ⟨_, served _ _ rfl, rfl, testBit_sub_and _ m⟩, fun m b => ⟨_, served _ _ rfl, rfl⟩,
      fun a b ha hb => ⟨_, pcieConfigRequest_sizes hrails hperst hretry a b, ?_⟩, fun a b ha hb => ?_,
      pcieConfigRequest_bar2Size hrails hperst hretry, fun n v => ⟨_, served _ _ (exec_pcieConfigRequest_barBase s n v), rfl⟩,
      pcieConfigRequest_msix hrails hperst hretry, fun off => ⟨_, served _ _ rfl, rfl⟩⟩
    · have hmax : a ≤ 512 := by simp at ha; omega
      rw [if_pos ⟨hmax, ha⟩, if_pos hb]
    · rw [pcieConfigRequest_sizes hrails hperst hretry, if_neg fun h => ha h.2, if_neg hb]
  · have hbig : ¬ v < 2048 := Nat.not_lt.mpr hv
    show Host.Outcome.next (s.onDev fun d => if v < 2048 then _ else d) = _
    rw [State.onDev, if_neg hbig]
  · simpa only [Bool.or_false] using msixUnmask_control (s := s) (what := .function) (p := { s.dev.pcie with funcMask := false }) rfl
  · simpa only [Bool.not_true, Bool.or_false] using msixUnmask_control (s := s) (what := .enable) (p := { s.dev.pcie with msixEnable := true }) rfl

end Sys2Proof.Machine
end

section
/-! Registers whose writes are commands of their own: what such a command does to its register, and that a write through
BAR4 at the register's offset is the command. -/

namespace Sys2Proof.Machine

/-! ### A granted command that sets one field -/

/-- A granted command that sets a field of its register changes that register, and beside it what the offices count. -/
theorem becomes_viaReg_setFld {s : State} {v : Via} {g : Guard} {r : Reg} {hi lo n : Nat} {f : Dev → Dev} (h : Granted s.dev v g r)
    (hr : ∀ k, r ≠ .sortPortBytes k) (hf : f (s.dev.across v r) = (s.dev.across v r).setFld r hi lo n) (i : Instr) :
    Becomes (s.across v r) (s.onDev fun d => d.viaReg v g r i f) { s.dev with out := s.dev.out ++ viaAck v }
      [(r, fset (s.dev.reg r) hi lo n)] := by
  obtain ⟨⟨m, hm⟩, hcount⟩ := s.dev.acrossAt_counts v r.info.offset r.info.width
  have hacross : s.dev.across v r = { s.dev with regs := m } := hm
  have hold : (s.dev.across v r).reg r = s.dev.reg r := hcount r hr
  refine ⟨?_, fun q => ?_⟩
  · rw [State.onDev, Dev.viaReg_granted h, hf, Dev.setFld_eq, State.across, hacross]
    rfl
  · have hread : (s.onDev fun d => d.viaReg v g r i f).dev.reg q = ((s.dev.across v r).setFld r hi lo n).reg q := by
      rw [State.onDev_dev, Dev.viaReg_granted h, hf]
      rfl
    rw [hread, Dev.reg_setFld, hold, mapGet?_cons]
    split <;> rfl

/-- The crossing of the offices tells the loader nothing: its state and the partitions' stand. -/
theorem moduleNumber_locked_across (d : Dev) (v : Via) (r : Reg) :
    ((d.across v r).loadState ≠ 0 ∨ (List.range 4).any (d.across v r).installed = true) ↔ (d.loadState ≠ 0 ∨ ∃ p < 4, d.installed p = true) := by
  obtain ⟨-, hcount⟩ := d.acrossAt_counts v r.info.offset r.info.width
  have hload : (d.across v r).loadState = d.loadState := by
    unfold Dev.loadState Dev.fld
    rw [Dev.across, hcount _ (by simp)]
  have hinst : (d.across v r).installed = d.installed := by
    funext p
    unfold Dev.installed Dev.fld
    rw [Dev.across, hcount _ (by simp)]
  rw [hload, hinst, List.any_eq_true]
  simp only [List.mem_range]

/-! ### The commander's write through BAR4 to a module-level die -/

/-- A register whose writes are commands takes no plain bits. -/
theorem Dev.regTake_ownRow {r : Reg} (hown : ownRow r = true) (d : Dev) (b size v : Nat) : d.regTake r b size v = d := by
  unfold Dev.regTake
  rw [if_pos (.inl hown)]

section
variable {d : Dev} (hon : barsOn d = true) (hrec : d.recovery = false) (hwait : barWait d = false) {off : Nat} (hoff : off < 0x400000)

include hon hrec in
theorem grant_bar4 (g : Guard) (gate : Bool) : grant d .bar4 g gate = .yes := by
  have hbit : d.bit .secStatus 0 = false := hrec
  simp [grant, hon, hbit]

include hoff in
theorem mmioPort_module : mmioPort off = 4 := if_neg (by omega)

include hoff in
theorem blockDark_module (write : Bool) : blockDark d off write = false := if_pos (by omega)

include hwait hoff in
theorem officesPass_bar4 : OfficesPass d .bar4 off := ⟨by simp [barBlocked, hwait], .inl (mmioPort_module hoff).symm⟩

include hoff in
theorem acrossAt_bar4 (len : Nat) : d.acrossAt .bar4 off len = d := if_pos (.inl (mmioPort_module hoff).symm)

include hrec hoff in
theorem barTarget_bar4 : barTarget d .bar4 off = some off := by
  simp [barTarget, hrec, hoff]

include hon hrec hwait in
/-- A command of the commander's on a module-level register acts at once, and nobody hears of it. -/
theorem Dev.viaReg_bar4 {r : Reg} (hr : r.info.offset < 0x400000) (g : Guard) (i : Instr) (f : Dev → Dev) :
    d.viaReg .bar4 g r i f = f d := by
  have hgranted : Granted d .bar4 g r := ⟨grant_bar4 hon hrec g _, blockDark_module hr true, officesPass_bar4 hwait hr⟩
  rw [Dev.viaReg_granted hgranted, Dev.across, acrossAt_bar4 hr]
  simp [viaAck]

include hon hrec hwait hoff in
theorem admitted_bar4 (len : Nat) : admitted d .bar4 off len = true := by
  have hcross : crossing d 4 4 (mmioBase + off) len true = (.ok (), d) := if_pos rfl
  simp [admitted, grant_bar4 hon hrec, barBlocked, hwait, viaPort, mmioPort_module hoff, hcross]

include hon hrec hwait hoff in
theorem Dev.via_bar4_ownRow {r : Reg} (hreg : Reg.ofOffset off = some (r, 0)) (hown : ownRow r = true) (size x : Nat) (i : Instr) :
    d.via .bar4 (guardAt off) off size i (fun d => d.mmioTake off size x) = d := by
  have hims : imsicAt off = none := if_neg (by omega)
  rw [Dev.via_pass (grant_bar4 hon hrec _ _) (officesPass_bar4 hwait hoff), acrossAt_bar4 hoff,
    Dev.mmioTake_reg hims (blockDark_module hoff true) hreg, Dev.regTake_ownRow hown]
  simp [viaAck]

end

section
variable {s : State} {r : Reg} {hi lo n : Nat} (hown : ownRow r = true) (hoff : r.info.offset < 0x400000)
include hown

theorem ne_sortPortBytes_of_ownRow (k : Nat) : r ≠ .sortPortBytes k := by
  rintro rfl
  cases hown

/-- A row's command that follows the commander's write and sets a field of its register does just that. -/
theorem runQuiet_setFld {i : Instr} (hrun : runRow i s = s.onDev fun d => d.setFld r hi lo n) :
    runQuiet .bar4 r.info.offset 4 s i = s.onDev fun d => d.setFld r hi lo n := by
  have hsame : ∀ k, (s.dev.setFld r hi lo n).reg (.sortPortBytes k) ≠ s.dev.reg (.sortPortBytes k) + BitVec.ofNat 64 4 := by
    intro k
    rw [Dev.reg_setFld, if_neg (ne_sortPortBytes_of_ownRow hown k)]
    bv_omega
  have hout : (s.dev.setFld r hi lo n).out = s.dev.out := rfl
  unfold runQuiet
  rw [hrun]
  dsimp only [State.onDev]
  rw [if_neg (hsame _), hout]
  simp [viaAck]
  rfl

variable (hon : barsOn s.dev = true) (hrec : s.dev.recovery = false) (hwait : barWait s.dev = false)
include hoff hon hrec hwait

/-- A write through BAR4 to a module-level register is its row's command, when that sets a field of the register. -/
theorem writeReg_bar4_ownRow (hreg : Reg.ofOffset r.info.offset = some (r, 0)) (hsize : sizeOk r 0 4 = true) {c i : Instr} {x : W64}
    (hrow : ∀ k, rowCmds s.dev .bar4 r 4 (x.toNat % 2 ^ (8 * 4)) k = [c]) (hrun : runRow c s = s.onDev fun d => d.setFld r hi lo n) :
    s.writeReg i .bar4 r.info.offset 4 x = s.onDev fun d => d.setFld r hi lo n := by
  have hovf : ∀ p, r ≠ .hallStashOvf p := by
    rintro p rfl
    cases hown
  have htake : (s.onDev fun d => d.via .bar4 (guardAt r.info.offset) r.info.offset 4 i fun d => d.mmioTake r.info.offset 4 x.toNat) = s := by
    rw [State.onDev, Dev.via_bar4_ownRow hon hrec hwait hoff hreg hown]
  unfold State.writeReg
  rw [htake]
  simp only [hreg]
  rw [if_neg (by simp [admitted_bar4 hon hrec hwait hoff, blockDark_module hoff, hsize])]
  simp only [if_true, hrow]  -- `hovf` decides the match on the register
  exact runQuiet_setFld hown hrun

theorem exec_registerWrite_bar4_ownRow (hreg : Reg.ofOffset r.info.offset = some (r, 0)) (hsize : sizeOk r 0 4 = true) {c : Instr} {g : Guard}
    {x : W64} (hrow : ∀ k, rowCmds s.dev .bar4 r 4 (x.toNat % 2 ^ (8 * 4)) k = [c])
    (hexec : exec c s = .next (s.onDev fun d => d.viaReg .bar4 g r c fun d => d.setFld r hi lo n))
    (hrun : runRow c s = after s (exec c s)) : exec (.registerWrite .bar4 r.info.offset 4 x) s = exec c s := by
  have hact : exec c s = .next (s.onDev fun d => d.setFld r hi lo n) := by
    rw [hexec, State.onDev, Dev.viaReg_bar4 hon hrec hwait hoff]
    rfl
  rw [hact] at hrun ⊢
  show execRegisterWrite .bar4 r.info.offset 4 x s = _
  unfold execRegisterWrite
  rw [barTarget_bar4 hrec hoff]
  dsimp only
  rw [writeReg_bar4_ownRow hown hoff hon hrec hwait hreg hsize hrow hrun]
  exact settled_of_posted_eq rfl

end

/-! ### Reads through the BARs (R37, R39) -/

theorem barRead_bar0_reserved {d : Dev} (hon : barsOn d = true) (a n : Nat) (ha : a < 0x100000 ∨ 0x200000 ≤ a) : barRead d .bar0 a n = some 0 := by
  have hout : ¬ (0x100000 ≤ a ∧ a < 0x200000) := by omega
  simp [barRead, hon, barTarget, hout]

theorem barRead_bar0_gate {d : Dev} (hrec : d.recovery = false) (a n : Nat) (ha : a < 0x100000) :
    barRead d .bar0 (0x100000 + a) n = barRead d .bar4 a n := by
  have hin : 0x100000 ≤ 0x100000 + a ∧ 0x100000 + a < 0x200000 := by omega
  have htgt : barTarget d .bar0 (0x100000 + a) = some a := by simp [barTarget, hrec, hin]
  rw [barRead, barRead, htgt, barTarget_bar4 hrec (by omega)]

theorem barRead_bar4_reserved {d : Dev} (hon : barsOn d = true) (hrec : d.recovery = false) (a n : Nat) (h : 0x400000 ≤ a) (h' : a < 0x800000) :
    barRead d .bar4 a n = some 0 := by
  simp [barRead, hon, barTarget, hrec, Nat.not_lt.mpr h, Nat.not_le.mpr h']

/-! ### The statement -/

/-- Settles O14: each command sets its field once its write is granted, and BAR4 leads to the same command. -/
theorem ownRegisterWrites : Obligations.OwnRegisterWrites := by
  unfold Obligations.OwnRegisterWrites
  intro s v value
  refine ⟨fun h => ⟨_, rfl, becomes_viaReg_setFld h (by simp) rfl _⟩, fun h => ⟨_, rfl, becomes_viaReg_setFld h (by simp) rfl _⟩,
    fun h => ⟨_, rfl, becomes_viaReg_setFld h (by simp) rfl _⟩, fun h => ⟨_, rfl, becomes_viaReg_setFld h (by simp) rfl _⟩,
    fun h => ⟨fun hidle hnone => ⟨_, rfl, becomes_viaReg_setFld h (by simp) ?_ _⟩, fun hlock => ⟨_, rfl, ?_⟩⟩,
    fun hon hrec hwait x => ⟨?_, barRead_bar0_reserved hon, barRead_bar0_gate hrec, barRead_bar4_reserved hon hrec⟩⟩
  · refine if_neg ((moduleNumber_locked_across ..).not.mpr ?_)
    rintro (hbusy | ⟨p, hp, hinst⟩)
    · exact hbusy hidle
    · simp [hnone p hp] at hinst
  · obtain ⟨m, hm⟩ := (s.dev.acrossAt_counts v (Reg.info .structModuleNumber).offset (Reg.info .structModuleNumber).width).1
    have hout : (s.dev.across v .structModuleNumber).out = s.dev.out := by rw [Dev.across, hm]
    rw [State.onDev, Dev.viaReg_granted h, if_pos ((moduleNumber_locked_across ..).mpr hlock), hout]
  · have hword : BitVec.ofNat 32 (x.toNat % 2 ^ (8 * 4)) = x.truncate 32 := by
      apply BitVec.eq_of_toNat_eq
      simp
    rintro c r (⟨rfl, rfl⟩ | ⟨rfl, rfl⟩ | ⟨rfl, rfl⟩ | ⟨rfl, rfl⟩) <;>
      exact exec_registerWrite_bar4_ownRow rfl (by decide) hon hrec hwait rfl (by decide) (fun k => by rw [← hword]; rfl) rfl rfl

end Sys2Proof.Machine
end

section
/-! The resident cores' access faults (R28, R32, R379): which accesses stop, and what the core hears. -/

namespace Sys2Proof.Machine

/-! ### A request that nothing holds back -/

theorem Dev.take_performed {d e : Dev} {h : Held} (hp : perform d h = some e) : d.take h = e := by
  unfold Dev.take
  rw [hp]

/-- A core's access that is performed and posts no write leaves what it performs. -/
theorem exec_coreAccess_performed {s : State} {hart t : Nat} {mode : CoreMode} {op : CoreOp} {e : Dev} (hh : hart < 192)
    (hp : perform s.dev (.core hart mode t op) = some e) (hposted : e.posted = s.dev.posted) :
    exec (.coreAccess hart mode t op) s = .next { s with dev := e } := by
  have hdev : (s.onDev fun d => if 192 ≤ hart then d else d.take (.core hart mode t op)) = { s with dev := e } := by
    rw [State.onDev, if_neg (Nat.not_le.mpr hh), Dev.take_performed hp]
  show settled s (.next _) = _
  rw [hdev]
  exact settled_of_posted_eq hposted

section
variable {d : Dev} {hart t : Nat} {mode : CoreMode} {op : CoreOp}

theorem perform_core_stopped (hheld : d.held = []) (hrun : d.fld (.partCoreStatus (hart / 48) (hart % 48)) 1 0 ≠ 1) :
    perform d (.core hart mode t op) = some d := by
  simp [perform, hheld, hrun]

theorem perform_core_fault (hheld : d.held = []) (hrun : d.fld (.partCoreStatus (hart / 48) (hart % 48)) 1 0 = 1) {b : Nat}
    (hact : (coreAct hart mode t op).run d = (.error (.addr b), d)) :
    perform d (.core hart mode t op) = some (d.send (.coreFault hart (opCauseAt d hart t op))) := by
  simp [perform, hheld, hrun, hact]

end

/-- A running hart's access that stops at an address is a fault of the core, and nothing else. -/
theorem runs_coreFault {s : State} {hart t b cause : Nat} {mode : CoreMode} {op : CoreOp} (hh : hart < 192) (hheld : s.dev.held = [])
    (hrun : s.dev.fld (.partCoreStatus (hart / 48) (hart % 48)) 1 0 = 1)
    (hact : (coreAct hart mode t op).run s.dev = (.error (.addr b), s.dev)) (hcause : opCauseAt s.dev hart t op = cause) :
    Runs (.coreAccess hart mode t op) s { s.dev with out := s.dev.out ++ [.coreFault hart cause] } := by
  subst hcause
  exact exec_coreAccess_performed hh (perform_core_fault hheld hrun hact) rfl

/-! ### Where an address lies -/

theorem lt_of_place {a : Nat} (h : place a ≠ .unmapped) : a < 2 ^ 46 := by
  by_contra hge
  exact h (place_gap (by omega))

theorem untag_lt {a : Nat} (h : a < 2 ^ 46) : untag a = .localAddr a := by
  have hzero : a / 2 ^ 54 = 0 := by omega
  unfold untag
  rw [if_neg (by omega), hzero]
  exact if_pos h

/-- A tagged address of bit 54 on is another module's, the commander's or none. -/
theorem untag_ge {t : Nat} (h : 2 ^ 54 ≤ t) : untag t = .bad ∨ (∃ m, untag t = .pod m (t % 2 ^ 46)) ∨ ∃ a, untag t = .host a := by
  unfold untag
  split
  · exact .inl rfl
  · split
    · omega
    · exact .inr (.inl ⟨_, rfl⟩)
    · exact .inr (.inr ⟨_, rfl⟩)
    · exact .inl rfl

/-! ### How an access stops -/

section
variable {d : Dev} {hart t a : Nat} {mode : CoreMode} {op : CoreOp}

/-- An access to the module's own memory. -/
theorem coreAct_memory (hop : op ≠ .fenceI) (ht : untag t = .localAddr a) (hplace : ∀ off, place a ≠ .mmio off) :
    (coreAct hart mode t op).run d = (coreLocal d hart t a op).run d := by
  rw [coreAct, Act.run_ok (run_devGet d), if_neg hop, ht]
  dsimp only
  split
  · exact absurd ‹_› (hplace _)
  · rfl

theorem coreAct_mmio {off : Nat} (hop : op ≠ .fenceI) (ht : untag t = .localAddr a) (hplace : place a = .mmio off) :
    (coreAct hart mode t op).run d = (coreMmio hart mode t off op).run d := by
  rw [coreAct, Act.run_ok (run_devGet d), if_neg hop, ht]
  simp only [hplace]

/-- An AMO leaves the module on no path (R379). -/
theorem coreAct_amo_away (hamo : opIsAmo op = true) (ht : 2 ^ 54 ≤ t) (hown : untag t ≠ .pod (modNumber d) (t % 2 ^ 46)) :
    (coreAct hart mode t op).run d = (.error (.addr t), d) := by
  have hop : op ≠ .fenceI := by rintro rfl; cases hamo
  rw [coreAct, Act.run_ok (run_devGet d), if_neg hop]
  obtain htag | ⟨m, htag⟩ | ⟨b, htag⟩ := untag_ge ht
  · simp [htag]
  · have hm : m ≠ modNumber d := by rintro rfl; exact hown htag
    simp [htag, hm, hamo]
  · simp [htag, hamo]

theorem coreLocal_unmapped (hplace : place a = .unmapped) : coreLocal d hart t a op = stop (.addr t) := by
  simp only [coreLocal, hplace]

/-- An atomic operation at a place that takes none (R379). -/
theorem uncachedOp_atomic (hop : opIsAmo op = true ∨ opIsLrSc op = true) {amo : Bool} (hno : opIsAmo op = true → amo = false) (src : Src) :
    uncachedOp src a op amo = stop (.addr a) := by
  have hrefused : (!(amo && opIsAmo op)) = true := by
    cases hamo : opIsAmo op with
    | false => simp
    | true => simp [hno hamo]
  unfold uncachedOp
  split
  case h_11 => rw [if_pos hrefused]
  all_goals simp [opIsAmo, opIsLrSc] at hop

theorem opIsLrSc_of_amo (h : opIsAmo op = true) : opIsLrSc op = false := by
  unfold opIsLrSc
  split
  case h_1 | h_2 => cases h
  case h_3 => rfl

theorem opIsAmo_of_lrSc (h : opIsLrSc op = true) : opIsAmo op = false :=
  Bool.eq_false_iff.mpr fun hamo => by simp [opIsLrSc_of_amo hamo] at h

theorem coreLocal_amo_window {w o : Nat} (hplace : place a = .window (hart / 48) w o) (hw : w ≠ 19) (hamo : opIsAmo op = true) :
    coreLocal d hart t a op = stop (.addr a) := by
  simp only [coreLocal, hplace]
  rw [if_neg fun h => hw h.2, if_neg fun h => h.2 rfl]
  exact uncachedOp_atomic (.inl hamo) (fun _ => by simp) _

theorem coreLocal_lrSc_window {q w o : Nat} (hplace : place a = .window q w o) (hw : w ≠ 19 ∨ q ≠ hart / 48) (hop : opIsLrSc op = true) :
    coreLocal d hart a a op = stop (.addr a) := by
  simp only [coreLocal, hplace]
  rw [if_neg (by omega)]
  split
  · rfl
  · exact uncachedOp_atomic (.inr hop) (by simp [opIsAmo_of_lrSc hop]) _

theorem coreLocal_lrSc_slab {q : Nat} (hplace : place a = .slab q) (hq : q ≠ hart / 48) (hop : opIsLrSc op = true) :
    coreLocal d hart a a op = stop (.addr a) := by
  simp only [coreLocal, hplace]
  rw [if_neg hq]
  split
  · rfl
  · exact uncachedOp_atomic (.inr hop) (by simp [opIsAmo_of_lrSc hop]) _

/-! ### The exception that a core takes -/

theorem opCauseAt_of_not_lrSc (h : opIsLrSc op = false) : opCauseAt d hart t op = opCause op := by
  unfold opCauseAt
  split
  · cases h
  · rfl

/-- An LR of an address that lies nowhere is a load that finds nothing. -/
theorem opCauseAt_unmapped (ht : t < 2 ^ 46) (hplace : place t = .unmapped) : opCauseAt d hart t op = opCause op := by
  have hsomewhere : noLrSc d hart t = false := by simp [noLrSc, untag_lt ht, hplace]
  unfold opCauseAt
  split
  · rw [hsomewhere]
    rfl
  · rfl

/-- LR and SC in a region that takes neither (R379). -/
theorem opCauseAt_lrSc (hop : opIsLrSc op = true) (hno : noLrSc d hart t = true) : opCauseAt d hart t op = 7 := by
  unfold opIsLrSc at hop
  split at hop
  · simp [opCauseAt, hno]
  · rfl
  · cases hop

end

/-! ### The statement -/

/-- Settles O18: each access stops at its address before anything has changed, and the core hears the cause of its operation. -/
theorem coreFaults : Obligations.CoreFaults := by
  unfold Obligations.CoreFaults
  intro s hart a mode op hh hheld hop
  refine ⟨fun hstop => exec_coreAccess_performed hh (perform_core_stopped hheld hstop) rfl, fun hrun hcases => ?_, fun hrun hlrsc hcases => ?_⟩
  · obtain ⟨ha, hplace⟩ | ⟨hamo, ha, hown⟩ | ⟨hamo, w, o, hplace, hw⟩ | ⟨⟨n, rfl⟩, hmode, o, hplace, hsec⟩ := hcases
    · refine runs_coreFault hh hheld hrun (b := a) ?_ (opCauseAt_unmapped ha hplace)
      rw [coreAct_memory hop (untag_lt ha) (by simp [hplace]), coreLocal_unmapped hplace, run_stop]
    · exact runs_coreFault hh hheld hrun (coreAct_amo_away hamo ha hown) (opCauseAt_of_not_lrSc (opIsLrSc_of_amo hamo))
    · refine runs_coreFault hh hheld hrun (b := a) ?_ (opCauseAt_of_not_lrSc (opIsLrSc_of_amo hamo))
      rw [coreAct_memory hop (untag_lt (lt_of_place (by simp [hplace]))) (by simp [hplace]), coreLocal_amo_window hplace hw hamo, run_stop]
    · refine runs_coreFault hh hheld hrun (b := a) ?_ rfl
      rw [coreAct_mmio hop (untag_lt (lt_of_place (by simp [hplace]))) hplace, coreMmio, if_pos ⟨hsec, by simp [hmode]⟩, run_stop]
  · have hloc : place a ≠ .unmapped → untag a = .localAddr a := fun h => untag_lt (lt_of_place h)
    obtain ⟨q, w, o, hplace, hout⟩ | ⟨q, hplace, hout⟩ := hcases
    · have ha := hloc (by simp [hplace])
      refine runs_coreFault hh hheld hrun (b := a) ?_ (opCauseAt_lrSc hlrsc ?_)
      · rw [coreAct_memory hop ha (by simp [hplace]), coreLocal_lrSc_window hplace hout hlrsc, run_stop]
      · simp [noLrSc, ha, hplace]
        omega
    · have ha := hloc (by simp [hplace])
      refine runs_coreFault hh hheld hrun (b := a) ?_ (opCauseAt_lrSc hlrsc ?_)
      · rw [coreAct_memory hop ha (by simp [hplace]), coreLocal_lrSc_slab hplace hout hlrsc, run_stop]
      · simp [noLrSc, ha, hplace, hout]

end Sys2Proof.Machine
end

section
/-! The BAR2 aperture (R38, R42): a request that nothing holds back is served at the slab, and one for an absent home is
answered in error and reported. -/

namespace Sys2Proof.Machine

/-! ### Accesses of the gate to a slab -/

/-- The offices' byte counts. -/
def CountsBytes (r : Reg) : Prop := ∃ n, r = .sortPortBytes n

theorem Dev.forwarded_onlyRegs (d : Dev) (q a len : Nat) : OnlyRegs CountsBytes d (d.forwarded q a len) := by
  obtain ⟨hm, hr⟩ := d.forwarded_counts q a len
  exact ⟨hm, fun r hp => hr r fun n hn => hp ⟨n, hn⟩⟩

theorem OnlyRegs.reg_eq {d e : Dev} (h : OnlyRegs CountsBytes d e) {r : Reg} (hr : ∀ n, r ≠ .sortPortBytes n) : e.reg r = d.reg r :=
  h.2 r fun ⟨n, hn⟩ => hr n hn

/-- What stops an access at its home is told by other registers than the byte counts. -/
theorem OnlyRegs.homeCheck_eq {d e : Dev} (h : OnlyRegs CountsBytes d e) (p a len : Nat) (w : Bool) : homeCheck e p a len w = homeCheck d p a len w := by
  have hbit : ∀ r i, (∀ n, r ≠ .sortPortBytes n) → e.bit r i = d.bit r i := fun r i hr => by
    rw [Dev.bit, Dev.fld, h.reg_eq hr, Dev.bit, Dev.fld]
  have hiset : e.regN (.memSegIset p) = d.regN (.memSegIset p) := by rw [Dev.regN, h.reg_eq (by simp), Dev.regN]
  have hlost : e.lostAt p a len = d.lostAt p a len := by
    simp only [Dev.lostAt, hiset]
    exact congrArg _ (funext fun g => hbit _ _ (by simp))
  have hthrottle : e.bit (.memStatus p) 3 = d.bit (.memStatus p) 3 := hbit _ _ (by simp)
  have htrained : e.trained p = d.trained p := hbit _ _ (by simp)
  have hdegraded : e.degraded p = d.degraded p := hbit _ _ (by simp)
  obtain ⟨m, hm⟩ := h.1
  have hmem : e.mem = d.mem := by rw [hm]
  have hretrains : e.retrains = d.retrains := by rw [hm]
  simp only [homeCheck, Dev.retraining, hlost, hthrottle, htrained, hdegraded, hiset, hmem, hretrains]
  rfl

section
variable {d : Dev} {p a len : Nat} (hplace : place a = .slab p)
include hplace

theorem exists_slab (w : Bool) : exists_ d a len w = decide (a + len ≤ slabBase (p + 1)) := by
  simp [exists_, hplace]

/-- Arrivals from the offices reach every slab, installed or not (R18). -/
theorem routed_gate : routed d none a len = true := by
  have hboot : bootReaches (nodeOf d a) = true := by simp [nodeOf, hplace, bootReaches]
  unfold routed
  dsimp only
  split
  · split <;> simp [bootRoutes, hboot]
  · simp [bootRoutes, hboot]

variable (hdown : d.down p = false) (hinst : d.installing p = false) (hex : exists_ d a len true = true)
include hdown hinst hex

/-- The gate's access crosses the offices to the slab of a partition that takes it. -/
theorem reach_gate (w : Bool) : reach d none a len w = (.ok (), d.forwarded (if w then p else 4) a len) := by
  have hex' : exists_ d a len w = true := by rw [exists_slab hplace] at hex ⊢; exact hex
  have hp : 4 ≠ p := by have := (place_slab.mp hplace).1; omega
  simp [reach, crossing, portOf, homeOf_slab hplace, hdown, hinst, hex', routed_gate hplace, hp]

variable (hlines : d.lines = [])
include hlines

/-- The gate's load of a slab that nothing holds back reads memory. -/
theorem localLoad_gate (hhome : homeCheck d p a len false = none) :
    ∃ e, (localLoad none a len).run d = (.ok (d.mem.read a len), e) ∧ OnlyRegs CountsBytes d e := by
  have hfwd := d.forwarded_onlyRegs 4 a len
  refine ⟨d.forwarded 4 a len, ?_, hfwd⟩
  have hcheck := (hfwd.homeCheck_eq p a len false).trans hhome
  obtain ⟨m, hm⟩ := hfwd.1
  have hnone : (d.forwarded 4 a len).lines = [] := by rw [hm]; exact hlines
  have hmem : (d.forwarded 4 a len).mem = d.mem := by rw [hm]
  show localLoad none a len d = _
  unfold localLoad
  rw [reach_gate hplace hdown hinst hex]
  simp only [homeOf_slab hplace, Bool.false_eq_true, if_false, hcheck]
  simp [heldLine, hnone, homeLoad_uncached hnone, hmem]
  rfl

/-- The gate's store to a slab that nothing holds back writes memory. -/
theorem localStore_gate {bs : List Byte} (hlen : bs.length = len) (hhome : homeCheck d p a len true = none) :
    ∃ e rs, (localStore none a bs).run d = (.ok (), { e with mem := d.mem.write a bs, reservations := rs }) ∧ OnlyRegs CountsBytes d e := by
  subst hlen
  have hfwd := d.forwarded_onlyRegs p a bs.length
  have hcheck := (hfwd.homeCheck_eq p a bs.length true).trans hhome
  obtain ⟨m, hm⟩ := hfwd.1
  have hnone : (d.forwarded p a bs.length).lines = [] := by rw [hm]; exact hlines
  have hmem : (d.forwarded p a bs.length).mem = d.mem := by rw [hm]
  obtain ⟨rs, hstore⟩ := homeStore_uncached hnone a bs
  refine ⟨d.forwarded p a bs.length, rs, ?_, hfwd⟩
  show localStore none a bs d = _
  unfold localStore
  rw [reach_gate hplace hdown hinst hex]
  simp only [homeOf_slab hplace, if_true, hcheck]
  simp [heldLine, hnone, hstore, hmem]
  rfl

end

/-! ### What leaves the held requests alone -/

/-- An action that neither holds a request nor lets one go. -/
def KeepsHeld {α : Type} (x : Act α) : Prop := ∀ d : Dev, (x.run d).2.held = d.held

theorem KeepsHeld.bind {α β : Type} {x : Act α} {f : α → Act β} (hx : KeepsHeld x) (hf : ∀ v, KeepsHeld (f v)) : KeepsHeld (x >>= f) := by
  intro d
  have h := hx d
  rw [Act.run_bind]
  split
  case h_1 v e he =>
    rw [he] at h
    exact (hf v e).trans h
  case h_2 e he =>
    rw [he] at h
    exact h

theorem KeepsHeld.devGet : KeepsHeld devGet := fun _ => rfl
theorem KeepsHeld.stop {α : Type} (e : Stop) : KeepsHeld (stop e : Act α) := fun _ => rfl
theorem KeepsHeld.pure {α : Type} (v : α) : KeepsHeld (pure v) := fun _ => rfl
theorem KeepsHeld.devMod {f : Dev → Dev} (h : ∀ d, (f d).held = d.held) : KeepsHeld (devMod f) := h

theorem Dev.each_held {α : Type} {f : Dev → α → Dev} (h : ∀ d x, (f d x).held = d.held) (l : List α) (d : Dev) : (d.each l f).held = d.held :=
  Dev.each_keeps (Q := fun e => e.held = d.held) l f (fun e x he => (h e x).trans he) d rfl

theorem Dev.forwarded_held (d : Dev) (q a len : Nat) : (d.forwarded q a len).held = d.held := by
  obtain ⟨⟨m, hm⟩, -⟩ := d.forwarded_counts q a len
  rw [hm]

theorem crossing_held (d : Dev) (src tgt a len : Nat) (w : Bool) : (crossing d src tgt a len w).2.held = d.held := by
  unfold crossing
  split
  · rfl
  · split
    · rfl
    · split
      · rfl
      · exact d.forwarded_held _ _ _

theorem snoopWrite_held (d : Dev) (line : Nat) (whole : Bool) : (snoopWrite d line whole).held = d.held := by
  unfold snoopWrite
  cases whole
  · exact Dev.each_held (fun _ _ => by rfl) _ d
  · rfl

theorem homeStore_held (d : Dev) (a : Nat) (bs : List Byte) : (homeStore d a bs).held = d.held := by
  unfold homeStore
  split
  · exact Dev.each_held (fun e l => snoopWrite_held e l _) _ d
  · rfl

theorem keepsHeld_localStore (src : Src) (a : Nat) (bs : List Byte) : KeepsHeld (localStore src a bs) := by
  intro d
  have hreach : (reach d src a bs.length true).2.held = d.held := by
    unfold reach
    dsimp only
    split
    · exact crossing_held ..
    · split
      · rfl
      · exact crossing_held ..
  show (localStore src a bs d).2.held = _
  unfold localStore
  split
  case h_1 e d' he =>
    rw [he] at hreach
    exact hreach
  case h_2 v d' he =>
    rw [he] at hreach
    split
    · exact hreach
    · split
      · exact (Dev.each_held (fun e pc => homeStore_held e _ _) _ d').trans hreach
      · exact (homeStore_held d' a bs).trans hreach

theorem keepsHeld_mmioCross (src off len : Nat) (w : Bool) : KeepsHeld (mmioCross src off len w) := by
  intro d
  have hcross := crossing_held d src (mmioPort off) (mmioBase + off) len w
  show (mmioCross src off len w d).2.held = _
  unfold mmioCross
  split
  case h_1 d' he =>
    rw [he] at hcross
    cases w
    · exact hcross
    · rfl
  case h_2 d' he =>
    rw [he] at hcross
    exact hcross

theorem Dev.setip_held (d : Dev) (hart : Nat) (f : ImsicFile) (ident : Nat) : (d.setip hart f ident).held = d.held := by
  unfold Dev.setip
  split <;> rfl

theorem keepsHeld_mmioStore (w : Who) (off : Nat) (bs : List Byte) : KeepsHeld (mmioStore w off bs) := by
  unfold mmioStore
  refine .bind (keepsHeld_mmioCross _ _ _ _) fun _ => ?_
  split
  · split
    · refine .devMod fun d => ?_
      split
      · rfl
      · exact d.setip_held ..
    · exact .pure _
  · exact .devMod fun _ => rfl

theorem Dev.pump_held (n k : Nat) (d : Dev) : (d.pump n k).held = d.held := by
  induction k generalizing d with
  | zero => rfl
  | succ k ih =>
    unfold Dev.pump
    dsimp only
    split
    · rfl
    · split
      · exact ih _
      · rfl

theorem Dev.request_held (d : Dev) (f : Frame) : (d.request f).held = d.held := by
  unfold Dev.request
  split
  · split
    · rfl
    · unfold Dev.route
      split
      · exact Dev.pump_held _ _ _
      · rfl
  · rfl

theorem Dev.onPath_held (d : Dev) (w : Waiter) (pod : Bool) : (d.onPath w pod).held = d.held := by
  unfold Dev.onPath
  split <;> rfl

theorem keepsHeld_podStore (w : Waiter) (ctx : Option (Nat × Nat)) (t m a : Nat) (bs : List Byte) : KeepsHeld (podStore w ctx t m a bs) := by
  intro d
  show (podStore w ctx t m a bs d).2.held = _
  unfold podStore
  split
  · rfl
  · refine (Dev.each_held (fun e pc => ?_) _ _).trans (d.onPath_held w true)
    refine (Dev.request_held _ _).trans ?_
    split <;> rfl

/-- A store to the commander's memory in no letter's name. -/
theorem keepsHeld_hostStore (src : Option Nat) (engine : Bool) (stage route a : Nat) (bs : List Byte) :
    KeepsHeld (hostStore none src engine stage route a bs) := by
  intro d
  show (hostStore none src engine stage route a bs d).2.held = _
  unfold hostStore
  split
  · rfl
  · refine (Dev.each_held (fun _ _ => by rfl) _ _).trans ?_
    unfold Dev.hostCross
    split
    · rfl
    · exact d.forwarded_held _ _ _

theorem keepsHeld_physStore (p : Option Nat) (t : Nat) (bs : List Byte) : KeepsHeld (physStore (devWho p) t bs) := by
  unfold physStore physStoreAs
  refine .bind .devGet fun d => ?_
  extract_lets go
  have hgo : ∀ a, KeepsHeld (go a) := by
    intro a
    unfold go
    split
    · split
      · exact .stop _
      · exact keepsHeld_mmioStore _ _ _
    · exact keepsHeld_localStore _ _ _
  split
  · exact .stop _
  · exact hgo _
  · split
    · exact hgo _
    · split
      · exact .stop _
      · exact keepsHeld_podStore _ _ _ _ _ _
  · split
    · exact .stop _
    · exact keepsHeld_hostStore _ _ _ _ _ _

/-! ### What an incident may hold: the device's own stores of its record (R144, R411) -/

/-- `e` holds what `d` holds, in its order, and behind it only stores of devices' own. -/
def HoldsOwn (d e : Dev) : Prop := ∃ ks, e.held = d.held ++ ks ∧ ∀ k ∈ ks, ∃ p t bs note, k = .own p t bs note

theorem HoldsOwn.of_eq {d e : Dev} (h : e.held = d.held) : HoldsOwn d e := ⟨[], by simp [h], by simp⟩

theorem HoldsOwn.trans {d e f : Dev} (h : HoldsOwn d e) (h' : HoldsOwn e f) : HoldsOwn d f := by
  obtain ⟨ks, hks, hown⟩ := h
  obtain ⟨ls, hls, hown'⟩ := h'
  refine ⟨ks ++ ls, by rw [hls, hks, List.append_assoc], fun k hk => ?_⟩
  obtain hk | hk := List.mem_append.mp hk
  · exact hown k hk
  · exact hown' k hk

/-- So the request that raised the incident is not among what has come. -/
theorem HoldsOwn.ne_append {d e : Dev} (h : HoldsOwn d e) {k : Held} (hk : ∀ p t bs note, k ≠ .own p t bs note) : e.held ≠ d.held ++ [k] := by
  obtain ⟨ks, hks, hown⟩ := h
  intro heq
  rw [hks, List.append_cancel_left_eq] at heq
  obtain ⟨p, t, bs, note, hown⟩ := hown k (by simp [heq])
  exact hk p t bs note hown

theorem Dev.tryStore_holdsOwn (d : Dev) (p : Option Nat) (t : Nat) (bs : List Byte) : HoldsOwn d (d.tryStore p t bs) := by
  have hhold : HoldsOwn d { d with held := d.held ++ [.own p t bs none] } := ⟨[.own p t bs none], rfl, by simp⟩
  have hstore := keepsHeld_physStore p t bs d
  unfold Dev.tryStore
  dsimp only
  split
  · exact hhold
  · split
    case h_1 v e he =>
      rw [he] at hstore
      exact .of_eq hstore
    case h_2 => exact hhold
    case h_3 e d' he =>
      rw [he] at hstore
      exact .of_eq hstore

theorem Dev.msix_held (d : Dev) (v : Nat) : (d.msix v).held = d.held := by
  unfold Dev.msix
  split <;> rfl

theorem Dev.ringWrite_holdsOwn (d : Dev) (r : Option Nat) (rcd : List Byte) : HoldsOwn d (d.ringWrite r rcd) := by
  unfold Dev.ringWrite
  extract_lets n head tail lost record base stored kept ended v
  have hended : HoldsOwn d ended := (d.tryStore_holdsOwn r base (slice record 0 0x3F)).trans (Dev.tryStore_holdsOwn _ r (base + 0x3F) [0x80#8])
  split
  · exact .of_eq rfl
  · split
    · exact hended.trans (ended.tryStore_holdsOwn ..)
    · exact hended.trans (.of_eq (ended.msix_held v))

theorem Dev.raise_holdsOwn (d : Dev) (i : Inc) : HoldsOwn d (d.raise i) := by
  have hstamp : (d.stamp i.die).2.held = d.held := rfl
  unfold Dev.raise
  generalize d.stamp i.die = stamped at hstamp ⊢
  obtain ⟨st, e⟩ := stamped
  dsimp -zeta only
  extract_lets rcd own counted ring
  split
  · split
    · exact .of_eq hstamp
    · exact .of_eq hstamp
  · split
    · exact .of_eq hstamp
    · exact (HoldsOwn.of_eq hstamp).trans (e.ringWrite_holdsOwn ..)

/-! ### Requests of the aperture -/

section
variable {d : Dev} {a len : Nat} {data : List Byte}

/-- A read that stays behind nothing and is not held itself is performed. -/
theorem perform_bar2Read (hclear : ∀ k ∈ d.held, heldBehind d (.bar2Read a len) k = false) (hgo : HoldsOwn d (d.bar2Read a len)) :
    perform d (.bar2Read a len) = some (d.bar2Read a len) := by
  have hfree : ¬ d.held.any (heldBehind d (.bar2Read a len)) = true := by simpa using hclear
  unfold perform
  rw [if_neg hfree]
  exact if_neg (hgo.ne_append (by simp))

theorem perform_bar2Write (hclear : ∀ k ∈ d.held, heldBehind d (.bar2Write a data) k = false) (hgo : HoldsOwn d (d.bar2Write a data)) :
    perform d (.bar2Write a data) = some (d.bar2Write a data) := by
  have hfree : ¬ d.held.any (heldBehind d (.bar2Write a data)) = true := by simpa using hclear
  unfold perform
  rw [if_neg hfree]
  exact if_neg (hgo.ne_append (by simp))

/-- An absent home: the read is completed poisoned, counted and reported (R42). -/
theorem Dev.bar2Read_away (h : homeAway d a = true) : d.bar2Read a len =
    ((d.count (.sortDownAnswers (a / 2048 % 2)) 1).send (.completion (List.replicate len 0xFF#8) true)).raise (barInc a false) := if_pos h

theorem Dev.bar2Write_away (h : homeAway d a = true) :
    d.bar2Write a data = (d.count (.sortDownAnswers (a / 2048 % 2)) 1).raise (barInc a true) := if_pos h

variable {p : Nat} (hhere : homeAway d a = false) (hplace : place a = .slab p)
include hhere hplace

theorem down_of_homeAway_false : d.down p = false := by
  rw [homeAway, homeOf_slab hplace, Bool.or_eq_false_iff] at hhere
  exact hhere.1

variable (hex : exists_ d a len true = true) (hinst : d.installing p = false) (hhome : ∀ w, homeCheck d p a len w = none)
  (hlines : d.lines = [])
include hex hinst hhome hlines

theorem Dev.bar2Read_here : ∃ e, d.bar2Read a len = e.send (.completion (d.mem.read a len) false) ∧ OnlyRegs CountsBytes d e := by
  have hdown := down_of_homeAway_false hhere hplace
  obtain ⟨e, hload, he⟩ := localLoad_gate hplace hdown hinst hex hlines (hhome false)
  refine ⟨e, ?_, he⟩
  unfold Dev.bar2Read
  rw [if_neg (by simp [hhere]), hload]

theorem Dev.bar2Write_here (hlen : data.length = len) :
    ∃ e rs, d.bar2Write a data = { e with mem := d.mem.write a data, reservations := rs } ∧ OnlyRegs CountsBytes d e := by
  have hdown := down_of_homeAway_false hhere hplace
  obtain ⟨e, rs, hstore, he⟩ := localStore_gate hplace hdown hinst hex hlines hlen (hhome true)
  refine ⟨e, rs, ?_, he⟩
  unfold Dev.bar2Write
  rw [if_neg (by simp [hhere]), hstore]

end

section
variable {s : State} {off len : Nat} {data : List Byte} (hon : apertureOn s.dev off len = true)
include hon

/-- The gate refuses an AtomicOp of the aperture (R371). -/
theorem exec_bar2Read_atomic (hmax : len ≤ 4096) : exec (.bar2Read off (.atomic len)) s = .next { s with dev :=
    { s.dev with pcie := { s.dev.pcie with aer := s.dev.pcie.aer ||| 2 ^ 20 }, out := s.dev.out ++ [.unsupported] } } := by
  show Host.Outcome.next (s.onDev fun d => if (!apertureOn d off len) = true ∨ 4096 < len then d
    else Dev.send { d with pcie := { d.pcie with aer := d.pcie.aer ||| 2 ^ 20 } } .unsupported) = _
  rw [State.onDev, if_neg (by simp [hon, hmax])]
  rfl

variable (hclear : BarClear s.dev off len data)
include hclear

/-- A read of the aperture that goes on at once leaves what its performance leaves. -/
theorem exec_bar2Read (hmax : len ≤ 4096) (hgo : HoldsOwn s.dev (s.dev.bar2Read (apertureAddr s.dev off) len)) :
    exec (.bar2Read off (.read len)) s = .next { s with dev := s.dev.bar2Read (apertureAddr s.dev off) len } := by
  have htake := Dev.take_performed (perform_bar2Read (fun k hk => (hclear k hk).1) hgo)
  show Host.Outcome.next (s.onDev fun d => if (!apertureOn d off len) = true ∨ 4096 < len then d else d.take (.bar2Read (apertureAddr d off) len)) = _
  rw [State.onDev, if_neg (by simp [hon, hmax]), htake]

theorem exec_bar2Write (hlen : data.length = len) (hgo : HoldsOwn s.dev (s.dev.bar2Write (apertureAddr s.dev off) data)) :
    exec (.bar2Write off data) s = .next { s with dev := s.dev.bar2Write (apertureAddr s.dev off) data } := by
  have htake := Dev.take_performed (perform_bar2Write (fun k hk => (hclear k hk).2) hgo)
  show Host.Outcome.next (s.onDev fun d => if (!apertureOn d off data.length) = true then d else d.take (.bar2Write (apertureAddr d off) data)) = _
  rw [State.onDev, hlen, if_neg (by simp [hon]), htake]

end

/-! ### The statement -/

/-- Settles O15: a request of the aperture crosses to its slab and is served there, or is answered for the absent home; an
AtomicOp is refused before either. -/
theorem aperture : Obligations.Aperture := by
  unfold Obligations.Aperture
  refine ⟨fun s off len p data hon hhere hmax hlen hplace hex hinst hhome hlines hclear => ⟨⟨_, exec_bar2Read_atomic hon hmax, rfl⟩, ?_, ?_⟩,
    fun s off len data hon haway hmax hlen hclear => ⟨?_, ?_⟩⟩
  · obtain ⟨e, hread, he⟩ := Dev.bar2Read_here hhere hplace hex hinst hhome hlines
    obtain ⟨m, hm⟩ := he.1
    refine ⟨_, exec_bar2Read hon hclear hmax ?_, ?_, fun r hr => ?_⟩
    · rw [hread]
      exact .of_eq (by rw [Dev.send_held, hm])
    · rw [hread, hm]
      rfl
    · rw [hread, Dev.reg_send, he.reg_eq hr]
  · obtain ⟨e, rs, hwrite, he⟩ := Dev.bar2Write_here hhere hplace hex hinst hhome hlines hlen
    obtain ⟨m, hm⟩ := he.1
    refine ⟨_, exec_bar2Write hon hclear hlen ?_, ?_, fun r hr => ?_, ?_, fun b hb => ?_⟩
    · rw [hwrite]
      exact .of_eq (by rw [hm])
    · rw [hwrite, hm]
    · rw [hwrite]
      exact he.reg_eq hr
    · rw [hwrite, ← hlen]
      exact Mem.read_write _ _ _
    · rw [hwrite]
      rw [← hlen] at hb
      exact (Mem.get_write _ _ _ _).trans (if_neg hb)
  · refine ⟨_, exec_bar2Read hon hclear hmax ?_, by rw [Dev.bar2Read_away haway]⟩
    rw [Dev.bar2Read_away haway]
    refine HoldsOwn.trans ?_ (Dev.raise_holdsOwn _ _)
    exact .of_eq rfl
  · refine ⟨_, exec_bar2Write hon hclear hlen ?_, by rw [Dev.bar2Write_away haway]⟩
    rw [Dev.bar2Write_away haway]
    refine HoldsOwn.trans ?_ (Dev.raise_holdsOwn _ _)
    exact .of_eq rfl

end Sys2Proof.Machine
end

section
/-! Two statements that fail, each at one state: where an incident ring lies among the registers, and where a core holds the line
of an access that waits for an install. -/

namespace Sys2Proof.Machine

/-! ### Who may write a guarded register: the incident's own record is a register write -/

/-- The module's incident ring is enabled and lies in MMIO, at an offset without a register. -/
def ringInMmio : State := { State.reset with dev := { Dev.reset with
  incSeen := true, regs := [(.gateIncRingCfg, 0x10000#64), (.gateIncRingBase, 0x3F0000400000#64)] } }

/-- The engine's write of a CLERK_ register raises an incident, and what its record writes is posted and acts with the command. -/
theorem ringInMmio_settles :
    (after ringInMmio (exec (.registerWrite (.engine 0 4 0 0 none 0xFF) 0x100000 4 0#64) ringInMmio)).dev.posted = [] := by decide +kernel

/-- The incident by itself leaves the two writes of its record on their way. -/
theorem ringInMmio_posts :
    (ringInMmio.dev.stopIncident (viaWho ringInMmio.dev 0 4 0 0 none 0xFF) (.addr (mmioBase + 0x100000))).posted.length = 2 := by decide +kernel

/-- Refutes O13: with the incident ring in MMIO, an engine's barred write does more than raise its incident. The record is written
to registers, and REGISTER_WRITE goes on until no posted write is left, where the incident alone leaves two. -/
theorem not_privilegedWrites : ¬ Obligations.PrivilegedWrites := by
  unfold Obligations.PrivilegedWrites
  intro h
  obtain ⟨-, -, hengine, -⟩ := h ringInMmio 0x100000 4 0#64 0 .m (by decide)
  obtain ⟨t, hexec, ht⟩ := hengine 0 4 0 0 0xFF
  have hsettled := ringInMmio_settles
  rw [hexec, ht] at hsettled
  exact absurd (ringInMmio_posts.symm.trans (congrArg List.length hsettled)) (by decide)

/-! ### A sorting office during an install: a line's hold is counted -/

/-- Partition 0 is up and in its install, and a core holds the line at address 0 (R386). -/
def lineHeldInInstall : State := { State.reset with dev := { Dev.reset with
  regs := [(.sortStatus 0, 0#64), (.structPartState, 2#64)], lines := [⟨0, 0, 0, 3, [], true⟩] } }

/-- The office holds the access, and COH_HOLD_DEFERS counts it for the line (R390). -/
theorem lineHeldInInstall_counts :
    (after lineHeldInInstall (exec (.sortingOfficeRequest 0 ⟨none, 0, none, 1⟩) lineHeldInInstall)).dev.reg (.cohHoldDefers 0) = 1#64 := by
  decide +kernel

/-- Refutes O22: an access that the install of its partition holds is counted in COH_HOLD_DEFERS when a held line covers it, so
that it does more than wait. -/
theorem not_sortingOffice : ¬ Obligations.SortingOffice := by
  unfold Obligations.SortingOffice
  intro h
  obtain ⟨-, -, hup⟩ := h lineHeldInInstall 0 0 1 0 [0#8] (by decide) (by decide) (by decide) (by decide) rfl rfl
  have hruns := (hup (by decide) (by decide)).1 (by decide)
  have hcounts := lineHeldInInstall_counts
  rw [hruns] at hcounts
  exact absurd hcounts (by decide)

end Sys2Proof.Machine
end

section
/-! The structure loader's requests (R66-R68, R76): how a load begins, is fetched and is broken off. -/

namespace Sys2Proof.Machine

/-! ### The end of a load -/

/-- A register may be listed with the value that it has. -/
theorem RegsRead.self (d : Dev) (r : Reg) : RegsRead d d [(r, d.reg r)] :=
  .same (.refl d) fun q => by
    rw [mapGet?_cons]
    split
    · next hq => rw [← hq]; rfl
    · rfl

/-- The module at the end of a load, before its incident (R76). -/
def Dev.loadOver (d : Dev) (f : Option LoadFail) : Dev :=
  { ((((((d.setReg .structCause (causeWord f)).setBit .structStatus 8 f.isNone).setBit .structStatus 9 f.isSome).setFld .structStatus 2 0 0).setBit
      .structCtrl 4 false).setBit .structCtrl 5 false) with loader := Loader.reset }

theorem Dev.loadOver_regs (d : Dev) (f : Option LoadFail) : RegsRead d (d.loadOver f) (loadEndChange d (d.reg .structCtrl) f) := by
  intro q
  show ((((((d.setReg _ _).setBit _ _ _).setBit _ _ _).setFld _ _ _ _).setBit _ _ _).setBit _ _ _).reg q = _
  simp only [Dev.reg_setBit, Dev.reg_setFld, Dev.reg_setReg, loadEndChange, mapGet?_cons, mapGet?_nil]
  by_cases hctrl : Reg.structCtrl = q
  · subst hctrl; simp
  · by_cases hstatus : Reg.structStatus = q
    · subst hstatus; simp
    · by_cases hcause : Reg.structCause = q
      · subst hcause; simp
      · simp [hctrl, hstatus, hcause]

theorem Dev.loadEnd_eq (d : Dev) (f : Option LoadFail) : d.loadEnd f = (d.loadOver f).raise (loadInc d.loader.mask f) := by
  have hcause : (d.loadOver f).regN .structCause = (causeWord f).toNat := by
    rw [Dev.regN, d.loadOver_regs f]
    simp [loadEndChange]
  rw [loadInc, ← hcause]
  cases f <;> rfl

theorem bset_bset (v : W64) (i : Nat) (a b : Bool) : bset (bset v i a) i b = bset v i b := fset_fset ..

/-- A load that has changed only registers and the loader fails: STRUCT_CTRL may have GO set already. -/
theorem loadFails_loadEnd {s : State} {d e : Dev} {ctrl c : W64} {f : LoadFail} (hd : d = { e with regs := d.regs, loader := d.loader })
    (hr : RegsRead s.dev d [(.structCtrl, c)]) (hc : bset c 4 false = bset ctrl 4 false) :
    LoadFails s { s with dev := d.loadEnd (some f) } e ctrl d.loader.mask f := by
  refine ⟨{ s with dev := d.loadOver (some f) }, ⟨?_, fun q => ?_⟩, by rw [Dev.loadEnd_eq]⟩
  · show { s with dev := _ } = _
    rw [Dev.loadOver, hd]
    rfl
  · have hctrl : d.reg .structCtrl = c := hr _
    have hstatus : d.reg .structStatus = s.dev.reg .structStatus := hr _
    show (d.loadOver (some f)).reg q = _
    rw [d.loadOver_regs (some f), loadEndChange, hctrl, hc, hstatus, hr q, loadEndChange]
    by_cases hq : Reg.structCtrl = q
    · subst hq; simp
    · simp [hq]

/-! ### GO and ABORT -/

section
variable {s : State} {v : Via} (h : Granted s.dev v .high .structCtrl)

/-- The offices count bytes alone, and STRUCT_CTRL is no count. -/
theorem Dev.across_structCtrl (d : Dev) (v : Via) : OnlyRegs CountsBytes d (d.across v .structCtrl) := by
  obtain ⟨hm, hr⟩ := d.acrossAt_counts v (Reg.structCtrl.info.offset) (Reg.structCtrl.info.width)
  exact ⟨hm, fun r hp => hr r fun n hn => hp ⟨n, hn⟩⟩

theorem Dev.across_reg (d : Dev) (v : Via) {r : Reg} (hr : ∀ n, r ≠ .sortPortBytes n) : (d.across v .structCtrl).reg r = d.reg r :=
  (d.across_structCtrl v).reg_eq hr

theorem Dev.across_loadState (d : Dev) (v : Via) : (d.across v .structCtrl).loadState = d.loadState := by
  rw [Dev.loadState, Dev.fld, d.across_reg v (by simp), Dev.loadState, Dev.fld]

/-- What a command at STRUCT_CTRL leaves of a granted write. -/
def ctrlTaken (s : State) (v : Via) (f : Dev → Dev) : State :=
  { s with dev := { f (s.dev.across v .structCtrl) with out := (f (s.dev.across v .structCtrl)).out ++ viaAck v } }

theorem onDev_viaReg_structCtrl (h : Granted s.dev v .high .structCtrl) (i : Instr) (f : Dev → Dev) :
    (s.onDev fun d => d.viaReg v .high .structCtrl i f) = ctrlTaken s v f := by
  rw [State.onDev, Dev.viaReg_granted h]
  rfl

/-- A command that changes registers and the loader. -/
theorem ctrlTaken_becomes {f : Dev → Dev} {x : Loader} {ch : Map Reg W64}
    (hf : f (s.dev.across v .structCtrl) = { s.dev with regs := (f (s.dev.across v .structCtrl)).regs, loader := x })
    (hr : RegsRead (s.dev.across v .structCtrl) (f (s.dev.across v .structCtrl)) ch) :
    Becomes (s.across v .structCtrl) (ctrlTaken s v f) { s.dev with loader := x, out := s.dev.out ++ viaAck v } ch := by
  refine ⟨?_, hr⟩
  have hout : (f (s.dev.across v .structCtrl)).out = s.dev.out := by rw [hf]
  rw [ctrlTaken, hout]
  conv_lhs => rw [hf]
  rfl

/-- A command that breaks the load off, or refuses to begin it. -/
theorem ctrlTaken_loadEnd {f : Dev → Dev} {d : Dev} {c ctrl : W64} {why : LoadFail} (hf : f (s.dev.across v .structCtrl) = d.loadEnd (some why))
    (hd : d = { s.dev with regs := d.regs, loader := d.loader }) (hr : RegsRead (s.dev.across v .structCtrl) d [(.structCtrl, c)])
    (hc : bset c 4 false = bset ctrl 4 false) :
    ∃ u, LoadFails (s.across v .structCtrl) u s.dev ctrl d.loader.mask why ∧
      ctrlTaken s v f = { u with dev := { u.dev with out := u.dev.out ++ viaAck v } } :=
  ⟨_, loadFails_loadEnd (s := s.across v .structCtrl) hd hr hc, by rw [ctrlTaken, hf]; rfl⟩

/-- The module once PART_MASK is written. -/
def Dev.masked (d : Dev) (mask : Nat) : Dev := d.setFld .structCtrl 3 0 mask

/-- The module once GO is latched, its source not yet looked at (R67). -/
def Dev.goLatched (d : Dev) (mask : Nat) : Dev :=
  { (d.masked mask).setBit .structCtrl 4 true with
    loader := ⟨(d.masked mask).regN .structSrcAddr, (d.masked mask).fld .structSrcLen 31 0, mask % 16, false, [], []⟩ }

/-- The module once the source is latched and FETCH is reached. -/
def Dev.goFetch (d : Dev) (mask : Nat) : Dev :=
  let e := d.goLatched mask
  { e with loader := { e.loader with image := sourceBytes e e.loader.src e.loader.len } }.setFld .structStatus 2 0 1

/-- What GO does in the loader (R66-R68). -/
def Dev.go (d : Dev) (mask : Nat) : Dev :=
  if (d.masked mask).loadState ≠ 0 then (d.masked mask).setBit .structStatus 10 true
  else match sourceFail (d.goLatched mask) with
    | some c => (d.goLatched mask).loadEnd (plainFail c)
    | none => d.goFetch mask

theorem Dev.masked_reg (d : Dev) (mask : Nat) {r : Reg} (hr : .structCtrl ≠ r) : (d.masked mask).reg r = d.reg r :=
  (Dev.reg_setFld ..).trans (if_neg hr)

theorem Dev.masked_loadState (d : Dev) (mask : Nat) : (d.masked mask).loadState = d.loadState := by
  rw [Dev.loadState, Dev.fld, d.masked_reg mask (by simp), Dev.loadState, Dev.fld]

theorem Dev.goLatched_loader (d : Dev) (mask : Nat) :
    (d.goLatched mask).loader = ⟨d.regN .structSrcAddr, d.fld .structSrcLen 31 0, mask % 16, false, [], []⟩ := by
  show (⟨(d.masked mask).regN _, (d.masked mask).fld _ _ _, _, _, _, _⟩ : Loader) = _
  rw [Dev.regN, Dev.fld, d.masked_reg mask (by simp), d.masked_reg mask (by simp), Dev.regN, Dev.fld]

theorem Dev.goLatched_regs (d : Dev) (mask : Nat) :
    RegsRead d (d.goLatched mask) [(.structCtrl, bset (fset (d.reg .structCtrl) 3 0 mask) 4 true)] := by
  intro q
  show ((d.masked mask).setBit _ _ _).reg q = _
  simp only [Dev.reg_setBit, Dev.masked, Dev.reg_setFld, mapGet?_cons, mapGet?_nil, if_true]
  split <;> rfl

theorem Dev.goFetch_regs (d : Dev) (mask : Nat) : RegsRead d (d.goFetch mask)
    [(.structStatus, fset (d.reg .structStatus) 2 0 1), (.structCtrl, bset (fset (d.reg .structCtrl) 3 0 mask) 4 true)] := by
  have hstatus : (d.goLatched mask).reg .structStatus = d.reg .structStatus := d.goLatched_regs mask _
  rw [← hstatus]
  exact .congr ((d.goLatched_regs mask).set .structStatus _) rfl

theorem Dev.goFetch_loader (d : Dev) (mask : Nat) : (d.goFetch mask).loader =
    ⟨d.regN .structSrcAddr, d.fld .structSrcLen 31 0, mask % 16, false, sourceBytes d (d.regN .structSrcAddr) (d.fld .structSrcLen 31 0), []⟩ := by
  have h := d.goLatched_loader mask
  show { (d.goLatched mask).loader with image := sourceBytes d (d.goLatched mask).loader.src (d.goLatched mask).loader.len } = _
  rw [h]

theorem exec_structGo (h : Granted s.dev v .high .structCtrl) (mask : Nat) : exec (.structGo v mask) s = .next (ctrlTaken s v (·.go mask)) := by
  rw [← onDev_viaReg_structCtrl h (.structGo v mask)]
  rfl

/-- The source is looked at before any byte is fetched (R64, R67, R68). -/
theorem sourceFail_eq_none {d : Dev} (hmask : d.loader.mask ≠ 0) (hpod : d.loader.src / 2 ^ 54 % 2 = 0) (hsrc : d.loader.src < 2 ^ 56)
    (halign : d.loader.src % 4096 = 0) (hmin : 2304 ≤ d.loader.len) (hmax : d.loader.len ≤ 64 * 2 ^ 20) (hlen : d.loader.len % 64 = 0) :
    sourceFail d = none := by
  unfold sourceFail
  dsimp only
  rw [if_neg hmask, if_neg (by omega), if_neg (by omega)]

theorem sourceFail_eq_some {d : Dev} {c : Nat} (h : (d.loader.mask = 0 ∧ c = 0x52) ∨
    (d.loader.mask ≠ 0 ∧ (d.loader.src / 2 ^ 54 % 2 = 1 ∨ 2 ^ 56 ≤ d.loader.src ∨ d.loader.src % 4096 ≠ 0) ∧ c = 1) ∨
    (d.loader.mask ≠ 0 ∧ d.loader.src / 2 ^ 54 % 2 = 0 ∧ d.loader.src < 2 ^ 56 ∧ d.loader.src % 4096 = 0 ∧
      (d.loader.len < 2304 ∨ 64 * 2 ^ 20 < d.loader.len ∨ d.loader.len % 64 ≠ 0) ∧ c = 2)) : sourceFail d = some c := by
  unfold sourceFail
  dsimp only
  obtain ⟨hmask, rfl⟩ | ⟨hmask, hsrc, rfl⟩ | ⟨hmask, hpod, hsrc, halign, hlen, rfl⟩ := h
  · rw [if_pos hmask]
  · rw [if_neg hmask, if_pos hsrc]
  · rw [if_neg hmask, if_neg (by omega), if_pos hlen]

end

/-! ### GO -/

section
variable {s : State} {v : Via} (h : Granted s.dev v .high .structCtrl) (mask : Nat)
include h

theorem structGo_fetches (hidle : s.dev.loadState = 0)
    (hsource : sourceFail ((s.dev.across v .structCtrl).goLatched mask) = none) : Answers (.structGo v mask) s fun t =>
      Becomes (s.across v .structCtrl) t { s.dev with
        loader := ⟨s.dev.regN .structSrcAddr, s.dev.fld .structSrcLen 31 0, mask % 16, false,
          sourceBytes s.dev (s.dev.regN .structSrcAddr) (s.dev.fld .structSrcLen 31 0), []⟩, out := s.dev.out ++ viaAck v }
        [(.structCtrl, bset (fset (s.dev.reg .structCtrl) 3 0 mask) 4 true), (.structStatus, fset (s.dev.reg .structStatus) 2 0 1)] := by
  have hstate : ((s.dev.across v .structCtrl).masked mask).loadState = 0 := by rw [Dev.masked_loadState, Dev.across_loadState, hidle]
  have hgo : (s.dev.across v .structCtrl).go mask = (s.dev.across v .structCtrl).goFetch mask := by
    rw [Dev.go, if_neg (fun hn => hn hstate), hsource]
  have hread : ∀ r, (∀ n, r ≠ .sortPortBytes n) → (s.dev.across v .structCtrl).reg r = s.dev.reg r := fun r hr => s.dev.across_reg v hr
  obtain ⟨m, hm⟩ := (s.dev.across_structCtrl v).1
  refine ⟨_, exec_structGo h mask, ctrlTaken_becomes ?_ ?_⟩
  · have hloader := (s.dev.across v .structCtrl).goFetch_loader mask
    have hbytes : ∀ a n, sourceBytes (s.dev.across v .structCtrl) a n = sourceBytes s.dev a n := fun a n => by rw [hm]; rfl
    rw [Dev.regN, Dev.fld, hread _ (by simp), hread _ (by simp), hbytes] at hloader
    rw [hgo]
    calc (s.dev.across v .structCtrl).goFetch mask = { s.dev.across v .structCtrl with
            regs := ((s.dev.across v .structCtrl).goFetch mask).regs, loader := ((s.dev.across v .structCtrl).goFetch mask).loader } := rfl
      _ = _ := by rw [hloader, hm]; rfl
  · rw [hgo]
    refine .same ((s.dev.across v .structCtrl).goFetch_regs mask) fun r => ?_
    rw [hread .structCtrl (by simp), hread .structStatus (by simp)]
    simp only [mapGet?_cons, mapGet?_nil]
    by_cases hr : Reg.structCtrl = r
    · subst hr; simp
    · simp [hr]

theorem structGo_refused {c : Nat} (hidle : s.dev.loadState = 0)
    (hsource : sourceFail ((s.dev.across v .structCtrl).goLatched mask) = some c) : Answers (.structGo v mask) s fun t =>
      ∃ u, LoadFails (s.across v .structCtrl) u s.dev (fset (s.dev.reg .structCtrl) 3 0 mask) (mask % 16) (c, 0xFF, 0) ∧
        t = { u with dev := { u.dev with out := u.dev.out ++ viaAck v } } := by
  have hstate : ((s.dev.across v .structCtrl).masked mask).loadState = 0 := by rw [Dev.masked_loadState, Dev.across_loadState, hidle]
  have hgo : (s.dev.across v .structCtrl).go mask = ((s.dev.across v .structCtrl).goLatched mask).loadEnd (some (c, 0xFF, 0)) := by
    rw [Dev.go, if_neg (fun hn => hn hstate), hsource]
    rfl
  have hmask : ((s.dev.across v .structCtrl).goLatched mask).loader.mask = mask % 16 := rfl
  have hregs := (s.dev.across v .structCtrl).goLatched_regs mask
  rw [s.dev.across_reg v (r := .structCtrl) (by simp)] at hregs
  obtain ⟨m, hm⟩ := (s.dev.across_structCtrl v).1
  refine ⟨_, exec_structGo h mask, hmask ▸ ctrlTaken_loadEnd hgo ?_ hregs (bset_bset ..)⟩
  rw [hm]
  rfl

/-- A GO while a load runs sets OVERRUN and begins nothing (R68). -/
theorem structGo_overrun (hbusy : s.dev.loadState ≠ 0) : Answers (.structGo v mask) s fun t =>
    Becomes (s.across v .structCtrl) t { s.dev with out := s.dev.out ++ viaAck v }
      [(.structCtrl, fset (s.dev.reg .structCtrl) 3 0 mask), (.structStatus, bset (s.dev.reg .structStatus) 10 true)] := by
  have hstate : ((s.dev.across v .structCtrl).masked mask).loadState ≠ 0 := by rwa [Dev.masked_loadState, Dev.across_loadState]
  have hgo : (s.dev.across v .structCtrl).go mask = ((s.dev.across v .structCtrl).masked mask).setBit .structStatus 10 true := if_pos hstate
  obtain ⟨m, hm⟩ := (s.dev.across_structCtrl v).1
  refine ⟨_, exec_structGo h mask, ctrlTaken_becomes (x := s.dev.loader) ?_ fun r => ?_⟩
  · rw [hgo, hm]
    rfl
  · rw [hgo, Dev.reg_setBit, Dev.masked, Dev.reg_setFld, Dev.reg_setFld, s.dev.across_reg v (r := .structCtrl) (by simp),
      s.dev.across_reg v (r := .structStatus) (by simp)]
    simp only [mapGet?_cons, mapGet?_nil]
    by_cases hr : Reg.structCtrl = r
    · subst hr; simp
    · by_cases hr' : Reg.structStatus = r
      · subst hr'; simp
      · simp [hr, hr']

end

/-! ### ABORT -/

/-- What ABORT does in the loader, by its state (R68). -/
def Dev.abortLoad (d : Dev) : Dev :=
  if d.loadState = 0 then d
  else if d.loadState = 5 then d.setBit .structCtrl 5 true
  else d.loadEnd (plainFail 0x54)

section
variable {s : State} {v : Via} (h : Granted s.dev v .high .structCtrl)
include h

theorem exec_structAbort : exec (.structAbort v) s = .next (State.anchorResume (ctrlTaken s v Dev.abortLoad)) := by
  rw [← onDev_viaReg_structCtrl h (.structAbort v)]
  rfl

theorem structAbort_ends (hstate : 1 ≤ s.dev.loadState ∧ s.dev.loadState ≤ 4) : Answers (.structAbort v) s fun t =>
    ∃ u, LoadFails (s.across v .structCtrl) u s.dev (s.dev.reg .structCtrl) s.dev.loader.mask (0x54, 0xFF, 0) ∧
      t = State.anchorResume { u with dev := { u.dev with out := u.dev.out ++ viaAck v } } := by
  have habort : (s.dev.across v .structCtrl).abortLoad = (s.dev.across v .structCtrl).loadEnd (some (0x54, 0xFF, 0)) := by
    rw [Dev.abortLoad, Dev.across_loadState, if_neg (by omega), if_neg (by omega)]
    rfl
  have hctrl : (s.dev.across v .structCtrl).reg .structCtrl = s.dev.reg .structCtrl := s.dev.across_reg v (by simp)
  have hregs := RegsRead.self (s.dev.across v .structCtrl) .structCtrl
  rw [hctrl] at hregs
  obtain ⟨m, hm⟩ := (s.dev.across_structCtrl v).1
  obtain ⟨u, hu, ht⟩ := ctrlTaken_loadEnd habort (by rw [hm]) hregs rfl
  have hmask : (s.dev.across v .structCtrl).loader.mask = s.dev.loader.mask := by rw [hm]
  exact ⟨_, exec_structAbort h, u, hmask ▸ hu, by rw [ht]⟩

theorem structAbort_ignored (hstate : s.dev.loadState = 5) : Answers (.structAbort v) s fun t =>
    ∃ u, Becomes (s.across v .structCtrl) u { s.dev with out := s.dev.out ++ viaAck v }
      [(.structCtrl, bset (s.dev.reg .structCtrl) 5 true)] ∧ t = u.anchorResume := by
  have habort : (s.dev.across v .structCtrl).abortLoad = (s.dev.across v .structCtrl).setBit .structCtrl 5 true := by
    rw [Dev.abortLoad, Dev.across_loadState, if_neg (by omega), if_pos hstate]
  obtain ⟨m, hm⟩ := (s.dev.across_structCtrl v).1
  refine ⟨_, exec_structAbort h, _, ctrlTaken_becomes (x := s.dev.loader) ?_ fun r => ?_, rfl⟩
  · rw [habort, hm]
    rfl
  · rw [habort, Dev.reg_setBit, s.dev.across_reg v (r := .structCtrl) (by simp)]
    simp only [mapGet?_cons, mapGet?_nil]
    split <;> rfl

theorem structAbort_idle (hstate : s.dev.loadState = 0) : Answers (.structAbort v) s fun t =>
    t = State.anchorResume { s with dev := { s.dev.across v .structCtrl with out := s.dev.out ++ viaAck v } } := by
  have habort : (s.dev.across v .structCtrl).abortLoad = s.dev.across v .structCtrl := by
    rw [Dev.abortLoad, Dev.across_loadState, if_pos hstate]
  obtain ⟨m, hm⟩ := (s.dev.across_structCtrl v).1
  have hout : (s.dev.across v .structCtrl).out = s.dev.out := by rw [hm]
  refine ⟨_, exec_structAbort h, ?_⟩
  rw [ctrlTaken, habort, hout]

end

/-- Settles O24: a further GO and an ABORT each do what the loader's state lets them. -/
theorem loaderRequestsWhileBusy : Obligations.LoaderRequestsWhileBusy := by
  unfold Obligations.LoaderRequestsWhileBusy
  exact fun s v h => ⟨fun mask => structGo_overrun h mask, structAbort_ends h, structAbort_ignored h, structAbort_idle h⟩

/-! ### The fetch -/

/-- The image stands in the staging buffer, and VERIFY is next. -/
def Dev.staged (d : Dev) (bs : List Byte) : Dev := { d with loader := { d.loader with image := bs } }.setFld .structStatus 2 0 2

theorem Dev.staged_loadState (d : Dev) (bs : List Byte) : (d.staged bs).loadState = 2 := by
  rw [Dev.loadState, Dev.fld, Dev.staged, Dev.reg_setFld, if_pos rfl, fget_fset_same _ _ _ _ (by omega)]
  rfl

/-- What the end of a fetch without an error does, by its source (R67). -/
def Dev.fetched (d : Dev) (image : List Byte) : Dev :=
  match untag d.loader.src with
  | .host _ => if d.pcie.busMaster then d.staged (slice image 0 d.loader.len) else d.loadEnd (plainFail 1)
  | .localAddr a => match (physLoad (devWho none) a d.loader.len).run d with
    | (.ok _, d) => d.staged d.loader.image
    | (.error (.wait _), _) => d
    | (.error _, d) => d.loadEnd (plainFail 1)
  | _ => d.loadEnd (plainFail 1)

theorem Dev.fetched_host {d : Dev} {a : Nat} (hsrc : untag d.loader.src = .host a) (hbus : d.pcie.busMaster = true) (image : List Byte) :
    d.fetched image = d.staged (slice image 0 d.loader.len) := by
  rw [Dev.fetched, hsrc]
  exact if_pos hbus

/-- A slab that nothing holds back is read; the bytes that it held at GO stand. -/
theorem Dev.fetched_slab {d : Dev} {a p : Nat} (hsrc : untag d.loader.src = .localAddr a) (hplace : place a = .slab p)
    (hend : a + d.loader.len ≤ slabBase (p + 1)) (hdown : d.down p = false) (hinst : d.installing p = false) (hlines : d.lines = [])
    (hhome : homeCheck d p a d.loader.len false = none) (image : List Byte) :
    ∃ e, d.fetched image = e.staged d.loader.image ∧ OnlyRegs CountsBytes d e := by
  have hex : exists_ d a d.loader.len true = true := by rw [exists_slab hplace]; exact decide_eq_true hend
  obtain ⟨e, hload, he⟩ := localLoad_gate hplace hdown hinst hex hlines hhome
  have hsmall : a < 2 ^ 46 := lt_of_place (by rw [hplace]; simp)
  have hphys : (physLoad (devWho none) a d.loader.len).run d = (.ok (d.mem.read a d.loader.len), e) := by
    have hgo : (physLoad (devWho none) a d.loader.len).run d = (localLoad none a d.loader.len).run d := by
      rw [physLoad, Act.run_bind, run_devGet]
      simp only [untag_lt hsmall, hplace]
      rfl
    rw [hgo, hload]
  obtain ⟨m, hm⟩ := he.1
  have himage : e.loader.image = d.loader.image := by rw [hm]
  refine ⟨e, ?_, he⟩
  rw [Dev.fetched, hsrc, ← himage]
  dsimp only
  rw [hphys]

/-- An anchor operation waits on while the image is verified (R446). -/
theorem anchorResume_verify {t : State} (h : t.dev.loadState = 2) : t.anchorResume = t := by
  have hwaits : anchorWaits t.dev = true := by simp only [anchorWaits, show t.dev.fld .structStatus 2 0 = 2 from h]; rfl
  unfold State.anchorResume
  split
  · rfl
  · rw [if_pos hwaits]

section
variable {s : State} (hfetch : s.dev.loadState = 1)
include hfetch

/-- A load in FETCH fetches once MEM_READY is reached and no anchor operation runs (R446, R461). -/
theorem exec_structFetchStart (hbefore : s.dev.loader.fetching = false) (hready : s.dev.memReady = true) (hanchor : s.dev.bit .secOpStatus 0 = false) :
    Runs .structFetchStart s { s.dev with loader := { s.dev.loader with fetching := true } } := by
  show Host.Outcome.next (s.onDev fun d => if d.loadState = 1 ∧ d.loader.fetching = false ∧ d.memReady ∧
    !(d.bit .secOpStatus 0 && d.secWait.isNone) then { d with loader := { d.loader with fetching := true } } else d) = _
  rw [State.onDev, if_pos ⟨hfetch, hbefore, hready, by simp [hanchor]⟩]

variable (hfetching : s.dev.loader.fetching = true) (image : List Byte)
include hfetching

theorem exec_structFetchDone (error : Bool) : exec (.structFetchDone image error) s =
    .next (State.anchorResume { s with dev := if error then s.dev.loadEnd (plainFail 1) else s.dev.fetched image }) := by
  have hgo : ¬ (s.dev.loadState ≠ 1 ∨ (!s.dev.loader.fetching) = true) := by simp [hfetch, hfetching]
  show Host.Outcome.next (State.anchorResume { s with dev := (if s.dev.loadState ≠ 1 ∨ (!s.dev.loader.fetching) = true then s.dev
    else if error then s.dev.loadEnd (plainFail 1) else s.dev.fetched image) }) = _
  rw [if_neg hgo]

theorem structFetchDone_host {a : Nat} (hsrc : untag s.dev.loader.src = .host a) (hbus : s.dev.pcie.busMaster = true) :
    Answers (.structFetchDone image false) s fun t =>
      Becomes s t { s.dev with loader := { s.dev.loader with image := slice image 0 s.dev.loader.len } } [(.structStatus, fset (s.dev.reg .structStatus) 2 0 2)] := by
  refine ⟨_, exec_structFetchDone hfetch hfetching image false, ?_⟩
  rw [if_neg (by simp), Dev.fetched_host hsrc hbus, anchorResume_verify (Dev.staged_loadState _ _)]
  exact ⟨rfl, .congr ((RegsRead.refl s.dev).set .structStatus _) rfl⟩

theorem structFetchDone_slab {a p : Nat} (hsrc : untag s.dev.loader.src = .localAddr a) (hplace : place a = .slab p)
    (hend : a + s.dev.loader.len ≤ slabBase (p + 1)) (hdown : s.dev.down p = false) (hinst : s.dev.installing p = false) (hlines : s.dev.lines = [])
    (hhome : homeCheck s.dev p a s.dev.loader.len false = none) : Answers (.structFetchDone image false) s fun t =>
      t = { s with dev := { s.dev with regs := t.dev.regs } } ∧
      t.dev.loadState = 2 ∧ ∀ r, r ≠ .structStatus → (∀ i, r ≠ .sortPortBytes i) → t.dev.reg r = s.dev.reg r := by
  obtain ⟨e, hstaged, he⟩ := Dev.fetched_slab hsrc hplace hend hdown hinst hlines hhome image
  refine ⟨_, exec_structFetchDone hfetch hfetching image false, ?_⟩
  rw [if_neg (by simp), hstaged, anchorResume_verify (Dev.staged_loadState _ _)]
  refine ⟨?_, e.staged_loadState _, fun r hr hcount => ?_⟩
  · obtain ⟨m, rfl⟩ := he.1
    rfl
  · exact ((Dev.reg_setFld ..).trans (if_neg hr.symm)).trans (he.reg_eq hcount)

theorem structFetchDone_fails : Answers (.structFetchDone image true) s fun t =>
    ∃ u, LoadFails s u s.dev (s.dev.reg .structCtrl) s.dev.loader.mask (1, 0xFF, 0) ∧ t = u.anchorResume :=
  ⟨_, exec_structFetchDone hfetch hfetching image true, _, loadFails_loadEnd rfl (.self s.dev _) rfl, rfl⟩

end

/-- Settles O23: GO looks at the source first, the fetch waits for memory and for an anchor operation, and its end stages the image. -/
theorem loaderStartsAndFetches : Obligations.LoaderStartsAndFetches := by
  unfold Obligations.LoaderStartsAndFetches
  refine ⟨fun s v mask a n h hidle ha hn => ⟨fun hmask hpod hsrc halign hmin hmax hlen => ?_, fun c hc => ?_⟩, fun s hfetch =>
    ⟨exec_structFetchStart hfetch, fun hfetching image => ⟨fun a hsrc hbus => structFetchDone_host hfetch hfetching image hsrc hbus,
      fun a p hsrc hplace hend hdown hinst hlines hhome => structFetchDone_slab hfetch hfetching image hsrc hplace hend hdown hinst hlines hhome,
      structFetchDone_fails hfetch hfetching image⟩⟩⟩
  all_goals
    have hloader := (s.dev.across v .structCtrl).goLatched_loader mask
    rw [Dev.regN, Dev.fld, s.dev.across_reg v (r := .structSrcAddr) (by simp), s.dev.across_reg v (r := .structSrcLen) (by simp)] at hloader
    subst ha hn
  · exact structGo_fetches h mask hidle (by apply sourceFail_eq_none <;> rw [hloader] <;> assumption)
  · exact structGo_refused h mask hidle (sourceFail_eq_some (by rw [hloader]; exact hc))

end Sys2Proof.Machine
end

section
/-! What the course of letters, engines and links leaves alone: the loader with its registers, the tables in force, memory with its
cached lines, the held requests, and which stages a letter has behind it. -/

namespace Sys2Proof.Machine

/-! ### The view -/

/-- Registers that the loader, the offices and the security block keep, and a partition's reset. -/
def keptReg : Reg → Bool
  | .structCtrl | .structStatus | .structCause | .structPartState | .structImageId _ | .sortStatus _ | .secMeas _ _ | .fltStatus _ => true
  | _ => false

/-- The loader, the tables in force, the posted writes, the engines in reset, the registers of `keptReg`, and every letter's stages that
are done. -/
structure Tables where
  parts : Map Nat PartImage
  modImage : Option ModImage
  loader : Loader
  posted : List Instr
  incSeen : Bool
  engResets : List EngReset
  course : List (LetterId × List Nat)
  regs : Reg → Option W64

def Dev.tables (d : Dev) : Tables :=
  ⟨d.parts, d.modImage, d.loader, d.posted, d.incSeen, d.engResets, d.letters.map fun y => (y.id, y.stages),
    fun r => if keptReg r = true then some (d.reg r) else none⟩

/-- The tables, memory, the cached lines and the held requests. -/
def Dev.apart (d : Dev) : Tables × Mem × List Line × List Held := (d.tables, d.mem, d.lines, d.held)

theorem tables_of_apart {d e : Dev} (h : e.apart = d.apart) : e.tables = d.tables := congrArg (·.1) h
theorem mem_of_apart {d e : Dev} (h : e.apart = d.apart) : e.mem = d.mem := congrArg (·.2.1) h
theorem lines_of_apart {d e : Dev} (h : e.apart = d.apart) : e.lines = d.lines := congrArg (·.2.2.1) h
theorem held_of_apart {d e : Dev} (h : e.apart = d.apart) : e.held = d.held := congrArg (·.2.2.2) h

theorem reg_of_tables {d e : Dev} (h : e.tables = d.tables) {r : Reg} (hr : keptReg r = true) : e.reg r = d.reg r := by
  have hread := congrFun (congrArg Tables.regs h) r
  simpa [Dev.tables, hr] using hread

theorem fld_of_tables {d e : Dev} (h : e.tables = d.tables) {r : Reg} (hr : keptReg r = true) (hi lo : Nat) : e.fld r hi lo = d.fld r hi lo := by
  rw [Dev.fld, reg_of_tables h hr, Dev.fld]

/-! ### Registers, ports and letters -/

theorem tables_setReg {r : Reg} (hr : keptReg r = false) (d : Dev) (v : W64) : (d.setReg r v).tables = d.tables := by
  have hregs : (fun q => if keptReg q = true then some ((d.setReg r v).reg q) else none) = fun q => if keptReg q = true then some (d.reg q) else none := by
    funext q
    split
    · next hq => rw [Dev.reg_setReg, if_neg (by rintro rfl; simp [hr] at hq)]
    · rfl
  show (⟨_, _, _, _, _, _, _, _⟩ : Tables) = _
  rw [hregs]
  rfl

section
variable {r : Reg} (hr : keptReg r = false) (d : Dev)
include hr

theorem apart_setReg (v : W64) : (d.setReg r v).apart = d.apart := by rw [Dev.apart, tables_setReg hr]; rfl
theorem apart_setFld (hi lo n : Nat) : (d.setFld r hi lo n).apart = d.apart := apart_setReg hr d _
theorem apart_setBit (i : Nat) (b : Bool) : (d.setBit r i b).apart = d.apart := apart_setReg hr d _
theorem apart_addFld (hi lo k : Nat) : (d.addFld r hi lo k).apart = d.apart := apart_setReg hr d _
theorem apart_count (k : Nat) : (d.count r k).apart = d.apart := apart_setReg hr d _

end

/-- What keeps the view step by step keeps it over a list. -/
theorem apart_each {α : Type} {d : Dev} {f : Dev → α → Dev} (l : List α) (h : ∀ e x, e.apart = d.apart → (f e x).apart = e.apart) :
    (d.each l f).apart = d.apart :=
  Dev.each_keeps (Q := fun e => e.apart = d.apart) l f (fun e x he => (h e x he).trans he) d rfl

theorem apart_modifyLetter (d : Dev) (l : LetterId) {f : Letter → Letter} (hf : ∀ y, (f y).id = y.id ∧ (f y).stages = y.stages) :
    (modifyLetter d l f).apart = d.apart := by
  have hcourse : (modifyLetter d l f).letters.map (fun y => (y.id, y.stages)) = d.letters.map fun y => (y.id, y.stages) := by
    rw [modifyLetter, List.map_map]
    refine List.map_congr_left fun y _ => ?_
    show ((if y.id = l then f y else y).id, (if y.id = l then f y else y).stages) = _
    split
    · rw [(hf y).1, (hf y).2]
    · rfl
  show ((⟨_, _, _, _, _, _, _, _⟩ : Tables), _) = _
  rw [hcourse]
  rfl

/-! ### Links -/

theorem apart_pump (n k : Nat) (d : Dev) : (d.pump n k).apart = d.apart := by
  induction k generalizing d with
  | zero => rfl
  | succ k ih =>
    unfold Dev.pump
    dsimp only
    split
    · rfl
    · split
      · exact ih _
      · rfl

theorem apart_enqueue (d : Dev) (n : Nat) (f : Frame) : (d.enqueue n f).apart = d.apart := apart_pump _ _ _

theorem apart_route (d : Dev) (f : Frame) : (d.route f).apart = d.apart := by
  unfold Dev.route
  split
  · exact apart_enqueue _ _ _
  · rfl

theorem apart_postcard (d : Dev) (dst : Nat) (m : Msg) : (d.postcard dst m).apart = d.apart := by
  unfold Dev.postcard
  split
  · rfl
  · exact apart_route _ _

theorem apart_admission (d : Dev) (dst : Nat) (m : Msg) : (d.admission dst m).apart = d.apart := by
  unfold Dev.admission
  split
  · rfl
  · split
    · exact apart_enqueue _ _ _
    · rfl

theorem apart_remapGo (d : Dev) : d.remapGo.apart = d.apart := by
  unfold Dev.remapGo
  exact apart_each _ fun e f _ => apart_route e f

theorem apart_remapFrom (d old : Dev) : (d.remapFrom old).apart = d.apart := by
  unfold Dev.remapFrom
  refine (apart_remapGo _).trans (apart_each _ fun e h _ => ?_)
  split <;> rfl

/-! ### Engines -/

theorem apart_engState (d : Dev) (p node slot n : Nat) : (d.engState p node slot n).apart = d.apart := by
  unfold Dev.engState
  split
  · split
    · exact apart_setFld rfl ..
    · split
      · exact apart_setFld rfl ..
      · rfl
  · split
    · exact apart_setFld rfl ..
    · split
      · split <;> exact apart_setFld rfl ..
      · exact apart_setFld rfl ..

theorem apart_setWait (d : Dev) (p node slot k : Nat) : (d.setWait p node slot k).apart = d.apart := apart_setFld rfl ..

theorem apart_unpark (d : Dev) (p t a : Nat) : (d.unpark p t a).apart = d.apart := by
  unfold Dev.unpark
  exact (apart_setBit rfl ..).trans ((apart_setReg rfl ..).trans (apart_setReg rfl ..))

theorem apart_frkState (d : Dev) (p t : Nat) : (d.frkState p t).apart = d.apart := by
  unfold Dev.frkState
  split
  · rfl
  · exact (apart_setBit rfl ..).trans (apart_engState ..)

theorem apart_redState (d : Dev) (p : Nat) : (d.redState p).apart = d.apart := by
  unfold Dev.redState
  split
  · rfl
  · dsimp only
    split
    · exact apart_engState ..
    · exact (apart_setWait ..).trans (apart_engState ..)

theorem apart_dropRun (d : Dev) (r : Run) : (d.dropRun r).apart = d.apart := by
  unfold Dev.dropRun
  extract_lets e f g
  have hf : f.apart = d.apart := by
    refine (apart_setWait ..).trans ?_
    split
    · rfl
    · exact apart_engState ..
  split
  · split
    · exact apart_unpark ..
    · rfl
  · split
    · have hg : g.apart = d.apart := (apart_setBit rfl ..).trans hf
      split
      · exact (apart_unpark ..).trans hg
      · exact hg
    · split
      · exact (apart_frkState ..).trans hf
      · exact hf

theorem apart_dropWork (d : Dev) (l : LetterId) : (d.dropWork l).apart = d.apart := by
  unfold Dev.dropWork
  extract_lets frks flying e f g
  have he : e.apart = d.apart := apart_each _ fun _ _ _ => apart_dropRun ..
  have hg : g.apart = d.apart := (apart_each _ fun _ _ _ => apart_setBit rfl ..).trans he
  exact ((apart_each _ fun _ _ _ => apart_redState ..).trans (apart_each _ fun _ _ _ => apart_frkState ..)).trans hg

/-! ### The end of a letter -/

theorem apart_spoil (d : Dev) (c : Nat) : (d.spoil c).apart = d.apart := by
  unfold Dev.spoil
  split
  · exact (apart_postcard ..).trans (apart_setBit rfl ..)
  · rfl

theorem apart_spoilBy (d : Dev) (x : Letter) (st : Nat) : (d.spoilBy x st).apart = d.apart := by
  unfold Dev.spoilBy
  split
  · exact apart_spoil ..
  · rfl

theorem apart_flushRead (d : Dev) (l : LetterId) (a : Nat) (region : Option Region) : (d.flushRead l a region).apart = d.apart := by
  unfold Dev.flushRead
  split <;> rfl

theorem apart_zeroRead (d : Dev) (l : LetterId) (a : Nat) (region : Option Region) : (d.zeroRead l a region).apart = d.apart := by
  unfold Dev.zeroRead
  exact (apart_flushRead ..).trans (apart_modifyLetter _ _ fun _ => ⟨rfl, rfl⟩)

/-- The end of a letter, once its status is known (R122, R123). -/
def Dev.letterEnd (d : Dev) (l : LetterId) (x : Letter) (status detail : Nat) : Dev :=
  let d := ((modifyLetter d l fun x => { x with result := some (status, detail % 65536) }).dropWork l).spoilBy x status
  if bitN x.flags 0 then d else
  let d := match x.pcieLast with | some a => d.zeroRead l a none | none => d
  d.each x.regions fun d r => d.zeroRead l r.last (some r)

/-- A letter that is there and has not ended ends; nothing else happens. -/
theorem Dev.finish_cases (d : Dev) (l : LetterId) (st dt : Nat) :
    d.finish l st dt = d ∨ ∃ x st' dt', findLetter d l = some x ∧ d.finish l st dt = d.letterEnd l x st' dt' := by
  unfold Dev.finish
  split
  · exact .inl rfl
  · next x hx =>
    split
    · exact .inl rfl
    · split
      next st' dt' _ => exact .inr ⟨x, st', dt', hx, rfl⟩

theorem apart_letterEnd (d : Dev) (l : LetterId) (x : Letter) (st dt : Nat) : (d.letterEnd l x st dt).apart = d.apart := by
  unfold Dev.letterEnd
  extract_lets e f
  have he : e.apart = d.apart :=
    (apart_spoilBy ..).trans ((apart_dropWork ..).trans (apart_modifyLetter _ _ fun _ => ⟨rfl, rfl⟩))
  have hf : f.apart = e.apart := by
    unfold f
    split
    · exact apart_zeroRead ..
    · rfl
  split
  · exact he
  · exact (apart_each _ fun _ _ _ => apart_zeroRead ..).trans (hf.trans he)

theorem apart_finish (d : Dev) (l : LetterId) (st dt : Nat) : (d.finish l st dt).apart = d.apart := by
  obtain h | ⟨x, st', dt', -, h⟩ := d.finish_cases l st dt
  · rw [h]
  · rw [h, apart_letterEnd]

theorem apart_worsen (d : Dev) (l : LetterId) (st dt : Nat) : (d.worsen l st dt).apart = d.apart := by
  unfold Dev.worsen
  split
  · rfl
  · split
    · rfl
    · exact (apart_spoilBy ..).trans (apart_modifyLetter _ _ fun _ => ⟨rfl, rfl⟩)

/-! ### Incidents before a ring is enabled -/

theorem incSeen_of_apart {d e : Dev} (h : e.apart = d.apart) (hd : d.incSeen = false) : e.incSeen = false :=
  (congrArg Tables.incSeen (tables_of_apart h)).trans hd

/-- Before any ring is enabled an incident is kept in the module, or counted as lost (R411). -/
theorem apart_raise {d : Dev} (hd : d.incSeen = false) (i : Inc) : (d.raise i).apart = d.apart := by
  unfold Dev.raise
  dsimp only
  rw [if_pos (by simp [Dev.stamp, hd])]
  split
  · exact apart_setFld (r := .gateBoot) rfl ..
  · exact apart_count (r := .gateIncLost) rfl (d.stamp i.die).2 1

theorem apart_stopIncident {d : Dev} (hd : d.incSeen = false) (w : Who) (s : Stop) : (d.stopIncident w s).apart = d.apart := by
  unfold Dev.stopIncident
  cases s with
  | wait => rfl
  | fail => rfl
  | addr => exact apart_raise hd _
  | trans => exact apart_raise hd _
  | perm => exact apart_raise hd _
  | mem => exact apart_raise hd _
  | down => exact apart_raise hd _
  | host => exact apart_raise hd _

/-! ### Requests of other modules that have lost their way -/

theorem apart_notifyFault {d : Dev} (hd : d.incSeen = false) (l : LetterId) (addr : Nat) : (d.notifyFault l addr).apart = d.apart := apart_raise hd _

theorem apart_storeEnds {d : Dev} (hd : d.incSeen = false) (s : PodStore) (err : Option Stop) : (d.storeEnds s err).apart = d.apart := by
  unfold Dev.storeEnds
  extract_lets e ack f
  have he : e.apart = d.apart := rfl
  clear_value e
  have hseen : e.incSeen = false := incSeen_of_apart he hd
  refine (apart_remapGo _).trans (Eq.trans ?_ he)
  unfold f
  split
  next l stage _ =>
    extract_lets x acked g
    have hg : g.apart = e.apart := apart_modifyLetter (f := ack) e l fun _ => ⟨rfl, rfl⟩
    clear_value g x
    split
    · extract_lets who w h
      have hh : h.apart = e.apart := (apart_stopIncident (incSeen_of_apart hg hseen) _ _).trans hg
      split
      split
      · exact (apart_finish ..).trans hh
      · exact (apart_worsen ..).trans hh
    · exact hg
  · split
    · rfl
    · split <;> rfl
  · split
    · rfl
    · refine (apart_raise ?_ _).trans ?_
      · exact hseen
      · rfl
  · split
    · exact apart_notifyFault hseen ..
    · rfl
  · rfl

theorem apart_coreAnswer (d : Dev) (h tag : Nat) (bs : Option (List Byte)) : (d.coreAnswer h tag bs).apart = d.apart := by
  unfold Dev.coreAnswer
  extract_lets e mine f got
  split
  · rfl
  · split <;> rfl

theorem apart_loadEnds {d : Dev} (hd : d.incSeen = false) (r : Remote) (res : Except Stop (List Byte)) : (d.loadEnds r res).apart = d.apart := by
  unfold Dev.loadEnds
  extract_lets gone
  split
  · rfl
  · split
    · rfl
    · split
      exact (apart_finish ..).trans (apart_stopIncident (d := gone) hd _ _)
  · exact apart_coreAnswer ..
  · exact apart_coreAnswer ..
  · rfl

theorem apart_strand {d : Dev} (hd : d.incSeen = false) : d.strand.apart = d.apart := by
  unfold Dev.strand
  extract_lets lost e
  have he : e.apart = d.apart := apart_each _ fun f s hf => apart_storeEnds (incSeen_of_apart hf hd) _ _
  exact (apart_each _ fun f r hf => apart_loadEnds (incSeen_of_apart hf (incSeen_of_apart he hd)) _ _).trans he

/-- A change of ports keeps the view if what changes them does; the tables may change with them. -/
theorem apart_rewire {d : Dev} {f : Dev → Dev} (hf : (f d).incSeen = false) : (d.rewire f).apart = (f d).apart := by
  have hmap := apart_remapFrom (f d) d
  exact (apart_strand (incSeen_of_apart hmap hf)).trans hmap

end Sys2Proof.Machine
end

section
/-! What an install writes to memory (R71, R148): nothing below the SRAM windows, zeros in the windows of the tiles, and directory and
history entries from the post hall on. -/

namespace Sys2Proof.Machine

/-! ### Lines and granules -/

theorem mem_linesOf {a len x : Nat} (h : x ∈ linesOf a len) : a / 64 * 64 ≤ x ∧ x < a + len ∧ a < x + 64 := by
  unfold linesOf at h
  split at h
  · simp at h
  · obtain ⟨i, hi, rfl⟩ := List.mem_map.mp h
    have := List.mem_range.mp hi
    omega

theorem le_of_mem_linesOf {a len x B : Nat} (hB : 64 ∣ B) (ha : B ≤ a) (h : x ∈ linesOf a len) : B ≤ x := by
  have := (mem_linesOf h).1
  obtain ⟨k, rfl⟩ := hB
  omega

theorem mem_granules {a len : Nat} (hlen : len ≠ 0) : a / 2048 * 2048 ∈ granules a len := by
  rw [granules, if_neg hlen]
  exact List.mem_map.mpr ⟨0, List.mem_range.mpr (by omega), by simp⟩

/-! ### A store at its home (R384) -/

theorem Mem.get_write_below (m : Mem) {a b : Nat} (bs : List Byte) (h : b < a) : (m.write a bs).get b = m.get b := by
  rw [Mem.get_write, if_neg (by omega)]

/-- A snoop writes a modified line back at its own address and drops every copy. -/
theorem snoopWrite_cases (d : Dev) (line : Nat) (whole : Bool) : ∃ m rs,
    snoopWrite d line whole = { d with mem := m, lines := d.lines.filter (·.addr ≠ line), reservations := rs } ∧ ∀ b < line, m.get b = d.mem.get b := by
  have hback : ∀ ls : List Line, ∃ m, (d.each ls fun d l => { d with mem := d.mem.write line l.data }) = { d with mem := m } ∧
      ∀ b < line, m.get b = d.mem.get b := fun ls => by
    refine Dev.each_keeps (Q := fun e => ∃ m, e = { d with mem := m } ∧ ∀ b < line, m.get b = d.mem.get b) ls
      (fun d l => { d with mem := d.mem.write line l.data }) ?_ d ⟨d.mem, rfl, fun _ _ => rfl⟩
    rintro e l ⟨m, rfl, hm⟩
    exact ⟨_, rfl, fun b hb => (Mem.get_write_below m l.data hb).trans (hm b hb)⟩
  cases whole
  · obtain ⟨m, hm, hget⟩ := hback (d.lines.filter fun l => l.addr = line ∧ l.st = 3)
    refine ⟨m, d.reservations.filter (·.2 ≠ line), ?_, hget⟩
    unfold snoopWrite
    rw [if_neg (by simp), hm]
  · exact ⟨d.mem, _, rfl, fun _ _ => rfl⟩

theorem snoopWrite_tables (d : Dev) (line : Nat) (whole : Bool) : (snoopWrite d line whole).tables = d.tables := by
  obtain ⟨m, rs, h, -⟩ := snoopWrite_cases d line whole
  rw [h]
  rfl

theorem snoopWrite_mem (d : Dev) {line b : Nat} (whole : Bool) (h : b < line) : (snoopWrite d line whole).mem.get b = d.mem.get b := by
  obtain ⟨m, rs, hw, hm⟩ := snoopWrite_cases d line whole
  rw [hw]
  exact hm b h

theorem snoopWrite_lines (d : Dev) (line : Nat) (whole : Bool) : (snoopWrite d line whole).lines = d.lines.filter (·.addr ≠ line) := by
  obtain ⟨m, rs, h, -⟩ := snoopWrite_cases d line whole
  rw [h]

theorem homeStore_tables (d : Dev) (a : Nat) (bs : List Byte) : (homeStore d a bs).tables = d.tables := by
  unfold homeStore
  split
  · exact Dev.each_keeps (Q := fun e => e.tables = d.tables) _ _ (fun e _ he => (snoopWrite_tables ..).trans he) d rfl
  · rfl

/-- A store reaches up only: a modified line is written back whole at its own address first. -/
theorem homeStore_mem (d : Dev) {a B : Nat} (bs : List Byte) (hB : 64 ∣ B) (ha : B ≤ a) {b : Nat} (hb : b < B) :
    (homeStore d a bs).mem.get b = d.mem.get b := by
  have hsnoop : ∀ (ls : List Nat) (w : Nat → Bool), (∀ x ∈ ls, B ≤ x) → ∀ e : Dev, (e.each ls fun d l => snoopWrite d l (w l)).mem.get b = e.mem.get b := by
    intro ls w
    induction ls with
    | nil => exact fun _ _ => rfl
    | cons x xs ih =>
      intro hls e
      have hx := hls x (by simp)
      exact (ih (fun y hy => hls y (by simp [hy])) _).trans (snoopWrite_mem e _ (by omega))
  unfold homeStore
  dsimp only
  rw [Mem.get_write_below _ _ (by omega)]
  split
  · exact hsnoop _ (fun l => decide (a ≤ l ∧ l + 64 ≤ a + bs.length)) (fun x hx => le_of_mem_linesOf hB ha hx) d
  · rfl

/-- A line that the store does not touch stays cached. -/
theorem homeStore_lines (d : Dev) {a : Nat} {bs : List Byte} {l : Line} (hl : l ∈ d.lines) (hout : l.addr ∉ linesOf a bs.length) :
    l ∈ (homeStore d a bs).lines := by
  have hsnoop : ∀ (ls : List Nat) (w : Nat → Bool), l.addr ∉ ls → ∀ e : Dev, l ∈ e.lines → l ∈ (e.each ls fun d l => snoopWrite d l (w l)).lines := by
    intro ls w
    induction ls with
    | nil => exact fun _ _ he => he
    | cons x xs ih =>
      intro hls e he
      rw [List.mem_cons, not_or] at hls
      refine ih hls.2 _ ?_
      rw [snoopWrite_lines]
      exact List.mem_filter.mpr ⟨he, by simpa using hls.1⟩
  unfold homeStore
  split
  · exact hsnoop _ (fun l => decide (a ≤ l ∧ l + 64 ≤ a + bs.length)) hout d hl
  · exact hl

/-! ### What goes on from an address on -/

/-- `e` comes of `d` by stores from address `B` on: the tables, what lies below and the lines there are as they were, and only the H-die's
writes from `B` on have been held. -/
structure Above (B : Nat) (d e : Dev) : Prop where
  tables : e.tables = d.tables
  mem : ∀ b < B, e.mem.get b = d.mem.get b
  lines : ∀ l ∈ d.lines, l.addr < B → l ∈ e.lines
  held : ∃ ks, e.held = d.held ++ ks ∧ ∀ k ∈ ks, ∃ a bs, k = .hdie a bs ∧ B ≤ a

theorem Above.of_apart {B : Nat} {d e : Dev} (h : e.apart = d.apart) : Above B d e :=
  ⟨tables_of_apart h, fun _ _ => by rw [mem_of_apart h], fun _ hl _ => by rw [lines_of_apart h]; exact hl,
    [], by rw [held_of_apart h, List.append_nil], by simp⟩

theorem Above.refl (B : Nat) (d : Dev) : Above B d d := .of_apart rfl

theorem Above.trans {B : Nat} {d e f : Dev} (h : Above B d e) (h' : Above B e f) : Above B d f := by
  obtain ⟨ks, hks, hown⟩ := h.held
  obtain ⟨ks', hks', hown'⟩ := h'.held
  refine ⟨h'.tables.trans h.tables, fun b hb => (h'.mem b hb).trans (h.mem b hb), fun l hl hlow => h'.lines l (h.lines l hl hlow) hlow,
    ks ++ ks', by rw [hks', hks, List.append_assoc], fun k hk => ?_⟩
  obtain hk | hk := List.mem_append.mp hk
  · exact hown k hk
  · exact hown' k hk

theorem Above.each {B : Nat} {α : Type} {f : Dev → α → Dev} (l : List α) (hf : ∀ d x, Above B d (f d x)) (d : Dev) : Above B d (d.each l f) :=
  Dev.each_keeps (Q := Above B d) l f (fun e x he => he.trans (hf e x)) d (.refl B d)

theorem above_homeStore {B a : Nat} (hB : 64 ∣ B) (ha : B ≤ a) (d : Dev) (bs : List Byte) : Above B d (homeStore d a bs) :=
  ⟨homeStore_tables .., fun _ hb => homeStore_mem d bs hB ha hb,
    fun l hl hlow => homeStore_lines d hl fun hin => by have := le_of_mem_linesOf hB ha hin; omega,
    [], by rw [homeStore_held, List.append_nil], by simp⟩

/-- The H-die's write of an entry falls away, is held, or is made, at an address of the partition's post hall or beyond. -/
theorem dirWrite_cases (d : Dev) (p slot : Nat) (bs : List Byte) : d.dirWrite p slot bs = d ∨ ∃ a, windowBase p 19 ≤ a ∧
    (((heldLine d a 64 = true ∨ hdieBehind d a = true) ∧ d.dirWrite p slot bs = { d with held := d.held ++ [.hdie a bs] }) ∨
      (heldLine d a 64 = false ∧ d.dirWrite p slot bs = homeStore d a bs)) := by
  unfold Dev.dirWrite
  split
  next r hr =>
    have hbase : windowBase p 19 ≤ r.1 := by
      obtain ⟨c, -, rfl⟩ := List.mem_map.mp (List.mem_of_mem_head? hr)
      exact Nat.le_add_right ..
    dsimp only
    split
    · exact .inl rfl
    · refine .inr ⟨r.1 + 64 * slot, by omega, ?_⟩
      split
      next h => exact .inl ⟨h, rfl⟩
      next h => exact .inr ⟨by simpa using fun hl => h (.inl hl), rfl⟩
  · exact .inl rfl

theorem windowBase_dvd (p w : Nat) : 64 ∣ windowBase p w := ⟨(0x200000000000 + (32 * p + w) * 0x10000000) / 64, by unfold windowBase; omega⟩

theorem above_dirWrite (d : Dev) (p slot : Nat) (bs : List Byte) : Above (windowBase p 19) d (d.dirWrite p slot bs) := by
  obtain h | ⟨a, ha, ⟨-, h⟩ | ⟨-, h⟩⟩ := dirWrite_cases d p slot bs
  · rw [h]; exact .refl _ d
  · rw [h]
    exact ⟨rfl, fun _ _ => rfl, fun _ hl _ => hl, [.hdie a bs], rfl, fun k hk => ⟨a, bs, List.mem_singleton.mp hk, ha⟩⟩
  · rw [h]; exact above_homeStore (windowBase_dvd p 19) ha d bs

/-! ### The H-die's writes that wait (R386) -/

/-- The bytes of an entry that is not in use. -/
def emptyEntry : List Byte := List.replicate 64 0#8

/-- A write of an empty entry at `a` is held back: by a line, or by an earlier one of the same line. -/
def WaitsAt (lines : List Line) (pre : List Held) (a : Nat) : Prop :=
  (∃ l ∈ lines, l.hold = true ∧ l.addr < a + 64 ∧ a < l.addr + 64) ∨ ∃ b, .hdie b emptyEntry ∈ pre ∧ b / 64 = a / 64

/-- All that is held are the H-dies' writes of directory entries, in SRAM windows. Those below `B` remove entries, and what held
them back holds them still where they end below `B`. -/
def Queued (B : Nat) (lines : List Line) (held : List Held) : Prop :=
  ∀ pre h post, held = pre ++ h :: post → ∃ a bs, h = .hdie a bs ∧ 0x200000000000 ≤ a ∧
    (a < B → bs = emptyEntry ∧ (a + 64 < B → WaitsAt lines pre a))

theorem Queued.nil (B : Nat) (lines : List Line) : Queued B lines [] := fun pre h post heq => by simp at heq

theorem Queued.mem {B : Nat} {lines : List Line} {held : List Held} (h : Queued B lines held) {k : Held} (hk : k ∈ held) :
    ∃ a bs, k = .hdie a bs ∧ 0x200000000000 ≤ a ∧ (a < B → bs = emptyEntry) := by
  obtain ⟨pre, post, rfl⟩ := List.append_of_mem hk
  obtain ⟨a, bs, rfl, hlow, hbelow⟩ := h pre k post rfl
  exact ⟨a, bs, rfl, hlow, fun ha => (hbelow ha).1⟩

/-- The lines that hold a request back need only stay below `B`. -/
theorem Queued.lines {B : Nat} {lines lines' : List Line} {held : List Held} (h : Queued B lines held)
    (hl : ∀ l ∈ lines, l.hold = true → l.addr < B → l ∈ lines') : Queued B lines' held := by
  intro pre k post heq
  obtain ⟨a, bs, rfl, hlow, hbelow⟩ := h pre k post heq
  refine ⟨a, bs, rfl, hlow, fun ha => ⟨(hbelow ha).1, fun hend => ?_⟩⟩
  obtain ⟨l, hmem, hhold, hlo, hhi⟩ | hpre := (hbelow ha).2 hend
  · exact .inl ⟨l, hl l hmem hhold (by omega), hhold, hlo, hhi⟩
  · exact .inr hpre

theorem Queued.append {B : Nat} {lines : List Line} {held : List Held} (h : Queued B lines held) {a : Nat} {bs : List Byte}
    (hlow : 0x200000000000 ≤ a) (hbelow : a < B → bs = emptyEntry ∧ (a + 64 < B → WaitsAt lines held a)) : Queued B lines (held ++ [.hdie a bs]) := by
  intro pre k post heq
  obtain rfl | ⟨l, x, rfl⟩ := post.eq_nil_or_concat
  · obtain ⟨rfl, hk⟩ := List.append_inj' heq rfl
    exact ⟨a, bs, (List.singleton_inj.mp hk).symm, hlow, hbelow⟩
  · have hlast : held ++ [.hdie a bs] = (pre ++ k :: l) ++ [x] := heq.trans (by simp)
    exact h pre k l (List.append_inj' hlast rfl).1

/-- What goes on from `B` on keeps the queue. -/
theorem Queued.above {B : Nat} {d e : Dev} (h : Queued B d.lines d.held) (hlow : 0x200000000000 ≤ B) (he : Above B d e) : Queued B e.lines e.held := by
  obtain ⟨ks, hks, hown⟩ := he.held
  have hlines := h.lines fun l hl _ => he.lines l hl
  rw [hks]
  clear hks
  induction ks using List.reverseRecOn with
  | nil => simpa using hlines
  | append_singleton ks k ih =>
    obtain ⟨a, bs, rfl, ha⟩ := hown k (by simp)
    rw [← List.append_assoc]
    exact (ih fun k hk => hown k (by simp [hk])).append (by omega) fun hlt => by omega

/-- `e` comes of `d` by the removal of directory entries: the tables and all that lies below the SRAM windows are as they were, and the
queue is one of `Queued` still. -/
structure Removes (B : Nat) (d e : Dev) : Prop where
  tables : e.tables = d.tables
  mem : ∀ b < 0x200000000000, e.mem.get b = d.mem.get b
  queued : Queued B d.lines d.held → Queued B e.lines e.held

theorem Removes.of_apart {B : Nat} {d e : Dev} (h : e.apart = d.apart) : Removes B d e :=
  ⟨tables_of_apart h, fun _ _ => by rw [mem_of_apart h], fun hq => by rw [lines_of_apart h, held_of_apart h]; exact hq⟩

theorem Removes.trans {B : Nat} {d e f : Dev} (h : Removes B d e) (h' : Removes B e f) : Removes B d f :=
  ⟨h'.tables.trans h.tables, fun b hb => (h'.mem b hb).trans (h.mem b hb), fun hq => h'.queued (h.queued hq)⟩

theorem Removes.each {B : Nat} {α : Type} {f : Dev → α → Dev} (l : List α) (hf : ∀ d x, Removes B d (f d x)) (d : Dev) : Removes B d (d.each l f) :=
  Dev.each_keeps (Q := Removes B d) l f (fun e x he => he.trans (hf e x)) d (.of_apart rfl)

theorem windowBase_ge (p w : Nat) : 0x200000000000 ≤ windowBase p w := Nat.le_add_right ..

theorem heldLine_eq_true {d : Dev} {a len : Nat} (h : heldLine d a len = true) : ∃ l ∈ d.lines, l.hold = true ∧ l.addr < a + len ∧ a < l.addr + 64 := by
  simpa [heldLine] using h

theorem removes_dirWrite (d : Dev) (B p slot : Nat) (hB : 64 ∣ B) : Removes B d (d.dirWrite p slot emptyEntry) := by
  obtain h | ⟨a, ha, ⟨hwait, h⟩ | ⟨hgo, h⟩⟩ := dirWrite_cases d p slot emptyEntry
  · rw [h]; exact .of_apart rfl
  all_goals
    rw [h]
    have hlow : 0x200000000000 ≤ a := (windowBase_ge p 19).trans ha
  · refine ⟨rfl, fun _ _ => rfl, fun hq => hq.append hlow fun _ => ⟨rfl, fun hend => ?_⟩⟩
    obtain hline | hbehind := hwait
    · exact .inl (heldLine_eq_true hline)
    · obtain ⟨k, hk, hsame⟩ := List.any_eq_true.mp hbehind
      obtain ⟨b, bs, rfl, -, hbelow⟩ := hq.mem hk
      have hchunk : a / 64 = b / 64 := by simpa using hsame
      obtain ⟨n, rfl⟩ := hB
      rw [hbelow (by omega)] at hk
      exact .inr ⟨b, hk, hchunk.symm⟩
  · have hmem := above_homeStore (B := 0x200000000000) (by decide) hlow d emptyEntry
    refine ⟨homeStore_tables .., hmem.mem, fun hq => ?_⟩
    rw [homeStore_held]
    refine hq.lines fun l hl hhold _ => homeStore_lines d hl fun hin => ?_
    obtain ⟨-, hlo, hhi⟩ := mem_linesOf hin
    have hheld : heldLine d a 64 = true := List.any_eq_true.mpr ⟨l, hl, by simpa [hhold] using ⟨hlo, hhi⟩⟩
    rw [hgo] at hheld
    cases hheld

/-! ### The held writes go on -/

theorem perform_hdie (d : Dev) (a : Nat) (bs : List Byte) : perform d (.hdie a bs) =
    if d.held.any (heldBehind d (.hdie a bs)) then none else if heldLine d a bs.length then none else some (homeStore d a bs) := rfl

/-- Two entries of one line ask for one granule of one home. -/
theorem heldBehind_hdie (d : Dev) {a b : Nat} (hlow : 0x200000000000 ≤ b) (hhigh : b < 0x200800000000) (h : b / 64 = a / 64) :
    heldBehind d (.hdie a emptyEntry) (.hdie b emptyEntry) = true := by
  have hplace : ∀ x, 0x200000000000 ≤ x → x < 0x200800000000 → homeOf x = (x - 0x200000000000) / 0x10000000 / 32 := fun x h₁ h₂ => by
    rw [homeOf, place, if_neg (by omega), if_pos ⟨h₁, h₂⟩]
  have hhome : homeOf a = homeOf b := by
    rw [hplace a (by omega) (by omega), hplace b hlow hhigh]
    omega
  have hgranule : b / 2048 * 2048 = a / 2048 * 2048 := by omega
  have hany : (granules a 64).any (granules b 64).contains = true :=
    List.any_eq_true.mpr ⟨_, mem_granules (by decide), List.contains_iff_mem.mpr (hgranule ▸ mem_granules (by decide))⟩
  have hfrom : heldFrom (.hdie a emptyEntry) = heldFrom (.hdie b emptyEntry) := congrArg (Prod.mk 10) hhome
  exact Bool.or_eq_true_iff.mpr (.inr (Bool.and_eq_true_iff.mpr ⟨decide_eq_true hfrom, hany⟩))

/-- `e` comes of `d` once the held writes `pre` have been tried: what lies below `B` and was held is held still, and memory there has
only been cleared. -/
structure Tried (B : Nat) (d : Dev) (pre : List Held) (e : Dev) : Prop where
  tables : e.tables = d.tables
  mem : ∀ b < 0x200000000000, e.mem.get b = d.mem.get b
  cleared : ∀ b < B, e.mem.get b = d.mem.get b ∨ e.mem.get b = 0#8
  lines : ∀ l ∈ d.lines, l.addr < B → l ∈ e.lines
  held : ∀ a, .hdie a emptyEntry ∈ pre → a + 64 < B → .hdie a emptyEntry ∈ e.held

/-- The next write is tried and stays held. -/
theorem Tried.hold {B : Nat} {d e : Dev} {pre : List Held} (h : Tried B d pre e) (k : Held) :
    Tried B d (pre ++ [k]) { e with held := e.held ++ [k] } :=
  ⟨h.tables, h.mem, h.cleared, h.lines, fun a ha hend => by
    obtain ha | ha := List.mem_append.mp ha
    · exact List.mem_append_left _ (h.held a ha hend)
    · exact List.mem_append_right _ ha⟩

/-- The next write is made, from `B` on. -/
theorem Tried.store {B : Nat} {d e : Dev} {pre : List Held} (h : Tried B d pre e) (hB : 64 ∣ B) (hlow : 0x200000000000 ≤ B) {a : Nat}
    (ha : B ≤ a) (bs : List Byte) : Tried B d (pre ++ [.hdie a bs]) (homeStore e a bs) := by
  have hup := above_homeStore hB ha e bs
  refine ⟨hup.tables.trans h.tables, fun b hb => (hup.mem b (by omega)).trans (h.mem b hb), fun b hb => ?_,
    fun l hl hlt => hup.lines l (h.lines l hl hlt) hlt, fun x hx hend => ?_⟩
  · rw [hup.mem b hb]
    exact h.cleared b hb
  · obtain hx | hx := List.mem_append.mp hx
    · rw [homeStore_held]
      exact h.held x hx hend
    · cases List.mem_singleton.mp hx
      omega

/-- The next write is made across `B`, of an empty entry. -/
theorem Tried.clear {B : Nat} {d e : Dev} {pre : List Held} (h : Tried B d pre e) {a : Nat} (hlow : 0x200000000000 ≤ a)
    (hend : B ≤ a + 64) (hplain : coherent a = false) : Tried B d (pre ++ [.hdie a emptyEntry]) (homeStore e a emptyEntry) := by
  have hstore : homeStore e a emptyEntry = { e with mem := e.mem.write a emptyEntry } := by
    rw [homeStore, hplain]
    rfl
  rw [hstore]
  refine ⟨h.tables, fun b hb => (Mem.get_write_below _ _ (by omega)).trans (h.mem b hb), fun b hb => ?_, h.lines, fun x hx hlt => ?_⟩
  · show Mem.get (Mem.write ..) b = _ ∨ Mem.get (Mem.write ..) b = _
    rw [Mem.get_write]
    split
    · right
      simp only [emptyEntry, List.getD_eq_getElem?_getD, List.getElem?_replicate]
      split <;> rfl
    · exact h.cleared b hb
  · obtain hx | hx := List.mem_append.mp hx
    · exact h.held x hx hlt
    · cases List.mem_singleton.mp hx
      omega

/-- A write that waits below `B` is not made. -/
theorem Tried.perform_none {B : Nat} {d e : Dev} {pre : List Held} (h : Tried B d pre e) (hB : 64 ∣ B) (hhigh : B ≤ 0x200800000000)
    {a : Nat} (hlow : 0x200000000000 ≤ a) (hend : a + 64 < B) (hwait : WaitsAt d.lines pre a) : perform e (.hdie a emptyEntry) = none := by
  rw [perform_hdie]
  obtain ⟨l, hl, hhold, hlo, hhi⟩ | ⟨b, hb, hchunk⟩ := hwait
  · have hheld : heldLine e a emptyEntry.length = true := List.any_eq_true.mpr ⟨l, h.lines l hl (by omega), by simpa [hhold] using ⟨hlo, hhi⟩⟩
    rw [hheld, if_pos rfl, ite_self]
  · obtain ⟨n, rfl⟩ := hB
    have hany : e.held.any (heldBehind e (.hdie a emptyEntry)) = true :=
      List.any_eq_true.mpr ⟨_, h.held b hb (by omega), heldBehind_hdie e (by omega) (by omega) hchunk⟩
    rw [if_pos hany]

/-- The held writes are tried again (R386): below `B` nothing is written but zeros, and nothing at all below the SRAM windows. -/
theorem tried_release {B : Nat} {d : Dev} (hB : 64 ∣ B) (hlow : 0x200000000000 ≤ B) (hhigh : B ≤ 0x200800000000)
    (hplain : ∀ a, a < B → B ≤ a + 64 → coherent a = false) (hq : Queued B d.lines d.held) : Tried B d d.held d.release := by
  have hfold : ∀ (post pre : List Held) (e : Dev), d.held = pre ++ post → Tried B d pre e → Tried B d d.held (post.foldl (fun d h =>
      match perform d h with | some d => d | none => { d with held := d.held ++ [h] }) e) := by
    intro post
    induction post with
    | nil => exact fun pre e heq h => by rw [heq, List.append_nil]; exact h
    | cons k post ih =>
      intro pre e heq h
      refine ih (pre ++ [k]) _ (by rw [heq, List.append_assoc]; rfl) ?_
      obtain ⟨a, bs, rfl, ha, hbelow⟩ := hq pre k post heq
      beta_reduce
      by_cases hwait : a + 64 < B
      · obtain ⟨rfl, hwaits⟩ := hbelow (by omega)
        rw [h.perform_none hB hhigh ha hwait (hwaits hwait)]
        exact h.hold _
      · have hmade : Tried B d (pre ++ [.hdie a bs]) (homeStore e a bs) := by
          by_cases haB : B ≤ a
          · exact h.store hB hlow haB bs
          · obtain ⟨rfl, -⟩ := hbelow (by omega)
            exact h.clear ha (by omega) (hplain a (by omega) (by omega))
        rw [perform_hdie]
        split
        next f hf =>
          split at hf
          · cases hf
          · split at hf
            · cases hf
            · cases hf
              exact hmade
        · exact h.hold _
  exact hfold d.held [] { d with held := [] } rfl ⟨rfl, fun _ _ => rfl, fun _ _ => .inl rfl, fun _ hl _ => hl, fun a ha => by simp at ha⟩

/-- The bytes before a partition's post hall are those of its last tile window, which no agent caches (R383). -/
theorem coherent_below_hall {p a : Nat} (hp : p < 4) (ha : a < windowBase p 19) (hend : windowBase p 19 ≤ a + 64) : coherent a = false := by
  have hplace : place a = .window p 18 (a - windowBase p 18) := by
    have h := place_windowBase_add (p := p) (w := 18) (o := a - windowBase p 18) hp (by omega) (by unfold windowBase at *; omega)
    rwa [show windowBase p 18 + (a - windowBase p 18) = a by unfold windowBase at *; omega] at h
  rw [coherent, hplace]
  rfl

end Sys2Proof.Machine
end

section
/-! The checks of a load in their fixed order (R63, R64, R68-R70, R502). -/

namespace Sys2Proof.Machine

/-- What the end of VERIFY does: a load that meets no failure of steps 2 and 3 goes on. -/
def Dev.verified (d : Dev) (sec : Sec) : Dev :=
  match (headerFail d.loader.len (d.fld .structVersion 15 8) d.loader.image).orElse fun _ => signatureFail sec (d.fld .secAnchorState 15 0) d.loader.image with
  | some c => d.loadEnd (plainFail c)
  | none => d.setFld .structStatus 2 0 3

/-- What the end of VALIDATE does. -/
def Dev.validated (d : Dev) : Dev :=
  match validateFail d d.loader.mask d.loader.image with
  | some f => d.loadEnd (some f)
  | none => d.setFld .structStatus 2 0 4

/-- What the end of CHECK does: INSTALL begins with the lowest target. -/
def Dev.checked (d : Dev) : Dev :=
  match deviceFail d with
  | some f => d.loadEnd (some f)
  | none => ({ d with loader := { d.loader with todo := maskParts d.loader.mask } }.setFld .structStatus 2 0 5).installBegin ((maskParts d.loader.mask).headD 0)

section
variable {s : State}

theorem exec_structVerifyDone (hstate : s.dev.loadState = 2) : exec .structVerifyDone s = .next (State.anchorResume { s with dev := s.dev.verified s.sec }) := by
  show Host.Outcome.next (State.anchorResume { s with dev := if s.dev.loadState ≠ 2 then s.dev else s.dev.verified s.sec }) = _
  rw [if_neg (not_not.mpr hstate)]

theorem exec_structValidateDone (hstate : s.dev.loadState = 3) : exec .structValidateDone s = .next { s with dev := s.dev.validated } := by
  show Host.Outcome.next (State.onDev s fun d => if d.loadState ≠ 3 then d else d.validated) = _
  rw [State.onDev, if_neg (not_not.mpr hstate)]

theorem exec_structCheckDone (hstate : s.dev.loadState = 4) : exec .structCheckDone s = .next { s with dev := s.dev.checked } := by
  show Host.Outcome.next (State.onDev s fun d => if d.loadState ≠ 4 then d else d.checked) = _
  rw [State.onDev, if_neg (not_not.mpr hstate)]

/-- The load goes on to its next state. -/
theorem becomes_structStatus (s : State) (n : Nat) :
    Becomes s { s with dev := s.dev.setFld .structStatus 2 0 n } s.dev [(.structStatus, fset (s.dev.reg .structStatus) 2 0 n)] :=
  ⟨rfl, (RegsRead.refl s.dev).set .structStatus _⟩

/-- A failure ends the load as the loader stands. -/
theorem loadFails_here (s : State) (f : LoadFail) :
    LoadFails s { s with dev := s.dev.loadEnd (some f) } s.dev (s.dev.reg .structCtrl) s.dev.loader.mask f :=
  loadFails_loadEnd rfl (.self s.dev _) rfl

/-- A failure of step 2 or 3 ends the load with its cause. -/
theorem structVerifyDone_fails (hstate : s.dev.loadState = 2) {c : Nat} (hfail : (headerFail s.dev.loader.len (s.dev.fld .structVersion 15 8)
      s.dev.loader.image).orElse (fun _ => signatureFail s.sec (s.dev.fld .secAnchorState 15 0) s.dev.loader.image) = some c) :
    exec .structVerifyDone s = .next (State.anchorResume { s with dev := s.dev.loadEnd (some (c, 0xFF, 0)) }) := by
  rw [exec_structVerifyDone hstate, Dev.verified, hfail]
  rfl

theorem structVerifyDone_answers (hstate : s.dev.loadState = 2)
    (hhead : headerFail s.dev.loader.len (s.dev.fld .structVersion 15 8) s.dev.loader.image = none) : Answers .structVerifyDone s fun t =>
      (∀ c, signatureFail s.sec (s.dev.fld .secAnchorState 15 0) s.dev.loader.image = some c →
        ∃ u, LoadFails s u s.dev (s.dev.reg .structCtrl) s.dev.loader.mask (c, 0xFF, 0) ∧ t = u.anchorResume) ∧
      (signatureFail s.sec (s.dev.fld .secAnchorState 15 0) s.dev.loader.image = none →
        ∃ u, Becomes s u s.dev [(.structStatus, fset (s.dev.reg .structStatus) 2 0 3)] ∧ t = u.anchorResume) := by
  cases hsig : signatureFail s.sec (s.dev.fld .secAnchorState 15 0) s.dev.loader.image with
  | none =>
    refine ⟨_, exec_structVerifyDone hstate, fun c hc => by simp at hc, fun _ => ⟨_, becomes_structStatus s 3, ?_⟩⟩
    rw [Dev.verified, hhead, Option.orElse_none, hsig]
  | some c =>
    refine ⟨_, structVerifyDone_fails hstate (c := c) (by rw [hhead, Option.orElse_none, hsig]), fun c' hc => ?_, fun hn => by simp at hn⟩
    cases hc
    exact ⟨_, loadFails_here s _, rfl⟩

theorem structValidateDone_answers (hstate : s.dev.loadState = 3) : Answers .structValidateDone s fun t =>
    (∀ f, validateFail s.dev s.dev.loader.mask s.dev.loader.image = some f → LoadFails s t s.dev (s.dev.reg .structCtrl) s.dev.loader.mask f) ∧
    (validateFail s.dev s.dev.loader.mask s.dev.loader.image = none → Becomes s t s.dev [(.structStatus, fset (s.dev.reg .structStatus) 2 0 4)]) := by
  refine ⟨_, exec_structValidateDone hstate, fun f hf => ?_, fun hn => ?_⟩
  · rw [Dev.validated, hf]
    exact loadFails_here s f
  · rw [Dev.validated, hn]
    exact becomes_structStatus s 4

/-- INSTALL begins with the lowest target: the load state, its STRUCT_PART_STATE and the hold of its accesses, nothing else (R71). -/
theorem Dev.installBegin_regs (d : Dev) (p : Nat) (x : Loader) :
    RegsRead d (({ d with loader := x }.setFld .structStatus 2 0 5).installBegin p)
      [(.structStatus, fset (d.reg .structStatus) 2 0 5), (.structPartState, fset (d.reg .structPartState) (4 * p + 3) (4 * p) 2),
       (.sortStatus 0, bset (d.reg (.sortStatus 0)) (4 + p) true), (.sortStatus 1, bset (d.reg (.sortStatus 1)) (4 + p) true)] := by
  intro q
  show (((({ d with loader := x }.setFld .structStatus 2 0 5).setFld .structPartState (4 * p + 3) (4 * p) 2).setBit (.sortStatus 0) (4 + p) true).setBit
    (.sortStatus 1) (4 + p) true).reg q = _
  have hload : ∀ r, Dev.reg { d with loader := x } r = d.reg r := fun _ => rfl
  simp only [Dev.reg_setBit, Dev.reg_setFld, mapGet?_cons, mapGet?_nil, hload]
  by_cases hstatus : Reg.structStatus = q
  · subst hstatus; simp
  · by_cases hpart : Reg.structPartState = q
    · subst hpart; simp
    · by_cases h0 : Reg.sortStatus 0 = q
      · subst h0; simp
      · by_cases h1 : Reg.sortStatus 1 = q
        · subst h1; simp
        · simp [hstatus, hpart, h0, h1]

theorem structCheckDone_answers (hstate : s.dev.loadState = 4) : Answers .structCheckDone s fun t =>
    (∀ f, deviceFail s.dev = some f → LoadFails s t s.dev (s.dev.reg .structCtrl) s.dev.loader.mask f) ∧
    (∀ p rest, deviceFail s.dev = none → maskParts s.dev.loader.mask = p :: rest →
      Becomes s t { s.dev with loader := { s.dev.loader with todo := p :: rest } }
        [(.structStatus, fset (s.dev.reg .structStatus) 2 0 5), (.structPartState, fset (s.dev.reg .structPartState) (4 * p + 3) (4 * p) 2),
         (.sortStatus 0, bset (s.dev.reg (.sortStatus 0)) (4 + p) true), (.sortStatus 1, bset (s.dev.reg (.sortStatus 1)) (4 + p) true)]) := by
  refine ⟨_, exec_structCheckDone hstate, fun f hf => ?_, fun p rest hn hmask => ?_⟩
  · rw [Dev.checked, hf]
    exact loadFails_here s f
  · rw [Dev.checked, hn, hmask]
    exact ⟨rfl, s.dev.installBegin_regs p _⟩

/-- A target that is degraded is not available (R64). -/
theorem deviceFail_degraded {d : Dev} {p : Nat} (hp : p < 4) (hmask : bitN d.loader.mask p = true) (hdeg : d.degraded p = true) :
    deviceFail d = some (0x52, 0xFF, 0) := by
  have hmem : p ∈ maskParts d.loader.mask := List.mem_filter.mpr ⟨List.mem_range.mpr hp, hmask⟩
  have hout : available d d.loader.image p = false := by simp [available, hdeg]
  have hall : ¬ (maskParts d.loader.mask).all (available d d.loader.image) = true := fun hall => by
    rw [List.all_eq_true.mp hall p hmem] at hout
    cases hout
  unfold deviceFail
  extract_lets b mask ss v
  rw [if_pos (by simpa using hall)]
  rfl

end

end Sys2Proof.Machine
end

section
/-! Partitions that go back to the boot table, and loads that end (R72, R73, R76). -/

namespace Sys2Proof.Machine

/-! ### The end of a load -/

theorem Dev.release_eq_self {d : Dev} (h : d.held = []) : d.release = d := by
  have hnone : d.release = { d with held := [] } := by
    rw [Dev.release, h]
    rfl
  rw [hnone, ← h]

/-- Before any ring is enabled the incident of a load's end changes nothing of the view. -/
theorem apart_loadEnd {d : Dev} (hd : d.incSeen = false) (f : Option LoadFail) : (d.loadEnd f).apart = (d.loadOver f).apart := by
  have hseen : (d.loadOver f).incSeen = false := hd
  exact (congrArg Dev.apart (d.loadEnd_eq f)).trans (apart_raise hseen _)

/-- What a load's end leaves to see: the loader idle, DONE or FAIL, and the cause; the tables and memory as they were. -/
structure Ended (f : Option LoadFail) (d e : Dev) : Prop where
  loader : e.loader = Loader.reset
  state : e.loadState = 0
  done : e.bit .structStatus 8 = f.isNone
  fail : e.bit .structStatus 9 = f.isSome
  cause : e.reg .structCause = causeWord f
  parts : e.parts = d.parts
  modImage : e.modImage = d.modImage
  posted : e.posted = d.posted
  mem : e.mem = d.mem
  lines : e.lines = d.lines
  held : e.held = d.held
  reg : ∀ r, keptReg r = true → r ≠ .structCause → r ≠ .structStatus → r ≠ .structCtrl → e.reg r = d.reg r

theorem ended_loadEnd {d : Dev} (hd : d.incSeen = false) (f : Option LoadFail) : Ended f d (d.loadEnd f) := by
  have h := apart_loadEnd hd f
  have hregs := d.loadOver_regs f
  have hstatus : (d.loadEnd f).reg .structStatus = fset (bset (bset (d.reg .structStatus) 8 f.isNone) 9 f.isSome) 2 0 0 :=
    (reg_of_tables (tables_of_apart h) rfl).trans (hregs _)
  have hbit : ∀ i, 2 < i → i < 64 → (d.loadEnd f).bit .structStatus i = ((d.setBit .structStatus 8 f.isNone).setBit .structStatus 9 f.isSome).bit .structStatus i :=
    fun i hlo hi => by
      rw [Dev.bit_eq_getLsbD, hstatus, fset_getLsbD _ _ _ _ _ hi, if_neg (by omega), Dev.bit_eq_getLsbD, Dev.reg_setBit, if_pos rfl, Dev.reg_setBit, if_pos rfl]
  exact {
    loader := congrArg Tables.loader (tables_of_apart h)
    state := by rw [Dev.loadState, Dev.fld, hstatus, fget_fset_same _ _ _ _ (by omega), Nat.zero_mod]
    done := by rw [hbit 8 (by omega) (by omega), Dev.bit_setBit _ _ _ (by omega), if_neg (by simp), Dev.bit_setBit _ _ _ (by omega), if_pos ⟨rfl, rfl⟩]
    fail := by rw [hbit 9 (by omega) (by omega), Dev.bit_setBit _ _ _ (by omega), if_pos ⟨rfl, rfl⟩]
    cause := (reg_of_tables (tables_of_apart h) rfl).trans (hregs _)
    parts := congrArg Tables.parts (tables_of_apart h)
    modImage := congrArg Tables.modImage (tables_of_apart h)
    posted := congrArg Tables.posted (tables_of_apart h)
    mem := congrArg (·.2.1) h
    lines := congrArg (·.2.2.1) h
    held := congrArg (·.2.2.2) h
    reg := fun r hr h1 h2 h3 => by
      rw [reg_of_tables (tables_of_apart h) hr, hregs r]
      simp [loadEndChange, h1.symm, h2.symm, h3.symm] }

/-! ### The boot table -/

/-- Registers of a partition that are cleared with its tables. -/
def BootReg (r : Reg) : Prop :=
  (∃ i, r = .structImageId i) ∨ (∃ p, r = .cohAgents p) ∨ (∃ p, r = .hallObjCapacity p) ∨ ∃ p k, r = .hallHistPool p k

/-- What going back to the boot table leaves alone: memory, the held requests, the loader, the posted writes, and the measurements. -/
def Dev.aside (d : Dev) : Mem × List Held × Loader × List Instr × Bool × (Nat → Nat → W64) :=
  (d.mem, d.held, d.loader, d.posted, d.incSeen, fun n w => d.reg (.secMeas n w))

theorem aside_of_regs {d e : Dev} (h : ∃ m, e = { d with regs := m }) (hr : ∀ n w, e.reg (.secMeas n w) = d.reg (.secMeas n w)) : e.aside = d.aside := by
  have hmeas : (fun n w => e.reg (.secMeas n w)) = fun n w => d.reg (.secMeas n w) := funext fun n => funext fun w => hr n w
  rw [Dev.aside, hmeas]
  obtain ⟨m, rfl⟩ := h
  rfl

theorem aside_of_apart {d e : Dev} (h : e.apart = d.apart) : e.aside = d.aside := by
  have hmeas : (fun n w => e.reg (.secMeas n w)) = fun n w => d.reg (.secMeas n w) :=
    funext fun n => funext fun w => reg_of_tables (tables_of_apart h) rfl
  rw [Dev.aside, hmeas, mem_of_apart h, held_of_apart h, show e.loader = d.loader from congrArg Tables.loader (tables_of_apart h),
    show e.posted = d.posted from congrArg Tables.posted (tables_of_apart h), show e.incSeen = d.incSeen from congrArg Tables.incSeen (tables_of_apart h)]
  rfl

/-- `e` comes of `d` by taking the partitions `ps` back to the boot table. -/
structure Booted (ps : List Nat) (d e : Dev) : Prop where
  parts : ∀ q, mapGet? e.parts q = if q ∈ ps then none else mapGet? d.parts q
  state : ∀ q < 4, e.fld .structPartState (4 * q + 3) (4 * q) = if q ∈ ps then 0 else d.fld .structPartState (4 * q + 3) (4 * q)
  hold : ∀ q < 4, e.bit (.sortStatus 0) (4 + q) = if q ∈ ps then false else d.bit (.sortStatus 0) (4 + q)
  aside : e.aside = d.aside

theorem Booted.refl (d : Dev) : Booted [] d d := ⟨fun _ => by simp, fun _ _ => by simp, fun _ _ => by simp, rfl⟩

theorem Booted.trans {ps qs : List Nat} {d e f : Dev} (h : Booted ps d e) (h' : Booted qs e f) : Booted (ps ++ qs) d f := by
  refine ⟨fun q => ?_, fun q hq => ?_, fun q hq => ?_, h'.aside.trans h.aside⟩
  · rw [h'.parts, h.parts]
    by_cases hps : q ∈ ps <;> by_cases hqs : q ∈ qs <;> simp [hps, hqs]
  · rw [h'.state q hq, h.state q hq]
    by_cases hps : q ∈ ps <;> by_cases hqs : q ∈ qs <;> simp [hps, hqs]
  · rw [h'.hold q hq, h.hold q hq]
    by_cases hps : q ∈ ps <;> by_cases hqs : q ∈ qs <;> simp [hps, hqs]

/-- The tables and their registers go, but for the hold of the partition's accesses. -/
def Dev.tablesGo (d : Dev) (p : Nat) : Dev :=
  let d := { d.setPState p 0 with parts := mapErase d.parts p }
  let d := d.each (List.range 4) fun d i => d.setReg (.structImageId (4 * p + i)) 0#64
  let d := (d.setFld (.cohAgents p) 53 48 0).setReg (.hallObjCapacity p) 0#64
  d.each (List.range 8) fun d k => d.setReg (.hallHistPool p k) 0#64

theorem tablesGo_onlyRegs (d : Dev) (p : Nat) : OnlyRegs BootReg { d.setPState p 0 with parts := mapErase d.parts p } (d.tablesGo p) :=
  ((((OnlyRegs.each (fun e _ => (OnlyRegs.refl _ e).setReg (.inl ⟨_, rfl⟩) _) _ _).setReg (.inr (.inl ⟨p, rfl⟩)) _).setReg
    (.inr (.inr (.inl ⟨p, rfl⟩))) _)).trans (.each (fun e k => (OnlyRegs.refl _ e).setReg (.inr (.inr (.inr ⟨p, k, rfl⟩))) _) _ _)

theorem Dev.toBoot_eq (d : Dev) (p : Nat) : d.toBoot p = (d.tablesGo p).holding p false := rfl

theorem booted_toBoot (d : Dev) (p : Nat) (hp : p < 4) : Booted [p] d (d.toBoot p) := by
  obtain ⟨hm, hr⟩ := tablesGo_onlyRegs d p
  have hreg : ∀ r, ¬ BootReg r → (d.tablesGo p).reg r = (d.setPState p 0).reg r := hr
  have hstate : (d.toBoot p).reg .structPartState = fset (d.reg .structPartState) (4 * p + 3) (4 * p) 0 := by
    rw [Dev.toBoot_eq, Dev.holding, Dev.reg_setBit, if_neg (by simp), Dev.reg_setBit, if_neg (by simp), hreg _ (by simp [BootReg]), Dev.setPState,
      Dev.reg_setFld, if_pos rfl]
  have hsort : ∀ n, (d.tablesGo p).reg (.sortStatus n) = d.reg (.sortStatus n) := fun n => by
    rw [hreg _ (by simp [BootReg]), Dev.setPState, Dev.reg_setFld, if_neg (by simp)]
  refine ⟨fun q => ?_, fun q hq => ?_, fun q hq => ?_, ?_⟩
  · have hparts : (d.toBoot p).parts = mapErase d.parts p := by
      rw [Dev.toBoot_eq]
      obtain ⟨m, hm⟩ := hm
      rw [hm]
      rfl
    rw [hparts, mapGet?_mapErase]
    by_cases h : p = q <;> simp [h, eq_comm]
  · rw [Dev.fld, hstate]
    by_cases h : q = p
    · subst h
      rw [if_pos (List.mem_singleton_self q), fget_fset_same _ _ _ _ (by omega)]
      exact Nat.zero_mod _
    · rw [if_neg (by simpa using h), fget_fset_other _ _ _ _ _ _ (by omega) (by omega)]
      rfl
  · rw [Dev.toBoot_eq, Dev.holding, Dev.bit_setBit _ _ _ (by omega), if_neg (by simp), Dev.bit_setBit _ _ _ (by omega)]
    by_cases h : q = p
    · rw [if_pos ⟨rfl, by rw [h]⟩, if_pos (by simp [h])]
    · rw [if_neg (by omega), if_neg (by simpa using h), Dev.bit, Dev.fld, hsort]
      rfl
  · have hmid : (d.tablesGo p).aside = d.aside := by
      refine (aside_of_regs hm fun n w => hr _ (by simp [BootReg])).trans (aside_of_regs (d := d) (e := d.setPState p 0) ⟨_, rfl⟩ fun n w => ?_)
      rw [Dev.setPState, Dev.reg_setFld, if_neg (by simp)]
    rw [Dev.toBoot_eq]
    refine (aside_of_regs (d := d.tablesGo p) (e := (d.tablesGo p).holding p false) ⟨_, rfl⟩ fun n w => ?_).trans hmid
    rw [Dev.holding, Dev.reg_setBit, if_neg (by simp), Dev.reg_setBit, if_neg (by simp)]

theorem Dev.each_cons {α : Type} (d : Dev) (x : α) (xs : List α) (f : Dev → α → Dev) : d.each (x :: xs) f = (f d x).each xs f := rfl

theorem booted_each (ps : List Nat) (hps : ∀ p ∈ ps, p < 4) (d : Dev) : Booted ps d (d.each ps Dev.toBoot) := by
  induction ps generalizing d with
  | nil => exact .refl d
  | cons p ps ih =>
    have hfirst := booted_toBoot d p (hps p (by simp))
    have hrest := ih (fun q hq => hps q (by simp [hq])) (d.toBoot p)
    rw [Dev.each_cons]
    exact hfirst.trans hrest

theorem apart_setPortState (d : Dev) (n k : Nat) : (d.setPortState n k).apart = d.apart := apart_setFld rfl ..

theorem apart_setPort (d : Dev) (n : Nat) (x : Port) : (d.setPort n x).apart = d.apart := rfl

theorem apart_clearSession (d : Dev) (n : Nat) (link : Bool) : (d.clearSession n link).apart = d.apart := by
  unfold Dev.clearSession
  exact (apart_setPort ..).trans (apart_setBit rfl ..)

/-- The module sections go, or others come. -/
theorem apart_modImage {d e : Dev} (h : e.apart = d.apart) (m : Option ModImage) : { e with modImage := m }.apart = { d with modImage := m }.apart :=
  congrArg (fun a : Tables × Mem × List Line × List Held => ({ a.1 with modImage := m }, a.2)) h

theorem apart_cascade (d : Dev) (x : Postmaster) : { d with post := x, joined := false, floods := [] }.apart = d.apart := rfl

/-- The module without a structure (R348): its sections go, and with them the ports' roles and the cascade. -/
theorem noStructure_apart {d : Dev} (hd : d.incSeen = false) : d.noStructure.apart = { d with modImage := none }.apart := by
  unfold Dev.noStructure
  extract_lets e f g h
  have he : e.apart = d.apart := by
    have hports : ∀ e : Dev, (e.each (List.range 16) fun d n =>
        let d := d.setReg (.crrPortRole n) 3#64
        if d.portState n = 0 ∨ d.portState n = 6 then d else (d.clearSession n (d.port n).linkUp).setPortState n 1).apart = e.apart := fun e => by
      refine apart_each _ fun e n _ => ?_
      extract_lets e'
      have he' : e'.apart = e.apart := apart_setReg rfl ..
      split
      · exact he'
      · exact (apart_setPortState ..).trans ((apart_clearSession ..).trans he')
    exact (apart_rewire (incSeen_of_apart (hports d) hd)).trans (hports d)
  have hg : g.apart = d.apart := (apart_each _ fun _ _ _ => apart_setReg rfl ..).trans ((apart_each _ fun _ _ _ => apart_setReg rfl ..).trans he)
  have hh : h.apart = d.apart := (apart_setReg rfl ..).trans hg
  clear_value h
  exact (apart_cascade { h with modImage := none } _).trans (apart_modImage hh none)

/-- The module's sections are no part of what goes with a partition's tables. -/
theorem Booted.noModule {ps : List Nat} {d e f : Dev} (h : Booted ps d e) (hf : f.apart = { e with modImage := none }.apart) : Booted ps d f := by
  have htables := tables_of_apart hf
  refine ⟨fun q => ?_, fun q hq => ?_, fun q hq => ?_, ?_⟩
  · rw [show f.parts = e.parts from congrArg Tables.parts htables, h.parts]
  · exact (fld_of_tables htables rfl _ _).trans (h.state q hq)
  · rw [← h.hold q hq, Dev.bit, fld_of_tables htables rfl]
    rfl
  · rw [aside_of_apart hf, ← h.aside]
    rfl

theorem booted_bootAll (ps : List Nat) (hps : ∀ p ∈ ps, p < 4) {d : Dev} (hd : d.incSeen = false) : Booted ps d (d.bootAll ps) := by
  have h := booted_each ps hps d
  have hseen : (d.each ps Dev.toBoot).incSeen = false := (congrArg (·.2.2.2.2.1) h.aside).trans hd
  unfold Dev.bootAll
  generalize d.each ps Dev.toBoot = e at h hseen
  dsimp only
  split
  · exact h.noModule (noStructure_apart hseen)
  · exact h

theorem mem_maskParts {m p : Nat} : p ∈ maskParts m ↔ p < 4 ∧ bitN m p = true := by
  rw [maskParts, List.mem_filter, List.mem_range]

/-! ### Install fails (R72) -/

/-- Every target of the load is on the boot table, the load has ended with INSTALL_FAULT, and memory and the measurements are as they were. -/
structure Faulted (d e : Dev) : Prop where
  parts : ∀ q, mapGet? e.parts q = if q ∈ maskParts d.loader.mask then none else mapGet? d.parts q
  installed : ∀ q ∈ maskParts d.loader.mask, e.installed q = false ∧ e.installing q = false
  hold : ∀ q ∈ maskParts d.loader.mask, e.bit (.sortStatus 0) (4 + q) = false
  mem : e.mem = d.mem
  posted : e.posted = d.posted
  ended : e.loader = Loader.reset ∧ e.loadState = 0 ∧ e.bit .structStatus 8 = false ∧ e.bit .structStatus 9 = true
  cause : e.fld .structCause 7 0 = 0x53
  meas : ∀ n w, e.reg (.secMeas n w) = d.reg (.secMeas n w)

theorem faulted_installFault {d : Dev} {p : Nat} (hstate : d.loadState = 5) (hmask : bitN d.loader.mask p = true) (hheld : d.held = [])
    (hd : d.incSeen = false) : Faulted d (d.installFault p) := by
  have hb := booted_bootAll (maskParts d.loader.mask) (fun q hq => (mem_maskParts.mp hq).1) hd
  rw [Dev.installFault, if_pos ⟨hstate, hmask⟩]
  generalize d.bootAll (maskParts d.loader.mask) = e at hb
  have hheld' : e.held = [] := (congrArg (·.2.1) hb.aside).trans hheld
  have hseen : e.incSeen = false := (congrArg (·.2.2.2.2.1) hb.aside).trans hd
  have he := ended_loadEnd hseen (plainFail 0x53)
  rw [Dev.release_eq_self (he.held.trans hheld')]
  have hpart : ∀ q ∈ maskParts d.loader.mask, (e.loadEnd (plainFail 0x53)).fld .structPartState (4 * q + 3) (4 * q) = 0 := fun q hq => by
    rw [Dev.fld, he.reg _ rfl (by simp) (by simp) (by simp)]
    exact (hb.state q (mem_maskParts.mp hq).1).trans (if_pos hq)
  exact {
    parts := fun q => by rw [he.parts]; exact hb.parts q
    installed := fun q hq => by rw [Dev.installed, Dev.installing, hpart q hq]; exact ⟨rfl, rfl⟩
    hold := fun q hq => by
      rw [Dev.bit, Dev.fld, he.reg _ rfl (by simp) (by simp) (by simp)]
      exact (hb.hold q (mem_maskParts.mp hq).1).trans (if_pos hq)
    mem := he.mem.trans (congrArg (·.1) hb.aside)
    posted := he.posted.trans (congrArg (·.2.2.2.1) hb.aside)
    ended := ⟨he.loader, he.state, he.done, he.fail⟩
    cause := by rw [Dev.fld, he.cause]; rfl
    meas := fun n w => (he.reg _ rfl (by simp) (by simp) (by simp)).trans (congrFun (congrFun (congrArg (·.2.2.2.2.2) hb.aside) n) w) }

section
variable {s : State} {p : Nat} (hheld : s.dev.held = []) (hseen : s.dev.incSeen = false)
include hheld hseen

theorem structInstallDone_fails (hstate : s.dev.loadState = 5) (htodo : s.dev.loader.todo = [p]) (hmask : bitN s.dev.loader.mask p = true) :
    ∃ e, exec (.structInstallDone true) s = .next { s with dev := e } ∧ Faulted s.dev e := by
  have h := faulted_installFault hstate hmask hheld hseen
  refine ⟨_, ?_, h⟩
  have hdone : installDone true s = .next { s with dev := s.dev.installFault p } := by
    unfold installDone State.onDev
    beta_reduce
    rw [htodo]
    dsimp only
    rw [if_neg (not_not.mpr hstate), if_pos rfl]
  have hgo : exec (.structInstallDone true) s = settled s (installDone true s) := rfl
  rw [hgo, hdone]
  exact settled_of_posted_eq h.posted

variable (hp : p < 4)
include hp

theorem structureTableError_target (hstate : s.dev.loadState = 5) (hmask : bitN s.dev.loader.mask p = true) :
    ∃ e, exec (.structureTableError p) s = .next { s with dev := e } ∧ Faulted s.dev e := by
  have h := faulted_installFault hstate hmask hheld hseen
  refine ⟨_, ?_, h⟩
  have herror : tableError p s = .next { s with dev := s.dev.installFault p } := by
    unfold tableError State.onDev
    beta_reduce
    rw [if_neg (by omega), if_pos ⟨hstate, hmask⟩]
  have hgo : exec (.structureTableError p) s = settled s (tableError p s) := rfl
  rw [hgo, herror]
  exact settled_of_posted_eq h.posted

/-- An error in the tables of an installed partition that no load targets (R73). -/
theorem structureTableError_installed (hinst : s.dev.installed p = true) (hother : s.dev.loadState ≠ 5 ∨ bitN s.dev.loader.mask p = false) :
    ∃ e, exec (.structureTableError p) s = .next { s with dev := e } ∧ Booted [p] s.dev e := by
  have hletters : (s.dev.each (lettersIn s.dev p) fun d x =>
      (d.stopIncident { letterWho x (some p) 19 0x15 with route := x.route } (.mem (windowBase p 19) 1)).finish x.id 0x13 0xFF).apart = s.dev.apart :=
    apart_each _ fun e x he => (apart_finish ..).trans (apart_stopIncident (incSeen_of_apart he hseen) _ _)
  have herror : tableError p s = .next { s with dev := ((s.dev.each (lettersIn s.dev p) fun d x =>
      (d.stopIncident { letterWho x (some p) 19 0x15 with route := x.route } (.mem (windowBase p 19) 1)).finish x.id 0x13 0xFF).bootAll [p]).release } := by
    have htarget : ¬ (s.dev.loadState = 5 ∧ bitN s.dev.loader.mask p = true) := by
      rintro ⟨hs, hm⟩
      obtain hs' | hm' := hother
      · exact hs' hs
      · rw [hm'] at hm; cases hm
    unfold tableError State.onDev
    beta_reduce
    rw [if_neg (by omega), if_neg htarget, if_neg (by simp [hinst])]
  generalize (s.dev.each (lettersIn s.dev p) fun d x =>
      (d.stopIncident { letterWho x (some p) 19 0x15 with route := x.route } (.mem (windowBase p 19) 1)).finish x.id 0x13 0xFF) = d at hletters herror
  have hb := booted_bootAll [p] (fun q hq => by rw [List.mem_singleton.mp hq]; exact hp) (incSeen_of_apart hletters hseen)
  generalize d.bootAll [p] = e at hb herror
  have haside : e.aside = s.dev.aside := hb.aside.trans (aside_of_apart hletters)
  have hfinal : Booted [p] s.dev e := by
    have htables := tables_of_apart hletters
    refine ⟨fun q => ?_, fun q hq => ?_, fun q hq => ?_, haside⟩
    · rw [hb.parts, show d.parts = s.dev.parts from congrArg Tables.parts htables]
    · rw [hb.state q hq, fld_of_tables htables rfl]
    · rw [hb.hold q hq, Dev.bit, fld_of_tables htables rfl]
      rfl
  rw [Dev.release_eq_self ((congrArg (·.2.1) haside).trans hheld)] at herror
  have hgo : exec (.structureTableError p) s = settled s (tableError p s) := rfl
  refine ⟨e, ?_, hfinal⟩
  rw [hgo, herror]
  exact settled_of_posted_eq (congrArg (·.2.2.2.1) haside)

end

end Sys2Proof.Machine
end

section
/-! An install that completes (R71, R74, R148), and the claim on the loader's checks and installs. -/

namespace Sys2Proof.Machine

/-! ### Zeroed memory -/

theorem holeAt_minus_inside (hs : List Hole) {lo hi a : Nat} (ha : lo ≤ a ∧ a < hi) : holeAt (hs.flatMap (·.minus lo hi)) a = none := by
  have hnone : (hs.flatMap (·.minus lo hi)).find? (fun h => h.lo ≤ a ∧ a < h.hi) = none := by
    rw [List.find?_eq_none]
    intro k hk
    obtain ⟨h, -, hk⟩ := List.mem_flatMap.mp hk
    unfold Hole.minus at hk
    split at hk
    · rw [List.mem_singleton.mp hk]
      simp only [decide_eq_true_eq]
      omega
    · obtain hk | hk := List.mem_append.mp hk
      all_goals
        split at hk
        · rw [List.mem_singleton.mp hk]
          simp only [decide_eq_true_eq]
          omega
        · simp at hk
  rw [holeAt, hnone]
  rfl

theorem Mem.get_zero_inside (m : Mem) {lo hi a : Nat} (h : lo ≤ a ∧ a < hi) : (m.zero lo hi).get a = 0#8 := by
  simp only [Mem.get, Mem.unlisted, Mem.zero, cellGet?_outside, if_pos h, holeAt_minus_inside _ h, Option.getD_none]

theorem Mem.get_zero (m : Mem) (lo hi a : Nat) : (m.zero lo hi).get a = if lo ≤ a ∧ a < hi then 0#8 else m.get a := by
  split
  next h => exact Mem.get_zero_inside m h
  next h => exact Mem.get_zero_outside m lo hi a h

theorem Dev.each_range_succ (d : Dev) (n : Nat) (f : Dev → Nat → Dev) : d.each (List.range (n + 1)) f = f (d.each (List.range n) f) n := by
  rw [Dev.each, List.range_succ, List.foldl_append]
  rfl

/-- The first windows of a partition are zeroed one after the other, and nothing else of the module changes. -/
theorem zeroWindows (d : Dev) (p n : Nat) : ∃ m, (d.each (List.range n) fun d w => { d with mem := d.mem.zero (windowBase p w) (windowBase p (w + 1)) }) =
    { d with mem := m } ∧ ∀ b, m.get b = if windowBase p 0 ≤ b ∧ b < windowBase p n then 0#8 else d.mem.get b := by
  induction n with
  | zero => exact ⟨d.mem, rfl, fun b => (if_neg (by omega)).symm⟩
  | succ n ih =>
    obtain ⟨m, hm, hget⟩ := ih
    refine ⟨m.zero (windowBase p n) (windowBase p (n + 1)), ?_, fun b => ?_⟩
    · rw [Dev.each_range_succ, hm]
    · rw [Mem.get_zero, hget]
      have hbase : windowBase p n = windowBase p 0 + n * 0x10000000 := by unfold windowBase; omega
      have hnext : windowBase p (n + 1) = windowBase p 0 + n * 0x10000000 + 0x10000000 := by unfold windowBase; omega
      by_cases h : windowBase p 0 ≤ b ∧ b < windowBase p (n + 1)
      · rw [if_pos h]
        by_cases hin : windowBase p n ≤ b ∧ b < windowBase p (n + 1)
        · rw [if_pos hin]
        · rw [if_neg hin, if_pos (by omega)]
      · rw [if_neg h, if_neg (by omega), if_neg (by omega)]

/-- `e` comes of `d` with the SRAM of partition `p`'s tiles zeroed and what lies below the SRAM windows left alone; what is still held
writes no more than zeros there. -/
structure Emptied (p : Nat) (d e : Dev) : Prop where
  low : ∀ b < 0x200000000000, e.mem.get b = d.mem.get b
  zero : ∀ b, windowBase p 0 ≤ b → b < windowBase p 19 → e.mem.get b = 0#8
  queued : Queued (windowBase p 19) e.lines e.held

theorem Emptied.above {p : Nat} {d e f : Dev} (h : Emptied p d e) (hf : Above (windowBase p 19) e f) : Emptied p d f :=
  ⟨fun b hb => (hf.mem b (by have := windowBase_ge p 19; omega)).trans (h.low b hb), fun b hlo hhi => (hf.mem b hhi).trans (h.zero b hlo hhi),
    h.queued.above (windowBase_ge p 19) hf⟩

theorem Emptied.same {p : Nat} {d e f : Dev} (h : Emptied p d e) (hm : f.mem = e.mem) (hl : f.lines = e.lines) (hh : f.held = e.held) : Emptied p d f :=
  ⟨fun b hb => by rw [hm]; exact h.low b hb, fun b hlo hhi => by rw [hm]; exact h.zero b hlo hhi, by rw [hl, hh]; exact h.queued⟩

/-- Entries that were removed before do not matter. -/
theorem Emptied.removes {p : Nat} {d e f : Dev} (h : Removes (windowBase p 19) d e) (hf : Emptied p e f) : Emptied p d f :=
  ⟨fun b hb => (hf.low b hb).trans (h.mem b hb), hf.zero, hf.queued⟩

theorem above_hallZero {p : Nat} (d : Dev) (lo hi : Nat) (hlo : windowBase p 19 ≤ lo) : Above (windowBase p 19) d
    { d with mem := d.mem.zero lo hi, lines := d.lines.filter fun l => hi ≤ l.addr || l.addr < lo,
             reservations := d.reservations.filter fun (e : Nat × Nat) => hi ≤ e.2 || e.2 < lo } :=
  ⟨rfl, fun b hb => Mem.get_zero_outside _ _ _ _ (by omega), fun l hl hlow => List.mem_filter.mpr ⟨hl, by simp; omega⟩,
    [], (List.append_nil _).symm, by simp⟩

theorem installZero_empties (d : Dev) (p : Nat) (old new : List Rec) : (d.installZero p old new).tables = d.tables ∧
    (Queued (windowBase p 19) d.lines d.held → Emptied p d (d.installZero p old new)) := by
  obtain ⟨m, hm, hget⟩ := zeroWindows d p 19
  unfold Dev.installZero
  extract_lets e a b changed
  have he : e = { d with mem := m } := hm
  have hup : Above (windowBase p 19) e (e.each changed fun d r =>
      let lo := windowBase p 19 + r.2.1
      let hi := lo + r.2.2
      { d with mem := d.mem.zero lo hi, lines := d.lines.filter fun l => hi ≤ l.addr || l.addr < lo,
               reservations := d.reservations.filter fun (e : Nat × Nat) => hi ≤ e.2 || e.2 < lo }) :=
    .each _ (fun d r => above_hallZero d _ _ (Nat.le_add_right ..)) e
  have hzero : Queued (windowBase p 19) d.lines d.held → Emptied p d e := fun hq => by
    rw [he]
    refine ⟨fun b hb => ?_, fun b hlo hhi => ?_, hq⟩
    · have := windowBase_ge p 0
      exact (hget b).trans (if_neg (by omega))
    · exact (hget b).trans (if_pos ⟨hlo, hhi⟩)
  refine ⟨hup.tables.trans ?_, fun hq => (hzero hq).above hup⟩
  rw [he]
  rfl

/-! ### Directories and pools of the post hall -/

theorem apart_objStatus (d : Dev) (p : Nat) : (d.objStatus p).apart = d.apart := (apart_setFld rfl ..).trans (apart_setFld rfl ..)

theorem apart_finishAll (d : Dev) (ls : List LetterId) (st dt : Nat) : (d.finishAll ls st dt).apart = d.apart := apart_each _ fun _ _ _ => apart_finish ..

theorem apart_heldEnds (d : Dev) (hs : List (Option (LetterId × Nat) × Nat × List Byte)) (st dt : Nat) : (d.heldEnds hs st dt).apart = d.apart := by
  refine apart_each _ fun e h _ => ?_
  split
  · split
    · exact apart_finish ..
    · exact apart_worsen ..
  · rfl

theorem removes_dirRemove (d : Dev) (id B : Nat) (hB : 64 ∣ B) : Removes B d (d.dirRemove id) := by
  unfold Dev.dirRemove
  split
  · exact .of_apart rfl
  next o _ =>
    have hslots : Removes B d (d.each o.slots fun d e => d.dirWrite e.1 e.2 emptyEntry) :=
      .each _ (fun (e : Dev) (x : Nat × Nat) => removes_dirWrite e B x.1 x.2 hB) d
    have hdrop : ∀ e : Dev, Removes B e ({ e with objs := mapErase e.objs id }.objStatus o.home) := fun e =>
      .of_apart (apart_objStatus { e with objs := mapErase e.objs id } o.home)
    exact hslots.trans (hdrop _)

theorem removes_unlodgeHome (d : Dev) (p B : Nat) (hB : 64 ∣ B) : Removes B d (d.unlodgeHome p) :=
  .each _ (fun _ _ => (Removes.of_apart ((apart_finishAll ..).trans (apart_heldEnds ..))).trans (removes_dirRemove _ _ B hB)) d

theorem above_forwardEntries (d : Dev) (p : Nat) (gone : List Nat) : Above (windowBase p 19) d (d.forwardEntries p gone) := by
  unfold Dev.forwardEntries
  extract_lets e
  refine (Above.of_apart (d := d) (e := e) rfl).trans (.each _ (fun f o => ?_) e)
  have hadd : Above (windowBase p 19) f (f.dirAdd o.1 o.2 p).2 := by
    unfold Dev.dirAdd
    extract_lets used free
    have hg : Above (windowBase p 19) f f.draw.2 := .of_apart rfl
    generalize f.draw = td at hg
    obtain ⟨t, g⟩ := td
    dsimp only
    split
    · exact hg.trans (above_dirWrite ..)
    · exact hg
  exact hadd.trans (.of_apart rfl)

theorem histBase_ge {d : Dev} {p : Nat} (h : (histRegion d p).isSome = true) : windowBase p 19 ≤ histBase d p := by
  obtain ⟨r, hr⟩ := Option.isSome_iff_exists.mp h
  obtain ⟨c, -, rfl⟩ := List.mem_map.mp (List.mem_of_mem_head? (show r ∈ (regions d p 19 7).head? from hr))
  rw [histBase, hr]
  exact Nat.le_add_right ..

theorem above_poolSync (d : Dev) (p k : Nat) : Above (windowBase p 19) d (d.poolSync p k) := by
  unfold Dev.poolSync
  split
  next h =>
    have hregion : (histRegion d p).isSome = true := (Bool.and_eq_true_iff.mp h).1
    dsimp only
    refine Above.trans ?_ (.of_apart (apart_setReg rfl ..))
    exact above_homeStore (windowBase_dvd p 19) ((histBase_ge hregion).trans (Nat.le_add_right ..)) d _
  · exact .of_apart (apart_setReg rfl ..)

/-! ### Registers that are written one after the other -/

theorem reg_each_setReg {r : Nat → Reg} (hr : ∀ i j, r i = r j → i = j) (v : Nat → W64) (d : Dev) (n : Nat) : ∀ k < n,
    (d.each (List.range n) fun d k => d.setReg (r k) (v k)).reg (r k) = v k := by
  induction n with
  | zero => exact fun k hk => absurd hk (by omega)
  | succ n ih =>
    intro k hk
    rw [Dev.each_range_succ, Dev.reg_setReg]
    by_cases h : r n = r k
    · rw [if_pos h, hr _ _ h]
    · rw [if_neg h]
      have hne : k ≠ n := fun e => h (by rw [e])
      exact ih k (by omega)

/-- The view of the tables, but for registers of `P`. -/
structure SameBut (P : Reg → Prop) (d e : Dev) : Prop where
  rest : e.tables = { d.tables with regs := e.tables.regs }
  reg : ∀ r, keptReg r = true → ¬ P r → e.reg r = d.reg r

theorem SameBut.of_tables {P : Reg → Prop} {d e : Dev} (h : e.tables = d.tables) : SameBut P d e := ⟨by rw [h], fun _ hr _ => reg_of_tables h hr⟩

theorem SameBut.of_regs {P : Reg → Prop} {d e : Dev} (h : OnlyRegs P d e) : SameBut P d e := by
  obtain ⟨⟨m, rfl⟩, hr⟩ := h
  exact ⟨rfl, fun r _ hp => hr r hp⟩

theorem SameBut.trans {P : Reg → Prop} {d e f : Dev} (h : SameBut P d e) (h' : SameBut P e f) : SameBut P d f :=
  ⟨by rw [h'.rest, h.rest], fun r hr hp => (h'.reg r hr hp).trans (h.reg r hr hp)⟩

/-! ### The tables of a target take effect (R71) -/

/-- Registers of the view that an install writes. -/
def InstallReg (r : Reg) : Prop := (∃ i, r = .structImageId i) ∨ r = .structPartState ∨ ∃ n, r = .sortStatus n

theorem apart_hello (d : Dev) (n : Nat) : (d.hello n).apart = d.apart := apart_setPortState d n 2

theorem apart_helloFirst (d : Dev) (n : Nat) : (d.helloFirst n).apart = d.apart := by
  unfold Dev.helloFirst
  split
  · exact (apart_hello ..).trans (apart_setPort ..)
  · rfl

/-- What the install of a partition leaves. -/
structure PartInstalled (p : Nat) (i : PartImage) (d e : Dev) : Prop where
  same : SameBut InstallReg { d with parts := mapSet d.parts p i } e
  state : e.installed p = true
  hold : e.bit (.sortStatus 0) (4 + p) = false ∧ e.bit (.sortStatus 1) (4 + p) = false
  ids : ∀ k < 4, e.reg (.structImageId (4 * p + k)) = BitVec.ofNat 64 (field i.id (4 * k) 4)
  emptied : Queued (windowBase p 19) d.lines d.held → Emptied p d e

/-- The partition is shown as installed, and its accesses are held no more. -/
theorem installed_holding (d : Dev) {p : Nat} (hp : p < 4) : ((d.setPState p 1).holding p false).installed p = true ∧
    ((d.setPState p 1).holding p false).bit (.sortStatus 0) (4 + p) = false ∧ ((d.setPState p 1).holding p false).bit (.sortStatus 1) (4 + p) = false := by
  refine ⟨?_, ?_, ?_⟩
  · have hstate : ((d.setPState p 1).holding p false).reg .structPartState = fset (d.reg .structPartState) (4 * p + 3) (4 * p) 1 := by
      rw [Dev.holding, Dev.reg_setBit, if_neg (by simp), Dev.reg_setBit, if_neg (by simp), Dev.setPState, Dev.reg_setFld, if_pos rfl]
    rw [Dev.installed, Dev.fld, hstate, fget_fset_same _ _ _ _ (by omega), show 4 * p + 3 + 1 - 4 * p = 4 by omega]
    rfl
  · rw [Dev.holding, Dev.bit_setBit _ _ _ (by omega), if_neg (by simp), Dev.bit_setBit _ _ _ (by omega), if_pos ⟨rfl, rfl⟩]
  · rw [Dev.holding, Dev.bit_setBit _ _ _ (by omega), if_pos ⟨rfl, rfl⟩]

theorem onlyRegs_holding (d : Dev) (p n : Nat) (b : Bool) : OnlyRegs InstallReg d ((d.setPState p n).holding p b) :=
  (((OnlyRegs.refl _ d).setReg (.inr (.inl rfl)) _).setReg (.inr (.inr ⟨0, rfl⟩)) _).setReg (.inr (.inr ⟨1, rfl⟩)) _

theorem partInstalled_installPart (d : Dev) {p : Nat} (hp : p < 4) (i : PartImage) (gone : List Nat) : PartInstalled p i d (d.installPart p i gone) := by
  unfold Dev.installPart
  extract_lets old moved d₁ d₂ d₃ d₄ d₅ d₆ d₇ d₈
  have h₁ : Removes (windowBase p 19) d d₁ := by
    unfold d₁
    split
    · exact removes_unlodgeHome d p _ (windowBase_dvd p 19)
    · exact .of_apart rfl
  obtain ⟨hzero, hempty⟩ := installZero_empties d₁ p old i.carve
  change d₂.tables = d₁.tables at hzero
  have h₃ : d₃.tables = { d with parts := mapSet d.parts p i }.tables :=
    congrArg (fun t : Tables => { t with parts := mapSet t.parts p i }) (hzero.trans h₁.tables)
  have hempty₃ : Queued (windowBase p 19) d.lines d.held → Emptied p d d₃ := fun hq => .removes h₁ ((hempty (h₁.queued hq)).same rfl rfl rfl)
  clear_value d₃
  have h₄ : Above (windowBase p 19) d₃ d₄ := by
    unfold d₄
    split
    · exact above_forwardEntries d₃ p gone
    · exact .refl _ _
  clear_value d₄
  have h₅ : OnlyRegs InstallReg d₄ d₅ := .each (fun e k => (OnlyRegs.refl _ e).setReg (.inl ⟨_, rfl⟩) _) _ d₄
  have hids : ∀ k < 4, d₅.reg (.structImageId (4 * p + k)) = BitVec.ofNat 64 (field i.id (4 * k) 4) :=
    reg_each_setReg (r := fun k => .structImageId (4 * p + k)) (fun _ _ h => by injection h; omega) _ d₄ 4
  clear_value d₅
  have h₇ : Above (windowBase p 19) d₅ d₇ :=
    (Above.of_apart ((apart_setReg rfl ..).trans (apart_setFld rfl ..))).trans (.each _ (fun e k => above_poolSync e p k) _)
  clear_value d₇
  have h₈ : OnlyRegs InstallReg d₇ d₈ := onlyRegs_holding d₇ p 1 false
  obtain ⟨hstate, hhold⟩ := installed_holding d₇ hp
  change d₈.installed p = true at hstate
  change d₈.bit _ _ = false ∧ d₈.bit _ _ = false at hhold
  have hlast : (d₈.each [4 * p, 4 * p + 1, 4 * p + 2, 4 * p + 3] Dev.helloFirst).apart = d₈.apart := apart_each _ fun _ _ _ => apart_helloFirst ..
  have htables := tables_of_apart hlast
  generalize d₈.each [4 * p, 4 * p + 1, 4 * p + 2, 4 * p + 3] Dev.helloFirst = e at hlast htables
  exact {
    same := (SameBut.of_tables h₃).trans ((SameBut.of_tables h₄.tables).trans ((SameBut.of_regs h₅).trans ((SameBut.of_tables h₇.tables).trans
      ((SameBut.of_regs h₈).trans (SameBut.of_tables htables)))))
    state := by rw [Dev.installed, fld_of_tables htables rfl]; exact hstate
    hold := by rw [Dev.bit, Dev.bit, fld_of_tables htables rfl, fld_of_tables htables rfl]; exact hhold
    ids := fun k hk => by
      rw [reg_of_tables htables rfl, ← hids k hk, ← reg_of_tables h₇.tables (r := .structImageId (4 * p + k)) rfl]
      show ((d₇.setPState p 1).holding p false).reg _ = _
      rw [Dev.holding, Dev.reg_setBit, if_neg (by simp), Dev.reg_setBit, if_neg (by simp), Dev.setPState, Dev.reg_setFld, if_neg (by simp)]
    emptied := fun hq => by
      obtain ⟨m₅, h₅⟩ := h₅.1
      have hempty₅ : Emptied p d d₅ := ((hempty₃ hq).above h₄).same (by rw [h₅]) (by rw [h₅]) (by rw [h₅])
      exact ((hempty₅.above h₇).same (f := d₈) rfl rfl rfl).same (mem_of_apart hlast) (lines_of_apart hlast) (held_of_apart hlast) }

/-! ### Fields of a slice -/

theorem slice_eq_map (bs : List Byte) (off len : Nat) : slice bs off len = (List.range len).map fun i => bs.getD (off + i) 0#8 := by
  refine List.ext_getElem ?_ fun i hi hi' => ?_
  · rw [slice, List.length_append, List.length_replicate, List.length_map, List.length_range]
    have := List.length_take_le len (bs.drop off)
    omega
  · rw [List.length_map, List.length_range] at hi'
    rw [List.getElem_map, List.getElem_range, List.getD_eq_getElem?_getD]
    simp only [slice]
    rw [List.getElem_append]
    split
    next h =>
      rw [List.getElem_take, List.getElem_drop, List.getElem?_eq_getElem]
      rfl
    next h =>
      rw [List.length_take, List.length_drop] at h
      rw [List.getElem_replicate, List.getElem?_eq_none (by omega)]
      rfl

theorem slice_slice (bs : List Byte) (off n : Nat) {k len : Nat} (h : k + len ≤ n) : slice (slice bs off n) k len = slice bs (off + k) len := by
  rw [slice_eq_map, slice_eq_map bs (off + k)]
  refine List.map_congr_left fun i hi => ?_
  have hi := List.mem_range.mp hi
  rw [slice_eq_map, List.getD_eq_getElem?_getD, List.getElem?_map, List.getElem?_range (by omega), Option.map_some, Option.getD_some, Nat.add_assoc]

theorem leNat_lt (bs : List Byte) : leNat bs < 256 ^ bs.length := by
  induction bs with
  | nil => decide
  | cons b bs ih =>
    have hb := b.isLt
    rw [leNat, List.length_cons, pow_succ]
    omega

theorem field_lt (bs : List Byte) (off len : Nat) : field bs off len < 256 ^ len := by
  have h := leNat_lt (slice bs off len)
  rwa [slice_eq_map, List.length_map, List.length_range, ← slice_eq_map] at h

/-! ### The module sections, the cascade and the measurements -/

theorem apart_cascadeOpens (d : Dev) (bitmap : Nat) : (d.cascadeOpens bitmap).apart = d.apart :=
  (apart_setFld rfl ..).trans ((apart_setFld rfl ..).trans (apart_each _ fun _ _ _ => apart_setReg rfl ..))

theorem apart_join (d : Dev) : d.join.apart = d.apart := by
  unfold Dev.join
  split
  · rfl
  · exact apart_admission ..

/-- The module sections take effect, and nothing else of the view changes (R71, R74). -/
theorem installModule_apart {d : Dev} (hd : d.incSeen = false) (m : ModImage) : (d.installModule m).apart = { d with modImage := some m }.apart := by
  unfold Dev.installModule
  extract_lets same g e f h k l
  have hports : ∀ e : Dev, ({ e with modImage := some m }.each (List.range 16) fun d n =>
      let role := ((memberRec d (modNumber d)).map fun r => recU r (8 + n) 1).getD 3
      let d := d.setReg (.crrPortRole n) (BitVec.ofNat 64 role)
      if d.portState n = 0 ∨ d.portState n = 6 then d else
      (d.clearSession n (d.port n).linkUp).setPortState n (if role % 4 = 3 then 0 else 1)).apart = { e with modImage := some m }.apart := fun e => by
    refine apart_each _ fun e n _ => ?_
    extract_lets role e'
    have he' : e'.apart = e.apart := apart_setReg rfl ..
    split
    · exact he'
    · exact (apart_setPortState ..).trans ((apart_clearSession ..).trans he')
  have hf : f.apart = { d with modImage := some m }.apart :=
    (apart_rewire (incSeen_of_apart (d := { e with modImage := some m }) (hports e) hd)).trans (hports e)
  clear_value f
  have hl : l.apart = { d with modImage := some m }.apart := (apart_setReg rfl ..).trans
    ((apart_each _ fun _ _ _ => apart_setReg rfl ..).trans ((apart_each _ fun _ _ _ => apart_setReg rfl ..).trans hf))
  clear_value l
  split
  · rfl
  · split
    · exact (apart_cascadeOpens ..).trans hl
    · exact hl

/-- The measurement register takes the digest (R447). -/
theorem extend_measures (d : Dev) (n : Nat) (x : List Byte) : SameBut (fun r => ∃ w, r = .secMeas n w) d (d.extend n x) ∧
    (d.extend n x).mem = d.mem ∧ (d.extend n x).lines = d.lines ∧ (d.extend n x).held = d.held ∧
    ∀ w < 8, (d.extend n x).reg (.secMeas n w) = BitVec.ofNat 64 (field (shake256 (d.meas n ++ x)) (8 * w) 8) := by
  unfold Dev.extend
  extract_lets m e
  have he : OnlyRegs (fun r => ∃ w, r = .secMeas n w) d e := .each (fun e w => (OnlyRegs.refl _ e).setReg ⟨w, rfl⟩ _) _ d
  have hread : ∀ w < 8, e.reg (.secMeas n w) = BitVec.ofNat 64 (field m (8 * w) 8) :=
    reg_each_setReg (r := .secMeas n) (fun _ _ h => by injection h) _ d 8
  clear_value e
  have hcount : (e.count (.secMeasCount n) 1).apart = e.apart := apart_count rfl ..
  generalize e.count (.secMeasCount n) 1 = f at hcount
  obtain ⟨mm, hm⟩ := he.1
  exact ⟨(SameBut.of_regs he).trans (.of_tables (tables_of_apart hcount)), (mem_of_apart hcount).trans (by rw [hm]), (lines_of_apart hcount).trans (by rw [hm]),
    (held_of_apart hcount).trans (by rw [hm]), fun w hw => (reg_of_tables (tables_of_apart hcount) rfl).trans (hread w hw)⟩

end Sys2Proof.Machine
end

section
/-! A load whose last target is installed, and the claim on the loader's checks and installs (R62, R71). -/

namespace Sys2Proof.Machine

/-- What the install of the last target does, up to the load's end. -/
def Dev.lastInstalled (d : Dev) (p : Nat) : Dev :=
  let b := d.loader.image
  let mask := d.loader.mask
  let ss := sections b
  let d : Dev := if (maskParts mask).head? = some p then d.installModule (modFrom ss) else d
  let d : Dev := { d.installPart p (partFrom b ss p) [] with loader := { d.loader with todo := [] } }
  let d := if (maskParts mask).head? = some p ∧ d.fld .gateCascade 1 0 = 1 ∧ d.joined = false then d.join else d
  d.each (maskParts mask) fun d q => d.extend (3 + q) (structDigest b)

theorem installDone_last {s : State} {p : Nat} (hstate : s.dev.loadState = 5) (htodo : s.dev.loader.todo = [p]) :
    installDone false s = .next { s with dev := ((s.dev.lastInstalled p).loadEnd none).release } := by
  unfold installDone State.onDev
  beta_reduce
  rw [htodo]
  change Host.Outcome.next { s with dev := ite _ _ (ite _ _ _) } = _
  rw [if_neg (not_not.mpr hstate), if_neg Bool.false_ne_true]
  rfl

theorem maskParts_two_pow {p : Nat} (hp : p < 4) : maskParts (2 ^ p) = [p] := by
  have hall : ∀ p : Fin 4, maskParts (2 ^ p.val) = [p.val] := by decide
  exact hall ⟨p, hp⟩

section
variable {P : Reg → Prop} {d e : Dev} (h : SameBut P d e)
include h

theorem SameBut.parts : e.parts = d.parts := congrArg Tables.parts h.rest
theorem SameBut.modImage : e.modImage = d.modImage := congrArg Tables.modImage h.rest
theorem SameBut.posted : e.posted = d.posted := congrArg Tables.posted h.rest
theorem SameBut.incSeen : e.incSeen = d.incSeen := congrArg Tables.incSeen h.rest

end

theorem meas_eq {d e : Dev} {n : Nat} (h : ∀ w, e.reg (.secMeas n w) = d.reg (.secMeas n w)) : e.meas n = d.meas n := by
  simp only [Dev.meas, Dev.regN, h]

/-- The only target of a load is installed, and nothing is left of the load but its end. -/
structure LastInstalled (p : Nat) (d e : Dev) : Prop where
  parts : e.parts = mapSet d.parts p (partFrom d.loader.image (sections d.loader.image) p)
  modImage : e.modImage = some (modFrom (sections d.loader.image))
  posted : e.posted = d.posted
  incSeen : e.incSeen = d.incSeen
  state : e.installed p = true
  hold : e.bit (.sortStatus 0) (4 + p) = false ∧ e.bit (.sortStatus 1) (4 + p) = false
  ids : ∀ k < 4, e.reg (.structImageId (4 * p + k)) = BitVec.ofNat 64 (field (slice d.loader.image 0x10 16) (4 * k) 4)
  emptied : Emptied p d e
  meas : ∀ w < 8, e.reg (.secMeas (3 + p) w) = BitVec.ofNat 64 (field (shake256 (d.meas (3 + p) ++ structDigest d.loader.image)) (8 * w) 8)

theorem lastInstalled_installs {d : Dev} {p : Nat} (hp : p < 4) (hmask : d.loader.mask = 2 ^ p) (hheld : d.held = []) (hd : d.incSeen = false) :
    LastInstalled p d (d.lastInstalled p) := by
  have hparts : maskParts d.loader.mask = [p] := by rw [hmask, maskParts_two_pow hp]
  have hhead : (maskParts d.loader.mask).head? = some p := by rw [hparts]; rfl
  unfold Dev.lastInstalled
  extract_lets b mask ss d₁ d₂ l d₃ d₄
  have h₁ : d₁.apart = { d with modImage := some (modFrom ss) }.apart := by
    unfold d₁
    rw [if_pos hhead]
    exact installModule_apart hd _
  have h₂ : PartInstalled p (partFrom b ss p) d₁ d₂ := partInstalled_installPart d₁ hp _ _
  have hq : Queued (windowBase p 19) d₁.lines d₁.held := by
    rw [held_of_apart h₁, show ({ d with modImage := some (modFrom ss) } : Dev).held = [] from hheld]
    exact Queued.nil _ _
  have h₄ : d₄.apart = d₃.apart := by
    unfold d₄
    split
    · exact apart_join _
    · rfl
  have hreg : ∀ r, keptReg r = true → d₄.reg r = d₂.reg r := fun r hr => reg_of_tables (tables_of_apart h₄) hr
  have hbefore : ∀ r, keptReg r = true → d₁.reg r = d.reg r := fun r hr => reg_of_tables (tables_of_apart h₁) hr
  have hmeas : d₄.meas (3 + p) = d.meas (3 + p) :=
    meas_eq fun w => (hreg _ rfl).trans ((h₂.same.reg _ rfl (by simp [InstallReg])).trans (hbefore _ rfl))
  have hlast : (d₄.each (maskParts mask) fun d q => d.extend (3 + q) (structDigest b)) = d₄.extend (3 + p) (structDigest b) := by
    rw [hparts]
    rfl
  rw [hlast]
  obtain ⟨hsame, hmem, hlines, hheld', hnew⟩ := extend_measures d₄ (3 + p) (structDigest b)
  have hkept : ∀ r, keptReg r = true → (∀ n w, r ≠ .secMeas n w) → (d₄.extend (3 + p) (structDigest b)).reg r = d₂.reg r := fun r hr hne =>
    (hsame.reg r hr fun ⟨w, hw⟩ => hne _ w hw).trans (hreg r hr)
  generalize d₄.extend (3 + p) (structDigest b) = e at hsame hmem hlines hheld' hnew hkept
  have htables := tables_of_apart h₄
  have hempty : Emptied p d e := by
    have hmod : Emptied p d₁ e := ((h₂.emptied hq).same (f := d₃) rfl rfl rfl).same (hmem.trans (mem_of_apart h₄)) (hlines.trans (lines_of_apart h₄))
      (hheld'.trans (held_of_apart h₄))
    exact ⟨fun b hb => (hmod.low b hb).trans (congrArg (·.get b) (mem_of_apart h₁)), hmod.zero, hmod.queued⟩
  have hpartFld : ∀ r hi lo, keptReg r = true → (∀ n w, r ≠ .secMeas n w) → e.fld r hi lo = d₂.fld r hi lo := fun r hi lo hr hne => by
    rw [Dev.fld, hkept r hr hne, Dev.fld]
  exact {
    parts := by
      rw [hsame.parts, show d₄.parts = d₃.parts from congrArg Tables.parts htables, show d₃.parts = d₂.parts from rfl, h₂.same.parts]
      exact congrArg (mapSet · p _) (congrArg Tables.parts (tables_of_apart h₁))
    modImage := by
      rw [hsame.modImage, show d₄.modImage = d₃.modImage from congrArg Tables.modImage htables, show d₃.modImage = d₂.modImage from rfl, h₂.same.modImage]
      exact congrArg Tables.modImage (tables_of_apart h₁)
    posted := by
      rw [hsame.posted, show d₄.posted = d₃.posted from congrArg Tables.posted htables, show d₃.posted = d₂.posted from rfl, h₂.same.posted]
      exact congrArg Tables.posted (tables_of_apart h₁)
    incSeen := by
      rw [hsame.incSeen, show d₄.incSeen = d₃.incSeen from congrArg Tables.incSeen htables, show d₃.incSeen = d₂.incSeen from rfl, h₂.same.incSeen]
      exact congrArg Tables.incSeen (tables_of_apart h₁)
    state := by
      rw [Dev.installed, hpartFld _ _ _ rfl (by simp)]
      exact h₂.state
    hold := by
      rw [Dev.bit, Dev.bit, hpartFld _ _ _ rfl (by simp), hpartFld _ _ _ rfl (by simp)]
      exact h₂.hold
    ids := fun k hk => (hkept _ rfl (by simp)).trans (h₂.ids k hk)
    emptied := hempty
    meas := fun w hw => by rw [hnew w hw, hmeas] }

/-! ### The install is over -/

section
variable {s : State} {p : Nat} (hp : p < 4) (hheld : s.dev.held = []) (hseen : s.dev.incSeen = false) (hstate : s.dev.loadState = 5)
  (htodo : s.dev.loader.todo = [p]) (hmask : s.dev.loader.mask = 2 ^ p)
include hp hheld hseen hstate htodo hmask

/-- The load is over, and what its partition held back has been tried again. -/
theorem structInstallDone_ends : ∃ e f t, exec (.structInstallDone false) s = .next { s with dev := t } ∧ LastInstalled p s.dev e ∧
    Ended none e f ∧ t.tables = f.tables ∧ (∀ b < 0x200000000000, t.mem.get b = s.dev.mem.get b) ∧
    ∀ b, windowBase p 0 ≤ b → b < windowBase p 19 → t.mem.get b = 0#8 := by
  have he := lastInstalled_installs hp hmask hheld hseen
  have hf := ended_loadEnd (he.incSeen.trans hseen) none
  have hgo : exec (.structInstallDone false) s = settled s (installDone false s) := rfl
  rw [installDone_last hstate htodo] at hgo
  generalize s.dev.lastInstalled p = e at he hf hgo
  generalize e.loadEnd none = f at hf hgo
  have hempty : Emptied p s.dev f := he.emptied.same hf.mem hf.lines hf.held
  have hhall : windowBase p 19 ≤ 0x200800000000 := by unfold windowBase; omega
  have ht := tried_release (d := f) (windowBase_dvd p 19) (windowBase_ge p 19) hhall (fun _ => coherent_below_hall hp) hempty.queued
  have hposted : f.release.posted = s.dev.posted := (congrArg Tables.posted ht.tables).trans (hf.posted.trans he.posted)
  refine ⟨e, f, f.release, hgo.trans (settled_of_posted_eq hposted), he, hf, ht.tables, fun b hb => (ht.mem b hb).trans (hempty.low b hb), fun b hlo hhi => ?_⟩
  obtain hsame | hzero := ht.cleared b hhi
  · rw [hsame, hempty.zero b hlo hhi]
  · exact hzero

theorem structInstallDone_answers : Answers (.structInstallDone false) s fun t => t.pending = s.pending ∧ t.sec = s.sec ∧
    mapGet? t.dev.parts p = some (partFrom s.dev.loader.image (sections s.dev.loader.image) p) ∧ t.dev.modImage = some (modFrom (sections s.dev.loader.image)) ∧
    t.dev.installed p = true ∧ t.dev.bit (.sortStatus 0) (4 + p) = false ∧ t.dev.bit (.sortStatus 1) (4 + p) = false ∧
    (∀ k < 4, t.dev.regN (.structImageId (4 * p + k)) = field s.dev.loader.image (0x10 + 4 * k) 4) ∧
    (∀ w a, w < 19 → windowBase p w ≤ a → a < windowBase p (w + 1) → t.dev.mem.get a = 0#8) ∧
    (∀ a < 0x40000000000, t.dev.mem.get a = s.dev.mem.get a) ∧
    (∀ q, q ≠ p → mapGet? t.dev.parts q = mapGet? s.dev.parts q) ∧
    t.dev.loader = Loader.reset ∧ t.dev.loadState = 0 ∧ t.dev.bit .structStatus 8 = true ∧ t.dev.bit .structStatus 9 = false ∧ t.dev.reg .structCause = 0#64 ∧
    (∀ w < 8, t.dev.reg (.secMeas (3 + p) w) = BitVec.ofNat 64 (field (shake256 (s.dev.meas (3 + p) ++ structDigest s.dev.loader.image)) (8 * w) 8)) := by
  obtain ⟨e, f, t, hgo, he, hf, ht, hlow, hzero⟩ := structInstallDone_ends hp hheld hseen hstate htodo hmask
  have hparts : t.parts = mapSet s.dev.parts p (partFrom s.dev.loader.image (sections s.dev.loader.image) p) :=
    (congrArg Tables.parts ht).trans (hf.parts.trans he.parts)
  have hreg : ∀ r, keptReg r = true → r ≠ .structCause → r ≠ .structStatus → r ≠ .structCtrl → t.reg r = e.reg r := fun r hr h1 h2 h3 =>
    (reg_of_tables ht hr).trans (hf.reg r hr h1 h2 h3)
  have hfld : ∀ r hi lo, keptReg r = true → r ≠ .structCause → r ≠ .structStatus → r ≠ .structCtrl → t.fld r hi lo = e.fld r hi lo :=
    fun r hi lo hr h1 h2 h3 => by rw [Dev.fld, hreg r hr h1 h2 h3, Dev.fld]
  have hbit : ∀ i, t.bit .structStatus i = f.bit .structStatus i := fun i => by rw [Dev.bit, fld_of_tables ht rfl, Dev.bit]
  refine ⟨_, hgo, rfl, rfl, ?_, ?_, ?_, ?_, ?_, fun k hk => ?_, fun w a hw hlo hhi => ?_, fun a ha => ?_, fun q hq => ?_, ?_, ?_, ?_, ?_, ?_, fun w hw => ?_⟩
  all_goals dsimp only
  · rw [hparts, mapGet?_mapSet, if_pos rfl]
  · exact (congrArg Tables.modImage ht).trans (hf.modImage.trans he.modImage)
  · rw [Dev.installed, hfld _ _ _ rfl (by simp) (by simp) (by simp)]
    exact he.state
  · rw [Dev.bit, hfld _ _ _ rfl (by simp) (by simp) (by simp)]
    exact he.hold.1
  · rw [Dev.bit, hfld _ _ _ rfl (by simp) (by simp) (by simp)]
    exact he.hold.2
  · have hsmall := field_lt s.dev.loader.image (0x10 + 4 * k) 4
    rw [Dev.regN, hreg _ rfl (by simp) (by simp) (by simp), he.ids k hk, field, slice_slice _ _ _ (by omega), ← field, BitVec.toNat_ofNat,
      Nat.mod_eq_of_lt (by omega)]
  · refine hzero a (le_trans ?_ hlo) (lt_of_lt_of_le hhi ?_)
    · unfold windowBase; omega
    · unfold windowBase; omega
  · exact hlow a (by omega)
  · rw [hparts, mapGet?_mapSet, if_neg hq.symm]
  · exact (congrArg Tables.loader ht).trans hf.loader
  · rw [Dev.loadState, fld_of_tables ht rfl]
    exact hf.state
  · exact (hbit 8).trans hf.done
  · exact (hbit 9).trans hf.fail
  · exact (reg_of_tables ht rfl).trans hf.cause
  · rw [hreg _ rfl (by simp) (by simp) (by simp), he.meas w hw]

end

/-- Settles O25: the checks end a load with their first failure or hand it on; an install is followed from its module sections to the
release of the held writes, a failed one through the boot table. -/
theorem loaderChecksAndInstalls : Obligations.LoaderChecksAndInstalls := by
  unfold Obligations.LoaderChecksAndInstalls
  refine ⟨fun s => ⟨fun hverify => ⟨fun c hc => ?_, structVerifyDone_answers hverify⟩, structValidateDone_answers, structCheckDone_answers,
    fun p hp _ hmask hdeg => deviceFail_degraded hp hmask hdeg⟩, fun s p hp hheld hseen => ⟨fun hstate htodo hmask =>
      ⟨structInstallDone_answers hp hheld hseen hstate htodo hmask, ?_⟩, fun hinst hother => ?_, fun hstate hmask => ?_⟩⟩
  · exact ⟨_, structVerifyDone_fails hverify (by rw [hc, Option.orElse_some]), _, loadFails_here s _, rfl⟩
  · have hparts : maskParts s.dev.loader.mask = [p] := by rw [hmask, maskParts_two_pow hp]
    have hbit : bitN s.dev.loader.mask p = true := (mem_maskParts.mp (hparts ▸ List.mem_singleton_self p)).2
    obtain ⟨t, hgo, h⟩ := structInstallDone_fails hheld hseen hstate htodo hbit
    obtain ⟨hloader, hidle, hdone, hfail⟩ := h.ended
    have hmem : p ∈ maskParts s.dev.loader.mask := hparts ▸ List.mem_singleton_self p
    obtain ⟨hinst, hinsting⟩ := h.installed p hmem
    refine ⟨_, hgo, rfl, rfl, ?_, hinst, hinsting, h.hold p hmem, fun q hq => ?_, h.mem, hloader, hidle, hdone, hfail, h.cause, h.meas⟩
    · exact (h.parts p).trans (if_pos hmem)
    · exact (h.parts q).trans (if_neg (by rw [hparts]; simpa using hq))
  · obtain ⟨t, hgo, h⟩ := structureTableError_installed hheld hseen hp hinst hother
    refine ⟨_, hgo, rfl, rfl, ?_, ?_, fun q hq => ?_, congrArg (·.1) h.aside⟩
    · exact (h.parts p).trans (if_pos (List.mem_singleton_self p))
    · have hstate := h.state p hp
      rw [if_pos (List.mem_singleton_self p)] at hstate
      show decide (t.fld .structPartState (4 * p + 3) (4 * p) = 1) = false
      rw [hstate]
      rfl
    · exact (h.parts q).trans (if_neg (by simpa using hq))
  · obtain ⟨t, hgo, h⟩ := structureTableError_target hheld hseen hp hstate hmask
    obtain ⟨hloader, hidle, -, -⟩ := h.ended
    refine ⟨_, hgo, rfl, rfl, fun q hq hbit => ?_, fun q hq => ?_, h.mem, hloader, hidle, h.cause⟩
    · have hmem := mem_maskParts.mpr ⟨hq, hbit⟩
      exact ⟨(h.parts q).trans (if_pos hmem), (h.installed q hmem).1⟩
    · exact (h.parts q).trans (if_neg fun hmem => hq (mem_maskParts.mp hmem))

end Sys2Proof.Machine
end

section
/-! What leaves the engines' runs alone: reads of memory and of channels, the stores of an incident's record, and incidents (R127, R411). -/

namespace Sys2Proof.Machine

/-! ### Actions -/

/-- An action that touches no run of an engine. -/
def KeepsRuns {α : Type} (x : Act α) : Prop := ∀ d : Dev, (x.run d).2.runs = d.runs

theorem KeepsRuns.bind {α β : Type} {x : Act α} {f : α → Act β} (hx : KeepsRuns x) (hf : ∀ v, KeepsRuns (f v)) : KeepsRuns (x >>= f) := by
  intro d
  have h := hx d
  rw [Act.run_bind]
  split
  case h_1 v e he =>
    rw [he] at h
    exact (hf v e).trans h
  case h_2 e he =>
    rw [he] at h
    exact h

theorem KeepsRuns.devGet : KeepsRuns devGet := fun _ => rfl
theorem KeepsRuns.stop {α : Type} (e : Stop) : KeepsRuns (stop e : Act α) := fun _ => rfl
theorem KeepsRuns.pure {α : Type} (v : α) : KeepsRuns (pure v) := fun _ => rfl
theorem KeepsRuns.devMod {f : Dev → Dev} (h : ∀ d, (f d).runs = d.runs) : KeepsRuns (devMod f) := h

theorem KeepsRuns.mapA {α β : Type} {f : α → Act β} (hf : ∀ v, KeepsRuns (f v)) : ∀ l : List α, KeepsRuns (mapA l f)
  | [] => .pure _
  | x :: xs => (hf x).bind fun _ => (KeepsRuns.mapA hf xs).bind fun _ => .pure _

theorem Dev.each_runs {α : Type} {f : Dev → α → Dev} (h : ∀ d x, (f d x).runs = d.runs) (l : List α) (d : Dev) : (d.each l f).runs = d.runs :=
  Dev.each_keeps (Q := fun e => e.runs = d.runs) l f (fun e x he => (h e x).trans he) d rfl

/-! ### The way to memory -/

theorem Dev.forwarded_runs (d : Dev) (q a len : Nat) : (d.forwarded q a len).runs = d.runs := by
  obtain ⟨⟨m, hm⟩, -⟩ := d.forwarded_counts q a len
  rw [hm]

theorem crossing_runs (d : Dev) (src tgt a len : Nat) (w : Bool) : (crossing d src tgt a len w).2.runs = d.runs := by
  unfold crossing
  split
  · rfl
  · split
    · rfl
    · split
      · rfl
      · exact d.forwarded_runs _ _ _

theorem reach_runs (d : Dev) (src : Src) (a len : Nat) (store : Bool) : (reach d src a len store).2.runs = d.runs := by
  unfold reach
  dsimp only
  split
  · exact crossing_runs ..
  · split
    · rfl
    · exact crossing_runs ..

theorem snoopRead_runs (d : Dev) (line : Nat) : (snoopRead d line).runs = d.runs := Dev.each_runs (fun _ _ => by rfl) _ d

theorem homeLoad_runs (d : Dev) (a len : Nat) : (homeLoad d a len).2.runs = d.runs := by
  unfold homeLoad
  split
  · exact Dev.each_runs snoopRead_runs _ d
  · rfl

theorem keepsRuns_localLoad (src : Src) (a len : Nat) : KeepsRuns (localLoad src a len) := by
  intro d
  have hreach := reach_runs d src a len false
  show (localLoad src a len d).2.runs = _
  unfold localLoad
  split
  case h_1 e d' he =>
    rw [he] at hreach
    exact hreach
  case h_2 v d' he =>
    rw [he] at hreach
    split
    · exact hreach
    · split
      · exact hreach
      · exact (homeLoad_runs d' a len).trans hreach

theorem snoopWrite_runs (d : Dev) (line : Nat) (whole : Bool) : (snoopWrite d line whole).runs = d.runs := by
  obtain ⟨m, rs, h, -⟩ := snoopWrite_cases d line whole
  rw [h]

theorem homeStore_runs (d : Dev) (a : Nat) (bs : List Byte) : (homeStore d a bs).runs = d.runs := by
  unfold homeStore
  split
  · exact Dev.each_runs (fun e l => snoopWrite_runs e l _) _ d
  · rfl

theorem keepsRuns_localStore (src : Src) (a : Nat) (bs : List Byte) : KeepsRuns (localStore src a bs) := by
  intro d
  have hreach := reach_runs d src a bs.length true
  show (localStore src a bs d).2.runs = _
  unfold localStore
  split
  case h_1 e d' he =>
    rw [he] at hreach
    exact hreach
  case h_2 v d' he =>
    rw [he] at hreach
    split
    · exact hreach
    · split
      · exact (Dev.each_runs (fun e pc => homeStore_runs e _ _) _ d').trans hreach
      · exact (homeStore_runs d' a bs).trans hreach

/-! ### Parcels -/

theorem keepsRuns_getObj (id : Nat) : KeepsRuns (getObj id) := by
  unfold getObj
  refine .bind .devGet fun d => ?_
  split
  · exact .pure _
  · exact .stop _

theorem keepsRuns_objLoad (w : Who) (id off len : Nat) : KeepsRuns (objLoad w id off len) := by
  unfold objLoad
  refine .bind (keepsRuns_getObj id) fun o => ?_
  split
  · exact .stop _
  · exact keepsRuns_localLoad _ _ _

theorem keepsRuns_parcelLoad (w : Who) (id i : Nat) : KeepsRuns (parcelLoad w id i) := by
  unfold parcelLoad
  split
  · refine .bind .devGet fun d => ?_
    split
    · exact .stop _
    · split
      · exact .stop _
      · split
        · exact .stop _
        · exact .bind (keepsRuns_localLoad _ _ _) fun _ => .bind (keepsRuns_localLoad _ _ _) fun _ => .pure _
  · exact .bind (keepsRuns_getObj id) fun _ => .bind (keepsRuns_objLoad _ _ _ _) fun _ => .bind (keepsRuns_objLoad _ _ _ _) fun _ => .pure _

theorem keepsRuns_checkParcel (w : Who) (id i : Nat) (pl sd : List Byte) : KeepsRuns (checkParcel w id i pl sd) := by
  unfold checkParcel
  dsimp only
  split
  · exact .pure _
  · exact .bind .devGet fun _ => .stop _

theorem keepsRuns_readParcel (w : Who) (id i : Nat) : KeepsRuns (readParcel w id i) :=
  .bind (keepsRuns_parcelLoad w id i) fun _ => keepsRuns_checkParcel _ _ _ _ _

theorem keepsRuns_feedParcel (x : Letter) (w : Who) (id i : Nat) : KeepsRuns (feedParcel x w id i) := by
  have hread : KeepsRuns (do let q ← readParcel w id i; pure (q, (none : Option (Nat × Nat)))) := .bind (keepsRuns_readParcel w id i) fun _ => .pure _
  unfold feedParcel
  refine .bind .devGet fun d => ?_
  dsimp only
  split
  · exact hread
  · split
    · exact hread
    · split
      · split
        · exact hread
        · exact .bind (keepsRuns_localLoad _ _ _) fun _ => .bind (keepsRuns_localLoad _ _ _) fun _ => .bind (keepsRuns_checkParcel _ _ _ _ _) fun _ => .pure _
      · split
        · exact hread
        · exact .stop _

theorem keepsRuns_chanParcel (x : Letter) (p ch i : Nat) : KeepsRuns (chanParcel x p ch i) := by
  unfold chanParcel
  refine .bind .devGet fun d => ?_
  split
  · exact .stop _
  · dsimp only
    split
    · exact .pure _
    · exact .stop _

/-- A vector engine's inputs are read (R205, R235). -/
theorem keepsRuns_inputVals (x : Letter) (p : Nat) (r : Rec) (c : List Byte) (k i : Nat) (els : List (Nat × Nat)) : KeepsRuns (inputVals x p r c k i els) := by
  unfold inputVals
  generalize cardInput c i = input
  obtain ⟨src, shape, off⟩ := input
  dsimp -zeta only
  split
  · exact .pure _
  · extract_lets w kk at_ ch word get
    have hget : ∀ j, KeepsRuns (get j) := fun j => by
      unfold get
      split
      · exact .bind (keepsRuns_feedParcel _ _ _ _) fun _ => .pure _
      · exact keepsRuns_chanParcel _ _ _ _
    refine .bind .devGet fun d => ?_
    extract_lets peek
    clear_value peek
    cases peek with
    | none => exact .stop _
    | some j₀ =>
      refine .bind (hget _) fun q => .bind (.mapA (fun j => .bind (hget j) fun _ => .pure _) _) fun ps => ?_
      split
      · exact .stop _
      · exact .pure _

/-- A group of elements that stops has only read. -/
theorem vectorGroup_error_runs {x : Letter} {p : Nat} {r : Rec} {q : Run} {d e : Dev} {g : Stop} (h : (vectorGroup x p r q).run d = (.error g, e)) :
    e.runs = d.runs := by
  unfold vectorGroup at h
  extract_lets c dw m k wg per inParcel pi rt col els valid live cs outs at h
  have hread := KeepsRuns.mapA (fun i => keepsRuns_inputVals x p r c k i live) [0, 1, 2] d
  rw [Act.run_bind] at h
  split at h
  case h_1 => cases h
  case h_2 f e' he =>
    rw [he] at hread
    cases h
    exact hread

/-! ### The stores of a record -/

theorem keepsRuns_mmioCross (src off len : Nat) (w : Bool) : KeepsRuns (mmioCross src off len w) := by
  intro d
  have hcross := crossing_runs d src (mmioPort off) (mmioBase + off) len w
  show (mmioCross src off len w d).2.runs = _
  unfold mmioCross
  split
  case h_1 d' he =>
    rw [he] at hcross
    cases w
    · exact hcross
    · rfl
  case h_2 d' he =>
    rw [he] at hcross
    exact hcross

theorem Dev.setip_runs (d : Dev) (hart : Nat) (f : ImsicFile) (ident : Nat) : (d.setip hart f ident).runs = d.runs := by
  unfold Dev.setip
  split <;> rfl

theorem keepsRuns_mmioStore (w : Who) (off : Nat) (bs : List Byte) : KeepsRuns (mmioStore w off bs) := by
  unfold mmioStore
  refine .bind (keepsRuns_mmioCross _ _ _ _) fun _ => ?_
  split
  · split
    · refine .devMod fun d => ?_
      split
      · rfl
      · exact d.setip_runs ..
    · exact .pure _
  · exact .devMod fun _ => rfl

theorem Dev.pump_runs (n k : Nat) (d : Dev) : (d.pump n k).runs = d.runs := by
  induction k generalizing d with
  | zero => rfl
  | succ k ih =>
    unfold Dev.pump
    dsimp only
    split
    · rfl
    · split
      · exact ih _
      · rfl

theorem Dev.route_runs (d : Dev) (f : Frame) : (d.route f).runs = d.runs := by
  unfold Dev.route
  split
  · exact Dev.pump_runs _ _ _
  · rfl

theorem Dev.request_runs (d : Dev) (f : Frame) : (d.request f).runs = d.runs := by
  unfold Dev.request
  split
  · split
    · rfl
    · exact d.route_runs f
  · rfl

theorem Dev.onPath_runs (d : Dev) (w : Waiter) (pod : Bool) : (d.onPath w pod).runs = d.runs := by
  unfold Dev.onPath
  split <;> rfl

theorem keepsRuns_podStore (w : Waiter) (ctx : Option (Nat × Nat)) (t m a : Nat) (bs : List Byte) : KeepsRuns (podStore w ctx t m a bs) := by
  intro d
  show (podStore w ctx t m a bs d).2.runs = _
  unfold podStore
  split
  · rfl
  · refine (Dev.each_runs (fun e pc => ?_) _ _).trans (d.onPath_runs w true)
    refine (Dev.request_runs _ _).trans ?_
    split <;> rfl

theorem Dev.hostCross_runs (d : Dev) (src : Option Nat) (a len : Nat) (store : Bool) : (d.hostCross src a len store).runs = d.runs := by
  unfold Dev.hostCross
  split
  · rfl
  · exact d.forwarded_runs _ _ _

/-- A store to the commander's memory in no letter's name. -/
theorem keepsRuns_hostStore (src : Option Nat) (engine : Bool) (stage route a : Nat) (bs : List Byte) :
    KeepsRuns (hostStore none src engine stage route a bs) := by
  intro d
  show (hostStore none src engine stage route a bs d).2.runs = _
  unfold hostStore
  split
  · rfl
  · exact (Dev.each_runs (fun _ _ => by rfl) _ _).trans (d.hostCross_runs ..)

theorem keepsRuns_physStore (p : Option Nat) (t : Nat) (bs : List Byte) : KeepsRuns (physStore (devWho p) t bs) := by
  unfold physStore physStoreAs
  refine .bind .devGet fun d => ?_
  extract_lets go
  have hgo : ∀ a, KeepsRuns (go a) := fun a => by
    unfold go
    split
    · split
      · exact .stop _
      · exact keepsRuns_mmioStore _ _ _
    · exact keepsRuns_localStore _ _ _
  split
  · exact .stop _
  · exact hgo _
  · split
    · exact hgo _
    · split
      · exact .stop _
      · exact keepsRuns_podStore _ _ _ _ _ _
  · split
    · exact .stop _
    · exact keepsRuns_hostStore _ _ _ _ _ _

/-! ### Incidents -/

theorem Dev.tryStore_runs (d : Dev) (p : Option Nat) (t : Nat) (bs : List Byte) : (d.tryStore p t bs).runs = d.runs := by
  have hstore := keepsRuns_physStore p t bs d
  unfold Dev.tryStore
  dsimp only
  split
  · rfl
  · split
    case h_1 v e he =>
      rw [he] at hstore
      exact hstore
    case h_2 => rfl
    case h_3 e d' he =>
      rw [he] at hstore
      exact hstore

theorem Dev.msix_runs (d : Dev) (v : Nat) : (d.msix v).runs = d.runs := by
  unfold Dev.msix
  split <;> rfl

theorem Dev.ringWrite_runs (d : Dev) (r : Option Nat) (rcd : List Byte) : (d.ringWrite r rcd).runs = d.runs := by
  unfold Dev.ringWrite
  extract_lets n head tail lost record base stored kept ended v
  have hended : ended.runs = d.runs := (Dev.tryStore_runs _ r (base + 0x3F) [0x80#8]).trans (d.tryStore_runs r base (slice record 0 0x3F))
  split
  · rfl
  · split
    · exact (ended.tryStore_runs ..).trans hended
    · exact (ended.msix_runs v).trans hended

theorem Dev.raise_runs (d : Dev) (i : Inc) : (d.raise i).runs = d.runs := by
  have hstamp : (d.stamp i.die).2.runs = d.runs := rfl
  unfold Dev.raise
  generalize d.stamp i.die = stamped at hstamp ⊢
  obtain ⟨st, e⟩ := stamped
  dsimp -zeta only
  extract_lets rcd own counted ring
  split
  · split
    · exact hstamp
    · exact hstamp
  · split
    · exact hstamp
    · exact (e.ringWrite_runs ..).trans hstamp

theorem Dev.stopIncident_runs (d : Dev) (w : Who) (s : Stop) : (d.stopIncident w s).runs = d.runs := by
  unfold Dev.stopIncident
  cases s with
  | wait => rfl
  | fail => rfl
  | addr => exact d.raise_runs _
  | trans => exact d.raise_runs _
  | perm => exact d.raise_runs _
  | mem => exact d.raise_runs _
  | down => exact d.raise_runs _
  | host => exact d.raise_runs _

/-! ### The end of a letter -/

theorem Dev.engState_runs (d : Dev) (p node slot n : Nat) : (d.engState p node slot n).runs = d.runs := by
  unfold Dev.engState
  split
  · split
    · rfl
    · split <;> rfl
  · split
    · rfl
    · split
      · split <;> rfl
      · rfl

theorem Dev.frkState_runs (d : Dev) (p t : Nat) : (d.frkState p t).runs = d.runs := by
  unfold Dev.frkState
  split
  · rfl
  · exact d.engState_runs ..

theorem Dev.redState_runs (d : Dev) (p : Nat) : (d.redState p).runs = d.runs := by
  unfold Dev.redState
  split
  · rfl
  · dsimp only
    split
    · exact d.engState_runs ..
    · exact d.engState_runs ..

theorem Dev.dropRun_runs (d : Dev) (r : Run) : (d.dropRun r).runs = d.runs.filter (· ≠ r) := by
  unfold Dev.dropRun
  extract_lets e f g
  have hf : f.runs = d.runs.filter (· ≠ r) := by
    show Dev.runs (if _ then e else _) = _
    split
    · rfl
    · exact e.engState_runs ..
  clear_value f
  split
  · split <;> rfl
  · split
    · split
      · exact hf
      · exact hf
    · split
      · exact (f.frkState_runs ..).trans hf
      · exact hf

theorem Dev.each_dropRun_runs (rs : List Run) (d : Dev) : (d.each rs Dev.dropRun).runs = d.runs.filter (· ∉ rs) := by
  induction rs generalizing d with
  | nil => simp [Dev.each]
  | cons r rs ih =>
    rw [Dev.each_cons, ih, Dev.dropRun_runs, List.filter_filter]
    refine List.filter_congr fun q _ => ?_
    simp [Bool.and_comm]

/-- No engine works for a letter whose work is dropped. -/
theorem Dev.dropWork_runs (d : Dev) (l : LetterId) : ∀ r ∈ (d.dropWork l).runs, r.letter ≠ l := by
  have hruns : (d.dropWork l).runs = d.runs.filter (· ∉ d.runs.filter (·.letter = l)) := by
    unfold Dev.dropWork
    extract_lets frks flying e f g
    have he : e.runs = _ := Dev.each_dropRun_runs _ d
    exact (Dev.each_runs Dev.redState_runs _ _).trans ((Dev.each_runs (fun (e : Dev) (q : Nat × Nat) => e.frkState_runs q.1 q.2) _ _).trans
      ((Dev.each_runs (fun _ _ => by rfl) _ f).trans he))
  rw [hruns]
  rintro r hr rfl
  obtain ⟨hmem, hout⟩ := List.mem_filter.mp hr
  simp [hmem] at hout

theorem Dev.postcard_runs (d : Dev) (dst : Nat) (m : Msg) : (d.postcard dst m).runs = d.runs := by
  unfold Dev.postcard
  split
  · rfl
  · exact Dev.route_runs _ _

theorem Dev.spoilBy_runs (d : Dev) (x : Letter) (st : Nat) : (d.spoilBy x st).runs = d.runs := by
  unfold Dev.spoilBy Dev.spoil
  split
  · split
    · exact Dev.postcard_runs _ _ _
    · rfl
  · rfl

theorem Dev.zeroRead_runs (d : Dev) (l : LetterId) (a : Nat) (region : Option Region) : (d.zeroRead l a region).runs = d.runs := by
  unfold Dev.zeroRead Dev.flushRead
  split <;> rfl

theorem Dev.letterEnd_runs (d : Dev) (l : LetterId) (x : Letter) (st dt : Nat) : ∀ r ∈ (d.letterEnd l x st dt).runs, r.letter ≠ l := by
  have hdrop := (modifyLetter d l fun x => { x with result := some (st, dt % 65536) }).dropWork_runs l
  have hruns : (d.letterEnd l x st dt).runs = ((modifyLetter d l fun x => { x with result := some (st, dt % 65536) }).dropWork l).runs := by
    unfold Dev.letterEnd
    extract_lets e f
    have he : e.runs = _ := Dev.spoilBy_runs _ x st
    have hf : f.runs = e.runs := by
      unfold f
      split
      · exact e.zeroRead_runs ..
      · rfl
    split
    · exact he
    · exact (Dev.each_runs (fun d r => d.zeroRead_runs ..) _ f).trans (hf.trans he)
  rw [hruns]
  exact hdrop

/-- A letter that a stop ends leaves no run of its own behind; the runs of one that has ended before stay as they are. -/
theorem runOf_finish {d : Dev} {l : LetterId} {stage : Nat} (st dt : Nat) : runOf (d.finish l st dt) l stage = none ∨ runOf (d.finish l st dt) l stage = runOf d l stage := by
  obtain h | ⟨x, st', dt', -, h⟩ := d.finish_cases l st dt
  · rw [h]
    exact .inr rfl
  · rw [h]
    refine .inl (List.find?_eq_none.mpr fun r hr => ?_)
    simp [d.letterEnd_runs l x st' dt' r hr]

end Sys2Proof.Machine
end

section
/-! How a stage starts, waits and ends (R53, R119, R127, R415), and the claim on the life cycle of stages. -/

namespace Sys2Proof.Machine

/-! ### What the start of a stage leaves alone -/

theorem apart_countRt (d : Dev) (p layer n : Nat) : (d.countRt p layer n).apart = d.apart := by
  unfold Dev.countRt
  split
  · rfl
  · split
    · exact apart_addFld rfl ..
    · split
      · exact apart_setReg rfl ..
      · exact apart_count rfl ..

theorem apart_event (d : Dev) (die : Nat) : (d.event die).apart = d.apart := rfl

theorem apart_stepPart (d : Dev) (c p : Nat) : (d.stepPart c p).apart = d.apart := by
  unfold Dev.stepPart
  dsimp only
  split <;> rfl

theorem apart_windowReady (d : Dev) (x : Letter) (stage : Nat) : (d.windowReady x stage).apart = d.apart := by
  unfold Dev.windowReady
  refine apart_each _ fun d p _ => apart_each _ fun d e _ => ?_
  extract_lets r v miss n d₁ d₂ d₃
  split
  · rfl
  · split
    · rfl
    · have h₁ : d₁.apart = d.apart := rfl
      have h₂ : d₂.apart = d.apart := (apart_countRt ..).trans h₁
      have h₃ : d₃.apart = d.apart := by
        show Dev.apart (if _ then d₂.frkState p _ else d₂) = _
        split
        · exact (apart_frkState ..).trans h₂
        · exact h₂
      exact (apart_modifyLetter d₃ x.id (f := fun y => { y with readThrough := true }) fun _ => ⟨rfl, rfl⟩).trans h₃

theorem apart_work (d : Dev) (rs : List Run) (ws : List (LetterId × Nat)) : { d with runs := rs, waits := ws }.apart = d.apart := rfl

theorem apart_startStage (d : Dev) (x : Letter) (p : Nat) (r : Rec) (st : Nat) : (d.startStage x p r st).apart = d.apart := by
  unfold Dev.startStage
  extract_lets slot d₁ d₂ d₃ d₄ d₅
  have h₁ : d₁.apart = d.apart := by
    refine apart_each _ fun e f _ => ?_
    have hready : ((e.windowReady x (stIndex f)).event (dieOf p (stNode f))).apart = e.apart := (apart_event ..).trans (apart_windowReady ..)
    generalize (e.windowReady x (stIndex f)).event (dieOf p (stNode f)) = g at hready ⊢
    exact hready
  have h₂ : d₂.apart = d.apart := (apart_windowReady d₁ x _).trans h₁
  have h₃ : d₃.apart = d.apart := (apart_work d₂ _ _).trans h₂
  clear_value d₃
  have h₄ : d₄.apart = d.apart := by
    unfold d₄
    split
    · exact (apart_stepPart ..).trans h₃
    · exact h₃
  refine (apart_event ..).trans ?_
  unfold d₅
  split
  · exact (apart_frkState ..).trans h₄
  · exact (apart_engState ..).trans h₄

/-- The stage that starts is worked on from then on. -/
theorem newRun_mem_startStage (d : Dev) (x : Letter) (p : Nat) (r : Rec) (st : Nat) : newRun x p r ∈ (d.startStage x p r st).runs := by
  unfold Dev.startStage
  extract_lets slot d₁ d₂ d₃ d₄ d₅
  have h₃ : newRun x p r ∈ d₃.runs := List.mem_append_right _ (List.mem_singleton_self _)
  have h₄ : d₄.runs = d₃.runs := by
    unfold d₄ Dev.stepPart
    split
    · dsimp only
      split <;> rfl
    · rfl
  have h₅ : d₅.runs = d₄.runs := by
    unfold d₅
    split
    · exact d₄.frkState_runs ..
    · exact d₄.engState_runs ..
  show newRun x p r ∈ d₅.runs
  rw [h₅, h₄]
  exact h₃

/-! ### Where a stage stands -/

section
variable {d : Dev} {l : LetterId} {stage kind : Nat} {x : Letter} {p : Nat} {r : Rec}

/-- A stage that is due is a stage of its letter, at its index and of its kind. -/
theorem stageAt_spec (h : stageAt d l stage [kind] = some (x, p, r)) : x.id = l ∧ stIndex r = stage ∧ stKind r = kind := by
  unfold stageAt at h
  split at h
  · cases h
  next y hy =>
    split at h
    · cases h
    · split at h
      next q c hfind =>
        split at h
        next hkind =>
          cases h
          obtain ⟨part, -, hpart⟩ := List.exists_of_findSome?_eq_some hfind
          obtain ⟨c, hc, hpair⟩ := Option.map_eq_some_iff.mp hpart
          cases hpair
          have hindex := List.find?_some hc
          have hk := (Bool.and_eq_true_iff.mp hkind).1
          simp only [decide_eq_true_eq] at hindex
          exact ⟨findLetter_id hy, hindex.2, by simpa using hk⟩
        · cases h
      · cases h

/-- A stage whose engine is not free waits for it (R53). -/
theorem waitStage_open (h : stageAt d l stage [kind] = some (x, p, r)) (hopen : cascadeOpen d = true) :
    d.waitStage x r = { d with waits := if (l, stage) ∈ d.waits then d.waits else d.waits ++ [(l, stage)] } := by
  obtain ⟨rfl, rfl, -⟩ := stageAt_spec h
  unfold Dev.waitStage
  extract_lets e
  have he : e = d := if_neg (by simp [hopen])
  rw [he]
  by_cases hw : (x.id, stIndex r) ∈ d.waits
  · rw [if_pos (List.contains_iff_mem.mpr hw), if_pos hw]
  · rw [if_neg (fun hc => hw (List.contains_iff_mem.mp hc)), if_neg hw]

end

/-! ### The action of a stage (R127, R415) -/

section
variable {d e : Dev} {x : Letter} {p : Nat} {r : Rec} {a : Act Unit} (done : Dev → Dev)

theorem stageAct_ok (h : a.run d = (.ok (), e)) : d.stageAct x p r a done = done (e.whoWait (stageWho x p r) 0) := by
  unfold Dev.stageAct Dev.runAct
  rw [h]

theorem stageAct_stop {f : Stop} (h : a.run d = (.error f, e)) (hf : ∀ k, f ≠ .wait k) :
    d.stageAct x p r a done = (e.stopIncident (stageWho x p r) f).finish x.id (stopStatus (stIndex r) f).1 (stopStatus (stIndex r) f).2 := by
  unfold Dev.stageAct Dev.runAct
  rw [h]
  split
  next heq => cases heq
  next k _ heq => cases heq; exact absurd rfl (hf k)
  next heq => cases heq; rfl

theorem stageAct_wait {k : Nat} (h : a.run d = (.error (.wait k), e)) : d.stageAct x p r a done =
    { (if d.waitOf (stageWho x p r) = 3 then d else d.keepDefers e).whoWait (stageWho x p r) k with
      remotes := e.remotes, nextTag := e.nextTag, out := e.out, ports := e.ports, remap := e.remap } := by
  unfold Dev.stageAct Dev.runAct
  rw [h]
  rfl

end

theorem Dev.keepDefers_runs (d e : Dev) : (d.keepDefers e).runs = d.runs := by
  unfold Dev.keepDefers
  refine Dev.each_runs (fun f p => ?_) _ d
  split <;> rfl

theorem Dev.whoWait_runs (d : Dev) (w : Who) (k : Nat) : (d.whoWait w k).runs = d.runs := by
  unfold Dev.whoWait
  split
  · split <;> rfl
  · rfl

end Sys2Proof.Machine
end

section
/-! Stages that one command carries out, and stages that go on step by step (R53, R119, R127, R222, R238, R415). -/

namespace Sys2Proof.Machine

/-! ### A stage that is done -/

/-- The letter has the stage behind it. -/
def HasStage (d : Dev) (l : LetterId) (stage : Nat) : Prop := ∀ y ∈ d.letters, y.id = l → stage ∈ y.stages

theorem HasStage.of_apart {d e : Dev} {l : LetterId} {stage : Nat} (h : HasStage d l stage) (he : e.apart = d.apart) : HasStage e l stage := by
  have hcourse : e.letters.map (fun y => (y.id, y.stages)) = d.letters.map fun y => (y.id, y.stages) := congrArg Tables.course (tables_of_apart he)
  intro y hy hid
  have hmem : (y.id, y.stages) ∈ d.letters.map fun y => (y.id, y.stages) := hcourse ▸ List.mem_map.mpr ⟨y, hy, rfl⟩
  obtain ⟨z, hz, hpair⟩ := List.mem_map.mp hmem
  obtain ⟨hzid, hzst⟩ := Prod.mk.inj hpair
  rw [← hzst]
  exact h z hz (hzid.trans hid)

/-- Letters only gain stages. -/
theorem HasStage.modifyLetter {d : Dev} {l l' : LetterId} {stage : Nat} {f : Letter → Letter} (h : HasStage d l stage)
    (hf : ∀ y, (f y).id = y.id ∧ y.stages ⊆ (f y).stages) : HasStage (modifyLetter d l' f) l stage := by
  intro y hy hid
  obtain ⟨z, hz, rfl⟩ := List.mem_map.mp hy
  split at hid
  next hl =>
    rw [if_pos hl]
    exact (hf z).2 (h z hz ((hf z).1.symm.trans hid))
  next hl =>
    rw [if_neg hl]
    exact h z hz hid

theorem hasStage_modifyLetter (d : Dev) (l : LetterId) (stage : Nat) : HasStage (modifyLetter d l fun y => { y with stages := stage :: y.stages }) l stage := by
  intro y hy hid
  obtain ⟨z, hz, rfl⟩ := List.mem_map.mp hy
  split at hid
  next hl =>
    rw [if_pos hl]
    exact List.mem_cons_self ..
  next hl => exact absurd hid hl

theorem apart_letterDone (d : Dev) (l : LetterId) : (d.letterDone l).apart = d.apart := by
  unfold Dev.letterDone
  split
  · split
    · exact apart_finish ..
    · rfl
  · rfl

theorem hasStage_stageDone (d : Dev) (x : Letter) (stage : Nat) : HasStage (d.stageDone x stage) x.id stage := by
  unfold Dev.stageDone
  extract_lets d₁ d₂ d₃
  have h₃ : HasStage d₃ x.id stage := hasStage_modifyLetter d₁ x.id stage
  clear_value d₃
  split
  · exact h₃
  · extract_lets fed d₄ d₅
    have h₄ : HasStage d₄ x.id stage := h₃.modifyLetter fun y => ⟨rfl, List.subset_append_right fed y.stages⟩
    have h₅ : HasStage d₅ x.id stage := h₄
    exact h₅.of_apart (apart_letterDone ..)

/-! ### A stage of one command -/

section
variable {d : Dev} {l : LetterId} {stage kind st : Nat} {x : Letter} {p : Nat} {r : Rec} {mode : Rec → Bool} {f : Letter → Nat → Rec → Act Unit}

theorem oneShot_due (h : StageDue d l stage kind x p r) (hmode : mode r = true) :
    d.oneShot l stage [kind] mode st f = (d.startStage x p r st).stageAct x p r (f x p r) (·.stageDone x stage) := by
  obtain ⟨hat, hrun, hstart⟩ := h
  unfold Dev.oneShot
  rw [hat]
  dsimp only
  rw [if_neg (by simp [hmode]), hrun, if_neg (by simp), if_pos hstart]

theorem oneShot_busy (hat : stageAt d l stage [kind] = some (x, p, r)) (hrun : runOf d l stage = none) (hbusy : canStart d x p r = false)
    (hmode : mode r = true) : d.oneShot l stage [kind] mode st f = d.waitStage x r := by
  unfold Dev.oneShot
  rw [hat]
  dsimp only
  rw [if_neg (by simp [hmode]), hrun, if_neg (by simp), if_neg (by simp [hbusy])]

theorem gatherShot_due {m : Nat} (h : StageDue d l stage 4 x p r) (hmode : eOpt r 0 = m) (hfree : d.bit (.embStatus p (stNode r)) 6 = false) :
    d.gatherShot l stage m f = (d.startStage x p r 1).stageAct x p r (f x p r) (·.stageDone x stage) := by
  rw [← oneShot_due (mode := fun r => eOpt r 0 = m) h (decide_eq_true hmode)]
  unfold Dev.gatherShot
  rw [h.1]
  dsimp only
  rw [if_neg (by simp [hfree])]

theorem gatherShot_busy {m : Nat} (hat : stageAt d l stage [4] = some (x, p, r)) (hrun : runOf d l stage = none) (hbusy : canStart d x p r = false)
    (hmode : eOpt r 0 = m) : d.gatherShot l stage m f = d.waitStage x r := by
  unfold Dev.gatherShot
  rw [hat]
  dsimp only
  split
  · rfl
  · exact oneShot_busy hat hrun hbusy (decide_eq_true hmode)

end

/-- Command `c` carries out stage `stage` of letter `l` by the action `a`, or has it wait for its engine. -/
structure OneCommand (c : Instr) (s : State) (l : LetterId) (stage kind st : Nat) (x : Letter) (p : Nat) (r : Rec) (a : Act Unit) : Prop where
  due : StageDue s.dev l stage kind x p r → (kind = 4 → s.dev.bit (.embStatus p (stNode r)) 6 = false) →
    Runs c s ((s.dev.startStage x p r st).stageAct x p r a (·.stageDone x stage))
  busy : stageAt s.dev l stage [kind] = some (x, p, r) → runOf s.dev l stage = none → canStart s.dev x p r = false → Runs c s (s.dev.waitStage x r)

section
variable {c : Instr} {s : State} {l : LetterId} {stage kind st : Nat} {x : Letter} {p : Nat} {r : Rec} {f : Letter → Nat → Rec → Act Unit}

theorem oneCommand_oneShot {mode : Rec → Bool} (hexec : exec c s = .next { s with dev := s.dev.oneShot l stage [kind] mode st f }) (hmode : mode r = true) :
    OneCommand c s l stage kind st x p r (f x p r) :=
  ⟨fun h _ => by rw [Runs, hexec, oneShot_due h hmode], fun hat hrun hbusy => by rw [Runs, hexec, oneShot_busy hat hrun hbusy hmode]⟩

theorem oneCommand_gatherShot {m : Nat} (hexec : exec c s = .next { s with dev := s.dev.gatherShot l stage m f }) (hmode : eOpt r 0 = m) :
    OneCommand c s l stage 4 1 x p r (f x p r) :=
  ⟨fun h hfree => by rw [Runs, hexec, gatherShot_due h hmode (hfree rfl)], fun hat hrun hbusy => by rw [Runs, hexec, gatherShot_busy hat hrun hbusy hmode]⟩

variable {a : Act Unit} (h : OneCommand c s l stage kind st x p r a) (hdue : StageDue s.dev l stage kind x p r)
  (hfree : kind = 4 → s.dev.bit (.embStatus p (stNode r)) 6 = false)
include h hdue hfree

theorem OneCommand.ok {e : Dev} (hrun : a.run (s.dev.startStage x p r st) = (.ok (), e)) : Answers c s fun t =>
    t = { s with dev := (e.whoWait (stageWho x p r) 0).stageDone x stage } ∧ ∀ y ∈ t.dev.letters, y.id = l → stage ∈ y.stages := by
  obtain ⟨hid, -, -⟩ := stageAt_spec hdue.1
  have hgo := h.due hdue hfree
  rw [stageAct_ok _ hrun] at hgo
  exact ⟨_, hgo, rfl, hid ▸ hasStage_stageDone _ x stage⟩

theorem OneCommand.stops {e : Dev} {g : Stop} (hrun : a.run (s.dev.startStage x p r st) = (.error g, e)) (hg : ∀ k, g ≠ .wait k) :
    Runs c s ((e.stopIncident (stageWho x p r) g).finish l (stopStatus stage g).1 (stopStatus stage g).2) := by
  obtain ⟨hid, hst, -⟩ := stageAt_spec hdue.1
  have hgo := h.due hdue hfree
  rwa [stageAct_stop _ hrun hg, hid, hst] at hgo

theorem OneCommand.waits {e : Dev} {k : Nat} (hrun : a.run (s.dev.startStage x p r st) = (.error (.wait k), e)) : Answers c s fun t =>
    t = { s with dev := { (if (s.dev.startStage x p r st).waitOf (stageWho x p r) = 3 then s.dev.startStage x p r st else
        (s.dev.startStage x p r st).keepDefers e).whoWait (stageWho x p r) k with
      remotes := e.remotes, nextTag := e.nextTag, out := e.out, ports := e.ports, remap := e.remap } } ∧ ∃ q ∈ t.dev.runs, q = newRun x p r := by
  have hgo := h.due hdue hfree
  rw [stageAct_wait _ hrun] at hgo
  refine ⟨_, hgo, rfl, newRun x p r, ?_, rfl⟩
  have hmem := newRun_mem_startStage s.dev x p r st
  generalize s.dev.startStage x p r st = d at hmem ⊢
  have hruns : ((if d.waitOf (stageWho x p r) = 3 then d else d.keepDefers e).whoWait (stageWho x p r) k).runs = d.runs := by
    rw [Dev.whoWait_runs]
    split
    · rfl
    · exact d.keepDefers_runs e
  show newRun x p r ∈ ((if d.waitOf (stageWho x p r) = 3 then d else d.keepDefers e).whoWait (stageWho x p r) k).runs
  rw [hruns]
  exact hmem

end

end Sys2Proof.Machine
end

section
/-! Stages whose steps are commands of their own, and the claim on the life cycle of stages (R119, R127, R222, R238, R312, R367). -/

namespace Sys2Proof.Machine

/-! ### The steps of a stage -/

/-- Whether an engine is out shows in the view and in the engine's own state. -/
theorem engineOut_of_tables {d e : Dev} {p node slot : Nat} (h : e.tables = d.tables) (hout : engineOut d p node slot = false)
    (hhalt : halted e p node slot = false) : engineOut e p node slot = false := by
  unfold engineOut Dev.resetting at hout ⊢
  rw [fld_of_tables h rfl, show e.engResets = d.engResets from congrArg Tables.engResets h, hhalt]
  obtain ⟨hreset, -⟩ := Bool.or_eq_false_iff.mp hout
  rw [hreset]
  rfl

section
variable {d : Dev} {l : LetterId} {stage kind st : Nat} {x : Letter} {p : Nat} {r : Rec} {q : Run} {f : Letter → Nat → Rec → Run → Act Unit}

theorem stepStage_running (hat : stageAt d l stage [kind] = some (x, p, r)) (hrun : runOf d l stage = some q) (hout : engineOut d p (stNode r) q.slot = false) :
    d.stepStage l stage kind st f = d.stageAct x p r (f x p r q) id := by
  unfold Dev.stepStage
  rw [hat]
  dsimp only
  rw [hrun, if_pos (by rfl)]
  dsimp only
  rw [if_neg (by simp [hout])]

theorem stepStage_due (h : StageDue d l stage kind x p r) (hrun : runOf (d.startStage x p r st) l stage = some q)
    (hout : engineOut (d.startStage x p r st) p (stNode r) q.slot = false) :
    d.stepStage l stage kind st f = (d.startStage x p r st).stageAct x p r (f x p r q) id := by
  obtain ⟨hat, hnone, hstart⟩ := h
  unfold Dev.stepStage
  rw [hat]
  dsimp only
  rw [hnone, if_neg (by simp), if_pos hstart, hrun]
  dsimp only
  rw [if_neg (by simp [hout])]

/-- A token that is taken leaves its channel alone. -/
theorem takeToken_eq {b : Dev} {ch k : Nat} (h : takeToken d l p ch = some (k, b)) : ∃ m, b = { d with chans := m } := by
  unfold takeToken at h
  split at h
  · cases h
    exact ⟨_, rfl⟩
  · cases h

/-- The first step of a stage finds its engine as the start leaves it; `b` is what a token has left of `d`. -/
theorem stepStage_begins {b : Dev} {m : Map (LetterId × Nat × Nat) (List Item)} (hb : b = { d with chans := m }) (h : StageDue d l stage kind x p r)
    (hout : engineOut d p (stNode r) q.slot = false) (hrun : runOf (b.startStage x p r st) l stage = some q)
    (hhalt : halted (b.startStage x p r st) p (stNode r) q.slot = false) :
    b.stepStage l stage kind st f = (b.startStage x p r st).stageAct x p r (f x p r q) id := by
  subst hb
  have htables : (Dev.startStage { d with chans := m } x p r st).tables = d.tables := tables_of_apart (apart_startStage { d with chans := m } x p r st)
  exact stepStage_due (d := { d with chans := m }) h hrun (engineOut_of_tables htables hout hhalt)

end

/-! ### GRAD tiles (R312) -/

/-- A GRAD step whose turn it is: a stage with WAIT_TOKEN starts on a token. -/
def Dev.gradTurn (d : Dev) (l : LetterId) (stage : Nat) (x : Letter) (p : Nat) (r : Rec) : Dev :=
  if (runOf d l stage).isNone ∧ mFlag r 1 then
    if canStart d x p r = false then d.waitStage x r else
    match takeToken d x.id p (stInB r) with
    | some (_, d) => d.stepStage l stage 8 1 gradStep
    | none => d.waitStage x r
  else d.stepStage l stage 8 1 gradStep

section
variable {s : State} {l : LetterId} {stage : Nat} {x : Letter} {p : Nat} {r : Rec} (hat : stageAt s.dev l stage [8] = some (x, p, r)) (hmode : mMode r = 0)
  (hturn : runOf s.dev l stage = none → earlierGrad s.dev x p (mMailbag r) = false)
include hat hmode hturn

theorem exec_mailbagGrad : exec (.mailbagGrad l stage) s = .next { s with dev := s.dev.gradTurn l stage x p r } := by
  have hgo : ¬ (mMode r ≠ 0 ∨ ((runOf s.dev l stage).isNone = true ∧ earlierGrad s.dev x p (mMailbag r) = true)) := by
    rintro (hm | ⟨hn, he⟩)
    · exact hm hmode
    · rw [hturn (Option.isNone_iff_eq_none.mp hn)] at he
      cases he
  show execMailbagGrad l stage s = _
  unfold execMailbagGrad State.onDev
  beta_reduce
  rw [hat]
  dsimp only
  rw [if_neg hgo]
  rfl

/-- A stage that runs, or needs no token, goes on. -/
theorem mailbagGrad_steps (hfree : ¬ (mFlag r 1 = true ∧ runOf s.dev l stage = none)) :
    Runs (.mailbagGrad l stage) s (s.dev.stepStage l stage 8 1 gradStep) := by
  rw [Runs, exec_mailbagGrad hat hmode hturn, Dev.gradTurn, if_neg fun h => hfree ⟨h.2, Option.isNone_iff_eq_none.mp h.1⟩]

/-- A stage starts on its token. -/
theorem mailbagGrad_takes (hflag : mFlag r 1 = true) (hrun : runOf s.dev l stage = none) (hstart : canStart s.dev x p r = true) {k : Nat} {b : Dev}
    (htoken : takeToken s.dev x.id p (stInB r) = some (k, b)) : Runs (.mailbagGrad l stage) s (b.stepStage l stage 8 1 gradStep) := by
  rw [Runs, exec_mailbagGrad hat hmode hturn, Dev.gradTurn, if_pos ⟨Option.isNone_iff_eq_none.mpr hrun, hflag⟩, if_neg (by simp [hstart]), htoken]

/-- Without its token a stage waits. -/
theorem mailbagGrad_waits (hflag : mFlag r 1 = true) (hrun : runOf s.dev l stage = none) (hstart : canStart s.dev x p r = true)
    (htoken : takeToken s.dev x.id p (stInB r) = none) (hopen : cascadeOpen s.dev = true) :
    Runs (.mailbagGrad l stage) s { s.dev with waits := if (l, stage) ∈ s.dev.waits then s.dev.waits else s.dev.waits ++ [(l, stage)] } := by
  rw [Runs, exec_mailbagGrad hat hmode hturn, ← waitStage_open hat hopen, Dev.gradTurn, if_pos ⟨Option.isNone_iff_eq_none.mpr hrun, hflag⟩,
    if_neg (by simp [hstart]), htoken]

end

/-! ### Vector stages (R222, R238, R241) -/

section
variable {l : LetterId} {stage : Nat} {x : Letter} {p : Nat} {r : Rec} {q : Run}

/-- What becomes of a group's values, once they are computed: a full parcel is converted. -/
def Dev.vectorFlush (d : Dev) (l : LetterId) (stage : Nat) (x : Letter) (p : Nat) (r : Rec) : Dev :=
  match runOf d l stage with
  | some q => if vecFull q then d.stageAct x p r (vectorConvert x p r q) id else d
  | none => d

theorem vectorFlush_idle {d : Dev} (h : runOf d l stage = none ∨ ∃ q, runOf d l stage = some q ∧ vecFull q = false) : d.vectorFlush l stage x p r = d := by
  unfold Dev.vectorFlush
  obtain h | ⟨q, h, hfull⟩ := h
  · rw [h]
  · rw [h]
    exact if_neg (by simp [hfull])

theorem vectorFlush_full {d : Dev} (h : runOf d l stage = some q) (hfull : vecFull q = true) :
    d.vectorFlush l stage x p r = d.stageAct x p r (vectorConvert x p r q) id := by
  unfold Dev.vectorFlush
  rw [h]
  exact if_pos hfull

/-- What a group's command does on a stage whose card is loaded. -/
def Dev.vectorTurn (d : Dev) (l : LetterId) (stage : Nat) (x : Letter) (p : Nat) (r : Rec) (q : Run) : Dev :=
  Dev.vectorFlush (if vecFull q then d else d.stageAct x p r (vectorGroup x p r q) id) l stage x p r

variable {s : State} (hat : stageAt s.dev l stage [6] = some (x, p, r)) (hrun : runOf s.dev l stage = some q) (hout : engineOut s.dev p (stNode r) q.slot = false)
  (hcard : q.card ≠ [])
include hat hrun hout hcard

theorem exec_vectorElementGroup : exec (.vectorElementGroup l stage) s = .next { s with dev := s.dev.vectorTurn l stage x p r q } := by
  have hgo : ¬ (engineOut s.dev p (stNode r) q.slot = true ∨ q.card = []) := by simp [hout, hcard]
  show execVectorElementGroup l stage s = _
  unfold execVectorElementGroup State.onDev
  beta_reduce
  rw [hat, hrun]
  dsimp only
  rw [if_neg hgo]
  rfl

/-- A group that leaves its parcel incomplete is kept. -/
theorem vectorElementGroup_keeps {e : Dev} {q' : Run} (hopen : vecFull q = false) (hgroup : (vectorGroup x p r q).run s.dev = (.ok (), e))
    (hafter : runOf e l stage = none ∨ (runOf e l stage = some q' ∧ vecFull q' = false)) :
    Runs (.vectorElementGroup l stage) s (e.whoWait (stageWho x p r) 0) := by
  have hruns : runOf (e.whoWait (stageWho x p r) 0) l stage = runOf e l stage := by rw [runOf, Dev.whoWait_runs, runOf]
  rw [Runs, exec_vectorElementGroup hat hrun hout hcard, Dev.vectorTurn, if_neg (by simp [hopen]), stageAct_ok _ hgroup, id, vectorFlush_idle]
  rw [hruns]
  exact hafter.imp id fun h => ⟨q', h⟩

/-- A group that stops ends its letter; nothing is converted. -/
theorem vectorElementGroup_stops {e : Dev} {g : Stop} (hopen : vecFull q = false) (hgroup : (vectorGroup x p r q).run s.dev = (.error g, e))
    (hg : ∀ k, g ≠ .wait k) :
    Runs (.vectorElementGroup l stage) s ((e.stopIncident (stageWho x p r) g).finish l (stopStatus stage g).1 (stopStatus stage g).2) := by
  obtain ⟨hid, hst, -⟩ := stageAt_spec hat
  have hkept : runOf (e.stopIncident (stageWho x p r) g) l stage = some q := by
    rw [← hrun, runOf, Dev.stopIncident_runs, vectorGroup_error_runs hgroup, runOf]
  rw [Runs, exec_vectorElementGroup hat hrun hout hcard, Dev.vectorTurn, if_neg (by simp [hopen]), stageAct_stop _ hgroup hg, hid, hst, vectorFlush_idle]
  obtain h | h := runOf_finish (d := e.stopIncident (stageWho x p r) g) (l := l) (stage := stage) (stopStatus stage g).1 (stopStatus stage g).2
  · exact .inl h
  · exact .inr ⟨q, h.trans hkept, hopen⟩

/-- A parcel whose values are there is converted, with this group or before it. -/
theorem vectorElementGroup_converts {e : Dev} {q' : Run} (hfull : (vecFull q = true ∧ q' = q ∧ e = s.dev) ∨
      (vecFull q = false ∧ vecFull q' = true ∧ runOf e l stage = some q' ∧ ∃ h, (vectorGroup x p r q).run s.dev = (.ok (), h) ∧ e = h.whoWait (stageWho x p r) 0)) :
    Runs (.vectorElementGroup l stage) s (e.stageAct x p r (vectorConvert x p r q') id) := by
  rw [Runs, exec_vectorElementGroup hat hrun hout hcard, Dev.vectorTurn]
  obtain ⟨hq, rfl, rfl⟩ | ⟨hq, hq', hrun', h, hgroup, rfl⟩ := hfull
  · rw [if_pos hq, vectorFlush_full hrun hq]
  · rw [if_neg (by simp [hq]), stageAct_ok _ hgroup, id, vectorFlush_full hrun' hq']

end

theorem engState_onlyRegs (d : Dev) (p node slot n : Nat) : ∃ m, d.engState p node slot n = { d with regs := m } := by
  unfold Dev.engState
  split
  · split
    · exact ⟨_, rfl⟩
    · split
      · exact ⟨_, rfl⟩
      · exact ⟨d.regs, rfl⟩
  · split
    · exact ⟨_, rfl⟩
    · split
      · split <;> exact ⟨_, rfl⟩
      · exact ⟨_, rfl⟩

theorem whoWait_onlyRegs (d : Dev) (w : Who) (k : Nat) : ∃ m, d.whoWait w k = { d with regs := m } := by
  unfold Dev.whoWait
  split
  · split
    · exact ⟨_, rfl⟩
    · exact ⟨d.regs, rfl⟩
  · exact ⟨d.regs, rfl⟩

section
variable {s : State} {l : LetterId} {stage : Nat} {x : Letter} {p : Nat} {r : Rec}

/-- A vector stage that starts has its card with its run. -/
theorem vectorStageStart_loads {card : List Byte} {e : Dev} (hdue : StageDue s.dev l stage 6 x p r)
    (hload : (cardLoad x p r).run (s.dev.startStage x p r 1) = (.ok card, e)) : Answers (.vectorStageStart l stage) s fun t =>
      t = { s with dev := { e with runs := t.dev.runs, regs := t.dev.regs } } ∧
      (e.runs = (s.dev.startStage x p r 1).runs → { newRun x p r with card := card } ∈ t.dev.runs) := by
  obtain ⟨hat, hnone, hstart⟩ := hdue
  obtain ⟨rfl, rfl, -⟩ := stageAt_spec hat
  have hexec : exec (.vectorStageStart x.id (stIndex r)) s = .next { s with dev := (s.dev.startStage x p r 1).vectorLoad x p r } := by
    show execVectorStageStart x.id (stIndex r) s = _
    unfold execVectorStageStart State.onDev Dev.vectorStart
    beta_reduce
    rw [hat]
    dsimp only
    rw [hnone]
    dsimp only
    rw [if_pos hstart]
  have hmem := newRun_mem_startStage s.dev x p r 1
  generalize s.dev.startStage x p r 1 = d at hload hexec hmem ⊢
  have hdone : (d.vectorLoad x p r) = ((e.setRun x.id (stIndex r) fun q => { q with card := card }).engState p (stNode r) 0 2).whoWait (stageWho x p r) 0 := by
    rw [Dev.vectorLoad, stageAct_ok (e := (e.setRun x.id (stIndex r) fun q => { q with card := card }).engState p (stNode r) 0 2) id
      ((Act.run_ok hload).trans rfl)]
    rfl
  obtain ⟨m, hm⟩ := engState_onlyRegs (e.setRun x.id (stIndex r) fun q => { q with card := card }) p (stNode r) 0 2
  obtain ⟨m', hm'⟩ := whoWait_onlyRegs ((e.setRun x.id (stIndex r) fun q => { q with card := card }).engState p (stNode r) 0 2) (stageWho x p r) 0
  rw [hdone, hm', hm] at hexec
  refine ⟨_, hexec, rfl, fun hruns => ?_⟩
  exact List.mem_map.mpr ⟨newRun x p r, hruns ▸ hmem, if_pos ⟨rfl, rfl⟩⟩

theorem exchange_starts {e : Dev} (hdue : StageDue s.dev l stage 8 x p r) (hmode : mMode r = 2) (hnew : findExch s.dev (l, stage) = none)
    (hrun : (xStart x p r).run (s.dev.startStage x p r 1) = (.ok (), e)) : Runs (.exchange l stage) s (e.whoWait (stageWho x p r) 0).xPump := by
  obtain ⟨hat, hnone, hstart⟩ := hdue
  show execExchange l stage s = _
  unfold execExchange State.onDev
  beta_reduce
  rw [hat]
  dsimp only
  rw [if_neg (not_not.mpr hmode), hnew, if_neg (by simp), hnone, if_neg (by simp), if_pos hstart]
  rw [stageAct_ok _ hrun]
  rfl

end

/-! ### The life cycle of a stage -/

section
variable {s : State} {c : Instr} {l : LetterId} {stage kind st : Nat} {x : Letter} {p : Nat} {r : Rec}

/-- Each one-shot command carries out the action of its engine and mode. -/
theorem oneCommand_of_command {a : Act Unit} (h : (c = .split l stage ∧ kind = 3 ∧ eOpt r 0 = 0 ∧ st = 1 ∧ a = Machine.split x p r) ∨
     (c = .sort l stage ∧ kind = 3 ∧ eOpt r 0 = 1 ∧ st = 1 ∧ a = sortStage x p r) ∨
     (c = .gatherPool l stage ∧ kind = 4 ∧ eOpt r 0 = 0 ∧ st = 1 ∧ a = gatherPool x p r) ∨
     (c = .combine l stage ∧ kind = 4 ∧ eOpt r 0 = 1 ∧ st = 1 ∧ a = combine x p r) ∨
     (c = .scatter l stage ∧ kind = 4 ∧ eOpt r 0 = 2 ∧ st = 1 ∧ a = scatter x p r) ∨
     (c = .adagrad l stage ∧ kind = 5 ∧ eOpt r 0 = 0 ∧ st = 1 ∧ a = rowUpdate false x p r) ∨
     (c = .adam l stage ∧ kind = 5 ∧ eOpt r 0 = 1 ∧ st = 1 ∧ a = rowUpdate true x p r) ∨
     (c = .recover l stage ∧ kind = 5 ∧ eOpt r 0 = 2 ∧ st = 2 ∧ a = recoverStage x p r) ∨
     (c = .attForward l stage ∧ kind = 7 ∧ tMode r = 0 ∧ st = 1 ∧ a = onStop (·.dropReaders p) (attForward x p r)) ∨
     (c = .attBackward l stage ∧ kind = 7 ∧ tMode r = 1 ∧ st = 2 ∧ a = onStop (·.dropReaders p) (attBackward x p r)) ∨
     (c = .attAppend l stage ∧ kind = 7 ∧ tMode r = 2 ∧ st = 3 ∧ a = tableOp x p r) ∨
     (c = .attFork l stage ∧ kind = 7 ∧ tMode r = 3 ∧ st = 3 ∧ a = tableOp x p r) ∨
     (c = .attRelease l stage ∧ kind = 7 ∧ tMode r = 4 ∧ st = 3 ∧ a = tableOp x p r) ∨
     (c = .attPoolInit l stage ∧ kind = 7 ∧ tMode r = 5 ∧ st = 3 ∧ a = tableOp x p r) ∨
     (c = .mailbagSend l stage ∧ kind = 8 ∧ mMode r = 1 ∧ st = 1 ∧ a = sendStage x p r) ∨
     (c = .tieSum l stage ∧ kind = 9 ∧ recU r 16 1 = 1 ∧ st = 1 ∧ a = tieSum x p r)) : OneCommand c s l stage kind st x p r a := by
  obtain ⟨rfl, rfl, hm, rfl, rfl⟩ | ⟨rfl, rfl, hm, rfl, rfl⟩ | ⟨rfl, rfl, hm, rfl, rfl⟩ | ⟨rfl, rfl, hm, rfl, rfl⟩ | ⟨rfl, rfl, hm, rfl, rfl⟩ |
    ⟨rfl, rfl, hm, rfl, rfl⟩ | ⟨rfl, rfl, hm, rfl, rfl⟩ | ⟨rfl, rfl, hm, rfl, rfl⟩ | ⟨rfl, rfl, hm, rfl, rfl⟩ | ⟨rfl, rfl, hm, rfl, rfl⟩ |
    ⟨rfl, rfl, hm, rfl, rfl⟩ | ⟨rfl, rfl, hm, rfl, rfl⟩ | ⟨rfl, rfl, hm, rfl, rfl⟩ | ⟨rfl, rfl, hm, rfl, rfl⟩ | ⟨rfl, rfl, hm, rfl, rfl⟩ |
    ⟨rfl, rfl, hm, rfl, rfl⟩ := h
  · exact oneCommand_oneShot (f := split) (mode := fun r => eOpt r 0 = 0) rfl (decide_eq_true hm)
  · exact oneCommand_oneShot (f := sortStage) (mode := fun r => eOpt r 0 = 1) rfl (decide_eq_true hm)
  · exact oneCommand_gatherShot (f := gatherPool) rfl hm
  · exact oneCommand_gatherShot (f := combine) rfl hm
  · exact oneCommand_gatherShot (f := scatter) rfl hm
  · exact oneCommand_oneShot (f := rowUpdate false) (mode := fun r => eOpt r 0 = 0) rfl (decide_eq_true hm)
  · exact oneCommand_oneShot (f := rowUpdate true) (mode := fun r => eOpt r 0 = 1) rfl (decide_eq_true hm)
  · exact oneCommand_oneShot (f := recoverStage) (mode := fun r => eOpt r 0 = 2) rfl (decide_eq_true hm)
  · exact oneCommand_oneShot (f := fun x p r => onStop (·.dropReaders p) (attForward x p r)) (mode := fun r => tMode r = 0) rfl (decide_eq_true hm)
  · exact oneCommand_oneShot (f := fun x p r => onStop (·.dropReaders p) (attBackward x p r)) (mode := fun r => tMode r = 1) rfl (decide_eq_true hm)
  · exact oneCommand_oneShot (f := tableOp) (mode := fun r => tMode r = 2) rfl (decide_eq_true hm)
  · exact oneCommand_oneShot (f := tableOp) (mode := fun r => tMode r = 3) rfl (decide_eq_true hm)
  · exact oneCommand_oneShot (f := tableOp) (mode := fun r => tMode r = 4) rfl (decide_eq_true hm)
  · exact oneCommand_oneShot (f := tableOp) (mode := fun r => tMode r = 5) rfl (decide_eq_true hm)
  · exact oneCommand_oneShot (f := sendStage) (mode := fun r => mMode r = 1) rfl (decide_eq_true hm)
  · exact oneCommand_oneShot (f := tieSum) (mode := fun r => recU r 16 1 = 1) rfl (decide_eq_true hm)

/-- A step of a stage that runs, or starts with it, is its action. -/
theorem step_acts {q : Run} {b d : Dev} {f : Letter → Nat → Rec → Run → Act Unit}
    (hexec : Runs c s (b.stepStage l stage kind st f)) (hat : stageAt s.dev l stage [kind] = some (x, p, r))
    (hstep : (b = s.dev ∧ runOf s.dev l stage = some q ∧ engineOut s.dev p (stNode r) q.slot = false ∧ d = s.dev) ∨
      ((∃ m, b = { s.dev with chans := m }) ∧ StageDue s.dev l stage kind x p r ∧ engineOut s.dev p (stNode r) q.slot = false ∧
        runOf (b.startStage x p r st) l stage = some q ∧ d = b.startStage x p r st ∧ halted d p (stNode r) q.slot = false)) :
    Runs c s (d.stageAct x p r (f x p r q) id) := by
  obtain ⟨rfl, hrun, hout, rfl⟩ | ⟨⟨m, hb⟩, hdue, hout, hrun, rfl, hhalt⟩ := hstep
  · rwa [stepStage_running hat hrun hout] at hexec
  · rwa [stepStage_begins hb hdue hout hrun hhalt] at hexec

/-- What a step that is its action comes to. -/
theorem stepped {d : Dev} {a : Act Unit} (hat : stageAt s.dev l stage [kind] = some (x, p, r)) (h : Runs c s (d.stageAct x p r a id)) :
    (∀ e, a.run d = (.ok (), e) → Runs c s (e.whoWait (stageWho x p r) 0)) ∧
    (∀ e f, a.run d = (.error f, e) → (∀ k, f ≠ .wait k) →
      Runs c s ((e.stopIncident (stageWho x p r) f).finish l (stopStatus stage f).1 (stopStatus stage f).2)) := by
  obtain ⟨hid, hst, -⟩ := stageAt_spec hat
  refine ⟨fun e he => ?_, fun e f he hf => ?_⟩
  · rwa [stageAct_ok _ he] at h
  · rwa [stageAct_stop _ he hf, hid, hst] at h

end

/-- Settles O39: every command of a stage comes down to one action of its engine, whose outcome says what becomes of the stage. -/
theorem stageLifeCycle : Obligations.StageLifeCycle := by
  unfold Obligations.StageLifeCycle
  refine ⟨fun s c l stage kind st x p r a hc => ?_, fun s l stage x p r => ⟨fun c kind st q b d a htoken hc hat hstep => ?_, ?_, ?_, ?_, ?_⟩⟩
  · have h : OneCommand c s l stage kind st x p r a := oneCommand_of_command hc
    refine ⟨fun hdue hfree => ⟨fun e => h.ok hdue hfree, fun e f => h.stops hdue hfree, fun e k => h.waits hdue hfree⟩, fun hat hrun hbusy hopen => ?_⟩
    rw [← waitStage_open hat hopen]
    exact h.busy hat hrun hbusy
  · have hstep' : (b = s.dev ∧ runOf s.dev l stage = some q ∧ engineOut s.dev p (stNode r) q.slot = false ∧ d = s.dev) ∨
        ((∃ m, b = { s.dev with chans := m }) ∧ StageDue s.dev l stage kind x p r ∧ engineOut s.dev p (stNode r) q.slot = false ∧
          runOf (b.startStage x p r st) l stage = some q ∧ d = b.startStage x p r st ∧ halted d p (stNode r) q.slot = false) := by
      obtain ⟨hrun, hout, rfl⟩ | ⟨hdue, hout, hrun, -, hd, hhalt⟩ := hstep
      · refine .inl ⟨?_, hrun, hout, rfl⟩
        obtain ⟨-, -, hnone, -⟩ | ⟨-, hb⟩ := htoken
        · rw [hrun] at hnone; cases hnone
        · exact hb
      · refine .inr ⟨?_, hdue, hout, hrun, hd, hhalt⟩
        obtain ⟨-, -, -, k, hk⟩ | ⟨-, rfl⟩ := htoken
        · exact takeToken_eq hk
        · exact ⟨s.dev.chans, rfl⟩
    refine stepped hat ?_
    obtain ⟨rfl, rfl, rfl, rfl⟩ | ⟨rfl, rfl, rfl, hmode, rfl, hturn⟩ := hc
    · obtain ⟨hkind, -⟩ | ⟨-, rfl⟩ := htoken
      · cases hkind
      · exact step_acts (f := frankStep) rfl hat hstep'
    · refine step_acts (b := b) (f := gradStep) ?_ hat hstep'
      obtain ⟨-, hflag, hnone, k, hk⟩ | ⟨hfree, rfl⟩ := htoken
      · obtain ⟨hrun, -⟩ | ⟨⟨-, -, hstart⟩, -⟩ := hstep
        · rw [hrun] at hnone; cases hnone
        · exact mailbagGrad_takes hat hmode hturn hflag hnone hstart hk
      · exact mailbagGrad_steps hat hmode hturn fun h => hfree ⟨rfl, h⟩
  · exact fun hat hmode hrun hturn hflag hstart htoken hopen => mailbagGrad_waits hat hmode (fun _ => hturn) hflag hrun hstart htoken hopen
  · refine fun q q' e f g hat hrun hout hcard => ⟨fun hopen hgroup hafter => vectorElementGroup_keeps hat hrun hout hcard hopen hgroup hafter,
      fun hopen hgroup hg => vectorElementGroup_stops hat hrun hout hcard hopen hgroup hg, fun hfull => ?_⟩
    have h := stepped hat (vectorElementGroup_converts hat hrun hout hcard hfull)
    exact ⟨h.1 f, h.2 f g⟩
  · exact fun card e hdue hload => vectorStageStart_loads hdue hload
  · exact fun e hdue hmode hnew hrun => exchange_starts hdue hmode hnew hrun

end Sys2Proof.Machine
end

section
/-! The epoch and its marker (R87, R88, R90): a write of GATE_EPOCH, the marker's arrival at a die, and its end. -/

namespace Sys2Proof.Machine

/-! ### The dies that a marker has to reach -/

theorem dieInReset_acrossAt (d : Dev) (v : Via) (off len n : Nat) : dieInReset (d.acrossAt v off len) n = dieInReset d n := by
  obtain ⟨-, hcount⟩ := d.acrossAt_counts v off len
  unfold dieInReset Dev.resetting Dev.bit Dev.fld
  split
  · rw [hcount _ (by simp), hcount _ (by simp)]
  · rfl

theorem markerDies_acrossAt (d : Dev) (v : Via) (off len : Nat) : markerDies (d.acrossAt v off len) = markerDies d := by
  unfold markerDies
  simp only [dieInReset_acrossAt]

/-- The marker goes to every die but those of a partition that is in reset, or held in it by a failed authentication (R88). -/
theorem mem_markerDies {d : Dev} {die : Nat} : die ∈ markerDies d ↔
    die < 100 ∧ ∀ p, p < 4 → 24 * p ≤ die → die < 24 * p + 24 → d.resetting p = false ∧ d.bit .gateBoot (12 + p) = false := by
  simp only [markerDies, List.mem_filter, List.mem_range, Bool.not_eq_true']
  refine and_congr_right fun hdie => ?_
  by_cases hpart : die < 96
  · simp only [dieInReset, dieParts, if_pos hpart, Bool.or_eq_false_iff]
    constructor
    · intro h p _ hlo hhi
      rwa [show p = die / 24 by omega]
    · exact fun h => h _ (by omega) (by omega) (by omega)
  · simp only [dieInReset, dieParts, if_neg hpart, true_iff]
    exact fun p hp hlo hhi => absurd hhi (by omega)

/-! ### Setting an epoch -/

/-- A broadcast shows EPOCH and PENDING, and starts the marker. -/
theorem Dev.reg_epochSend (d : Dev) (e : Nat) (q : Reg) :
    (d.epochSend e).reg q = if .gateEpoch = q then bset (fset (d.reg .gateEpoch) 23 0 e) 31 true else d.reg q := by
  unfold Dev.epochSend
  rw [Dev.reg_setBit, Dev.reg_setFld, Dev.reg_setFld, if_pos rfl]
  split <;> rfl

theorem Dev.epochSet_idle {d : Dev} (h : d.epochMarker = none) (e : Nat) : d.epochSet e = d.epochSend (e % 2 ^ 24) := by
  simp [Dev.epochSet, h]

theorem Dev.epochSet_inFlight {d : Dev} (h : d.epochMarker ≠ none) (e : Nat) :
    d.epochSet e = { d with epochHeld := some (e % 2 ^ 24) }.setFld .gateEpoch 23 0 (e % 2 ^ 24) := by
  simp [Dev.epochSet, Option.isSome_iff_ne_none.mpr h]

/-- A granted command that writes its register and changes the module beside it. -/
theorem becomes_viaReg {s : State} {v : Via} {g : Guard} {r : Reg} {w : W64} {e : Dev} {f : Dev → Dev} (h : Granted s.dev v g r)
    (hf : f (s.dev.across v r) = { e with regs := (f (s.dev.across v r)).regs })
    (hreg : ∀ q, (f (s.dev.across v r)).reg q = if r = q then w else (s.dev.across v r).reg q) (i : Instr) :
    Becomes (s.across v r) (s.onDev fun d => d.viaReg v g r i f) { e with out := e.out ++ viaAck v } [(r, w)] := by
  refine ⟨?_, fun q => ?_⟩
  · rw [State.onDev, Dev.viaReg_granted h, hf]
    rfl
  · have hread : (s.onDev fun d => d.viaReg v g r i f).dev.reg q = (f (s.dev.across v r)).reg q := by
      rw [State.onDev_dev, Dev.viaReg_granted h]
      rfl
    rw [hread, hreg, mapGet?_cons]
    split <;> rfl

section
variable {s : State} {v : Via} (value : W32) (h : Granted s.dev v .open_ .gateEpoch)
include h

/-- With no marker in flight the epoch goes out at once. -/
theorem gateEpochWrite_sends (hidle : s.dev.epochMarker = none) : Answers (.gateEpochWrite v value) s fun t =>
    Becomes (s.across v .gateEpoch) t { s.dev with epochMarker := some (value.toNat % 2 ^ 24, markerDies s.dev), out := s.dev.out ++ viaAck v }
      [(.gateEpoch, bset (fset (s.dev.reg .gateEpoch) 23 0 (value.toNat % 2 ^ 24)) 31 true)] := by
  obtain ⟨⟨m, hm⟩, hcount⟩ := s.dev.acrossAt_counts v Reg.gateEpoch.info.offset Reg.gateEpoch.info.width
  have hacross : s.dev.across v .gateEpoch = { s.dev with regs := m } := hm
  have hdies : markerDies (s.dev.across v .gateEpoch) = markerDies s.dev := markerDies_acrossAt ..
  have hsend : (s.dev.across v .gateEpoch).epochSet (value.toNat % 2 ^ 24) = (s.dev.across v .gateEpoch).epochSend (value.toNat % 2 ^ 24) := by
    rw [Dev.epochSet_idle (by rw [hacross]; exact hidle), Nat.mod_mod]
  refine ⟨_, rfl, becomes_viaReg (e := { s.dev with epochMarker := some (value.toNat % 2 ^ 24, markerDies s.dev) }) h ?_ (fun q => ?_) _⟩
  · dsimp only
    rw [hsend, Dev.epochSend, hdies, hacross]
    rfl
  · rw [hsend, Dev.reg_epochSend, show (s.dev.across v .gateEpoch).reg .gateEpoch = _ from hcount _ (by simp)]

/-- While a marker is in flight the epoch is held. -/
theorem gateEpochWrite_holds (hflight : s.dev.epochMarker ≠ none) : Answers (.gateEpochWrite v value) s fun t =>
    Becomes (s.across v .gateEpoch) t { s.dev with epochHeld := some (value.toNat % 2 ^ 24), out := s.dev.out ++ viaAck v }
      [(.gateEpoch, fset (s.dev.reg .gateEpoch) 23 0 (value.toNat % 2 ^ 24))] := by
  obtain ⟨⟨m, hm⟩, hcount⟩ := s.dev.acrossAt_counts v Reg.gateEpoch.info.offset Reg.gateEpoch.info.width
  have hacross : s.dev.across v .gateEpoch = { s.dev with regs := m } := hm
  have hhold := Dev.epochSet_inFlight (d := s.dev.across v .gateEpoch) (by rw [hacross]; exact hflight) (value.toNat % 2 ^ 24)
  rw [Nat.mod_mod] at hhold
  refine ⟨_, rfl, becomes_viaReg (e := { s.dev with epochHeld := some (value.toNat % 2 ^ 24) }) h ?_ (fun q => ?_) _⟩
  · dsimp only
    rw [hhold, hacross]
    rfl
  · rw [hhold, Dev.reg_setFld, ← show (s.dev.across v .gateEpoch).reg .gateEpoch = _ from hcount _ (by simp)]
    rfl

end

/-! ### The marker's way -/

section
variable {s : State} {e : Nat}

/-- A die that the marker reaches latches the epoch and zeroes its count (R87). -/
theorem epochMarkerArrive_latches {left : List Nat} {die : Nat} (hmarker : s.dev.epochMarker = some (e, left)) (hdie : die ∈ left) :
    Answers (.epochMarkerArrive die) s fun t =>
      t = { s with dev := { s.dev with epochMarker := some (e, left.filter (· ≠ die)), dies := t.dev.dies } } ∧
      ∀ n, mapGet t.dev.dies n (0, 0) = if n = die then (e, 0) else mapGet s.dev.dies n (0, 0) := by
  have hexec : exec (.epochMarkerArrive die) s =
      .next { s with dev := ({ s.dev with epochMarker := some (e, left.filter (· ≠ die)) }).latchEpoch die e } := by
    show execEpochMarkerArrive die s = _
    simp [execEpochMarkerArrive, State.onDev, hmarker, hdie]
  refine ⟨_, hexec, rfl, fun n => ?_⟩
  simp only [Dev.latchEpoch, mapGet_mapSet, eq_comm]

/-- Once every die has the epoch, and none is held, PENDING clears. -/
theorem epochMarkerDone_clears (hmarker : s.dev.epochMarker = some (e, [])) (hheld : s.dev.epochHeld = none) :
    Answers .epochMarkerDone s fun t =>
      Becomes s t { s.dev with epochMarker := none } [(.gateEpoch, bset (s.dev.reg .gateEpoch) 31 false)] := by
  have hexec : exec .epochMarkerDone s = .next { s with dev := { s.dev with epochMarker := none }.setBit .gateEpoch 31 false } := by
    show execEpochMarkerDone s = _
    simp [execEpochMarkerDone, State.onDev, hmarker, hheld]
  exact ⟨_, hexec, rfl, (RegsRead.refl s.dev).set _ _⟩

/-- Once every die has the epoch, a held one goes out. -/
theorem epochMarkerDone_sends {h : Nat} (hmarker : s.dev.epochMarker = some (e, [])) (hheld : s.dev.epochHeld = some h) :
    Answers .epochMarkerDone s fun t =>
      Becomes s t { s.dev with epochMarker := some (h, markerDies s.dev), epochHeld := none }
        [(.gateEpoch, bset (fset (s.dev.reg .gateEpoch) 23 0 h) 31 true)] := by
  have hexec : exec .epochMarkerDone s = .next { s with dev := { s.dev with epochHeld := none }.epochSend h } := by
    show execEpochMarkerDone s = _
    simp [execEpochMarkerDone, State.onDev, hmarker, hheld]
  refine ⟨_, hexec, rfl, fun q => ?_⟩
  rw [Dev.reg_epochSend, mapGet?_cons]
  split <;> rfl

end

/-- Settles O26: each of the three commands by the marker's state, and the dies that a marker goes to. -/
theorem epochMarker : Obligations.EpochMarker := by
  unfold Obligations.EpochMarker
  exact fun s => ⟨fun _ value h => ⟨gateEpochWrite_sends value h, gateEpochWrite_holds value h⟩,
    fun _ _ _ => epochMarkerArrive_latches,
    fun _ hmarker => ⟨epochMarkerDone_clears hmarker, fun _ => epochMarkerDone_sends hmarker⟩,
    fun _ => mem_markerDies⟩

end Sys2Proof.Machine
end

section
/-! The step and evaluation letters (R304, R305, R331, R337): which of them the step's state refuses, and what an accepted one does. -/

namespace Sys2Proof.Machine

/-! ### A letter that has started and changed the module -/

section
variable {s : State} {b e : Dev} {l : LetterId} {op : Nat} {x : Letter} {ch : Map Reg W64}

theorem RunsOn.withDies (h : RunsOn s { s with dev := b } l e ch) (ds : Map Nat (Nat × Nat)) :
    RunsOn s { s with dev := b.withDies ds } l e ch := by
  obtain ⟨hfields, hregs⟩ := h
  refine ⟨?_, hregs.congr rfl⟩
  exact congrArg (fun t : State => { t with dev := t.dev.withDies ds }) hfields

theorem Due.runsOn (h : Due s.dev l op x) : RunsOn s { s with dev := s.dev.startLetter x } l s.dev [] := by
  refine ⟨?_, fun _ => rfl⟩
  rw [← h.id]
  rfl

/-- A letter that has started, and that no engine works for, ends: its other changes stand. -/
theorem Due.ends (h : Due s.dev l op x) (hrun : RunsOn s { s with dev := b } l e ch) (hwork : Unworked b x) {st dt : Nat}
    (hsp : spoils st = false) (hdt : dt < 65536) (ds : Map Nat (Nat × Nat)) :
    Ends s { s with dev := (b.finish x.id st dt).withDies ds } l st dt e ch := by
  obtain ⟨hfields, hregs⟩ := hrun
  have hb : b = { e with letters := lettersWith s.dev l Letter.begun, dies := b.dies, regs := b.regs } := congrArg State.dev hfields
  have hletters : b.letters = lettersWith s.dev l Letter.begun := by rw [hb]
  have hid : x.begun.id = l := h.id
  have hfound : findLetter b x.begun.id = some x.begun := by
    rw [hid, findLetter_lettersWith s.dev b l Letter.begun (fun _ => rfl) hletters, h.found]
    rfl
  obtain ⟨⟨m, hm⟩, hread⟩ := Dev.finish_unworked hfound h.result hwork hsp dt
  refine ⟨?_, fun r hr => ?_⟩
  · have hresult : modifyLetter b l (fun y => { y with result := some (st, dt) }) =
        { e with letters := lettersWith s.dev l (fun y => { y.begun with result := some (st, dt) }), dies := b.dies, regs := b.regs } := by
      rw [← lettersWith_lettersWith s.dev b l Letter.begun (fun y => { y with result := some (st, dt) }) (fun _ => rfl) hletters]
      exact congrArg (fun d : Dev => { d with letters := lettersWith b l fun y => { y with result := some (st, dt) } }) hb
    rw [show b.finish x.id st dt = _ from hm, hid, Nat.mod_eq_of_lt hdt, hresult]
    rfl
  · rw [← hregs r]
    exact hread r fun ⟨p, hp⟩ => hp.elim (hr p).1 (hr p).2

/-- One more register is written while the letter runs. -/
theorem RunsOn.setReg (h : RunsOn s { s with dev := b } l e ch) (r : Reg) (v : W64) :
    RunsOn s { s with dev := b.setReg r v } l e ((r, v) :: ch) := by
  obtain ⟨hfields, hregs⟩ := h
  refine ⟨?_, hregs.set r v⟩
  exact congrArg (fun t : State => { t with dev := { t.dev with regs := (b.setReg r v).regs } }) hfields

/-- A change of the module that has nothing to do with letters, event counts and registers. -/
theorem RunsOn.change (h : RunsOn s { s with dev := b } l e ch) {g : Dev → Dev}
    (hg : ∀ d ls ds m, g { d with letters := ls, dies := ds, regs := m } = { g d with letters := ls, dies := ds, regs := m }) :
    RunsOn s { s with dev := g b } l (g e) ch := by
  obtain ⟨hfields, hregs⟩ := h
  have hb : b = { e with letters := lettersWith s.dev l Letter.begun, dies := b.dies, regs := b.regs } := congrArg State.dev hfields
  have hgb : g b = { g e with letters := lettersWith s.dev l Letter.begun, dies := b.dies, regs := b.regs } := (congrArg g hb).trans (hg ..)
  have hsame : (g b).regs = b.regs := by rw [hgb]
  refine ⟨?_, hregs.congr hsame⟩
  show ({ s with dev := g b } : State) = { s with dev := { g e with dies := (g b).dies, regs := (g b).regs, letters := _ } }
  rw [hgb]

end

/-! ### The step's state -/

@[simp] theorem cascadeOpen_startLetter (d : Dev) (x : Letter) : cascadeOpen (d.startLetter x) = cascadeOpen d := rfl
@[simp] theorem stepOpen_startLetter (d : Dev) (x : Letter) (c : Nat) : stepOpen (d.startLetter x) c = stepOpen d c := rfl
@[simp] theorem Dev.startLetter_regN (d : Dev) (x : Letter) (r : Reg) : (d.startLetter x).regN r = d.regN r := rfl

theorem expected_lt (d : Dev) (c : Nat) : expected d c < 65536 := by
  unfold expected
  split
  · split <;> decide
  all_goals decide

/-- A message to the module itself is delivered at once. -/
theorem Dev.postcard_own {d : Dev} {dst : Nat} (h : dst = modNumber d) (m : Msg) : d.postcard dst m = d.send (.own m.bytes) := if_pos h

theorem modNumber_setStepState (d : Dev) (c n : Nat) : modNumber (d.setStepState c n) = modNumber d := by
  simp [modNumber, Dev.fld, Dev.setStepState]

section
variable {s : State} {l : LetterId} {x : Letter} {op : Nat} {i : Instr} {f : Letter → Dev → Dev} {b e : Dev} {ch : Map Reg W64}
  (h : Due s.dev l op x) (hexec : exec i s = .next (s.onDev fun d => d.onLetter l op f))
include h hexec

/-- A command whose letter ends at once. -/
theorem Due.answersEnds {st dt : Nat} (hf : f x (s.dev.startLetter x) = b.finish x.id st dt) (hrun : RunsOn s { s with dev := b } l e ch)
    (hwork : Unworked b x) (hsp : spoils st = false) (hdt : dt < 65536) : Answers i s fun t => Ends s t l st dt e ch :=
  h.answers hexec fun _ ds hb => by rw [← hb, hf]; exact h.ends hrun hwork hsp hdt ds

/-- A command whose letter runs on. -/
theorem Due.answersRunsOn (hf : f x (s.dev.startLetter x) = b) (hrun : RunsOn s { s with dev := b } l e ch) :
    Answers i s fun t => RunsOn s t l e ch :=
  h.answers hexec fun _ ds hb => by rw [← hb, hf]; exact hrun.withDies ds

/-- A letter whose condition of R304 fails ends with STEP_ORDER and the opcode that the state expects. -/
theorem Due.answersStepOrder (hf : f x (s.dev.startLetter x) = (s.dev.startLetter x).stepOrder x) :
    Answers i s fun t => Ends s t l 0x30 (expected s.dev x.ctx) s.dev [] :=
  h.answersEnds hexec hf h.runsOn h.unworked rfl (expected_lt _ _)

end

/-! ### STEP_BEGIN -/

/-- The module once a STEP_BEGIN of context `c` has opened `step`, but for the epoch that it may set (R304, R305). -/
def Dev.stepOpened (d : Dev) (c step : Nat) : Dev :=
  { ((d.setStepState c 1).setReg (.gateStepOpen c) (BitVec.ofNat 64 step)).setBit (.gateStep c) 4 false with
    decisions := d.decisions.filter fun (e : (Nat × Nat) × Bool) => e.1.1 ≠ c
    stepParts := mapSet d.stepParts c []
    redEarly := d.redEarly.filter fun e => e.ctx ≠ c ∨ e.step = step
    xbase := xrunsOf d c ++ d.xbase.filter fun (e : (Nat × Nat × Nat) × Nat) => e.1.1 ≠ c
    floods := []
    post := { d.post with polls := d.post.polls.filter fun q => ¬ (q.ctx = c ∧ q.step = step ∧ q.decided.isSome) } }

theorem Dev.reg_stepOpened (d : Dev) (c step : Nat) (q : Reg) : (d.stepOpened c step).reg q =
    if .gateStep c = q then bset (fset (d.reg (.gateStep c)) 2 0 1) 4 false
    else if .gateStepOpen c = q then BitVec.ofNat 64 step else d.reg q := by
  show ((((d.setStepState c 1).setReg (.gateStepOpen c) (BitVec.ofNat 64 step)).setBit (.gateStep c) 4 false).reg q) = _
  by_cases hq : Reg.gateStep c = q
  · subst hq
    simp [Dev.setStepState]
  · simp [Dev.setStepState, hq]

/-- To open a step puts no die into reset. -/
theorem markerDies_stepOpened (d : Dev) (c step : Nat) : markerDies (d.stepOpened c step) = markerDies d := by
  unfold markerDies dieInReset Dev.resetting Dev.bit Dev.fld
  simp [Dev.reg_stepOpened]

theorem Due.runsOn_stepOpened {s : State} {l : LetterId} {op : Nat} {x : Letter} (h : Due s.dev l op x) (c step : Nat) :
    RunsOn s { s with dev := (s.dev.startLetter x).stepOpened c step } l (s.dev.stepOpened c step)
      [(.gateStepOpen c, BitVec.ofNat 64 step), (.gateStep c, bset (fset (s.dev.reg (.gateStep c)) 2 0 1) 4 false)] := by
  refine ⟨?_, fun q => ?_⟩
  · rw [← h.id]
    rfl
  · rw [Dev.reg_stepOpened, mapGet?_cons, mapGet?_cons]
    by_cases hq : Reg.gateStepOpen c = q
    · subst hq
      simp
    · simp only [if_neg hq]
      split <;> rfl

/-- A letter that runs on may broadcast an epoch. -/
theorem RunsOn.epochSend {s : State} {b e : Dev} {l : LetterId} {ch : Map Reg W64} (h : RunsOn s { s with dev := b } l e ch) (n : Nat) :
    RunsOn s { s with dev := b.epochSend n } l { e with epochMarker := some (n, markerDies b) }
      ((.gateEpoch, bset (fset (b.reg .gateEpoch) 23 0 n) 31 true) :: ch) := by
  obtain ⟨hfields, hregs⟩ := h.change (g := fun d => { d with epochMarker := some (n, markerDies b) }) fun _ _ _ _ => rfl
  refine ⟨congrArg (fun t : State => { t with dev := { t.dev with regs := (b.epochSend n).regs } }) hfields, fun q => ?_⟩
  rw [Dev.reg_epochSend, mapGet?_cons]
  split
  · rfl
  · exact hregs q

/-- STEP_BEGIN's letter, when it ends in a module that is `s.dev.stepOpened` but for the marker. -/
theorem Ends.of_stepOpened {s t : State} {l : LetterId} {c step : Nat} {m : Option (Nat × List Nat)} {ch : Map Reg W64}
    (h : Ends s t l 0 0 { s.dev.stepOpened c step with epochMarker := m } ch) :
    Ends s t l 0 0 { s.dev with decisions := t.dev.decisions, stepParts := mapSet s.dev.stepParts c [], xbase := t.dev.xbase, floods := [], post := t.dev.post, redEarly := s.dev.redEarly.filter (fun e => e.ctx ≠ c ∨ e.step = step), epochMarker := m } ch := by
  obtain ⟨ht, hr⟩ := h
  have hdecisions : t.dev.decisions = (s.dev.stepOpened c step).decisions := congrArg (·.dev.decisions) ht
  have hxbase : t.dev.xbase = (s.dev.stepOpened c step).xbase := congrArg (·.dev.xbase) ht
  have hpost : t.dev.post = (s.dev.stepOpened c step).post := congrArg (·.dev.post) ht
  refine ⟨?_, hr⟩
  rw [hdecisions, hxbase, hpost]
  exact ht

theorem Unworked.stepOpened {d : Dev} {x : Letter} (h : Unworked d x) (c step : Nat) : Unworked ((d.startLetter x).stepOpened c step) x := h

theorem Unworked.epochSend {d : Dev} {x : Letter} (h : Unworked d x) (n : Nat) : Unworked (d.epochSend n) x := h

theorem exec_stepBegin (l : LetterId) (s : State) : exec (.stepBegin l) s = .next (s.onDev fun d => d.onLetter l 0x10 fun x d =>
    if !cascadeOpen d then d.finish x.id 0x30 0
    else if stepState d x.ctx ≠ 0 ∨ d.bit (.gateStep x.ctx) 6 = true ∨
        (d.bit (.gateStep x.ctx) 7 = true ∧ x.opnd 0 8 ≠ (d.regN (.gateStepCommitted x.ctx) + 1) % 2 ^ 64) then d.stepOrder x
    else (if x.opnd 8 4 / 2 ^ 31 = 1 then (d.stepOpened x.ctx (x.opnd 0 8)).epochSet (x.opnd 8 3)
      else d.stepOpened x.ctx (x.opnd 0 8)).finish x.id 0 0) := rfl

section
variable {s : State} {l : LetterId} {x : Letter} (h : Due s.dev l 0x10 x)
include h

theorem stepBegin_closed (hopen : cascadeOpen s.dev = false) : Answers (.stepBegin l) s fun t => Ends s t l 0x30 0 s.dev [] := by
  have hclosed : (!cascadeOpen (s.dev.startLetter x)) = true := by simpa using hopen
  exact h.answersEnds rfl (if_pos hclosed) h.runsOn h.unworked rfl (by decide)

variable (hopen : cascadeOpen s.dev = true)
include hopen

theorem stepBegin_refused (hstate : stepState s.dev x.ctx ≠ 0 ∨ s.dev.bit (.gateStep x.ctx) 6 = true ∨
      (s.dev.bit (.gateStep x.ctx) 7 = true ∧ x.opnd 0 8 ≠ (s.dev.regN (.gateStepCommitted x.ctx) + 1) % 2 ^ 64)) :
    Answers (.stepBegin l) s fun t => Ends s t l 0x30 (expected s.dev x.ctx) s.dev [] := by
  have hopen' : ¬ (!cascadeOpen (s.dev.startLetter x)) = true := by simpa using hopen
  exact h.answersStepOrder rfl ((if_neg hopen').trans (if_pos hstate))

/-- A STEP_BEGIN that the state does not refuse ends with SUCCESS once the step is open. -/
theorem stepBegin_accepted {b : Dev} {m : Option (Nat × List Nat)} {ch : Map Reg W64}
    (hstate : ¬ (stepState s.dev x.ctx ≠ 0 ∨ s.dev.bit (.gateStep x.ctx) 6 = true ∨
      (s.dev.bit (.gateStep x.ctx) 7 = true ∧ x.opnd 0 8 ≠ (s.dev.regN (.gateStepCommitted x.ctx) + 1) % 2 ^ 64)))
    (hb : (if x.opnd 8 4 / 2 ^ 31 = 1 then ((s.dev.startLetter x).stepOpened x.ctx (x.opnd 0 8)).epochSet (x.opnd 8 3)
      else (s.dev.startLetter x).stepOpened x.ctx (x.opnd 0 8)) = b)
    (hrun : RunsOn s { s with dev := b } l { s.dev.stepOpened x.ctx (x.opnd 0 8) with epochMarker := m } ch) (hwork : Unworked b x) :
    Answers (.stepBegin l) s fun t =>
      Ends s t l 0 0 { s.dev with decisions := t.dev.decisions, stepParts := mapSet s.dev.stepParts x.ctx [], xbase := t.dev.xbase, floods := [], post := t.dev.post, redEarly := s.dev.redEarly.filter (fun e => e.ctx ≠ x.ctx ∨ e.step = x.opnd 0 8), epochMarker := m } ch := by
  have hopen' : ¬ (!cascadeOpen (s.dev.startLetter x)) = true := by simpa using hopen
  obtain ⟨t, hexec, hends⟩ := h.answersEnds (exec_stepBegin l s)
    ((if_neg hopen').trans ((if_neg hstate).trans (congrArg (Dev.finish · x.id 0 0) hb))) hrun hwork rfl (by decide)
  exact ⟨t, hexec, hends.of_stepOpened⟩

theorem stepBegin_opens (hidle : stepState s.dev x.ctx = 0) (heval : s.dev.bit (.gateStep x.ctx) 6 = false)
    (hnext : s.dev.bit (.gateStep x.ctx) 7 = false ∨ x.opnd 0 8 = (s.dev.regN (.gateStepCommitted x.ctx) + 1) % 2 ^ 64)
    (hmarker : s.dev.epochMarker = none) : Answers (.stepBegin l) s fun t =>
      Ends s t l 0 0 { s.dev with decisions := t.dev.decisions, stepParts := mapSet s.dev.stepParts x.ctx [], xbase := t.dev.xbase, floods := [], post := t.dev.post, redEarly := s.dev.redEarly.filter (fun e => e.ctx ≠ x.ctx ∨ e.step = x.opnd 0 8), epochMarker := if x.opnd 8 4 / 2 ^ 31 = 1 then some (x.opnd 8 3, markerDies s.dev) else none }
        ((if x.opnd 8 4 / 2 ^ 31 = 1 then [(.gateEpoch, bset (fset (s.dev.reg .gateEpoch) 23 0 (x.opnd 8 3)) 31 true)] else []) ++
          [(.gateStepOpen x.ctx, BitVec.ofNat 64 (x.opnd 0 8)), (.gateStep x.ctx, bset (fset (s.dev.reg (.gateStep x.ctx)) 2 0 1) 4 false)]) := by
  have haccepted : ¬ (stepState s.dev x.ctx ≠ 0 ∨ s.dev.bit (.gateStep x.ctx) 6 = true ∨
      (s.dev.bit (.gateStep x.ctx) 7 = true ∧ x.opnd 0 8 ≠ (s.dev.regN (.gateStepCommitted x.ctx) + 1) % 2 ^ 64)) := by
    simpa [hidle, heval, imp_iff_not_or] using hnext
  have hrun := h.runsOn_stepOpened x.ctx (x.opnd 0 8)
  have hwork := h.unworked.stepOpened x.ctx (x.opnd 0 8)
  by_cases hset : x.opnd 8 4 / 2 ^ 31 = 1
  · have hlt : x.opnd 8 3 < 2 ^ 24 := field_lt x.body 8 3
    have hsend := Dev.epochSet_idle (d := (s.dev.startLetter x).stepOpened x.ctx (x.opnd 0 8)) hmarker (x.opnd 8 3)
    rw [Nat.mod_eq_of_lt hlt] at hsend
    replace hrun := hrun.epochSend (x.opnd 8 3)
    rw [markerDies_stepOpened, Dev.reg_stepOpened, if_neg (by simp), if_neg (by simp)] at hrun
    rw [if_pos hset, if_pos hset]
    exact stepBegin_accepted h hopen haccepted ((if_pos hset).trans hsend) hrun (hwork.epochSend _)
  · have hmark : s.dev.stepOpened x.ctx (x.opnd 0 8) = { s.dev.stepOpened x.ctx (x.opnd 0 8) with epochMarker := none } := by
      rw [← hmarker]
      rfl
    rw [hmark] at hrun
    rw [if_neg hset, if_neg hset]
    exact stepBegin_accepted h hopen haccepted (if_neg hset) hrun hwork

end

/-! ### STEP_COMMIT and STEP_ABORT -/

/-- DECIDING changes nothing that UPDATE_DONE tells (R331). -/
theorem updateDone_setStepState (d : Dev) (c n : Nat) :
    Msg.updateDone (modNumber (d.setStepState c n)) c (stepOpen (d.setStepState c n) c) ((d.setStepState c n).fld (.gateStep c) 5 5)
      ((d.setStepState c n).reg (.gateNorm c)) =
    Msg.updateDone (modNumber d) c (stepOpen d c) (d.fld (.gateStep c) 5 5) (d.reg (.gateNorm c)) := by
  have hopen : stepOpen (d.setStepState c n) c = stepOpen d c := by simp [stepOpen, Dev.regN, Dev.setStepState]
  have hskipped : (d.setStepState c n).fld (.gateStep c) 5 5 = d.fld (.gateStep c) 5 5 := by
    rw [Dev.fld, Dev.setStepState, Dev.reg_setFld, if_pos rfl, fget_fset_other _ _ _ _ _ _ (by decide) (by decide), Dev.fld]
  have hnorm : (d.setStepState c n).reg (.gateNorm c) = d.reg (.gateNorm c) := by simp [Dev.setStepState]
  rw [modNumber_setStepState, hopen, hskipped, hnorm]

section
variable {s : State} {l : LetterId} {x : Letter}

section
variable (h : Due s.dev l 0x12 x)
include h

theorem stepCommit_refused (hstate : stepState s.dev x.ctx ≠ 3 ∨ stepOpen s.dev x.ctx ≠ x.opnd 0 8) :
    Answers (.stepCommit l) s fun t => Ends s t l 0x30 (expected s.dev x.ctx) s.dev [] :=
  h.answersStepOrder rfl (if_pos hstate)

theorem stepCommit_decides (hstate : stepState s.dev x.ctx = 3) (hstep : stepOpen s.dev x.ctx = x.opnd 0 8)
    (hpost : postmasterOf s.dev = modNumber s.dev) : Answers (.stepCommit l) s fun t =>
      RunsOn s t l { s.dev with out := s.dev.out ++ [.own (Msg.updateDone (modNumber s.dev) x.ctx (x.opnd 0 8) (s.dev.fld (.gateStep x.ctx) 5 5) (s.dev.reg (.gateNorm x.ctx))).bytes] }
        [(.gateStep x.ctx, fset (s.dev.reg (.gateStep x.ctx)) 2 0 4)] := by
  have hown : postmasterOf s.dev = modNumber ((s.dev.startLetter x).setStepState x.ctx 4) := by
    rw [modNumber_setStepState, hpost]
    rfl
  refine h.answersRunsOn rfl ((if_neg (by simp [hstate, hstep])).trans (Dev.postcard_own hown _)) ?_
  rw [updateDone_setStepState, ← hstep]
  exact (h.runsOn.setReg (.gateStep x.ctx) _).change (g := fun d => d.send (.own (Msg.bytes _))) fun _ _ _ _ => rfl

end

section
variable (h : Due s.dev l 0x13 x)
include h

theorem stepAbort_refused (hstate : stepState s.dev x.ctx = 0 ∨ 5 ≤ stepState s.dev x.ctx ∨ stepOpen s.dev x.ctx ≠ x.opnd 0 8) :
    Answers (.stepAbort l) s fun t => Ends s t l 0x30 (expected s.dev x.ctx) s.dev [] :=
  h.answersStepOrder rfl (if_pos hstate)

theorem stepAbort_asks (hlo : 1 ≤ stepState s.dev x.ctx) (hhi : stepState s.dev x.ctx ≤ 4) (hstep : stepOpen s.dev x.ctx = x.opnd 0 8)
    (hpost : postmasterOf s.dev = modNumber s.dev) : Answers (.stepAbort l) s fun t =>
      RunsOn s t l { s.dev with out := s.dev.out ++ [.own (Msg.abortReq (modNumber s.dev) x.ctx (x.opnd 0 8)).bytes] } [] := by
  have haccepted : ¬ (stepState s.dev x.ctx = 0 ∨ 5 ≤ stepState s.dev x.ctx ∨ stepOpen s.dev x.ctx ≠ x.opnd 0 8) := by omega
  refine h.answersRunsOn rfl ((if_neg haccepted).trans (Dev.postcard_own (d := s.dev.startLetter x) hpost _)) ?_
  rw [← hstep]
  exact h.runsOn.change (g := fun d => d.send (.own (Msg.bytes _))) fun _ _ _ _ => rfl

end

/-! ### EVAL_BEGIN and EVAL_END -/

section
variable (h : Due s.dev l 0x14 x)
include h

theorem evalBegin_refused (hstate : stepState s.dev x.ctx ≠ 0 ∨ s.dev.bit (.gateStep x.ctx) 6 = true ∨ s.dev.bit (.gateStep x.ctx) 7 = false ∨
      s.dev.regN (.gateStepCommitted x.ctx) ≠ x.opnd 0 8) :
    Answers (.evalBegin l) s fun t => Ends s t l 0x30 (expected s.dev x.ctx) s.dev [] :=
  h.answersStepOrder rfl (if_pos hstate)

theorem evalBegin_opens (hidle : stepState s.dev x.ctx = 0) (heval : s.dev.bit (.gateStep x.ctx) 6 = false)
    (hcommitted : s.dev.bit (.gateStep x.ctx) 7 = true) (hstep : s.dev.regN (.gateStepCommitted x.ctx) = x.opnd 0 8) :
    Answers (.evalBegin l) s fun t =>
      Ends s t l 0 0 { s.dev with evals := mapSet s.dev.evals x.ctx (x.opnd 0 8) } [(.gateStep x.ctx, bset (s.dev.reg (.gateStep x.ctx)) 6 true)] :=
  h.answersEnds rfl (if_neg (by simp [hidle, heval, hcommitted, hstep]))
    ((h.runsOn.change (g := fun d => { d with evals := mapSet d.evals x.ctx (x.opnd 0 8) }) fun _ _ _ _ => rfl).setReg _ _) h.unworked rfl (by decide)

end

/-- EVAL_END waits for the letters begun in its bracket (R337). -/
theorem evalEnd_waits (hx : findLetter s.dev l = some x) (hbracket : ∃ y ∈ s.dev.letters, y.bracket = 2 ∧ y.ctx = x.ctx) :
    exec (.evalEnd l) s = .next s := by
  show execEvalEnd l s = _
  simp only [execEvalEnd, State.onDev, hx]
  rw [if_pos (by simpa using hbracket)]

section
variable (h : Due s.dev l 0x15 x) (hbracket : ∀ y ∈ s.dev.letters, ¬ (y.bracket = 2 ∧ y.ctx = x.ctx))
include h hbracket

/-- Once no letter of its bracket is left, EVAL_END is judged as the other letters are. -/
theorem exec_evalEnd : exec (.evalEnd l) s = .next (s.onDev fun d => d.onLetter l 0x15 fun x d =>
    if mapGet? d.evals x.ctx = some (x.opnd 0 8) then
      ({ d with evals := mapErase d.evals x.ctx }.setBit (.gateStep x.ctx) 6 false).finish x.id 0 0
    else d.stepOrder x) := by
  show execEvalEnd l s = _
  simp only [execEvalEnd, State.onDev, h.found]
  rw [if_neg (by simpa using hbracket)]

theorem evalEnd_refused (heval : mapGet? s.dev.evals x.ctx ≠ some (x.opnd 0 8)) :
    Answers (.evalEnd l) s fun t => Ends s t l 0x30 (expected s.dev x.ctx) s.dev [] :=
  h.answersStepOrder (exec_evalEnd h hbracket) (if_neg heval)

theorem evalEnd_closes (heval : mapGet? s.dev.evals x.ctx = some (x.opnd 0 8)) : Answers (.evalEnd l) s fun t =>
    Ends s t l 0 0 { s.dev with evals := mapErase s.dev.evals x.ctx } [(.gateStep x.ctx, bset (s.dev.reg (.gateStep x.ctx)) 6 false)] :=
  h.answersEnds (exec_evalEnd h hbracket) (if_pos heval)
    ((h.runsOn.change (g := fun d => { d with evals := mapErase d.evals x.ctx }) fun _ _ _ _ => rfl).setReg _ _) h.unworked rfl (by decide)

end

end

/-- Settles O36: each letter is refused or accepted by the step's state as it was before the letter started. -/
theorem stepLettersHold : Obligations.StepLetters := by
  unfold Obligations.StepLetters
  rintro s l x _ _ rfl rfl
  refine ⟨?_, fun h => ⟨stepBegin_closed h, stepBegin_refused h, stepBegin_opens h⟩, fun h => ⟨stepCommit_refused h, stepCommit_decides h⟩,
    fun h => ⟨stepAbort_refused h, stepAbort_asks h⟩,
    fun h => ⟨evalBegin_refused h, evalBegin_opens h⟩, fun h hbracket => ⟨evalEnd_refused h hbracket, evalEnd_closes h hbracket⟩, evalEnd_waits⟩
  unfold expected
  rcases stepState s.dev x.ctx with _ | _ | _ | _ | n
  all_goals rfl

end Sys2Proof.Machine
end

section
/-! Doorbells (R110, R111): a doorbell that the offices pass rings its mailbox, and the four things that ringing can do. -/

namespace Sys2Proof.Machine

/-- The module with more messages at the end of its output. -/
def Dev.tells (d : Dev) (os : List Output) : Dev := { d with out := d.out ++ os }

theorem Dev.tells_nil (d : Dev) : d.tells [] = d := by
  rw [Dev.tells, List.append_nil]

theorem Dev.across_onlyRegs (d : Dev) (v : Via) (r : Reg) : OnlyRegs CountsBytes d (d.across v r) := by
  obtain ⟨hm, hr⟩ := d.acrossAt_counts v r.info.offset r.info.width
  exact ⟨hm, fun q hq => hr q fun n hn => hq ⟨n, hn⟩⟩

/-- Where a mailbox's reader reports rests on MBX_CFG alone (R109). -/
theorem readerInc_congr {d e : Dev} {n : Nat} (h : e.reg (.mbxCfg n) = d.reg (.mbxCfg n)) (cls : Nat) : readerInc e n cls = readerInc d n cls := by
  unfold readerInc readerDie readerPart Dev.bit Dev.fld
  rw [h]

/-- A doorbell of mailbox `n` that the offices pass rings on the module `b` that has counted its bytes; then the writer is told. -/
def Rings (i : Instr) (s b : State) (n : Nat) (al : Bool) (v : Nat) (ack : List Output) : Prop :=
  exec i s = .next { b with dev := (b.dev.bell n al v).tells ack } ∧ b = { s with dev := b.dev } ∧ OnlyRegs CountsBytes s.dev b.dev

theorem Rings.of_exec {i : Instr} {s : State} {d : Dev} {n v : Nat} {al : Bool} {ack : List Output}
    (h : exec i s = .next { s with dev := (d.bell n al v).tells ack }) (hd : OnlyRegs CountsBytes s.dev d) :
    Rings i s { s with dev := d } n al v ack := ⟨h, rfl, hd⟩

theorem exec_doorbell (src : BellSrc) (size : Nat) (value : W64) (s : State) :
    exec (.doorbell src size value) s = execDoorbell src size value s := rfl

theorem viaPort_bar0 : viaPort .bar0 = 4 := rfl

theorem width_mbxDoorbell (n : Nat) : (Reg.mbxDoorbell n).info.width = 8 := rfl

/-- The commander's write of a doorbell page rings on the module that has crossed the offices, whether the mailbox's partition is up
or down (R110, R491). -/
theorem execDoorbell_bar0 {s : State} {n off size : Nat} {value : W64} (hn : n < 256) (hoff : off < 8) (hon : barsOn s.dev = true)
    (hrec : s.dev.recovery = false) (hpass : OfficesPass s.dev .bar0 (Reg.mbxDoorbell n).info.offset) :
    execDoorbell (.bar0 n off) size value s =
      .next { s with dev := (s.dev.across .bar0 (.mbxDoorbell n)).bell n (decide (off = 0 ∧ size = 8)) value.toNat } := by
  have hwait : barWait s.dev = false := by simpa [barBlocked] using hpass.1
  have hgo : ¬ ((!barsOn s.dev) = true ∨ s.dev.recovery = true ∨ 256 ≤ n ∨ 8 ≤ off) := by
    simp [hon, hrec]; omega
  have hcross := crossing_pass 8 hpass
  obtain h | ⟨-, hsame, e, h⟩ := hcross
  · simp only [execDoorbell, State.onDev, if_neg hgo, hwait, if_neg Bool.false_ne_true, viaPort_bar0 ▸ h, Dev.across, width_mbxDoorbell]
  · simp only [execDoorbell, State.onDev, if_neg hgo, hwait, if_neg Bool.false_ne_true, viaPort_bar0 ▸ h, Dev.across, width_mbxDoorbell, hsame]

theorem rings_bar0 {s : State} {n off size : Nat} {value : W64} (hn : n < 256) (hoff : off < 8) (hon : barsOn s.dev = true)
    (hrec : s.dev.recovery = false) (hpass : OfficesPass s.dev .bar0 (Reg.mbxDoorbell n).info.offset) :
    Rings (.doorbell (.bar0 n off) size value) s (s.across .bar0 (.mbxDoorbell n)) n (decide (off = 0 ∧ size = 8)) value.toNat [] :=
  .of_exec ((exec_doorbell ..).trans (by rw [execDoorbell_bar0 hn hoff hon hrec hpass, Dev.tells_nil])) (s.dev.across_onlyRegs _ _)

/-- A doorbell written at MBX_DOORBELL rings when the write is granted. -/
theorem execDoorbell_mmio {s : State} {v : Via} {n size : Nat} {value : W64} (hn : n < 256) (h : Granted s.dev v .noEngine (.mbxDoorbell n)) :
    execDoorbell (.mmio v n) size value s =
      .next { s with dev := ((s.dev.across v (.mbxDoorbell n)).bell n (decide (size = 8)) value.toNat).tells (viaAck v) } := by
  unfold execDoorbell State.onDev Dev.tells
  dsimp only
  rw [if_neg (Nat.not_le.mpr hn), Dev.viaReg_granted h]

theorem rings_mmio {s : State} {v : Via} {n size : Nat} {value : W64} (hn : n < 256) (h : Granted s.dev v .noEngine (.mbxDoorbell n)) :
    Rings (.doorbell (.mmio v n) size value) s (s.across v (.mbxDoorbell n)) n (decide (size = 8)) value.toNat (viaAck v) :=
  .of_exec ((exec_doorbell ..).trans (execDoorbell_mmio hn h)) (s.dev.across_onlyRegs _ _)

section
variable {i : Instr} {s b : State} {n v : Nat} {al : Bool} {ack : List Output} (h : Rings i s b n al v ack)
include h

theorem Rings.reg {q : Reg} (hq : ∀ k, q ≠ .sortPortBytes k) : b.dev.reg q = s.dev.reg q := h.2.2.reg_eq hq

theorem Rings.mbState : b.dev.mbState n = s.dev.mbState n := by
  simp only [Dev.mbState, Dev.fld, h.reg (q := .mbxStatus n) (by simp)]

/-- What ringing leaves, when it changes one register and no field that the offices do not count in. -/
theorem Rings.becomes {e : Dev} {r : Reg} {w : W64} {m : Map Reg W64} (he : e = { s.dev with mbx := e.mbx })
    (hbell : b.dev.bell n al v = { e with regs := m }.setReg r w) (hm : m = b.dev.regs) :
    Answers i s fun t => Becomes b t { e with out := s.dev.out ++ ack } [(r, w)] := by
  obtain ⟨hexec, hb, ⟨m', hm'⟩, -⟩ := h
  refine ⟨_, hexec, ?_, ?_⟩
  · rw [hbell, he]; rfl
  · have := ((RegsRead.refl b.dev).set r w)
    refine this.congr ?_
    rw [hbell, hm]; rfl

/-- A doorbell that does not fit is dropped (R111). -/
theorem Rings.dropped (hbad : al = false ∨ bitsN v 55 48 ≠ n ∨ bitsN v 63 56 ≠ 0 ∨ s.dev.mbState n = 0 ∨ s.dev.mbState n = 3) :
    Answers i s fun t => Becomes b t { s.dev with out := s.dev.out ++ ack } [(.mbxStatus n, bset (s.dev.reg (.mbxStatus n)) 9 true)] := by
  have hbell : b.dev.bell n al v = b.dev.setBit (.mbxStatus n) 9 true := by
    rw [Dev.bell, if_pos (by rw [h.mbState]; simpa using hbad)]
  refine h.becomes rfl (m := b.dev.regs) ?_ rfl
  rw [hbell, Dev.setBit_eq, h.reg (by simp)]
  obtain ⟨-, -, ⟨m', hm'⟩, -⟩ := h
  rw [hm']

section
variable (hal : al = true) (hname : bitsN v 55 48 = n) (hres : bitsN v 63 56 = 0) (h0 : s.dev.mbState n ≠ 0) (h3 : s.dev.mbState n ≠ 3)
include hal hname hres h0 h3

/-- What an accepted form of doorbell does turns on its TAIL alone (R111). -/
theorem Rings.bell_eq : b.dev.bell n al v =
    if 2 ^ s.dev.fld (.mbxCfg n) 3 0 < (bitsN v 47 32 + 65536 - s.dev.fld (.mbxHead n) 15 0) % 65536 then
      (b.dev.setBit (.mbxStatus n) 10 true).raise { readerInc s.dev n 2 with d0 := bitsN v 47 32 + s.dev.fld (.mbxHead n) 15 0 * 2 ^ 16 }
    else if bitsN v 47 32 = s.dev.fld (.mbxTail n) 15 0 then b.dev
    else { b.dev with mbx := mapSet s.dev.mbx n { s.dev.mb n with bell := BitVec.ofNat 32 v } }.setFld (.mbxTail n) 15 0 (bitsN v 47 32) := by
  have hcfg : b.dev.reg (.mbxCfg n) = s.dev.reg (.mbxCfg n) := h.reg (by simp)
  have hinc : readerInc b.dev n 2 = readerInc s.dev n 2 := readerInc_congr hcfg 2
  have hmbx : b.dev.mbx = s.dev.mbx := by
    obtain ⟨-, -, ⟨m', hm'⟩, -⟩ := h
    rw [hm']
  unfold Dev.bell
  rw [if_neg (by rw [h.mbState]; simp [hal, hname, hres, h0, h3]), hinc]
  unfold Dev.fld Dev.mb
  rw [hcfg, h.reg (q := .mbxHead n) (by simp), h.reg (q := .mbxTail n) (by simp), hmbx]

/-- A doorbell past the end of the ring is dropped and reported. -/
theorem Rings.overruns (hlong : 2 ^ s.dev.fld (.mbxCfg n) 3 0 < (bitsN v 47 32 + 65536 - s.dev.fld (.mbxHead n) 15 0) % 65536) :
    Answers i s fun t => ∃ u, Reports b u s.dev [(.mbxStatus n, bset (s.dev.reg (.mbxStatus n)) 10 true)]
        { cls := 2, eng := 0x10, die := readerDie s.dev n, part := readerPart s.dev n, mbx := n,
          d0 := bitsN v 47 32 + s.dev.fld (.mbxHead n) 15 0 * 2 ^ 16 } ∧
      t = { u with dev := { u.dev with out := u.dev.out ++ ack } } := by
  have hbell := h.bell_eq hal hname hres h0 h3
  rw [if_pos hlong] at hbell
  have hreg : b.dev.reg (.mbxStatus n) = s.dev.reg (.mbxStatus n) := h.reg (by simp)
  obtain ⟨hexec, hb, ⟨m, hm⟩, -⟩ := h
  refine ⟨_, hexec, { b with dev := b.dev.bell n al v }, ⟨{ b with dev := b.dev.setBit (.mbxStatus n) 10 true }, ⟨?_, ?_⟩, ?_⟩, rfl⟩
  · rw [hm]; rfl
  · rw [← hreg]
    exact (RegsRead.refl b.dev).set _ _
  · rw [hbell]; rfl

/-- A doorbell with the TAIL accepted last does nothing. -/
theorem Rings.repeated (hfits : (bitsN v 47 32 + 65536 - s.dev.fld (.mbxHead n) 15 0) % 65536 ≤ 2 ^ s.dev.fld (.mbxCfg n) 3 0)
    (hsame : bitsN v 47 32 = s.dev.fld (.mbxTail n) 15 0) : Runs i s { b.dev with out := s.dev.out ++ ack } := by
  have hbell := h.bell_eq hal hname hres h0 h3
  rw [if_neg (Nat.not_lt.mpr hfits), if_pos hsame] at hbell
  obtain ⟨hexec, hb, ⟨m, hm⟩, -⟩ := h
  rw [hbell] at hexec
  rw [Runs, hexec, hb, hm]
  rfl

/-- Any other doorbell moves the target TAIL and the postmark that is expected. -/
theorem Rings.accepted (hfits : (bitsN v 47 32 + 65536 - s.dev.fld (.mbxHead n) 15 0) % 65536 ≤ 2 ^ s.dev.fld (.mbxCfg n) 3 0)
    (hnew : bitsN v 47 32 ≠ s.dev.fld (.mbxTail n) 15 0) : Answers i s fun t =>
      Becomes b t { s.dev with mbx := mapSet s.dev.mbx n { s.dev.mb n with bell := BitVec.ofNat 32 v }, out := s.dev.out ++ ack }
        [(.mbxTail n, fset (s.dev.reg (.mbxTail n)) 15 0 (bitsN v 47 32))] := by
  have hbell := h.bell_eq hal hname hres h0 h3
  rw [if_neg (Nat.not_lt.mpr hfits), if_neg hnew] at hbell
  refine h.becomes (e := { s.dev with mbx := mapSet s.dev.mbx n { s.dev.mb n with bell := BitVec.ofNat 32 v } }) rfl (m := b.dev.regs) ?_ rfl
  rw [hbell, Dev.setFld_eq, ← h.reg (q := .mbxTail n) (by simp)]
  obtain ⟨-, -, ⟨m', hm'⟩, -⟩ := h
  rw [hm']
  rfl

end
end

/-- Settles O27: the doorbell rings from either place, and what it does is one of the four outcomes of R111. -/
theorem doorbellRule : Obligations.DoorbellRule := by
  unfold Obligations.DoorbellRule
  intro s b src ack n size value aligned hn hsrc
  obtain ⟨al, hal, hring⟩ : ∃ al : Bool, (al = true ↔ aligned) ∧ Rings (.doorbell src size value) s b n al value.toNat ack := by
    obtain ⟨off, rfl, hoff, hon, hrec, hpass, rfl, rfl, hal⟩ | ⟨v, rfl, hgranted, rfl, rfl, hal⟩ := hsrc
    · exact ⟨_, by rw [hal, decide_eq_true_iff], rings_bar0 hn hoff hon hrec hpass⟩
    · exact ⟨_, by rw [hal, decide_eq_true_iff], rings_mmio hn hgranted⟩
  refine ⟨fun hbad => hring.dropped (hbad.imp_left fun hna => by simpa [← hal] using hna), ?_⟩
  rintro haligned hname hres h0 h3 _ _ rfl rfl
  have hal' : al = true := hal.mpr haligned
  exact ⟨hring.overruns hal' hname hres h0 h3, fun hfits =>
    ⟨hring.repeated hal' hname hres h0 h3 hfits, hring.accepted hal' hname hres h0 h3 hfits⟩⟩

end Sys2Proof.Machine
end

section
/-! What the end of a letter leaves alone beside the tables: memory, contexts, objects, the cached translations and stash entries,
edges with their markers and drains, the mailboxes, the requests for functions, and the other letters. -/

namespace Sys2Proof.Machine

/-! ### The view -/

/-- Registers of mailboxes, context resets, journals and pools, and the counts of the engines' progress. -/
def ledgerReg : Reg → Bool
  | .mbxHead _ | .mbxSeq _ | .mbxCtrl _ | .mbxStatus _ | .gateCtxReset | .embJournal _ _ _ | .hallHistPool _ _
  | .embSortProgress _ _ | .embGatherProgress _ _ | .attProgress _ _ => true
  | _ => false

/-- What the end of a letter does not touch, and the letters. -/
structure Ledger where
  parts : Map Nat PartImage
  mem : Mem
  ctxs : Map Nat Ctx
  objs : Map Nat Obj
  stash : Map (Nat × Nat × Nat) Stash
  tlb : Map (Nat × Nat) (Nat × Nat)
  edges : Map (Nat × Nat) (Nat × Nat)
  markers : List GenMarker
  drains : List Drain
  advances : List (Nat × Nat)
  incHeld : List (Option Nat × List Byte)
  mbx : Map Nat Mbx
  fns : Map FnId (List FnReq)
  letters : List Letter
  regs : Reg → Option W64

def Dev.ledger (d : Dev) : Ledger :=
  ⟨d.parts, d.mem, d.ctxs, d.objs, d.stash, d.tlb, d.edges, d.markers, d.drains, d.advances, d.incHeld, d.mbx, d.fns, d.letters,
    fun r => if ledgerReg r = true then some (d.reg r) else none⟩

theorem reg_of_ledger {d e : Dev} {ls : List Letter} (h : e.ledger = { d.ledger with letters := ls }) {r : Reg} (hr : ledgerReg r = true) :
    e.reg r = d.reg r := by
  have hread := congrFun (congrArg Ledger.regs h) r
  simpa [Dev.ledger, hr] using hread

/-! ### Registers and links -/

section
variable {r : Reg} (hr : ledgerReg r = false) (d : Dev)
include hr

theorem ledger_setReg (v : W64) : (d.setReg r v).ledger = d.ledger := by
  have hregs : (fun q => if ledgerReg q = true then some ((d.setReg r v).reg q) else none) =
      fun q => if ledgerReg q = true then some (d.reg q) else none := by
    funext q
    split
    · next hq => rw [Dev.reg_setReg, if_neg (by rintro rfl; simp [hr] at hq)]
    · rfl
  show (⟨_, _, _, _, _, _, _, _, _, _, _, _, _, _, _⟩ : Ledger) = _
  rw [hregs]
  rfl

theorem ledger_setFld (hi lo n : Nat) : (d.setFld r hi lo n).ledger = d.ledger := ledger_setReg hr d _
theorem ledger_setBit (i : Nat) (b : Bool) : (d.setBit r i b).ledger = d.ledger := ledger_setReg hr d _

end

/-- What keeps the view step by step keeps it over a list. -/
theorem ledger_each {α : Type} {d : Dev} {f : Dev → α → Dev} (l : List α) (h : ∀ e x, (f e x).ledger = e.ledger) :
    (d.each l f).ledger = d.ledger :=
  Dev.each_keeps (Q := fun e => e.ledger = d.ledger) l f (fun e x he => (h e x).trans he) d rfl

theorem ledger_pump (n k : Nat) (d : Dev) : (d.pump n k).ledger = d.ledger := by
  induction k generalizing d with
  | zero => rfl
  | succ k ih =>
    unfold Dev.pump
    dsimp only
    split
    · rfl
    · split
      · exact ih _
      · rfl

theorem ledger_enqueue (d : Dev) (n : Nat) (f : Frame) : (d.enqueue n f).ledger = d.ledger := ledger_pump _ _ _

theorem ledger_postcard (d : Dev) (dst : Nat) (m : Msg) : (d.postcard dst m).ledger = d.ledger := by
  unfold Dev.postcard
  split
  · rfl
  · unfold Dev.route
    split
    · exact ledger_enqueue _ _ _
    · rfl

/-! ### Engines -/

theorem ledger_engState (d : Dev) (p node slot n : Nat) : (d.engState p node slot n).ledger = d.ledger := by
  unfold Dev.engState
  split
  · split
    · exact ledger_setFld rfl ..
    · split
      · exact ledger_setFld rfl ..
      · rfl
  · split
    · exact ledger_setFld rfl ..
    · split
      · split <;> exact ledger_setFld rfl ..
      · exact ledger_setFld rfl ..

theorem ledger_setWait (d : Dev) (p node slot k : Nat) : (d.setWait p node slot k).ledger = d.ledger := ledger_setFld rfl ..

theorem ledger_unpark (d : Dev) (p t a : Nat) : (d.unpark p t a).ledger = d.ledger := by
  unfold Dev.unpark
  exact (ledger_setBit rfl ..).trans ((ledger_setReg rfl ..).trans (ledger_setReg rfl ..))

theorem ledger_frkState (d : Dev) (p t : Nat) : (d.frkState p t).ledger = d.ledger := by
  unfold Dev.frkState
  split
  · rfl
  · exact (ledger_setBit rfl ..).trans (ledger_engState ..)

theorem ledger_redState (d : Dev) (p : Nat) : (d.redState p).ledger = d.ledger := by
  unfold Dev.redState
  split
  · rfl
  · dsimp only
    split
    · exact ledger_engState ..
    · exact (ledger_setWait ..).trans (ledger_engState ..)

theorem ledger_dropRun (d : Dev) (r : Run) : (d.dropRun r).ledger = d.ledger := by
  unfold Dev.dropRun
  extract_lets e f g
  have hf : f.ledger = d.ledger := by
    refine (ledger_setWait ..).trans ?_
    split
    · rfl
    · exact ledger_engState ..
  have hg : g.ledger = d.ledger := (ledger_setBit rfl ..).trans hf
  split
  · split
    · exact ledger_unpark ..
    · rfl
  · split
    · split
      · exact (ledger_unpark ..).trans hg
      · exact hg
    · split
      · exact (ledger_frkState ..).trans hf
      · exact hf

theorem ledger_dropWork (d : Dev) (l : LetterId) : (d.dropWork l).ledger = d.ledger := by
  unfold Dev.dropWork
  extract_lets frks flying e f g
  have he : e.ledger = d.ledger := ledger_each _ fun _ _ => ledger_dropRun ..
  have hg : g.ledger = d.ledger := (ledger_each _ fun _ _ => ledger_setBit rfl ..).trans he
  exact ((ledger_each _ fun _ _ => ledger_redState ..).trans (ledger_each _ fun _ _ => ledger_frkState ..)).trans hg

/-! ### The end of a letter -/

theorem ledger_spoilBy (d : Dev) (x : Letter) (st : Nat) : (d.spoilBy x st).ledger = d.ledger := by
  unfold Dev.spoilBy
  split
  · unfold Dev.spoil
    split
    · exact (ledger_postcard ..).trans (ledger_setBit rfl ..)
    · rfl
  · rfl

/-- A zero-length read is counted in its letter. -/
theorem ledger_zeroRead (d : Dev) (l : LetterId) (a : Nat) (region : Option Region) :
    (d.zeroRead l a region).ledger = { d.ledger with letters := lettersWith d l fun y => { y with zeroReads := y.zeroReads + 1 } } := by
  unfold Dev.zeroRead Dev.flushRead
  split <;> rfl

/-- The letters, with one that has ended with a result and has `k` more zero-length reads on their way. -/
def endedWith (d : Dev) (l : LetterId) (res : Nat × Nat) (k : Nat) : List Letter :=
  lettersWith d l fun y => { y with result := some res, zeroReads := y.zeroReads + k }

/-- More zero-length reads change the count alone. -/
theorem ledger_endedWith_zeroRead {d e : Dev} {l : LetterId} {res : Nat × Nat} {k : Nat}
    (h : e.ledger = { d.ledger with letters := endedWith d l res k }) (a : Nat) (region : Option Region) :
    (e.zeroRead l a region).ledger = { d.ledger with letters := endedWith d l res (k + 1) } := by
  have hletters : e.letters = endedWith d l res k := congrArg Ledger.letters h
  have hadd : lettersWith e l (fun y => { y with zeroReads := y.zeroReads + 1 }) = endedWith d l res (k + 1) :=
    lettersWith_lettersWith d e l (fun y => { y with result := some res, zeroReads := y.zeroReads + k }) _ (fun _ => rfl) hletters
  rw [ledger_zeroRead, h, hadd]

theorem ledger_zeroReads {d : Dev} {l : LetterId} {res : Nat × Nat} (rs : List Region) :
    ∀ e : Dev, (∃ k, e.ledger = { d.ledger with letters := endedWith d l res k }) →
      ∃ k, (e.each rs fun e r => e.zeroRead l r.last (some r)).ledger = { d.ledger with letters := endedWith d l res k } :=
  Dev.each_keeps (Q := fun e => ∃ k, e.ledger = { d.ledger with letters := endedWith d l res k }) rs _
    fun _ _ ⟨k, hk⟩ => ⟨k + 1, ledger_endedWith_zeroRead hk _ _⟩

theorem ledger_letterEnd (d : Dev) (l : LetterId) (x : Letter) (st dt : Nat) :
    ∃ k, (d.letterEnd l x st dt).ledger = { d.ledger with letters := endedWith d l (st, dt % 65536) k } := by
  unfold Dev.letterEnd
  extract_lets e f
  have he : e.ledger = { d.ledger with letters := endedWith d l (st, dt % 65536) 0 } := (ledger_spoilBy ..).trans (ledger_dropWork ..)
  have hf : ∃ k, f.ledger = { d.ledger with letters := endedWith d l (st, dt % 65536) k } := by
    unfold f
    split
    · exact ⟨1, ledger_endedWith_zeroRead he _ _⟩
    · exact ⟨0, he⟩
  split
  · exact ⟨0, he⟩
  · exact ledger_zeroReads _ _ hf

/-- A letter that has not ended ends with a status that no failed flush takes the place of; of the rest of the ledger nothing changes. -/
theorem ledger_finish {d : Dev} {l : LetterId} {x : Letter} {st : Nat} (hx : findLetter d l = some x) (hres : x.result = none)
    (hst : st ≠ 0 ∨ x.flushErr = none) (dt : Nat) :
    ∃ k, (d.finish l st dt).ledger = { d.ledger with letters := endedWith d l (st, dt % 65536) k } := by
  have hfin : d.finish l st dt = d.letterEnd l x st dt := by
    unfold Dev.finish
    simp only [hx, hres]
    cases st with
    | zero => rw [show x.flushErr = none by simpa using hst]; rfl
    | succ n => cases x.flushErr <;> rfl
  rw [hfin]
  exact ledger_letterEnd ..

/-- Whatever becomes of its letter, an end changes the letters called so alone. -/
theorem ledger_finish_any (d : Dev) (l : LetterId) (st dt : Nat) :
    (d.finish l st dt).ledger = d.ledger ∨ ∃ st' dt' k, (d.finish l st dt).ledger = { d.ledger with letters := endedWith d l (st', dt') k } := by
  obtain h | ⟨x, st', dt', -, h⟩ := d.finish_cases l st dt
  · rw [h]
    exact .inl rfl
  · obtain ⟨k, hk⟩ := ledger_letterEnd d l x st' dt'
    rw [h]
    exact .inr ⟨_, _, k, hk⟩

end Sys2Proof.Machine
end

section
/-! Fetching letters (R112-R116): when the reader fetches, what it gets from commander memory, and how an attempt ends. -/

namespace Sys2Proof.Machine

/-! ### The bytes of a fetched letter -/

theorem slice_whole {bs : List Byte} {n : Nat} (h : bs.length = n) : slice bs 0 n = bs := by
  simp [slice, ← h]

theorem field_flatten_head {slots : List (List Byte)} {off len n : Nat} (hlen : ∀ b ∈ slots, b.length = n) (hn : off + len ≤ n) (hne : slots ≠ []) :
    field (slots.getD 0 []) off len = field slots.flatten off len := by
  cases slots with
  | nil => exact absurd rfl hne
  | cons b bs =>
    have hb : b.length = n := hlen b (by simp)
    simp only [field, slice_eq_map, List.getD_cons_zero, List.flatten_cons]
    refine congrArg leNat (List.map_congr_left fun i hi => ?_)
    have hlt : off + i < b.length := by rw [List.mem_range] at hi; omega
    rw [List.getD_eq_getElem?_getD, List.getD_eq_getElem?_getD, List.getElem?_append_left hlt]

/-- Whole slots one after another are the letter's bytes. -/
theorem flatMap_slots {n : Nat} {slots : List (List Byte)} (hlen : ∀ b ∈ slots, b.length = n) :
    ((List.range slots.length).flatMap fun i => slice (slots.getD i []) 0 n) = slots.flatten := by
  have hmap : (List.range slots.length).map (fun i => slice (slots.getD i []) 0 n) = slots := by
    refine List.ext_getElem (by simp) fun i _ hi => ?_
    simp [List.getElem?_eq_getElem hi, slice_whole (hlen _ (List.getElem_mem hi))]
  rw [List.flatMap_def, hmap]

section
variable {d : Dev} {n a : Nat} {slots : List (List Byte)}

/-- From commander memory the reader gets as many slots as CONT says. -/
theorem fetchSlots_host (hbase : untag (d.regN (.mbxBase n)) = .host a) (hbus : d.pcie.busMaster = true) (hlen : ∀ b ∈ slots, b.length = 128)
    (hcount : slots.length = 1 + field slots.flatten 3 1 % 4) : fetchSlots d n slots none = (.ok slots.flatten, d) := by
  have hne : slots ≠ [] := by rintro rfl; simp only [List.length_nil] at hcount; omega
  have hslots := flatMap_slots hlen
  rw [hcount, Nat.add_comm] at hslots
  unfold fetchSlots
  simp only [hbase, hbus, field_flatten_head hlen (by omega : 3 + 1 ≤ 128) hne, hslots]
  rfl

/-- The number by which LATE_LETTER names a failed fetch (R115). -/
def fetchCode : FetchError → Nat
  | .addressFault => 1
  | .partitionDown => 2
  | .uncorrectable => 3

theorem fetchSlots_fails (hbase : untag (d.regN (.mbxBase n)) = .host a) (e : FetchError) :
    fetchSlots d n slots (some e) = (.error (some (fetchCode e)), d) := by
  unfold fetchSlots
  simp only [hbase]
  cases e <;> rfl

end

/-! ### When the reader fetches -/

theorem mayFetch_idle {d : Dev} {n : Nat} (h : d.mbState n = 4 ∨ d.fld (.mbxHead n) 15 0 = d.fld (.mbxTail n) 15 0) : mayFetch d n = false := by
  unfold mayFetch
  obtain h | h := h <;> simp [h]

/-- A fetch of a series, or a retry within one: an attempt, when the reader may fetch (R114, R115). -/
theorem exec_fetch {c : Instr} {s : State} {n : Nat} {slots : List (List Byte)} {error : Option FetchError}
    (hc : (c = .letterFetch n slots error ∧ (s.dev.mb n).attempts = 0) ∨ (c = .letterFetchRetry n slots error ∧ (s.dev.mb n).attempts ≠ 0)) :
    exec c s = .next { s with dev := if mayFetch s.dev n = true then s.dev.attempt n slots error else s.dev } := by
  obtain ⟨rfl, h⟩ | ⟨rfl, h⟩ := hc
  · show execLetterFetch n slots error s = _
    simp only [execLetterFetch, State.onDev, h, and_true]
  · show execLetterFetchRetry n slots error s = _
    simp only [execLetterFetchRetry, State.onDev, h, ne_eq, not_false_iff, and_true]

/-! ### A letter that is accepted -/

/-- The letter in fetched bytes (R104). -/
def letterIn (n : Nat) (bytes : List Byte) : Letter :=
  { id := ⟨n, field bytes 8 4⟩, opcode := field bytes 0 1, flags := field bytes 1 1, ctx := field bytes 2 1 % 64, gen := field bytes 4 2 % 4096,
    route := field bytes 6 2 % 4096, postmark := BitVec.ofNat 32 (field bytes 0xC 4), rcpt := field bytes 0x10 8, encLen := field bytes 0x18 2,
    body := bytes.drop 32, started := false, result := none, sat := 0, nonfin := 0, dead := 0, skipped := false, readThrough := false, stages := [],
    pcieLast := none, pcieStage := 0xFF, regions := [], zeroReads := 0, flushErr := none, podAcks := 0, usesHost := false, usesPod := false, bracket := 0 }

/-- The module that holds the letter: HEAD and SEQ are behind it, and the next series starts afresh. -/
def Dev.holdsLetter (d : Dev) (n : Nat) (bytes : List Byte) : Dev :=
  let d := (d.setFld (.mbxHead n) 15 0 (d.fld (.mbxHead n) 15 0 + (1 + field bytes 3 1 % 4))).setFld (.mbxSeq n) 31 0 (field bytes 8 4 + 1)
  { d with mbx := mapSet d.mbx n { d.mb n with attempts := 0 }, letters := d.letters ++ [letterIn n bytes] }

section
variable {d : Dev} {n : Nat} {bytes : List Byte}

theorem Dev.accept_eq (h : field bytes 0x10 8 % 32 = 0) : d.accept n bytes =
    match formatCheck bytes with
    | some (st, dt) => (d.holdsLetter n bytes).finish ⟨n, field bytes 8 4⟩ st dt
    | none => d.holdsLetter n bytes := by
  unfold Dev.accept
  extract_lets k seq e f g body op c gen route x
  rw [if_neg (fun hne => hne h)]
  rfl

theorem formatCheck_ne_zero {st dt : Nat} (h : formatCheck bytes = some (st, dt)) : st ≠ 0 := by
  rintro rfl
  unfold formatCheck at h
  dsimp only at h
  split at h <;> split at h <;> simp at h

theorem findLetter_holdsLetter (h : findLetter d ⟨n, field bytes 8 4⟩ = none) :
    findLetter (d.holdsLetter n bytes) ⟨n, field bytes 8 4⟩ = some (letterIn n bytes) := by
  show (d.letters ++ [letterIn n bytes]).find? _ = _
  rw [List.find?_append, show d.letters.find? _ = none from h]
  simp [letterIn]

/-- The letters when the newest has ended, and no other is called as it is. -/
theorem endedWith_holdsLetter (h : findLetter d ⟨n, field bytes 8 4⟩ = none) (res : Nat × Nat) (k : Nat) :
    endedWith (d.holdsLetter n bytes) ⟨n, field bytes 8 4⟩ res k = d.letters ++ [{ letterIn n bytes with result := some res, zeroReads := k }] := by
  have hold : ∀ y ∈ d.letters, y.id ≠ ⟨n, field bytes 8 4⟩ := by simpa [findLetter] using h
  show lettersWith { d with letters := d.letters ++ [letterIn n bytes] } _ _ = _
  rw [lettersWith, List.map_append]
  congr 1
  · exact (List.map_congr_left fun y hy => if_neg (hold y hy)).trans (List.map_id' _)
  · simp [letterIn]

/-- Of what `accept` does beside the letters nothing depends on the format: HEAD, SEQ, the series, memory and the contexts. -/
theorem ledger_accept (h : field bytes 0x10 8 % 32 = 0) :
    ∃ ls, (d.accept n bytes).ledger = { (d.holdsLetter n bytes).ledger with letters := ls } := by
  rw [Dev.accept_eq h]
  split
  · next st dt _ =>
    obtain hsame | ⟨st', dt', k, hend⟩ := ledger_finish_any (d.holdsLetter n bytes) ⟨n, field bytes 8 4⟩ st dt
    · exact ⟨_, hsame⟩
    · exact ⟨_, hend⟩
  · exact ⟨_, rfl⟩

/-- A letter is held as it was fetched; one that breaks the format, and is the only one of its name, has ended. -/
theorem letters_accept (h : field bytes 0x10 8 % 32 = 0) : ∃ res k,
    (formatCheck bytes = none → res = none ∧ (d.accept n bytes).letters = d.letters ++ [{ letterIn n bytes with result := res, zeroReads := k }]) ∧
    ∀ st dt, findLetter d ⟨n, field bytes 8 4⟩ = none → formatCheck bytes = some (st, dt) →
      res = some (st, dt % 65536) ∧ (d.accept n bytes).letters = d.letters ++ [{ letterIn n bytes with result := res, zeroReads := k }] := by
  rw [Dev.accept_eq h]
  cases hf : formatCheck bytes with
  | none => exact ⟨none, 0, fun _ => ⟨rfl, rfl⟩, fun _ _ _ hc => (nomatch hc)⟩
  | some e =>
    obtain ⟨st, dt⟩ := e
    by_cases hnew : findLetter d ⟨n, field bytes 8 4⟩ = none
    · obtain ⟨k, hk⟩ := ledger_finish (findLetter_holdsLetter hnew) rfl (.inl (formatCheck_ne_zero hf)) dt
      refine ⟨some (st, dt % 65536), k, fun hc => (nomatch hc), ?_⟩
      rintro _ _ - ⟨⟩
      exact ⟨rfl, (congrArg Ledger.letters hk).trans (endedWith_holdsLetter hnew _ _)⟩
    · exact ⟨none, 0, fun hc => (nomatch hc), fun _ _ hc => absurd hc hnew⟩

end

/-! ### An attempt -/

/-- What the attempts of a series read, they read as before ARM clears. -/
theorem postmarkOk_arm (d : Dev) (n : Nat) (bytes : List Byte) : postmarkOk (d.setBit (.mbxCtrl n) 1 false) n bytes = postmarkOk d n bytes := by
  have hreg : ∀ q, q ≠ .mbxCtrl n → (d.setBit (.mbxCtrl n) 1 false).reg q = d.reg q := fun q hq => by rw [Dev.reg_setBit, if_neg hq.symm]
  unfold postmarkOk Dev.fld Dev.regN
  rw [hreg _ (by simp), hreg _ (by simp), hreg _ (by simp)]
  rfl

/-- An attempt fails: it counts, and the eighth makes the mailbox LATE (R115, R116). -/
def Dev.attemptFails (d : Dev) (n how pm : Nat) : Dev :=
  let k := (d.mb n).attempts + 1
  let d := { d with mbx := mapSet d.mbx n { d.mb n with attempts := k } }
  if k < 8 then d else
  let d := (d.setBit (.mbxStatus n) 8 true).setFld (.mbxStatus n) 2 0 4
  d.raise { readerInc d n 1 with d0 := d.fld (.mbxHead n) 15 0 + d.regN (.mbxSeq n) * 2 ^ 32, d1 := (d.mb n).bell.toNat + pm * 2 ^ 32, d2 := how }

section
variable {d : Dev} {n a : Nat} {slots : List (List Byte)} (hbase : untag (d.regN (.mbxBase n)) = .host a)
include hbase

theorem base_arm : untag ((d.setBit (.mbxCtrl n) 1 false).regN (.mbxBase n)) = .host a := by
  rw [Dev.regN, Dev.reg_setBit, if_neg (by simp)]
  exact hbase

theorem attempt_of_error (e : FetchError) : d.attempt n slots (some e) = (d.setBit (.mbxCtrl n) 1 false).attemptFails n (fetchCode e) 0 := by
  unfold Dev.attempt
  dsimp only
  rw [fetchSlots_fails (base_arm hbase)]
  rfl

section
variable (hbus : d.pcie.busMaster = true) (hlen : ∀ b ∈ slots, b.length = 128) (hcount : slots.length = 1 + field slots.flatten 3 1 % 4)
include hbus hlen hcount

theorem attempt_of_fetched : d.attempt n slots none =
    if postmarkOk d n slots.flatten = true then (d.setBit (.mbxCtrl n) 1 false).accept n slots.flatten
    else (d.setBit (.mbxCtrl n) 1 false).attemptFails n 0 (field slots.flatten 0xC 4) := by
  unfold Dev.attempt
  dsimp only
  rw [fetchSlots_host (base_arm hbase) (by simpa [Dev.setBit_eq] using hbus) hlen hcount]
  dsimp only
  rw [postmarkOk_arm]
  rfl

end
end

/-- A failed attempt before the eighth counts, and ARM clears. -/
theorem attemptFails_counts {s : State} {n : Nat} (h : (s.dev.mb n).attempts < 7) (how pm : Nat) :
    Becomes s { s with dev := (s.dev.setBit (.mbxCtrl n) 1 false).attemptFails n how pm }
      { s.dev with mbx := mapSet s.dev.mbx n { s.dev.mb n with attempts := (s.dev.mb n).attempts + 1 } }
      [(.mbxCtrl n, bset (s.dev.reg (.mbxCtrl n)) 1 false)] := by
  have hfail : (s.dev.setBit (.mbxCtrl n) 1 false).attemptFails n how pm =
      { s.dev.setBit (.mbxCtrl n) 1 false with mbx := mapSet s.dev.mbx n { s.dev.mb n with attempts := (s.dev.mb n).attempts + 1 } } := by
    unfold Dev.attemptFails
    exact if_pos (Nat.succ_lt_succ h)
  rw [hfail]
  exact ⟨rfl, ((RegsRead.refl s.dev).set _ _).congr rfl⟩

/-- The module once the eighth attempt has failed, before that is reported. -/
def Dev.lateMailbox (d : Dev) (n : Nat) : Dev :=
  ((({ d.setBit (.mbxCtrl n) 1 false with mbx := mapSet d.mbx n { d.mb n with attempts := 8 } } : Dev).setBit (.mbxStatus n) 8 true).setFld (.mbxStatus n) 2 0 4)

theorem Dev.reg_lateMailbox (d : Dev) (n : Nat) (q : Reg) : (d.lateMailbox n).reg q =
    if .mbxStatus n = q then fset (bset (d.reg (.mbxStatus n)) 8 true) 2 0 4 else if .mbxCtrl n = q then bset (d.reg (.mbxCtrl n)) 1 false else d.reg q := by
  have harm : ∀ r, ({ d.setBit (.mbxCtrl n) 1 false with mbx := mapSet d.mbx n { d.mb n with attempts := 8 } } : Dev).reg r =
      if .mbxCtrl n = r then bset (d.reg (.mbxCtrl n)) 1 false else d.reg r := fun r => Dev.reg_setBit ..
  rw [Dev.lateMailbox, Dev.reg_setFld, Dev.reg_setBit, Dev.reg_setBit, harm, harm]
  split <;> simp

/-- The eighth failure makes the mailbox LATE and is reported. -/
theorem attemptFails_late {s : State} {n : Nat} (h : (s.dev.mb n).attempts = 7) (how pm : Nat) :
    Reports s { s with dev := (s.dev.setBit (.mbxCtrl n) 1 false).attemptFails n how pm }
      { s.dev with mbx := mapSet s.dev.mbx n { s.dev.mb n with attempts := 8 } }
      [(.mbxStatus n, fset (bset (s.dev.reg (.mbxStatus n)) 8 true) 2 0 4), (.mbxCtrl n, bset (s.dev.reg (.mbxCtrl n)) 1 false)]
      { cls := 1, eng := 0x10, die := readerDie s.dev n, part := readerPart s.dev n, mbx := n,
        d0 := s.dev.fld (.mbxHead n) 15 0 + s.dev.regN (.mbxSeq n) * 2 ^ 32, d1 := (s.dev.mb n).bell.toNat + pm * 2 ^ 32, d2 := how } := by
  refine ⟨{ s with dev := s.dev.lateMailbox n }, ⟨rfl, fun q => ?_⟩, ?_⟩
  · rw [Dev.reg_lateMailbox]
    simp only [mapGet?_cons, mapGet?_nil]
    repeat' split
    all_goals rfl
  · have hreg : ∀ q, q ≠ .mbxStatus n → q ≠ .mbxCtrl n → (s.dev.lateMailbox n).reg q = s.dev.reg q := fun q h1 h2 => by
      rw [Dev.reg_lateMailbox, if_neg h1.symm, if_neg h2.symm]
    have hmb : (s.dev.lateMailbox n).mb n = { s.dev.mb n with attempts := 8 } := by
      unfold Dev.mb
      exact (mapGet_mapSet ..).trans (if_pos rfl)
    have hfail : (s.dev.setBit (.mbxCtrl n) 1 false).attemptFails n how pm = (s.dev.lateMailbox n).raise { readerInc (s.dev.lateMailbox n) n 1 with
        d0 := (s.dev.lateMailbox n).fld (.mbxHead n) 15 0 + (s.dev.lateMailbox n).regN (.mbxSeq n) * 2 ^ 32,
        d1 := ((s.dev.lateMailbox n).mb n).bell.toNat + pm * 2 ^ 32, d2 := how } := by
      unfold Dev.attemptFails
      rw [show ((s.dev.setBit (.mbxCtrl n) 1 false).mb n).attempts = 7 from h]
      rfl
    rw [hfail, readerInc_congr (hreg (.mbxCfg n) (by simp) (by simp)), hmb]
    unfold Dev.fld Dev.regN
    rw [hreg _ (by simp) (by simp), hreg _ (by simp) (by simp)]
    rfl

section
variable {d : Dev} {n : Nat} {bytes : List Byte}

/-- A module that has accepted a letter: where it reads next, and what the letter is. -/
theorem accept_spec (hrcpt : field bytes 0x10 8 % 32 = 0) {t : Dev} (ht : (d.setBit (.mbxCtrl n) 1 false).accept n bytes = t) :
    t.fld (.mbxHead n) 15 0 = (d.fld (.mbxHead n) 15 0 + (1 + field bytes 3 1 % 4)) % 65536 ∧
    t.fld (.mbxSeq n) 31 0 = (field bytes 8 4 + 1) % 2 ^ 32 ∧ t.bit (.mbxCtrl n) 1 = false ∧ (t.mb n).attempts = 0 ∧ (t.mb n).bell = (d.mb n).bell ∧
    t.mem = d.mem ∧ t.ctxs = d.ctxs := by
  obtain ⟨ls, hls⟩ := ledger_accept (d := d.setBit (.mbxCtrl n) 1 false) (n := n) hrcpt
  rw [ht] at hls
  have hreg : ∀ q, ledgerReg q = true → t.reg q = ((d.setBit (.mbxCtrl n) 1 false).holdsLetter n bytes).reg q := fun q => reg_of_ledger hls
  have hmb : t.mb n = { d.mb n with attempts := 0 } := by
    rw [Dev.mb, show t.mbx = _ from congrArg Ledger.mbx hls]
    exact (mapGet_mapSet ..).trans (if_pos rfl)
  have hheld : ∀ q, ((d.setBit (.mbxCtrl n) 1 false).holdsLetter n bytes).reg q =
      (((d.setBit (.mbxCtrl n) 1 false).setFld (.mbxHead n) 15 0 ((d.setBit (.mbxCtrl n) 1 false).fld (.mbxHead n) 15 0 + (1 + field bytes 3 1 % 4))).setFld (.mbxSeq n) 31 0 (field bytes 8 4 + 1)).reg q :=
    fun _ => rfl
  refine ⟨?_, ?_, ?_, by rw [hmb], by rw [hmb], congrArg Ledger.mem hls, congrArg Ledger.ctxs hls⟩
  · rw [Dev.fld, hreg _ rfl, hheld]
    simp [Dev.fld, fget_fset_same]
  · rw [Dev.fld, hreg _ rfl, hheld]
    simp [fget_fset_same]
  · rw [Dev.bit, Dev.fld, hreg _ rfl, hheld]
    simp [bset, fget_fset_same]

end

/-- Settles O28: the reader fetches as R112 lets it, and its attempt is accepted or fails as R114 and R115 say. -/
theorem lettersFetched : Obligations.LettersFetched := by
  unfold Obligations.LettersFetched
  intro s c n slots error bytes a hc
  refine ⟨fun hidle => ?_, fun hmay hbase hbus hlen hcount hbytes => ⟨fun herr hpost hrcpt => ?_, fun how hhow => ?_⟩⟩
  · rw [exec_fetch hc, mayFetch_idle hidle]
    rfl
  · subst herr hbytes
    have hrun : (if mayFetch s.dev n = true then s.dev.attempt n slots none else s.dev) = (s.dev.setBit (.mbxCtrl n) 1 false).accept n slots.flatten := by
      rw [if_pos hmay, attempt_of_fetched hbase hbus hlen hcount, if_pos hpost]
    obtain ⟨hhead, hseq, harm, hattempts, hbell, hmem, hctxs⟩ := accept_spec hrcpt (d := s.dev) (n := n) rfl
    obtain ⟨res, k, hgood, hbad⟩ := letters_accept (d := s.dev.setBit (.mbxCtrl n) 1 false) (n := n) hrcpt
    refine ⟨_, exec_fetch hc, { letterIn n slots.flatten with result := res, zeroReads := k }, ?_⟩
    dsimp only
    rw [hrun]
    exact ⟨rfl, rfl, rfl, rfl, rfl, rfl, rfl, rfl, rfl, rfl, rfl, rfl, rfl, rfl, by rw [hhead, hcount], hseq, harm, hattempts, hbell, hmem, hctxs, hgood, hbad⟩
  · obtain ⟨pm, hpm, hrun⟩ : ∃ pm, pm = (if how = 0 then field bytes 0xC 4 else 0) ∧
        (if mayFetch s.dev n = true then s.dev.attempt n slots error else s.dev) = (s.dev.setBit (.mbxCtrl n) 1 false).attemptFails n how pm := by
      rw [if_pos hmay]
      obtain ⟨rfl, hpost, rfl⟩ | hhow := hhow
      · subst hbytes
        exact ⟨_, rfl, by rw [attempt_of_fetched hbase hbus hlen hcount, if_neg (by simp [hpost]), if_pos rfl]⟩
      · obtain ⟨e, rfl, rfl⟩ : ∃ e, error = some e ∧ how = fetchCode e := by
          obtain ⟨rfl, rfl⟩ | ⟨rfl, rfl⟩ | ⟨rfl, rfl⟩ := hhow <;> exact ⟨_, rfl, rfl⟩
        exact ⟨_, rfl, by rw [attempt_of_error hbase, if_neg (by cases e <;> simp [fetchCode])]⟩
    rw [← hpm]
    refine ⟨fun hearly => ⟨_, exec_fetch hc, ?_⟩, fun hlast => ⟨_, exec_fetch hc, ?_⟩⟩ <;> rw [hrun]
    · exact attemptFails_counts hearly how pm
    · exact attemptFails_late hlast how pm

end Sys2Proof.Machine
end

section
/-! Numbers as bytes (R4): how long they are, and what is read of them where they stand in a record. -/

namespace Sys2Proof.Machine

@[simp] theorem length_natLe (k n : Nat) : (natLe k n).length = k := by
  induction k generalizing n with
  | zero => rfl
  | succ k ih => simp [natLe, ih]

theorem length_slice (bs : List Byte) (off len : Nat) : (slice bs off len).length = len := by
  rw [slice_eq_map, List.length_map, List.length_range]

theorem leNat_natLe (k n : Nat) : leNat (natLe k n) = n % 256 ^ k := by
  induction k generalizing n with
  | zero => simp [natLe, leNat, Nat.mod_one]
  | succ k ih =>
    have hbyte : (BitVec.ofNat 8 n).toNat = n % 256 := BitVec.toNat_ofNat ..
    rw [natLe, leNat, ih, hbyte, pow_succ', Nat.mod_mul]

theorem slice_append_left {xs ys : List Byte} {n : Nat} (h : xs.length = n) : slice (xs ++ ys) 0 n = xs := by
  simp [slice, ← h]

theorem slice_append_right {xs ys : List Byte} {n off : Nat} (h : xs.length = n) (hn : n ≤ off) (len : Nat) :
    slice (xs ++ ys) off len = slice ys (off - n) len := by
  unfold slice
  rw [List.drop_append, List.drop_eq_nil_of_le (by omega), List.nil_append, h]

/-- A number at the head of a record. -/
theorem field_natLe (k n : Nat) : field (natLe k n) 0 k = n % 256 ^ k := by
  rw [field, show natLe k n = natLe k n ++ [] by simp, slice_append_left (length_natLe k n), leNat_natLe]

theorem field_natLe_append (k n : Nat) (ys : List Byte) : field (natLe k n ++ ys) 0 k = n % 256 ^ k := by
  rw [field, slice_append_left (length_natLe k n), leNat_natLe]

/-- What stands behind a number in a record. -/
theorem field_skip_natLe {k off : Nat} (h : k ≤ off) (n : Nat) (ys : List Byte) (len : Nat) : field (natLe k n ++ ys) off len = field ys (off - k) len := by
  rw [field, slice_append_right (length_natLe k n) h, field]

end Sys2Proof.Machine
end

section
/-! Receipts (R122, R125, R126): the fields of a receipt, and its two writes to commander memory and to a slab. -/

namespace Sys2Proof.Machine

/-! ### The fields of a receipt (R125) -/

section
variable (x : Letter) (st dt stamp : Nat)

theorem length_receiptBytes : (receiptBytes x st dt stamp).length = 32 := by simp [receiptBytes]

theorem receiptBytes_seq : field (receiptBytes x st dt stamp) 0 4 = x.id.seq % 2 ^ 32 := by
  simp only [receiptBytes, List.append_assoc]
  exact field_natLe_append ..

theorem receiptBytes_status : field (receiptBytes x st dt stamp) 0x1C 2 = st % 65536 := by
  simp only [receiptBytes, List.append_assoc]
  simp [field_skip_natLe, field_natLe_append]

theorem receiptBytes_detail : field (receiptBytes x st dt stamp) 0x1A 2 = dt % 65536 := by
  simp only [receiptBytes, List.append_assoc]
  simp [field_skip_natLe, field_natLe_append]

theorem receiptBytes_ctx : field (receiptBytes x st dt stamp) 0x1F 1 = x.ctx % 64 + 128 := by
  simp only [receiptBytes, List.append_assoc]
  simp [field_skip_natLe, field_natLe]
  omega

end

/-! ### The letter is let go -/

/-- The module that has let a letter go, and has stamped its receipt. -/
def Dev.letGo (d : Dev) (l : LetterId) : Dev := { (d.stamp dieGate).2 with letters := d.letters.filter (·.id ≠ l) }

/-- A mailbox that is ENABLED has nothing to settle (R117). -/
theorem mbxReady_enabled {d : Dev} {n : Nat} (h : d.mbState n = 2) : d.mbxReady n = d := by
  have hst : fnState d (.mailbox n) = 2 := by
    show (if d.mbState n = 4 then 2 else d.mbState n) = 2
    rw [h]; rfl
  have hno : fnMayEnd d (.mailbox n) = false := by
    unfold fnMayEnd
    rw [hst]
    rfl
  unfold Dev.mbxReady mbxSettle
  rw [hno, if_neg Bool.false_ne_true]

section
variable {s : State} {l : LetterId} {x : Letter} {st dt : Nat} (hx : findLetter s.dev l = some x) (hres : x.result = some (st, dt))
  (hposted : s.dev.posted = []) (hreset : s.dev.resetting (l.mbx / 64) = false) (htear : tearWaits s.dev x = false) (hzero : x.zeroReads = 0)
  (hacks : x.podAcks = 0) (hheld : heldStores s.dev l = false)
include hx hres hposted hreset htear hzero hacks hheld

/-- When all stores of a letter are complete its receipt is written; its mailbox, which stays ENABLED, has nothing to settle. -/
theorem exec_letterComplete {e : Dev} (he : s.dev.receipt x st dt = e) (hstate : e.mbState l.mbx = 2) (hpost : e.posted = []) :
    exec (.letterComplete l) s = .next { s with dev := e } := by
  have hends : letterEnds l s = .next { s with dev := e } := by
    simp only [letterEnds, State.onDev, hx, hres, hreset, htear, hzero, hacks, hheld]
    simp [he, mbxReady_enabled hstate]
  show execLetterComplete l s = _
  unfold execLetterComplete
  rw [settle_nothing _ hposted]
  dsimp only
  rw [hends]
  exact settled_of_posted_eq (hpost.trans hposted.symm)

end

section
variable {d : Dev} {x : Letter} {st dt : Nat} (hcmd : d.bit (.mbxCfg x.id.mbx) 4 = false)
  (hacks : x.podAcks = 0) (hheld : heldStores d x.id = false) (hpcie : x.pcieLast = none) (hregions : x.regions = [])
  (hrem : ∀ r ∈ d.remotes, ∀ k, r.who ≠ .letter x.id k)
include hcmd hacks hheld hpcie hregions hrem

/-- A receipt whose two stores go through: then the notification. -/
theorem receipt_written {e : Dev}
    (hstore : (receiptStore (d.letGo x.id) x (receiptBytes x st dt (d.stamp dieGate).1)).run (d.letGo x.id) = (.ok (), e)) :
    d.receipt x st dt = if bitN x.flags 1 then e.notify x else e := by
  have hdie : readerDie d x.id.mbx = dieGate := by
    unfold readerDie readerPart
    rw [hcmd]; rfl
  have hremotes : (d.remotes.filter fun r => match r.who with | .letter l _ => l ≠ x.id || r.data.isNone | _ => true) = d.remotes := by
    refine List.filter_eq_self.mpr fun r hr => ?_
    split
    · next l k hw =>
      have hne : l ≠ x.id := by rintro rfl; exact hrem r hr k hw
      simp [hne]
    · rfl
  have hrun : ∀ g, g = d.letGo x.id → (match (receiptStore g x (receiptBytes x st dt (d.stamp dieGate).1)).run g with
      | (.ok _, d) => if bitN x.flags 1 then d.notify x else d
      | (.error (.wait _), _) => d
      | (.error _, d) => d.raise { readerInc d x.id.mbx 3 with seq := x.id.seq, d0 := st, d1 := x.rcpt }) = if bitN x.flags 1 then e.notify x else e := by
    rintro g rfl
    rw [hstore]
  have hletGo : ({ d.letGo x.id with remotes := d.remotes.filter fun r => match r.who with | .letter l _ => l ≠ x.id || r.data.isNone | _ => true } : Dev) =
      d.letGo x.id := congrArg (fun rs => ({ d.letGo x.id with remotes := rs } : Dev)) hremotes
  unfold Dev.receipt
  rw [hdie]
  refine hrun _ ((if_neg ?_).trans hletGo)
  rintro ⟨-, h | h | h | h⟩
  · simp [hpcie] at h
  · exact h hregions
  · exact h hacks
  · exact absurd (hheld.symm.trans h) Bool.false_ne_true

end

/-! ### Stores of the gate -/

/-- A request within one page and no longer than the limit goes whole (R374). -/
theorem splitReq_whole {lim a len : Nat} (hpos : 0 < len) (hlim : len ≤ lim) (hpage : a % 4096 + len ≤ 4096) : splitReq lim a len = [(a, len)] := by
  have hmin : min len (min (max lim 1) (4096 - a % 4096)) = len := by omega
  unfold splitReq splitAt
  rw [if_neg (by omega)]
  dsimp only
  rw [hmin, Nat.sub_self]
  cases len <;> rfl

section
variable {d : Dev} {wt : Waiter} {w : Who} {t a : Nat} {bs : List Byte} (hpart : w.part = none)
include hpart

/-- A store of the gate's own to commander memory is one posted write (R35, R374). -/
theorem physStoreAs_host (hletter : w.letter = none) (heng : w.isEngine = false) (ht : untag t = .host a) (hbus : d.pcie.busMaster = true)
    (hpos : 0 < bs.length) (hmps : bs.length ≤ d.pcie.mps) (hpage : a % 4096 + bs.length ≤ 4096) :
    (physStoreAs wt w t bs).run d = (.ok (), d.send (.pcieWrite a bs)) := by
  have hhost : (hostStore none none false w.stage w.route a bs).run d = (.ok (), d.send (.pcieWrite a bs)) := by
    show hostStore none none false w.stage w.route a bs d = _
    have hwhole := splitReq_whole hpos hmps hpage
    unfold hostStore
    simp only [hbus, intakeOk, Dev.hostCross, hwhole, Dev.each, List.foldl_cons, List.foldl_nil, Nat.sub_self, slice_whole (bs := bs) rfl]
    rfl
  rw [physStoreAs, Act.run_ok (run_devGet d), ht, hpart, hletter, heng]
  exact hhost

/-- A store of the gate's own to a slab goes to the slab. -/
theorem physStoreAs_slab {p : Nat} (ht : t < 2 ^ 46) (hplace : place t = .slab p) : (physStoreAs wt w t bs).run d = (localStore none t bs).run d := by
  have hsrc : w.src = none := by rw [Who.src, hpart]; rfl
  rw [physStoreAs, Act.run_ok (run_devGet d)]
  simp only [untag_lt ht, hplace, hsrc]

end

/-- The receipt of a privileged commander mailbox goes out physically, in two stores of the gate (R105, R126). -/
theorem receiptStore_gate {d : Dev} {x : Letter} (bs : List Byte) (hpriv : d.bit (.mbxCfg x.id.mbx) 5 = true) (hcmd : d.bit (.mbxCfg x.id.mbx) 4 = false) :
    ∃ wt w, w.part = none ∧ w.letter = none ∧ w.isEngine = false ∧
      receiptStore d x bs = physStoreAs wt w x.rcpt (slice bs 0 0x1C) >>= fun _ => physStoreAs wt w (x.rcpt + 0x1C) (slice bs 0x1C 4) := by
  refine ⟨_, _, ?_, ?_, ?_, if_pos hpriv⟩
  · exact if_neg (by simp [hcmd])
  · rfl
  · rfl


/-! ### The two writes -/

section
variable {d e : Dev} (h : OnlyRegs CountsBytes d e)
include h

theorem OnlyRegs.withStore (m : Mem) (rs : Map Nat Nat) :
    OnlyRegs CountsBytes { d with mem := m, reservations := rs } { e with mem := m, reservations := rs } := by
  obtain ⟨⟨k, rfl⟩, hreg⟩ := h
  exact ⟨⟨k, rfl⟩, hreg⟩

theorem OnlyRegs.down_eq (p : Nat) : e.down p = d.down p := by
  rw [Dev.down, Dev.bit, Dev.fld, h.reg_eq (by simp), Dev.down, Dev.bit, Dev.fld]

theorem OnlyRegs.installing_eq (p : Nat) : e.installing p = d.installing p := by
  unfold Dev.installing Dev.fld
  rw [h.reg_eq (by simp)]

end

/-- A store to a calm slab leaves it calm. -/
theorem Calm.write {d : Dev} {p : Nat} (h : Calm d p) (a : Nat) (bs : List Byte) (rs : Map Nat Nat) :
    Calm { d with mem := d.mem.write a bs, reservations := rs } p := by
  obtain ⟨htrained, hthrottle, hlost, hretrains, hbad, hlines⟩ := h
  exact ⟨htrained, hthrottle, hlost, hretrains, by simp [Mem.write, hbad], hlines⟩

theorem Dev.tells_two (d : Dev) (o o' : Output) : d.tells [o, o'] = (d.send o).send o' := by
  simp [Dev.tells, Dev.send]

theorem untag_host {a : Nat} (h : a < 2 ^ 54) : untag (a + 2 ^ 55) = .host a := by
  have hkind : (a + 2 ^ 55) / 2 ^ 54 = 2 := by omega
  have haddr : (a + 2 ^ 55) % 2 ^ 54 = a := by omega
  unfold untag
  rw [if_neg (by omega), hkind, haddr]
  rfl

section
variable {d : Dev} {x : Letter} {a : Nat} {bs : List Byte} (hpriv : d.bit (.mbxCfg x.id.mbx) 5 = true) (hcmd : d.bit (.mbxCfg x.id.mbx) 4 = false)
  (halign : a % 32 = 0)
include hpriv hcmd halign

/-- On PCIe the receipt is two posted writes in their order. -/
theorem receiptStore_host (hrcpt : x.rcpt = a + 2 ^ 55) (ha : a < 2 ^ 54) (hbus : d.pcie.busMaster = true) (hmps : 32 ≤ d.pcie.mps) :
    (receiptStore d x bs).run d = (.ok (), d.tells [.pcieWrite a (slice bs 0 0x1C), .pcieWrite (a + 0x1C) (slice bs 0x1C 4)]) := by
  obtain ⟨wt, w, hpart, hletter, heng, hstore⟩ := receiptStore_gate bs hpriv hcmd
  have hsecond : x.rcpt + 0x1C = a + 0x1C + 2 ^ 55 := by omega
  rw [hstore, hsecond, hrcpt, Act.run_ok (physStoreAs_host hpart hletter heng (untag_host ha) hbus (by rw [length_slice]; omega)
    (by rw [length_slice]; omega) (by rw [length_slice]; omega)), d.tells_two]
  exact physStoreAs_host hpart hletter heng (untag_host (by omega)) hbus (by rw [length_slice]; omega) (by rw [length_slice]; exact le_trans (by omega) hmps)
    (by rw [length_slice]; omega)

/-- In module memory the receipt is the 32 bytes at its address. -/
theorem receiptStore_slab {p : Nat} (hrcpt : x.rcpt = a) (hplace : place a = .slab p) (hcalm : Calm d p) (hdown : d.down p = false)
    (hinst : d.installing p = false) :
    ∃ e rs, (receiptStore d x bs).run d =
        (.ok (), { e with mem := (d.mem.write a (slice bs 0 0x1C)).write (a + 0x1C) (slice bs 0x1C 4), reservations := rs }) ∧ OnlyRegs CountsBytes d e := by
  subst hrcpt
  obtain ⟨wt, w, hpart, -, -, hstore⟩ := receiptStore_gate bs hpriv hcmd
  have hrange := place_slab.mp hplace
  have hend : x.rcpt + 32 ≤ slabBase (p + 1) := by
    obtain ⟨-, -, hlt⟩ := hrange
    unfold slabBase at hlt ⊢
    omega
  have hplace' : place (x.rcpt + 0x1C) = .slab p := place_slab.mpr ⟨hrange.1, by omega, by omega⟩
  have hlt : x.rcpt + 0x1C < 2 ^ 46 := lt_of_place (by rw [hplace']; simp)
  obtain ⟨e, rs, hrun, hregs⟩ := localStore_gate hplace hdown hinst (by rw [exists_slab hplace]; simp; omega) hcalm.2.2.2.2.2
    (length_slice bs 0 0x1C) (hcalm.home hplace 0x1C true)
  have hfirst := (physStoreAs_slab (d := d) (wt := wt) (bs := slice bs 0 0x1C) hpart (by omega) hplace).trans hrun
  have hregs' := hregs.withStore (d.mem.write x.rcpt (slice bs 0 0x1C)) rs
  have hhome : homeCheck { e with mem := d.mem.write x.rcpt (slice bs 0 0x1C), reservations := rs } p (x.rcpt + 0x1C) 4 true = none :=
    (hregs'.homeCheck_eq ..).trans ((hcalm.write x.rcpt (slice bs 0 0x1C) rs).home hplace' 4 true)
  have hlines : e.lines = [] := by
    obtain ⟨m, rfl⟩ := hregs.1
    exact hcalm.2.2.2.2.2
  obtain ⟨f, rs', hrun', hregs''⟩ := localStore_gate (d := { e with mem := d.mem.write x.rcpt (slice bs 0 0x1C), reservations := rs }) hplace'
    ((hregs'.down_eq p).trans hdown) ((hregs'.installing_eq p).trans hinst) (by rw [exists_slab hplace']; simp; omega) hlines (length_slice bs 0x1C 4) hhome
  have hboth := hregs'.trans hregs''
  obtain ⟨m, rfl⟩ := hboth.1
  refine ⟨{ d with regs := m }, rs', ?_, ⟨m, rfl⟩, hboth.2⟩
  rw [hstore, Act.run_ok hfirst]
  exact (physStoreAs_slab hpart hlt hplace').trans hrun'

end

/-! ### The notification -/

/-- A message to the commander, or the pending bit in its place (R118). -/
theorem Dev.msix_notified (d : Dev) (v : Nat) : (∃ m o, d.msix v = { d with regs := m, out := o }) ∧
    ∀ r, (∀ w, r ≠ .msixPba w) → (d.msix v).reg r = d.reg r := by
  unfold Dev.msix
  split
  · exact ⟨⟨_, _, rfl⟩, fun r hr => by rw [Dev.reg_setBit, if_neg (hr _).symm]⟩
  · exact ⟨⟨_, _, rfl⟩, fun _ _ => rfl⟩

/-- A commander mailbox notifies by its vector. -/
theorem notify_commander {d : Dev} {x : Letter} (h : d.bit (.mbxCfg x.id.mbx) 4 = false) : d.notify x = d.msix (d.fld (.mbxCfg x.id.mbx) 26 16) := by
  have hpart : readerPart d x.id.mbx = none := if_neg (by simp [h])
  unfold Dev.notify
  dsimp only
  rw [hpart]

/-- The module that has notified, if the letter asks for it: its mailbox stands as it did, and no write is posted within. -/
theorem notified_keeps (d : Dev) (x : Letter) (v n : Nat) : ∀ e, (if bitN x.flags 1 = true then d.msix v else d) = e →
    e.mbState n = d.mbState n ∧ e.posted = d.posted ∧ e.dies = d.dies := by
  rintro e rfl
  obtain ⟨⟨m, o, hm⟩, hreg⟩ := d.msix_notified v
  split
  · exact ⟨by rw [Dev.mbState, Dev.fld, hreg _ (by simp)]; rfl, by rw [hm], by rw [hm]⟩
  · exact ⟨rfl, rfl, rfl⟩

/-! ### The statement -/

/-- Settles O31: the bytes of the receipt, and its two writes on either path. -/
theorem receiptIsTwoWrites : Obligations.ReceiptIsTwoWrites := by
  unfold Obligations.ReceiptIsTwoWrites
  intro s l x st dt a bs hx hres hposted hreset htear hstate hzero hacks hheld hpcie hregions hrem hpriv hcmd halign hbs
  have hid : x.id = l := findLetter_id hx
  subst hid hbs
  refine ⟨length_receiptBytes .., receiptBytes_seq .., receiptBytes_status .., receiptBytes_detail .., receiptBytes_ctx .., fun hrcpt ha hbus hmps _ => ?_,
    fun p hrcpt hplace hcalm hdown hinst hflag => ?_⟩
  · have hstore := receiptStore_host (d := s.dev.letGo x.id) (bs := receiptBytes x st dt (s.dev.stamp dieGate).1) hpriv hcmd halign hrcpt ha hbus hmps
    have hreceipt := receipt_written hcmd hacks hheld hpcie hregions hrem hstore
    rw [notify_commander (d := (s.dev.letGo x.id).tells _) hcmd] at hreceipt
    obtain ⟨hstate', hposted', hdies⟩ := notified_keeps ((s.dev.letGo x.id).tells _) x (s.dev.fld (.mbxCfg x.id.mbx) 26 16) x.id.mbx _ rfl
    refine ⟨_, exec_letterComplete hx hres hposted hreset htear hzero hacks hheld hreceipt (hstate'.trans hstate) (hposted'.trans hposted), _, ?_, rfl⟩
    exact congrArg (fun ds => ({ (s.dev.letGo x.id).tells _ with dies := ds } : Dev)) hdies.symm
  · obtain ⟨e, rs, hstore, hregs⟩ := receiptStore_slab (d := s.dev.letGo x.id) (bs := receiptBytes x st dt (s.dev.stamp dieGate).1) hpriv hcmd halign hrcpt hplace
      hcalm hdown hinst
    have hreceipt := receipt_written hcmd hacks hheld hpcie hregions hrem hstore
    rw [if_neg (by simp [hflag])] at hreceipt
    have hstate' : e.mbState x.id.mbx = 2 := by
      rw [Dev.mbState, Dev.fld, hregs.reg_eq (by simp)]
      exact hstate
    obtain ⟨m, rfl⟩ := hregs.1
    refine ⟨_, exec_letterComplete hx hres hposted hreset htear hzero hacks hheld hreceipt hstate' hposted, rfl, fun r hr => ?_⟩
    exact hregs.reg_eq hr

end Sys2Proof.Machine
end

section
/-! The queues of functions (R408): what a request does when its function has reached its target already, when it begins a transition,
and when it is refused; and how a transition ends. -/

namespace Sys2Proof.Machine

/-! ### The queue of a function -/

theorem fnKick_idle {d : Dev} {f : FnId} (h : mapGet d.fns f [] = []) (k : Nat) : fnKick f k d = d := by
  cases k with
  | zero => rfl
  | succ k => unfold fnKick; rw [h]

/-- A request's letter ends; the queues stay. -/
theorem fnReceipt_fns (d : Dev) (r : FnReq) : (fnReceipt d r).fns = d.fns := by
  unfold fnReceipt
  split
  · next l _ =>
    obtain h | ⟨st, dt, k, h⟩ := ledger_finish_any d l 0 0
    · exact congrArg Ledger.fns h
    · exact congrArg Ledger.fns h
  · rfl

/-- The module with a queue for a function. -/
def Dev.queued (d : Dev) (f : FnId) (q : List FnReq) : Dev := { d with fns := mapSet d.fns f q }

theorem mapGet_queued_same (d : Dev) (f : FnId) (q : List FnReq) : mapGet (d.queued f q).fns f [] = q := (mapGet_mapSet ..).trans (if_pos rfl)

/-- Of two values set under one key the later counts. -/
theorem mapSet_mapSet {κ α : Type} [DecidableEq κ] (m : Map κ α) (k : κ) (v w : α) : mapSet (mapSet m k v) k w = mapSet m k w := by
  induction m with
  | nil => simp [mapSet]
  | cons e m ih =>
    obtain ⟨k', v'⟩ := e
    by_cases hk : k' = k
    · simp [mapSet, hk]
    · simp [mapSet, hk, ih]

@[simp] theorem Dev.queued_queued (d : Dev) (f : FnId) (q q' : List FnReq) : (d.queued f q).queued f q' = d.queued f q' :=
  congrArg (fun m => ({ d with fns := m } : Dev)) (mapSet_mapSet d.fns f q q')

/-- Of two values of one field the later counts. -/
theorem Dev.setFld_setFld (d : Dev) (r : Reg) (hi lo k m : Nat) : (d.setFld r hi lo k).setFld r hi lo m = d.setFld r hi lo m := by
  have hold : (d.setFld r hi lo k).reg r = fset (d.reg r) hi lo k := by rw [Dev.reg_setFld, if_pos rfl]
  rw [Dev.setFld_eq (d.setFld r hi lo k), hold, fset_fset]
  exact congrArg (fun m => ({ d with regs := m } : Dev)) (mapSet_mapSet d.regs r _ _)

/-- An empty queue that stands in place of none is read as none. -/
theorem mapGet_queued_nil {d : Dev} {f : FnId} (h : mapGet d.fns f [] = []) (g : FnId) : mapGet (d.queued f []).fns g [] = mapGet d.fns g [] := by
  refine (mapGet_mapSet ..).trans ?_
  split
  · next hg => rw [← hg, h]
  · rfl

/-- The last request of a queue is done with. -/
theorem fnKick_spent (d : Dev) (f : FnId) (k : Nat) (r : FnReq) : fnKick f k (fnReceipt (d.queued f []) r) = fnReceipt (d.queued f []) r :=
  fnKick_idle (by rw [fnReceipt_fns, mapGet_queued_same]) k

/-! ### One request -/

section
variable {d : Dev} {f : FnId} (hq : mapGet d.fns f [] = []) (r : FnReq)
include hq

theorem fnRequest_eq : fnRequest d f r = fnKick f 2 (d.queued f [r]) := by
  unfold fnRequest
  rw [hq]
  rfl

/-- A request for the state that the function has is done with at once. -/
theorem fnRequest_reached (hst : fnState d f = if r.enable = true then 2 else 0) : fnRequest d f r = fnReceipt (d.queued f []) r := by
  have hst' : fnState (d.queued f [r]) f = if r.enable = true then 2 else 0 := by rw [← hst]; cases f <;> rfl
  rw [fnRequest_eq hq]
  unfold fnKick
  rw [mapGet_queued_same]
  dsimp only
  rw [hst', if_neg (by split <;> simp), if_pos (by cases r.enable <;> simp), ← d.queued_queued f [r] []]
  exact fnKick_spent _ _ _ _

end

/-- A request that begins a transition stays at the head of its queue (R408). -/
theorem fnRequest_begins {d : Dev} {f : FnId} (hq : mapGet d.fns f [] = []) (r : FnReq) (hst : fnState d f = if r.enable = true then 0 else 2)
    (hport : ∀ n, f = .port n → r.enable = false) (hgood : ∀ n, f = .mailbox n → (r.enable && mbxBadCfg d n) = false) :
    fnRequest d f r = fnBegin (d.queued f [r]) f r.enable := by
  have hst' : fnState (d.queued f [r]) f = if r.enable = true then 0 else 2 := by rw [← hst]; cases f <;> rfl
  obtain ⟨en, l⟩ := r
  rw [fnRequest_eq hq]
  unfold fnKick
  rw [mapGet_queued_same]
  dsimp only at hst' ⊢
  rw [hst', if_neg (by split <;> simp), if_neg (by cases en <;> simp)]
  cases f with
  | mailbox n => exact if_neg fun h => Bool.false_ne_true ((hgood n rfl).symm.trans h)
  | port n =>
    obtain rfl : en = false := hport n rfl
    exact if_neg (by simp)
  | engine p node slot => exact if_neg (by simp)
  | partition p => exact if_neg (by simp)

/-- An enable of a mailbox whose ring does not meet R109 is refused (R117). -/
theorem fnRequest_refused {d : Dev} {n : Nat} (hq : mapGet d.fns (.mailbox n) [] = []) (hst : d.mbState n = 0) (hbad : mbxBadCfg d n = true) :
    fnRequest d (.mailbox n) ⟨true, none⟩ = (d.setBit (.mbxStatus n) 11 true).queued (.mailbox n) [] := by
  have hst' : fnState (d.queued (.mailbox n) [⟨true, none⟩]) (.mailbox n) = 0 := by
    show (if d.mbState n = 4 then 2 else d.mbState n) = 0
    rw [hst]
    rfl
  have hbad' : mbxBadCfg (d.queued (.mailbox n) [⟨true, none⟩]) n = true := hbad
  rw [fnRequest_eq hq]
  unfold fnKick
  rw [mapGet_queued_same]
  dsimp only
  rw [hst', if_neg (by simp), if_neg (by simp), if_pos (by rw [hbad']; rfl)]
  exact (fnKick_spent ((d.queued (.mailbox n) [⟨true, none⟩]).setBit (.mbxStatus n) 11 true) _ _ _).trans
    (Dev.queued_queued (d.setBit (.mbxStatus n) 11 true) _ _ _)

/-- An enable of a port is done with as it begins (R348). -/
theorem fnRequest_port {d : Dev} {n : Nat} (hq : mapGet d.fns (.port n) [] = []) (hst : d.portState n = 0) :
    fnRequest d (.port n) ⟨true, none⟩ = (fnBegin (d.queued (.port n) [⟨true, none⟩]) (.port n) true).queued (.port n) [] := by
  have hst' : fnState (d.queued (.port n) [⟨true, none⟩]) (.port n) = 0 := if_pos hst
  rw [fnRequest_eq hq]
  unfold fnKick
  rw [mapGet_queued_same]
  dsimp only
  rw [hst', if_neg (by simp), if_neg (by simp), if_neg (by simp)]
  exact fnKick_spent _ _ _ _

/-! ### The state of a function -/

/-- Fields that do not meet keep their values. -/
theorem fget_fset_apart (v : W64) {hi lo hi' lo' : Nat} (n : Nat) (hle : lo ≤ hi) (h : hi' < lo ∨ hi < lo') : fget (fset v hi lo n) hi' lo' = fget v hi' lo' := by
  apply Nat.eq_of_testBit_eq
  intro i
  rw [fget_testBit, fget_testBit]
  by_cases hi64 : lo' + i < 64
  · rw [fset_getLsbD _ _ _ _ _ hi64]
    by_cases hin : i < hi' + 1 - lo'
    · rw [if_neg (by omega)]
    · simp [hin]
  · rw [BitVec.getLsbD_of_ge _ _ (by omega), BitVec.getLsbD_of_ge _ _ (by omega)]

/-- The functions that a letter switches in the engines: a partition, or an engine of R415. -/
def EngineFn (f : FnId) : Prop := (∃ p node slot, slot < 8 ∧ f = .engine p node slot) ∨ ∃ p, f = .partition p

theorem fnState_setFnState {d : Dev} {f : FnId} (hf : EngineFn f) {k : Nat} (hk : k < 4) : fnState (setFnState d f k) f = k := by
  obtain ⟨p, node, slot, hslot, rfl⟩ | ⟨p, rfl⟩ := hf
  · show fget ((d.setFld (.fltFnEngine p node) (3 * slot + 2) (3 * slot) k).reg (.fltFnEngine p node)) _ _ = k
    rw [Dev.reg_setFld, if_pos rfl, fget_fset_same _ _ _ _ (by omega), show 3 * slot + 2 + 1 - 3 * slot = 3 by omega]
    omega
  · show fget ((d.setFld (.fltStatus p) 3 2 k).reg (.fltStatus p)) _ _ = k
    rw [Dev.reg_setFld, if_pos rfl, fget_fset_same _ _ _ _ (by omega)]
    omega

/-- The state of one function is no other's. -/
theorem fnState_setFnState_other {d : Dev} {f g : FnId} (hf : EngineFn f) (hne : g ≠ f) (k : Nat) : fnState (setFnState d f k) g = fnState d g := by
  have hsame : ∀ {r q : Reg}, r ≠ q → ∀ hi lo hi' lo', (d.setFld r hi lo k).fld q hi' lo' = d.fld q hi' lo' := fun h hi lo hi' lo' => by
    rw [Dev.fld, Dev.reg_setFld, if_neg h, Dev.fld]
  obtain ⟨p, node, slot, -, rfl⟩ | ⟨p, rfl⟩ := hf
  · cases g with
    | engine p' node' slot' =>
      by_cases heng : Reg.fltFnEngine p node = .fltFnEngine p' node'
      · obtain ⟨rfl, rfl⟩ : p = p' ∧ node = node' := by simpa using heng
        have hslot : slot' ≠ slot := fun h => hne (by rw [h])
        show fget ((d.setFld (.fltFnEngine p node) (3 * slot + 2) (3 * slot) k).reg (.fltFnEngine p node)) _ _ = _
        rw [Dev.reg_setFld, if_pos rfl, fget_fset_apart _ _ (by omega) (by omega)]
        rfl
      · exact hsame heng ..
    | mailbox n => simp only [fnState, setFnState, hsame (r := .fltFnEngine p node) (q := .mbxStatus n) (by simp)]
    | partition p' => exact hsame (by simp) ..
    | port n =>
      unfold fnState Dev.portState
      dsimp only [setFnState]
      rw [hsame (by simp)]
  · cases g with
    | engine p' node' slot' => exact hsame (by simp) ..
    | mailbox n => simp only [fnState, setFnState, hsame (r := .fltStatus p) (q := .mbxStatus n) (by simp)]
    | partition p' => exact hsame (by rintro ⟨⟩; exact hne rfl) ..
    | port n =>
      unfold fnState Dev.portState
      dsimp only [setFnState]
      rw [hsame (by simp)]

/-! ### The end of a transition -/

/-- A transition that may end does so, and its request, the only one, is done with. -/
theorem fnDone_last {d : Dev} {f : FnId} (hmay : fnMayEnd d f = true) {r : FnReq} (hq : mapGet (fnSettle d f).fns f [] = [r]) :
    fnDone d f = fnReceipt ((fnSettle d f).queued f []) r := by
  unfold fnDone
  rw [if_pos hmay]
  dsimp only
  rw [hq]
  exact fnKick_spent _ _ _ _

/-- A mailbox that may not end a transition has nothing to settle. -/
theorem mbxReady_stays {d : Dev} {n : Nat} (h : fnMayEnd d (.mailbox n) = false) : d.mbxReady n = d := by
  unfold Dev.mbxReady mbxSettle
  rw [h, if_neg Bool.false_ne_true]

/-- A mailbox that may end its transition does so at once (R117). -/
theorem mbxReady_ends {d : Dev} {n : Nat} (h : fnMayEnd d (.mailbox n) = true) (h' : fnMayEnd (fnDone d (.mailbox n)) (.mailbox n) = false) :
    d.mbxReady n = fnDone d (.mailbox n) := by
  unfold Dev.mbxReady mbxSettle
  rw [if_pos h]
  cases (mapGet d.fns (.mailbox n) []).length with
  | zero => rfl
  | succ k => unfold mbxSettle; rw [h', if_neg Bool.false_ne_true]

end Sys2Proof.Machine
end

section
/-! Mailboxes are switched on, off and armed (R109, R116, R117). -/

namespace Sys2Proof.Machine

/-- What a command has done to the module that a granted write has reached, beside the registers and what the writer is told. -/
theorem becomes_tells {s : State} {v : Via} {r : Reg} {ch : Map Reg W64} {G e : Dev} (hG : G = { e with regs := G.regs })
    (hreg : ∀ q, G.reg q = (mapGet? ch q).getD ((s.dev.across v r).reg q)) (ack : List Output) :
    Becomes (s.across v r) { s with dev := G.tells ack } { e with out := e.out ++ ack } ch := by
  refine ⟨?_, hreg⟩
  rw [hG]
  rfl

/-! ### What lets a mailbox run -/

/-- What the reader of an enabled mailbox waits for: trained memory, and the end of DROWSE (R117, R427, R462). -/
def readerRuns (d : Dev) (n : Nat) : Bool :=
  powerState d ≠ 2 && if d.bit (.mbxCfg n) 4 then d.memReady && d.trained (n / 64) && !d.degraded (n / 64) else d.memReady

section
variable {d e : Dev} {n : Nat} (h : ∀ r, (∀ k, r ≠ .sortPortBytes k) → r ≠ .mbxCtrl n → r ≠ .mbxStatus n → e.reg r = d.reg r)
include h

theorem readerRuns_congr : readerRuns e n = readerRuns d n := by
  unfold readerRuns powerState Dev.memReady Dev.trained Dev.degraded Dev.bit Dev.fld
  rw [h _ (by simp) (by simp) (by simp), h _ (by simp) (by simp) (by simp), h _ (by simp) (by simp) (by simp), h _ (by simp) (by simp) (by simp)]

theorem mbxBadCfg_congr : mbxBadCfg e n = mbxBadCfg d n := by
  unfold mbxBadCfg Dev.bit Dev.fld Dev.regN
  rw [h _ (by simp) (by simp) (by simp), h _ (by simp) (by simp) (by simp)]

end

theorem readerRuns_iff (d : Dev) (n : Nat) : readerRuns d n = true ↔
    d.memReady = true ∧ powerState d ≠ 2 ∧ (d.bit (.mbxCfg n) 4 = true → d.trained (n / 64) = true ∧ d.degraded (n / 64) = false) := by
  unfold readerRuns
  cases d.bit (.mbxCfg n) 4 <;> simp <;> tauto

/-! ### The states of a mailbox -/

section
variable {d : Dev} {n : Nat}

theorem fnState_mailbox {k : Nat} (h : d.mbState n = k) (hk : k ≠ 4) : fnState d (.mailbox n) = k := by
  show (if d.mbState n = 4 then 2 else d.mbState n) = k
  rw [h, if_neg hk]

theorem mbState_setState (d : Dev) (n : Nat) {k : Nat} (hk : k < 8) : (d.setFld (.mbxStatus n) 2 0 k).mbState n = k := by
  show fget _ 2 0 = k
  rw [Dev.reg_setFld, if_pos rfl, fget_fset_same _ _ _ _ (by omega)]
  omega

theorem fnMayEnd_mailbox (h : d.mbState n = 1) : fnMayEnd d (.mailbox n) = readerRuns d n := by
  unfold fnMayEnd
  rw [fnState_mailbox h (by omega)]
  rfl

theorem fnMayEnd_emptied (h : d.mbState n = 3) : fnMayEnd d (.mailbox n) = !d.letters.any fun x => x.id.mbx = n := by
  unfold fnMayEnd
  rw [fnState_mailbox h (by omega)]
  simp [List.all_eq_not_any_not]

theorem fnMayEnd_settled (h : d.mbState n = 0 ∨ d.mbState n = 2) : fnMayEnd d (.mailbox n) = false := by
  unfold fnMayEnd
  obtain h | h := h <;> rw [fnState_mailbox h (by omega)] <;> rfl

/-! ### Enabling -/

section
variable (hq : mapGet d.fns (.mailbox n) [] = []) (hst : d.mbState n = 0)
include hq hst

/-- The module once a mailbox has begun to be enabled. -/
def Dev.mbxEnabling (d : Dev) (n : Nat) : Dev := (d.queued (.mailbox n) [⟨true, none⟩]).setFld (.mbxStatus n) 2 0 1

theorem mbxEnable_begins (hgood : mbxBadCfg d n = false) : fnRequest d (.mailbox n) ⟨true, none⟩ = d.mbxEnabling n :=
  fnRequest_begins hq _ (fnState_mailbox (k := 0) hst (by omega)) (by simp) (by rintro _ ⟨⟩; simp [hgood])

end

theorem mbState_mbxEnabling : (d.mbxEnabling n).mbState n = 1 := mbState_setState _ _ (by omega)

theorem readerRuns_mbxEnabling : readerRuns (d.mbxEnabling n) n = readerRuns d n := by
  refine readerRuns_congr fun r _ _ hr => ?_
  rw [Dev.mbxEnabling, Dev.reg_setFld, if_neg hr.symm]
  rfl

/-- The module with an enabled mailbox: a fresh series, and nothing queued. -/
def Dev.mbxOn (d : Dev) (n : Nat) : Dev :=
  { (d.queued (.mailbox n) []).setFld (.mbxStatus n) 2 0 2 with mbx := mapSet d.mbx n { d.mb n with attempts := 0 } }

theorem mbState_mbxOn : (d.mbxOn n).mbState n = 2 := mbState_setState _ _ (by omega)

theorem fnSettle_enabling (h : d.mbState n = 1) :
    fnSettle d (.mailbox n) = { d.setFld (.mbxStatus n) 2 0 2 with mbx := mapSet d.mbx n { d.mb n with attempts := 0 } } := by
  unfold fnSettle
  rw [fnState_mailbox h (by omega)]
  rfl

theorem mbxEnabling_ends (hrun : readerRuns d n = true) : (d.mbxEnabling n).mbxReady n = d.mbxOn n := by
  have hmay : fnMayEnd (d.mbxEnabling n) (.mailbox n) = true := by
    rw [fnMayEnd_mailbox mbState_mbxEnabling, readerRuns_mbxEnabling, hrun]
  have hdone : fnDone (d.mbxEnabling n) (.mailbox n) = d.mbxOn n := by
    have hsettle := fnSettle_enabling (mbState_mbxEnabling (d := d) (n := n))
    rw [fnDone_last hmay (r := ⟨true, none⟩) (by rw [hsettle]; exact mapGet_queued_same ..), hsettle]
    show ({ ((d.queued (.mailbox n) [⟨true, none⟩]).queued (.mailbox n) []).setFld (.mbxStatus n) 2 0 1 |>.setFld (.mbxStatus n) 2 0 2 with
      mbx := mapSet d.mbx n { d.mb n with attempts := 0 } } : Dev) = _
    rw [Dev.queued_queued, Dev.setFld_setFld]
    rfl
  rw [mbxReady_ends hmay (by rw [hdone]; exact fnMayEnd_settled (.inr mbState_mbxOn)), hdone]

theorem mbxEnabling_waits (hrun : readerRuns d n = false) : (d.mbxEnabling n).mbxReady n = d.mbxEnabling n :=
  mbxReady_stays (by rw [fnMayEnd_mailbox mbState_mbxEnabling, readerRuns_mbxEnabling, hrun])

/-! ### Disabling -/

/-- The module once a mailbox has begun to be disabled. -/
def Dev.mbxDisabling (d : Dev) (n : Nat) : Dev := (d.queued (.mailbox n) [⟨false, none⟩]).setFld (.mbxStatus n) 2 0 3

theorem mbxDisable_begins (hq : mapGet d.fns (.mailbox n) [] = []) (hst : d.mbState n = 2) :
    fnRequest d (.mailbox n) ⟨false, none⟩ = d.mbxDisabling n :=
  fnRequest_begins hq _ (fnState_mailbox (k := 2) hst (by omega)) (by simp) (by simp)

theorem mbState_mbxDisabling : (d.mbxDisabling n).mbState n = 3 := mbState_setState _ _ (by omega)

/-- A mailbox that is being disabled is off at once when it holds no letter, and else once it holds none. -/
theorem mbxDisabling_ready : (d.mbxDisabling n).mbxReady n =
    if d.letters.any (fun x => x.id.mbx = n) then d.mbxDisabling n else (d.queued (.mailbox n) []).setFld (.mbxStatus n) 2 0 0 := by
  have hmay := fnMayEnd_emptied (mbState_mbxDisabling (d := d) (n := n))
  rw [show (d.mbxDisabling n).letters = d.letters from rfl] at hmay
  split
  · next hany => exact mbxReady_stays (by rw [hmay, hany]; rfl)
  · next hany =>
    rw [Bool.not_eq_true] at hany
    rw [hany] at hmay
    have hsettle : fnSettle (d.mbxDisabling n) (.mailbox n) = (d.mbxDisabling n).setFld (.mbxStatus n) 2 0 0 := by
      unfold fnSettle
      rw [fnState_mailbox mbState_mbxDisabling (by omega)]
      rfl
    have hdone : fnDone (d.mbxDisabling n) (.mailbox n) = (d.queued (.mailbox n) []).setFld (.mbxStatus n) 2 0 0 := by
      rw [fnDone_last hmay (r := ⟨false, none⟩) (by rw [hsettle]; exact mapGet_queued_same ..), hsettle]
      show (((d.queued (.mailbox n) [⟨false, none⟩]).queued (.mailbox n) []).setFld (.mbxStatus n) 2 0 3).setFld (.mbxStatus n) 2 0 0 = _
      rw [Dev.queued_queued, Dev.setFld_setFld]
    rw [mbxReady_ends hmay (by rw [hdone]; exact fnMayEnd_settled (.inl (mbState_setState _ _ (by omega)))), hdone]

end

/-! ### The commands -/

section
variable (s : State) (v : Via) (r : Reg) (i : Nat) (b : Bool)

/-- The module that a write of a bit of a control register acts on: it has crossed the offices, and the bit is as written. -/
def ctrlWritten : Dev := (s.dev.across v r).setBit r i b

variable {s v r i b}

theorem ctrlWritten_eq : ∃ m, ctrlWritten s v r i b = { s.dev with regs := m } := by
  obtain ⟨m, hm⟩ := (s.dev.across_onlyRegs v r).1
  rw [ctrlWritten, hm]
  exact ⟨_, rfl⟩

theorem ctrlWritten_kept (q : Reg) (h : ∀ k, q ≠ .sortPortBytes k) (h' : q ≠ r) : (ctrlWritten s v r i b).reg q = s.dev.reg q := by
  rw [ctrlWritten, Dev.reg_setBit, if_neg h'.symm, (s.dev.across_onlyRegs v _).reg_eq h]

theorem queue_ctrlWritten {f : FnId} (hq : mapGet s.dev.fns f [] = []) : mapGet (ctrlWritten s v r i b).fns f [] = [] := by
  obtain ⟨m, hm⟩ := ctrlWritten_eq (s := s) (v := v) (r := r) (i := i) (b := b)
  rw [hm]
  exact hq

variable (hr : ∀ k, r ≠ .sortPortBytes k)
include hr

theorem reg_ctrlWritten (q : Reg) : (ctrlWritten s v r i b).reg q = if r = q then bset (s.dev.reg r) i b else (s.dev.across v r).reg q := by
  rw [ctrlWritten, Dev.reg_setBit, (s.dev.across_onlyRegs v _).reg_eq hr]

/-- The registers once another register has changed too. -/
theorem reg_ctrlWritten_set {G : Dev} {r' : Reg} {w : W64} (hne : r ≠ r') (hG : ∀ q, G.reg q = if r' = q then w else (ctrlWritten s v r i b).reg q) (q : Reg) :
    G.reg q = (mapGet? [(r, bset (s.dev.reg r) i b), (r', w)] q).getD ((s.dev.across v r).reg q) := by
  rw [hG, reg_ctrlWritten hr]
  simp only [mapGet?_cons, mapGet?_nil]
  by_cases hs : r' = q
  · subst hs
    simp [hne]
  · rw [if_neg hs, if_neg hs]
    split <;> rfl

end

section
variable {s : State} {v : Via} {n i : Nat} {b : Bool}

theorem mbState_ctrlWritten : (ctrlWritten s v (.mbxCtrl n) i b).mbState n = s.dev.mbState n := by
  unfold Dev.mbState Dev.fld
  rw [ctrlWritten_kept _ (by simp) (by simp)]

variable (hn : n < 256) (h : Granted s.dev v .noEngine (.mbxCtrl n))
include hn h

/-- A granted command at MBX_CTRL acts on the module that the write has reached. -/
theorem exec_mbxEnable : exec (.mbxEnable v n) s =
    .next { s with dev := ((fnRequest (ctrlWritten s v (.mbxCtrl n) 0 true) (.mailbox n) ⟨true, none⟩).mbxReady n).tells (viaAck v) } := by
  show execMbxEnable v n s = _
  unfold execMbxEnable State.onDev
  dsimp only
  rw [if_neg (Nat.not_le.mpr hn), Dev.viaReg_granted h]
  rfl

theorem exec_mbxDisable : exec (.mbxDisable v n) s =
    .next { s with dev := ((fnRequest (ctrlWritten s v (.mbxCtrl n) 0 false) (.mailbox n) ⟨false, none⟩).mbxReady n).tells (viaAck v) } := by
  show execMbxDisable v n s = _
  unfold execMbxDisable State.onDev
  dsimp only
  rw [if_neg (Nat.not_le.mpr hn), Dev.viaReg_granted h]
  rfl

end

section
variable {s : State} {v : Via} {n : Nat} (hn : n < 256) (h : Granted s.dev v .noEngine (.mbxCtrl n)) (hq : mapGet s.dev.fns (.mailbox n) [] = [])
include hn h hq

/-- Enabling: the mailbox is ENABLED where its reader may run, and ENABLING else (R117). -/
theorem mbxEnable_good (hst : s.dev.mbState n = 0) (hgood : mbxBadCfg s.dev n = false) : Answers (.mbxEnable v n) s fun t =>
    (readerRuns s.dev n = true →
      Becomes (s.across v (.mbxCtrl n)) t { s.dev with mbx := t.dev.mbx, fns := t.dev.fns, out := s.dev.out ++ viaAck v }
        [(.mbxCtrl n, bset (s.dev.reg (.mbxCtrl n)) 0 true), (.mbxStatus n, fset (s.dev.reg (.mbxStatus n)) 2 0 2)] ∧
      (t.dev.mb n).attempts = 0 ∧ (∀ f, mapGet t.dev.fns f [] = mapGet s.dev.fns f []) ∧ ∀ m, m ≠ n → t.dev.mb m = s.dev.mb m) ∧
    (readerRuns s.dev n = false →
      Becomes (s.across v (.mbxCtrl n)) t { s.dev with fns := t.dev.fns, out := s.dev.out ++ viaAck v }
        [(.mbxCtrl n, bset (s.dev.reg (.mbxCtrl n)) 0 true), (.mbxStatus n, fset (s.dev.reg (.mbxStatus n)) 2 0 1)]) := by
  obtain ⟨m, hm⟩ := ctrlWritten_eq (s := s) (v := v) (r := .mbxCtrl n) (i := 0) (b := true)
  have hkept : ∀ r, (∀ k, r ≠ .sortPortBytes k) → r ≠ .mbxCtrl n → r ≠ .mbxStatus n → (ctrlWritten s v (.mbxCtrl n) 0 true).reg r = s.dev.reg r :=
    fun r h1 h2 _ => ctrlWritten_kept r h1 h2
  have hstatus : (ctrlWritten s v (.mbxCtrl n) 0 true).reg (.mbxStatus n) = s.dev.reg (.mbxStatus n) := ctrlWritten_kept _ (by simp) (by simp)
  have hruns := readerRuns_congr hkept
  refine ⟨_, exec_mbxEnable hn h, ?_⟩
  rw [mbxEnable_begins (queue_ctrlWritten hq) (mbState_ctrlWritten.trans hst) ((mbxBadCfg_congr hkept).trans hgood)]
  refine ⟨fun hrun => ?_, fun hrun => ?_⟩
  · rw [mbxEnabling_ends (hruns.trans hrun)]
    refine ⟨becomes_tells (e := { s.dev with mbx := ((ctrlWritten s v (.mbxCtrl n) 0 true).mbxOn n).mbx, fns := ((ctrlWritten s v (.mbxCtrl n) 0 true).mbxOn n).fns })
      (by rw [hm]; rfl) (reg_ctrlWritten_set (by simp) (by simp) fun q => ?_) _, ?_, fun f => ?_, fun k hk => ?_⟩
    · rw [← hstatus]
      exact Dev.reg_setFld ..
    · have hmb : mapGet ((ctrlWritten s v (.mbxCtrl n) 0 true).mbxOn n).mbx n Mbx.reset = { (ctrlWritten s v (.mbxCtrl n) 0 true).mb n with attempts := 0 } :=
        (mapGet_mapSet ..).trans (if_pos rfl)
      exact congrArg Mbx.attempts hmb
    · exact (mapGet_queued_nil (queue_ctrlWritten hq) f).trans (by rw [hm])
    · exact ((mapGet_mapSet ..).trans (if_neg hk.symm)).trans (by rw [hm]; rfl)
  · rw [mbxEnabling_waits (hruns.trans hrun)]
    refine becomes_tells (e := { s.dev with fns := ((ctrlWritten s v (.mbxCtrl n) 0 true).mbxEnabling n).fns }) (by rw [hm]; rfl) (reg_ctrlWritten_set (by simp) (by simp) fun q => ?_) _
    rw [← hstatus]
    exact Dev.reg_setFld ..

/-- A ring that does not meet R109 leaves the mailbox DISABLED with BADCFG. -/
theorem mbxEnable_bad (hst : s.dev.mbState n = 0) (hbad : mbxBadCfg s.dev n = true) : Answers (.mbxEnable v n) s fun t =>
    Becomes (s.across v (.mbxCtrl n)) t { s.dev with fns := t.dev.fns, out := s.dev.out ++ viaAck v }
      [(.mbxCtrl n, bset (s.dev.reg (.mbxCtrl n)) 0 true), (.mbxStatus n, bset (s.dev.reg (.mbxStatus n)) 11 true)] := by
  obtain ⟨m, hm⟩ := ctrlWritten_eq (s := s) (v := v) (r := .mbxCtrl n) (i := 0) (b := true)
  have hstatus : (ctrlWritten s v (.mbxCtrl n) 0 true).reg (.mbxStatus n) = s.dev.reg (.mbxStatus n) := ctrlWritten_kept _ (by simp) (by simp)
  have hbad' : mbxBadCfg (ctrlWritten s v (.mbxCtrl n) 0 true) n = true := (mbxBadCfg_congr fun r h1 h2 _ => ctrlWritten_kept r h1 h2).trans hbad
  have hstill : (((ctrlWritten s v (.mbxCtrl n) 0 true).setBit (.mbxStatus n) 11 true).queued (.mailbox n) []).mbState n = 0 := by
    show fget (((ctrlWritten s v (.mbxCtrl n) 0 true).setBit (.mbxStatus n) 11 true).reg (.mbxStatus n)) 2 0 = 0
    rw [Dev.reg_setBit, if_pos rfl, bset, fget_fset_other _ _ _ _ _ _ (by omega) (by omega), hstatus]
    exact hst
  refine ⟨_, exec_mbxEnable hn h, ?_⟩
  rw [fnRequest_refused (queue_ctrlWritten hq) (mbState_ctrlWritten.trans hst) hbad', mbxReady_stays (fnMayEnd_settled (.inl hstill))]
  refine becomes_tells (e := { s.dev with fns := (((ctrlWritten s v (.mbxCtrl n) 0 true).setBit (.mbxStatus n) 11 true).queued (.mailbox n) []).fns }) (by rw [hm]; rfl)
    (reg_ctrlWritten_set (by simp) (by simp) fun q => ?_) _
  rw [← hstatus]
  exact Dev.reg_setBit ..

/-- Disabling: the mailbox is DISABLED when it holds no letter, and DISABLING else (R117). -/
theorem mbxDisable_enabled (hst : s.dev.mbState n = 2) : Answers (.mbxDisable v n) s fun t =>
    Becomes (s.across v (.mbxCtrl n)) t { s.dev with fns := t.dev.fns, out := s.dev.out ++ viaAck v }
      [(.mbxCtrl n, bset (s.dev.reg (.mbxCtrl n)) 0 false),
       (.mbxStatus n, fset (s.dev.reg (.mbxStatus n)) 2 0 (if s.dev.letters.any (fun x => x.id.mbx = n) then 3 else 0))] := by
  obtain ⟨m, hm⟩ := ctrlWritten_eq (s := s) (v := v) (r := .mbxCtrl n) (i := 0) (b := false)
  have hstatus : (ctrlWritten s v (.mbxCtrl n) 0 false).reg (.mbxStatus n) = s.dev.reg (.mbxStatus n) := ctrlWritten_kept _ (by simp) (by simp)
  have hletters : (ctrlWritten s v (.mbxCtrl n) 0 false).letters = s.dev.letters := by rw [hm]
  obtain ⟨q, hleaves⟩ : ∃ q, ((ctrlWritten s v (.mbxCtrl n) 0 false).mbxDisabling n).mbxReady n = ((ctrlWritten s v (.mbxCtrl n) 0 false).queued (.mailbox n) q).setFld (.mbxStatus n) 2 0
      (if s.dev.letters.any (fun x => x.id.mbx = n) then 3 else 0) := by
    rw [mbxDisabling_ready, hletters]
    split
    · exact ⟨_, rfl⟩
    · exact ⟨_, rfl⟩
  refine ⟨_, exec_mbxDisable hn h, ?_⟩
  rw [mbxDisable_begins (queue_ctrlWritten hq) (mbState_ctrlWritten.trans hst), hleaves]
  refine becomes_tells (e := { s.dev with fns := ((ctrlWritten s v (.mbxCtrl n) 0 false).queued (.mailbox n) q).fns }) (by rw [hm]; rfl)
    (reg_ctrlWritten_set (by simp) (by simp) fun r => ?_) _
  rw [← hstatus]
  exact Dev.reg_setFld ..

end

section
variable {s : State} {v : Via} {n : Nat} (hn : n < 256) (h : Granted s.dev v .noEngine (.mbxCtrl n))
include hn h

/-- ARM does something to a LATE mailbox alone (R116). -/
theorem exec_mbxArm : exec (.mbxArm v n) s =
    .next { s with dev := (if s.dev.mbState n = 4 then
      { ((s.dev.across v (.mbxCtrl n)).setBit (.mbxCtrl n) 1 true).setFld (.mbxStatus n) 2 0 2 with
        mbx := mapSet s.dev.mbx n { s.dev.mb n with attempts := 0 } }
      else s.dev.across v (.mbxCtrl n)).tells (viaAck v) } := by
  have hregs := s.dev.across_onlyRegs v (.mbxCtrl n)
  have hst : (s.dev.across v (.mbxCtrl n)).mbState n = s.dev.mbState n := by
    unfold Dev.mbState Dev.fld
    rw [hregs.reg_eq (by simp)]
  have hmbx : (s.dev.across v (.mbxCtrl n)).mbx = s.dev.mbx := by
    obtain ⟨m, hm⟩ := hregs.1
    rw [hm]
  show execMbxArm v n s = _
  unfold execMbxArm State.onDev
  dsimp only
  rw [if_neg (Nat.not_le.mpr hn), Dev.viaReg_granted h]
  dsimp only
  rw [hst, hmbx, show (s.dev.across v (.mbxCtrl n)).mb n = s.dev.mb n by rw [Dev.mb, hmbx, Dev.mb]]
  rfl

/-- ARM returns a LATE mailbox to ENABLED, with a fresh series. -/
theorem mbxArm_late (hst : s.dev.mbState n = 4) : Answers (.mbxArm v n) s fun t =>
    Becomes (s.across v (.mbxCtrl n)) t { s.dev with mbx := mapSet s.dev.mbx n { s.dev.mb n with attempts := 0 }, out := s.dev.out ++ viaAck v }
      [(.mbxCtrl n, bset (s.dev.reg (.mbxCtrl n)) 1 true), (.mbxStatus n, fset (s.dev.reg (.mbxStatus n)) 2 0 2)] := by
  obtain ⟨m, hm⟩ := ctrlWritten_eq (s := s) (v := v) (r := .mbxCtrl n) (i := 1) (b := true)
  have hstatus : (ctrlWritten s v (.mbxCtrl n) 1 true).reg (.mbxStatus n) = s.dev.reg (.mbxStatus n) := ctrlWritten_kept _ (by simp) (by simp)
  refine ⟨_, exec_mbxArm hn h, ?_⟩
  rw [if_pos hst]
  show Becomes _ { s with dev := ({ (ctrlWritten s v (.mbxCtrl n) 1 true).setFld (.mbxStatus n) 2 0 2 with
    mbx := mapSet s.dev.mbx n { s.dev.mb n with attempts := 0 } } : Dev).tells (viaAck v) } _ _
  refine becomes_tells (e := { s.dev with mbx := mapSet s.dev.mbx n { s.dev.mb n with attempts := 0 } }) (by rw [hm]; rfl)
    (reg_ctrlWritten_set (by simp) (by simp) fun q => ?_) _
  rw [← hstatus]
  exact Dev.reg_setFld ..

theorem mbxArm_other (hst : s.dev.mbState n ≠ 4) : Runs (.mbxArm v n) s { s.dev.across v (.mbxCtrl n) with out := s.dev.out ++ viaAck v } := by
  obtain ⟨m, hm⟩ := (s.dev.across_onlyRegs v (.mbxCtrl n)).1
  rw [Runs, exec_mbxArm hn h, if_neg hst, hm]
  rfl

end

end Sys2Proof.Machine
end

section
/-! Engines and partitions are switched by letters (R107, R127, R408, R409). -/

namespace Sys2Proof.Machine

/-! ### The function that a letter names -/

theorem slotOf_lt {kind arr : Nat} (h : arr < 4) : slotOf kind arr < 8 := by
  unfold slotOf
  split <;> omega

theorem letterFn_engineFn {x : Letter} {f : FnId} (h : letterFn x = some f) (hf : (∃ p node slot, f = .engine p node slot) ∨ ∃ p, f = .partition p) : EngineFn f := by
  obtain ⟨p, node, slot, rfl⟩ | ⟨p, rfl⟩ := hf
  · refine .inl ⟨p, node, slot, ?_, rfl⟩
    unfold letterFn at h
    dsimp only at h
    split at h <;> obtain ⟨hc, h⟩ := Option.ite_none_right_eq_some.mp h
    · cases h
    · obtain ⟨-, -, hidx⟩ := hc
      simp only [Option.some.injEq, FnId.engine.injEq] at h
      obtain ⟨-, -, rfl⟩ := h
      refine slotOf_lt ?_
      split at hidx <;> omega
    · cases h
    · cases h
  · exact .inr ⟨p, rfl⟩

section
variable {d : Dev} {f : FnId} (hf : EngineFn f)
include hf

theorem fnBegin_engineFn (d : Dev) (enable : Bool) : fnBegin d f enable = setFnState d f (if enable then 1 else 3) := by
  obtain ⟨p, node, slot, -, rfl⟩ | ⟨p, rfl⟩ := hf <;> cases enable <;> rfl

theorem setFnState_engineFn (d : Dev) (k : Nat) : ∃ r v, ((∃ p node, r = .fltFnEngine p node) ∨ ∃ p, r = .fltStatus p) ∧ setFnState d f k = d.setReg r v := by
  obtain ⟨p, node, slot, -, rfl⟩ | ⟨p, rfl⟩ := hf
  · exact ⟨_, _, .inl ⟨p, node, rfl⟩, rfl⟩
  · exact ⟨_, _, .inr ⟨p, rfl⟩, rfl⟩

theorem fnLetter_engineFn {x : Letter} (hx : letterFn x = some f) (enable : Bool) (d : Dev) : fnLetter x enable d = fnRequest d f ⟨enable, some x.id⟩ := by
  unfold fnLetter
  rw [hx]
  obtain ⟨p, node, slot, -, rfl⟩ | ⟨p, rfl⟩ := hf <;> rfl

theorem fnRequest_engineFn (hq : mapGet d.fns f [] = []) (r : FnReq) (hst : fnState d f = if r.enable = true then 0 else 2) :
    fnRequest d f r = setFnState (d.queued f [r]) f (if r.enable then 1 else 3) := by
  rw [fnRequest_begins hq r hst (by rintro n rfl; simp [EngineFn] at hf) (by rintro n rfl; simp [EngineFn] at hf), fnBegin_engineFn hf]

end

/-! ### FN_ENABLE and FN_DISABLE -/

section
variable {s : State} {l : LetterId} {op : Nat} {x : Letter} {c : Instr} {enable : Bool} (h : Due s.dev l op x)
  (hexec : exec c s = .next (s.onDev fun d => d.onLetter l op fun x d => fnLetter x enable d))
include h hexec

/-- Operands that name no function end the letter with FN_STATE (R127). -/
theorem fnLetter_unknown (hfn : letterFn x = none) : Answers c s fun t => Ends s t l 0x40 0 s.dev [] :=
  h.answersEnds hexec (b := s.dev.startLetter x) (by simp only [fnLetter, hfn]) h.runsOn h.unworked rfl (by omega)

variable {f : FnId} (hfn : letterFn x = some f) (hf : EngineFn f) (hq : mapGet s.dev.fns f [] = [])
include hfn hf hq

/-- A request for the state that the function has ends at once. -/
theorem fnLetter_reached (hst : fnState s.dev f = if enable then 2 else 0) : Answers c s fun t =>
    Ends s t l 0 0 { s.dev with fns := t.dev.fns } [] ∧ ∀ g, mapGet t.dev.fns g [] = mapGet s.dev.fns g [] := by
  have hst' : fnState (s.dev.startLetter x) f = if enable = true then 2 else 0 := by rw [← hst]; cases f <;> rfl
  have hrun : RunsOn s { s with dev := (s.dev.startLetter x).queued f [] } l (s.dev.queued f []) [] :=
    h.runsOn.change (g := fun d => d.queued f []) fun _ _ _ _ => rfl
  have hans := h.answersEnds hexec (st := 0) (dt := 0) ((fnLetter_engineFn hf hfn enable _).trans (fnRequest_reached (d := s.dev.startLetter x) hq _ hst')) hrun h.unworked rfl (by omega)
  obtain ⟨t, ht, hends⟩ := hans
  have hfns : t.dev.fns = mapSet s.dev.fns f [] := by rw [hends.1]; rfl
  refine ⟨t, ht, ?_, fun g => ?_⟩
  · rw [hfns]; exact hends
  · rw [hfns]; exact mapGet_queued_nil hq g

/-- A request for the other state begins the transition, and stays queued. -/
theorem fnLetter_begins (hst : fnState s.dev f = if enable then 0 else 2) : Answers c s fun t =>
    t = { s with dev := { s.dev with letters := lettersWith s.dev l Letter.begun, dies := t.dev.dies, fns := t.dev.fns, regs := t.dev.regs } } ∧
    fnState t.dev f = (if enable then 1 else 3) ∧ (∀ g, g ≠ f → fnState t.dev g = fnState s.dev g) ∧ mapGet t.dev.fns f [] = [⟨enable, some l⟩] ∧
    ∀ r, (∀ p k, r ≠ .fltFnEngine p k) → (∀ p, r ≠ .fltStatus p) → t.dev.reg r = s.dev.reg r := by
  have hid := h.id
  subst hid
  have hst' : fnState (s.dev.startLetter x) f = if enable = true then 0 else 2 := by rw [← hst]; cases f <;> rfl
  refine h.answers hexec fun b ds hb => ?_
  rw [fnLetter_engineFn hf hfn, fnRequest_engineFn (d := s.dev.startLetter x) hf hq _ hst'] at hb
  have hstate : ∀ g, fnState (b.withDies ds) g = fnState b g := fun g => by cases g <;> rfl
  have hqueued : ∀ g, fnState ((s.dev.startLetter x).queued f [⟨enable, some x.id⟩]) g = fnState s.dev g := fun g => by cases g <;> rfl
  obtain ⟨r, v, hr, hset⟩ := setFnState_engineFn hf ((s.dev.startLetter x).queued f [⟨enable, some x.id⟩]) (if enable then 1 else 3)
  refine ⟨?_, ?_, fun g hg => ?_, ?_, fun q h1 h2 => ?_⟩
  · rw [← hb, hset]
    rfl
  · rw [hstate, ← hb]
    exact fnState_setFnState hf (by split <;> omega)
  · rw [hstate, ← hb]
    exact (fnState_setFnState_other hf hg _).trans (hqueued g)
  · rw [← hb, hset]
    exact mapGet_queued_same ..
  · have hne : r ≠ q := by
      rintro rfl
      obtain ⟨p, k, rfl⟩ | ⟨p, rfl⟩ := hr
      · exact h1 p k rfl
      · exact h2 p rfl
    rw [← hb, hset]
    exact (Dev.reg_setReg ..).trans (if_neg hne)

end

/-! ### The end of an engine's transition -/

/-- An engine without work that is being disabled is DISABLED, and its letter ends (R409). -/
theorem fnTransitionDone_engine {s : State} {l : LetterId} {x : Letter} {p node slot : Nat} (hp : p < 4) (hslot : slot < slotCount node)
    (hx : findLetter s.dev l = some x) (hres : x.result = none) (hstarted : ∀ y ∈ s.dev.letters, y.id = l → y.started = true) (hwork : Unworked s.dev x)
    (hq : mapGet s.dev.fns (.engine p node slot) [] = [⟨false, some l⟩]) (hst : fnState s.dev (.engine p node slot) = 3)
    (hruns : ∀ r ∈ s.dev.runs, ¬ (r.part = p ∧ r.node = node ∧ r.slot = slot))
    (hbusy : node = 18 → (if slot = 0 then redBusy s.dev p else updBusy s.dev p) = false) : Answers (.fnTransitionDone (.engine p node slot)) s fun t =>
      Ends s t l 0 0 { s.dev with fns := t.dev.fns } [(.fltFnEngine p node, fset (s.dev.reg (.fltFnEngine p node)) (3 * slot + 2) (3 * slot) 0)] ∧
      mapGet t.dev.fns (.engine p node slot) [] = [] := by
  have hmay : fnMayEnd s.dev (.engine p node slot) = true := by
    have hfree : (s.dev.runs.all fun r => decide ¬ (r.part = p ∧ r.node = node ∧ r.slot = slot)) = true := by
      rw [List.all_eq_true]
      exact fun r hr => decide_eq_true (hruns r hr)
    unfold fnMayEnd
    rw [hst]
    show (_ && _) = true
    rw [hfree, Bool.true_and]
    by_cases hnode : node = 18
    · simp [hnode, hbusy hnode]
    · simp [hnode]
  have hsettle : fnSettle s.dev (.engine p node slot) = s.dev.setFld (.fltFnEngine p node) (3 * slot + 2) (3 * slot) 0 := by
    unfold fnSettle
    rw [hst]
    rfl
  have hdone : fnDone s.dev (.engine p node slot) =
      ((s.dev.setFld (.fltFnEngine p node) (3 * slot + 2) (3 * slot) 0).queued (.engine p node slot) []).finish l 0 0 := by
    rw [fnDone_last hmay (r := ⟨false, some l⟩) (by rw [hsettle]; exact hq), hsettle]
    rfl
  obtain ⟨⟨m, hm⟩, hread⟩ := Dev.finish_unworked (d := (s.dev.setFld (.fltFnEngine p node) (3 * slot + 2) (3 * slot) 0).queued (.engine p node slot) [])
    (by rw [findLetter_id hx]; exact hx) hres hwork (st := 0) rfl 0
  rw [findLetter_id hx] at hm hread
  have hletters : lettersWith s.dev l (fun y => { y with result := some (0, 0) }) = lettersWith s.dev l fun y => { y.begun with result := some (0, 0) } := by
    refine List.map_congr_left fun y hy => ?_
    split
    · next hid => simp [Letter.begun, hstarted y hy hid]
    · rfl
  have hexec : exec (.fnTransitionDone (.engine p node slot)) s = .next { s with dev := fnDone s.dev (.engine p node slot) } := by
    show execFnTransitionDone _ s = _
    simp [execFnTransitionDone, State.onDev, fnExists, hp, hslot]
  refine ⟨_, hexec, ⟨?_, fun r hr => ?_⟩, ?_⟩
  · rw [← hletters, hdone, hm]
    rfl
  · rw [hdone]
    refine (hread r fun ⟨k, hk⟩ => hk.elim (hr k).1 (hr k).2).trans ?_
    refine (Dev.reg_setFld ..).trans ?_
    rw [mapGet?_cons]
    split <;> rfl
  · rw [hdone, hm]
    exact mapGet_queued_same ..

end Sys2Proof.Machine
end

section
/-! The links' ports are switched at CRR_PORT_CTRL.ENABLE (R347, R348, R408, R409, R427); and the obligation about all switches. -/

namespace Sys2Proof.Machine

section
variable {s : State} {v : Via} {n : Nat} {b : Bool}

theorem exec_crrPortEnableWrite (hn : n < 16) (h : Granted s.dev v .open_ (.crrPortCtrl n)) : exec (.crrPortEnableWrite v n b) s =
    .next { s with dev := (fnRequest (ctrlWritten s v (.crrPortCtrl n) 0 b) (.port n) ⟨b, none⟩).tells (viaAck v) } := by
  show execCrrPortEnableWrite v n b s = _
  unfold execCrrPortEnableWrite State.onDev
  dsimp only
  rw [if_neg (Nat.not_le.mpr hn), Dev.viaReg_granted h]
  rfl

theorem portState_ctrlWritten : (ctrlWritten s v (.crrPortCtrl n) 0 b).portState n = s.dev.portState n := by
  unfold Dev.portState Dev.fld
  rw [ctrlWritten_kept _ (by simp) (by simp)]

theorem port_ctrlWritten (m : Nat) : (ctrlWritten s v (.crrPortCtrl n) 0 b).port m = s.dev.port m := by
  obtain ⟨m', hm⟩ := ctrlWritten_eq (s := s) (v := v) (r := .crrPortCtrl n) (i := 0) (b := b)
  rw [hm]
  rfl

/-- What keeps an enabled port DISABLED: DROWSE, and a role dimension of 3 (R347, R427). -/
def portBarred (d : Dev) (n : Nat) : Prop := powerState d = 2 ∨ (d.modImage.isSome ∧ d.portRole n % 4 = 3)

theorem portBarred_ctrlWritten : portBarred (ctrlWritten s v (.crrPortCtrl n) 0 b) n ↔ portBarred s.dev n := by
  obtain ⟨m, hm⟩ := ctrlWritten_eq (s := s) (v := v) (r := .crrPortCtrl n) (i := 0) (b := b)
  have hi : (ctrlWritten s v (.crrPortCtrl n) 0 b).modImage = s.dev.modImage := by rw [hm]
  unfold portBarred powerState Dev.portRole Dev.fld
  rw [hi, ctrlWritten_kept _ (by simp) (by simp), ctrlWritten_kept _ (by simp) (by simp)]

/-- The registers once ACTIVE is cleared and the state of the port has changed. -/
theorem reg_port_switched {G : Dev} {k : Nat}
    (hG : ∀ q, G.reg q = (((ctrlWritten s v (.crrPortCtrl n) 0 b).setBit (.crrPortCtrl n) 1 false).setPortState n k).reg q) (q : Reg) :
    G.reg q = (mapGet? [(.crrPortCtrl n, bset (bset (s.dev.reg (.crrPortCtrl n)) 0 b) 1 false), (.crrPortStatus n, fset (s.dev.reg (.crrPortStatus n)) 2 0 k)] q).getD
      ((s.dev.across v (.crrPortCtrl n)).reg q) := by
  rw [hG, Dev.setPortState, Dev.reg_setFld, Dev.reg_setBit, Dev.reg_setBit, reg_ctrlWritten (by simp), reg_ctrlWritten (by simp),
    reg_ctrlWritten (by simp), if_pos rfl, if_neg (show Reg.crrPortCtrl n ≠ .crrPortStatus n by simp),
    if_neg (show Reg.crrPortCtrl n ≠ .crrPortStatus n by simp), (s.dev.across_onlyRegs v _).reg_eq (by simp)]
  simp only [mapGet?_cons, mapGet?_nil]
  by_cases hs : Reg.crrPortStatus n = q
  · subst hs
    simp
  · rw [if_neg hs, if_neg hs]
    split <;> rfl

end

/-! ### A port is enabled -/

theorem Dev.port_setPort (d : Dev) (n m : Nat) (p : Port) : (d.setPort n p).port m = if n = m then p else d.port m := mapGet_mapSet ..

theorem fnBegin_port {d : Dev} {n : Nat} (h : ¬ portBarred d n) : fnBegin d (.port n) true = d.closePort n := if_neg h

theorem fnBegin_port_barred {d : Dev} {n : Nat} (h : portBarred d n) : fnBegin d (.port n) true = d := if_pos h

/-- A port without a session keeps its cable and the states that it has reported. -/
def Port.unplugged (p : Port) : Port := { Port.reset with cabled := p.cabled, downReported := p.downReported }

theorem port_closePort (d : Dev) (n m : Nat) : (d.closePort n).port m = if n = m then (d.port n).unplugged else d.port m := by
  unfold Dev.closePort Dev.clearSession
  dsimp only
  rw [Dev.port_setPort]
  have hport : ∀ p, ((((d.setBit (.crrPortCtrl n) 1 false).setPort n p).setPortState n 1)).port m = if n = m then p else d.port m := fun p =>
    Dev.port_setPort ..
  have hself : ∀ p, ((((d.setBit (.crrPortCtrl n) 1 false).setPort n p).setPortState n 1)).port n = p := fun p =>
    (Dev.port_setPort (d.setBit (.crrPortCtrl n) 1 false) n n p).trans (if_pos rfl)
  rw [hself, hport]
  split <;> rfl

theorem closePort_eq (d : Dev) (n : Nat) :
    d.closePort n = { (d.setBit (.crrPortCtrl n) 1 false).setPortState n 1 with ports := (d.closePort n).ports } := rfl

/-- The module with an enabled port, CLOSED, and nothing queued. -/
def Dev.portClosed (d : Dev) (n : Nat) : Dev := ((d.queued (.port n) [⟨true, none⟩]).closePort n).queued (.port n) []

section
variable (d : Dev) (n : Nat)

theorem port_portClosed (m : Nat) : (d.portClosed n).port m = if n = m then (d.port n).unplugged else d.port m :=
  port_closePort (d.queued (.port n) [⟨true, none⟩]) n m

theorem portClosed_eq : d.portClosed n = { d with ports := (d.portClosed n).ports, fns := (d.portClosed n).fns, regs := (d.portClosed n).regs } := rfl

theorem reg_portClosed (q : Reg) : (d.portClosed n).reg q = ((d.setBit (.crrPortCtrl n) 1 false).setPortState n 1).reg q := rfl

theorem fnRequest_port_closed {d : Dev} {n : Nat} (hq : mapGet d.fns (.port n) [] = []) (hst : d.portState n = 0) (hbar : ¬ portBarred d n) :
    fnRequest d (.port n) ⟨true, none⟩ = d.portClosed n := by
  rw [fnRequest_port hq hst, fnBegin_port (d := d.queued (.port n) [⟨true, none⟩]) hbar]
  rfl

end

section
variable {s : State} {v : Via} {n : Nat} (hn : n < 16) (h : Granted s.dev v .open_ (.crrPortCtrl n)) (hq : mapGet s.dev.fns (.port n) [] = [])
include hn h hq

theorem crrPortEnableWrite_closed (hst : s.dev.portState n = 0) (hbar : ¬ portBarred s.dev n) : Answers (.crrPortEnableWrite v n true) s fun t =>
    Becomes (s.across v (.crrPortCtrl n)) t { s.dev with ports := t.dev.ports, fns := t.dev.fns, out := s.dev.out ++ viaAck v }
      [(.crrPortCtrl n, bset (bset (s.dev.reg (.crrPortCtrl n)) 0 true) 1 false), (.crrPortStatus n, fset (s.dev.reg (.crrPortStatus n)) 2 0 1)] ∧
    t.dev.port n = (s.dev.port n).unplugged ∧ ∀ m, m ≠ n → t.dev.port m = s.dev.port m := by
  obtain ⟨m, hm⟩ := ctrlWritten_eq (s := s) (v := v) (r := .crrPortCtrl n) (i := 0) (b := true)
  refine ⟨_, exec_crrPortEnableWrite hn h, ?_⟩
  rw [fnRequest_port_closed (queue_ctrlWritten hq) (portState_ctrlWritten.trans hst) (fun hb => hbar (portBarred_ctrlWritten.mp hb))]
  have hports : ∀ k, ((ctrlWritten s v (.crrPortCtrl n) 0 true).portClosed n).port k = if n = k then (s.dev.port n).unplugged else s.dev.port k := fun k => by
    rw [port_portClosed, port_ctrlWritten, port_ctrlWritten]
  refine ⟨becomes_tells (e := { s.dev with
      ports := ((ctrlWritten s v (.crrPortCtrl n) 0 true).portClosed n).ports, fns := ((ctrlWritten s v (.crrPortCtrl n) 0 true).portClosed n).fns })
    ?_ (reg_port_switched fun q => reg_portClosed _ _ q) _, (hports n).trans (if_pos rfl), fun k hk => (hports k).trans (if_neg hk.symm)⟩
  rw [portClosed_eq, hm]

theorem crrPortEnableWrite_barred (hst : s.dev.portState n = 0) (hbar : portBarred s.dev n) : Answers (.crrPortEnableWrite v n true) s fun t =>
    Becomes (s.across v (.crrPortCtrl n)) t { s.dev with fns := t.dev.fns, out := s.dev.out ++ viaAck v }
      [(.crrPortCtrl n, bset (s.dev.reg (.crrPortCtrl n)) 0 true)] := by
  obtain ⟨m, hm⟩ := ctrlWritten_eq (s := s) (v := v) (r := .crrPortCtrl n) (i := 0) (b := true)
  refine ⟨_, exec_crrPortEnableWrite hn h, ?_⟩
  rw [fnRequest_port (queue_ctrlWritten hq) (portState_ctrlWritten.trans hst),
    fnBegin_port_barred (d := (ctrlWritten s v (.crrPortCtrl n) 0 true).queued (.port n) [⟨true, none⟩]) (portBarred_ctrlWritten.mpr hbar), Dev.queued_queued]
  refine becomes_tells (e := { s.dev with fns := ((ctrlWritten s v (.crrPortCtrl n) 0 true).queued (.port n) []).fns }) (by rw [hm]; rfl) (fun q => ?_) _
  refine (reg_ctrlWritten (by simp) q).trans ?_
  simp only [mapGet?_cons, mapGet?_nil]
  split <;> rfl

end

/-! ### A port is disabled -/

/-- The ports in use follow from the roles and from which ports are OPEN or TRAINING (R350). -/
theorem usedPorts_congr {d e : Dev} (hrole : ∀ m, e.portRole m = d.portRole m)
    (hlive : ∀ m, (e.portState m = 3 ∨ e.portState m = 4) ↔ (d.portState m = 3 ∨ d.portState m = 4)) (k dir : Nat) : usedPorts e k dir = usedPorts d k dir := by
  have hl : ∀ dir, livePorts e k dir = livePorts d k dir := fun dir => by
    unfold livePorts
    simp only [hrole, hlive]
  unfold usedPorts
  rw [hl, hl]

theorem Dev.pump_empty {d : Dev} {n : Nat} (h : (d.port n).queue = []) (k : Nat) : d.pump n k = d := by
  cases k with
  | zero => rfl
  | succ k =>
    unfold Dev.pump
    dsimp only
    rw [h]
    rfl

/-- A port without frames hands none to other ports. -/
theorem Dev.requeue_empty {d : Dev} {n : Nat} (hreplay : (d.port n).replay = []) (hqueue : ∀ m, (d.port m).queue = []) (all : Bool) :
    d.requeue n all = d.setPort n (d.port n) := by
  have hsame : ({ d.port n with replay := if all then [] else (d.port n).replay, queue := [] } : Port) = d.port n := by
    rw [hreplay, ite_self, ← hreplay, ← hqueue n]
  have hport : ∀ m, (d.setPort n (d.port n)).port m = d.port m := fun m => by
    rw [Dev.port_setPort]
    split
    · next h => rw [h]
    · rfl
  have hpump : ∀ ms : List Nat, (d.setPort n (d.port n)).each ms (fun d m => d.pump m ((d.port m).queue.length + 1)) = d.setPort n (d.port n) := fun ms => by
    induction ms with
    | nil => rfl
    | cons m ms ih =>
      rw [Dev.each_cons, Dev.pump_empty (by rw [hport, hqueue]), ih]
  unfold Dev.requeue
  dsimp only
  rw [hsame, hreplay, hqueue n]
  have hfs : (if all = true then List.map (fun x : Nat × Nat × Frame => x.2.2) [] else []) ++ ([] : List Frame) = [] := by simp
  rw [hfs]
  exact hpump _

theorem Dev.each_nil {α : Type} (d : Dev) (f : Dev → α → Dev) : d.each [] f = d := rfl

/-- A change that leaves the ports in use as they are strands nothing while nothing is under way. -/
theorem Dev.rewire_quiet {d : Dev} {f : Dev → Dev} (hused : ∀ k dir, usedPorts (f d) k dir = usedPorts d k dir)
    (hs : (f d).podStores = []) (hr : (f d).remotes = []) (hm : (f d).remap = []) : d.rewire f = f d := by
  have hfrom : (f d).remapFrom d = f d := by
    unfold Dev.remapFrom
    simp only [Dev.each_cons, Dev.each_nil, hused, if_true]
    unfold Dev.remapGo
    simp only [hm, List.filter_nil, List.flatMap_nil, Dev.each_nil]
    cases h : f d; simp [← hm, h]
  unfold Dev.rewire
  rw [hfrom]
  unfold Dev.strand
  simp only [hs, hr, List.filter_nil, Dev.each_nil]

section
variable {d : Dev} {n : Nat}

/-- The module once a port without frames has begun to be disabled. -/
def Dev.portDisabling (d : Dev) (n : Nat) : Dev := ((d.setPortState n 6).setBit (.crrPortCtrl n) 1 false).setPort n (d.port n)

theorem port_portDisabling (m : Nat) : (d.portDisabling n).port m = d.port m := by
  refine (Dev.port_setPort ..).trans ?_
  split
  · next h => rw [h]
  · rfl

theorem portState_portDisabling : (d.portDisabling n).portState n = 6 := by
  show fget (((d.setPortState n 6).setBit (.crrPortCtrl n) 1 false).reg (.crrPortStatus n)) 2 0 = 6
  rw [Dev.reg_setBit, if_neg (by simp), Dev.setPortState, Dev.reg_setFld, if_pos rfl, fget_fset_same _ _ _ _ (by omega)]
  rfl

theorem disablePort_quiet (hst : d.portState n = 1) (hreplay : (d.port n).replay = []) (hqueue : ∀ m, (d.port m).queue = []) (hs : d.podStores = [])
    (hr : d.remotes = []) (hm : d.remap = []) : d.disablePort n = d.portDisabling n := by
  unfold Dev.disablePort
  dsimp only
  have hre : ((d.setPortState n 6).setBit (.crrPortCtrl n) 1 false).requeue n (!decide (d.portState n = 3)) = d.portDisabling n :=
    Dev.requeue_empty (d := (d.setPortState n 6).setBit (.crrPortCtrl n) 1 false) hreplay hqueue _
  have hreg : ∀ q, q ≠ .crrPortStatus n → q ≠ .crrPortCtrl n → (d.portDisabling n).reg q = d.reg q := fun q h1 h2 => by
    refine (Dev.reg_setBit ..).trans ?_
    rw [if_neg h2.symm, Dev.setPortState, Dev.reg_setFld, if_neg h1.symm]
  have hused : ∀ k dir, usedPorts (d.portDisabling n) k dir = usedPorts d k dir := by
    refine usedPorts_congr (fun m => ?_) fun m => ?_
    · unfold Dev.portRole Dev.fld
      rw [hreg _ (by simp) (by simp)]
    · by_cases hmn : m = n
      · subst hmn
        rw [portState_portDisabling, hst]
        omega
      · unfold Dev.portState Dev.fld
        rw [hreg _ (by simpa using hmn) (by simp)]
  refine Eq.trans (Dev.rewire_quiet (f := fun d => ((d.setPortState n 6).setBit (.crrPortCtrl n) 1 false).requeue n (!decide (Dev.portState _ n = 3)))
    (fun k dir => ?_) ?_ ?_ ?_) hre
  · rw [hre]; exact hused k dir
  · rw [hre]; exact hs
  · rw [hre]; exact hr
  · rw [hre]; exact hm

end

theorem fnState_port {d : Dev} {n k : Nat} (h : d.portState n = k) (hk : k ≠ 0) : fnState d (.port n) = if k = 6 then 3 else 2 := by
  show (if d.portState n = 0 then 0 else if d.portState n = 6 then 3 else 2) = _
  rw [h, if_neg hk]

/-- A port that is being disabled and holds no frame is DISABLED (R409). -/
theorem fnTransitionDone_port {t : State} {n : Nat} (hn : n < 16) (hst : t.dev.portState n = 6) (hreplay : (t.dev.port n).replay = [])
    (hqueue : (t.dev.port n).queue = []) (hq : mapGet t.dev.fns (.port n) [] = [⟨false, none⟩]) : Answers (.fnTransitionDone (.port n)) t fun u =>
      Becomes t u { t.dev with ports := u.dev.ports, fns := u.dev.fns } [(.crrPortStatus n, fset (t.dev.reg (.crrPortStatus n)) 2 0 0)] ∧
      u.dev.port n = (t.dev.port n).unplugged := by
  have hfn : fnState t.dev (.port n) = 3 := fnState_port hst (by omega)
  have hmay : fnMayEnd t.dev (.port n) = true := by
    unfold fnMayEnd
    rw [hfn]
    simp [hreplay, hqueue]
  have hsettle : fnSettle t.dev (.port n) = (t.dev.setPortState n 0).setPort n (t.dev.port n).unplugged := by
    unfold fnSettle
    rw [hfn]
    rfl
  have hdone : fnDone t.dev (.port n) = ((t.dev.setPortState n 0).setPort n (t.dev.port n).unplugged).queued (.port n) [] := by
    rw [fnDone_last hmay (r := ⟨false, none⟩) (by rw [hsettle]; exact hq), hsettle]
    rfl
  have hexec : exec (.fnTransitionDone (.port n)) t = .next { t with dev := fnDone t.dev (.port n) } := by
    show execFnTransitionDone _ t = _
    simp [execFnTransitionDone, State.onDev, fnExists, hn]
  refine ⟨_, hexec, ?_⟩
  rw [hdone]
  refine ⟨⟨rfl, fun q => ?_⟩, (Dev.port_setPort ..).trans (if_pos rfl)⟩
  refine (Dev.reg_setFld ..).trans ?_
  rw [mapGet?_cons]
  split <;> rfl

section
variable {s : State} {v : Via} {n : Nat}

/-- The module once a write has begun to disable a port. -/
def portOff (s : State) (v : Via) (n : Nat) : Dev := ((ctrlWritten s v (.crrPortCtrl n) 0 false).queued (.port n) [⟨false, none⟩]).portDisabling n

theorem port_portOff (m : Nat) : (portOff s v n).port m = s.dev.port m :=
  (port_portDisabling (d := (ctrlWritten s v (.crrPortCtrl n) 0 false).queued (.port n) [⟨false, none⟩]) m).trans (port_ctrlWritten (b := false) m)

theorem portOff_eq : portOff s v n = { s.dev with ports := (portOff s v n).ports, fns := (portOff s v n).fns, regs := (portOff s v n).regs } := by
  obtain ⟨m, hm⟩ := ctrlWritten_eq (s := s) (v := v) (r := .crrPortCtrl n) (i := 0) (b := false)
  unfold portOff
  rw [hm]
  rfl

theorem reg_portOff (q : Reg) : (portOff s v n).reg q =
    (((ctrlWritten s v (.crrPortCtrl n) 0 false).setBit (.crrPortCtrl n) 1 false).setPortState n 6).reg q := by
  have hleft : (portOff s v n).reg q = (((ctrlWritten s v (.crrPortCtrl n) 0 false).setPortState n 6).setBit (.crrPortCtrl n) 1 false).reg q := rfl
  rw [hleft, Dev.setPortState, Dev.setPortState, Dev.reg_setBit, Dev.reg_setFld, Dev.reg_setFld, Dev.reg_setFld, Dev.reg_setBit, Dev.reg_setBit,
    if_neg (show Reg.crrPortStatus n ≠ .crrPortCtrl n by simp), if_neg (show Reg.crrPortCtrl n ≠ .crrPortStatus n by simp)]
  by_cases hc : Reg.crrPortCtrl n = q
  · subst hc
    simp
  · rw [if_neg hc, if_neg hc]

theorem crrPortEnableWrite_off (hn : n < 16) (h : Granted s.dev v .open_ (.crrPortCtrl n)) (hq : mapGet s.dev.fns (.port n) [] = [])
    (hst : s.dev.portState n = 1) (hreplay : (s.dev.port n).replay = []) (hqueue : ∀ m, (s.dev.port m).queue = []) (hs : s.dev.podStores = [])
    (hr : s.dev.remotes = []) (hm : s.dev.remap = []) :
    exec (.crrPortEnableWrite v n false) s = .next { s with dev := (portOff s v n).tells (viaAck v) } := by
  obtain ⟨regs, he⟩ := ctrlWritten_eq (s := s) (v := v) (r := .crrPortCtrl n) (i := 0) (b := false)
  have hst' := portState_ctrlWritten (s := s) (v := v) (n := n) (b := false) |>.trans hst
  rw [exec_crrPortEnableWrite hn h, fnRequest_begins (queue_ctrlWritten hq) ⟨false, none⟩ (fnState_port hst' (by omega)) (by simp) (by simp)]
  have hoff : ((ctrlWritten s v (.crrPortCtrl n) 0 false).queued (.port n) [⟨false, none⟩]).disablePort n = portOff s v n := by
    have hport := port_ctrlWritten (s := s) (v := v) (n := n) (b := false)
    refine disablePort_quiet hst' ((congrArg Port.replay (hport n)).trans hreplay) (fun m => (congrArg Port.queue (hport m)).trans (hqueue m)) ?_ ?_ ?_
    · rw [he]; exact hs
    · rw [he]; exact hr
    · rw [he]; exact hm
  rw [← hoff]
  rfl

end

/-! ### The obligation -/

/-- Settles O29: each request finds its queue empty, so it begins its transition at once, and ends it at once where nothing is waited for. -/
theorem switches : Obligations.Switches := by
  refine ⟨fun s v n hn h => ⟨fun hq => ⟨fun hst hgood => ?_, mbxEnable_bad hn h hq, mbxDisable_enabled hn h hq⟩, mbxArm_late hn h, mbxArm_other hn h⟩,
    fun s l x enable c f hc => ?_, fun s l x p node slot hp hslot hx hres hstarted hwork hq hst hruns hbusy =>
      fnTransitionDone_engine hp hslot hx hres hstarted hwork hq hst hruns hbusy, fun s v n hn h hq => ⟨fun hst hpow hrole => ?_, ?_, fun hst hbar => ?_⟩⟩
  · obtain ⟨t, ht, hon, hwait⟩ := mbxEnable_good hn h hq hst hgood
    refine ⟨t, ht, fun hmem hpow htrained => hon ((readerRuns_iff ..).mpr ⟨hmem, hpow, htrained⟩), fun hnot => hwait ?_⟩
    rw [Bool.eq_false_iff, Ne, readerRuns_iff]
    rintro ⟨hmem, hpow, htrained⟩
    obtain hnot | hnot | ⟨hown, hnot⟩ := hnot
    · exact Bool.false_ne_true (hnot.symm.trans hmem)
    · exact hpow hnot
    · exact Bool.false_ne_true (hnot.symm.trans (htrained hown).1)
  · obtain ⟨op, hdue, hexec⟩ : ∃ op, Due s.dev l op x ∧ exec c s = .next (s.onDev fun d => d.onLetter l op fun x d => fnLetter x enable d) := by
      obtain ⟨rfl, hdue, rfl⟩ | ⟨rfl, hdue, rfl⟩ := hc
      · exact ⟨_, hdue, rfl⟩
      · exact ⟨_, hdue, rfl⟩
    exact ⟨fnLetter_unknown hdue hexec, fun hfn hf hq => ⟨fnLetter_reached hdue hexec hfn (letterFn_engineFn hfn hf) hq,
      fnLetter_begins hdue hexec hfn (letterFn_engineFn hfn hf) hq⟩⟩
  · refine crrPortEnableWrite_closed hn h hq hst ?_
    rintro (hdrowse | ⟨hsome, hthree⟩)
    · exact hpow hdrowse
    · obtain hnone | hrole := hrole
      · simp [hnone] at hsome
      · exact hrole hthree
  · intro hst hreplay hqueue hs hr hm
    refine ⟨_, crrPortEnableWrite_off hn h hq hst hreplay hqueue hs hr hm,
      becomes_tells (e := { s.dev with ports := (portOff s v n).ports, fns := (portOff s v n).fns }) portOff_eq (reg_port_switched reg_portOff) _, port_portOff,
      mapGet_queued_same .., ?_⟩
    obtain ⟨u, hu, hbecomes, hport⟩ := fnTransitionDone_port (t := { s with dev := (portOff s v n).tells (viaAck v) }) hn portState_portDisabling
      ((congrArg Port.replay (port_portOff n)).trans hreplay) ((congrArg Port.queue (port_portOff n)).trans (hqueue n)) (mapGet_queued_same ..)
    exact ⟨u, hu, hbecomes, hport.trans (congrArg Port.unplugged (port_portOff n))⟩
  · refine crrPortEnableWrite_barred hn h hq hst (hbar.imp id fun ⟨hsome, hthree⟩ => ⟨Option.isSome_iff_ne_none.mpr hsome, hthree⟩)

end Sys2Proof.Machine
end

section
/-! Letters that run no stage and touch no memory (R107, R108, R120, R123, R124): NOTE, FENCE, SEAL and CTX_OPEN, and a letter that a
check refuses. -/

namespace Sys2Proof.Machine

/-! ### The end of a letter that spoils nothing -/

section
variable {d : Dev} {x y : Letter} {st : Nat} (hx : findLetter d x.id = some y) (hres : y.result = none) (hw : Unworked d x)
  (hflush : y.flushErr = none) (hsp : spoils st = false ∨ y.started = false ∨ y.bracket ≠ 1 ∧ y.opcode ≠ 0x11)
include hx hres hw hflush hsp

/-- A letter that nothing works for ends with its status; then come the zero-length reads that it owes (R122). -/
theorem Dev.finish_reads (dt : Nat) : ∃ e, OnlyRegs ShowsBags (modifyLetter d x.id fun z => { z with result := some (st, dt % 65536) }) e ∧
    d.finish x.id st dt = if bitN y.flags 0 then e else
      (match y.pcieLast with | some a => e.zeroRead x.id a none | none => e).each y.regions fun d r => d.zeroRead x.id r.last (some r) := by
  have hspoil : ∀ e : Dev, e.spoilBy y st = e := fun e => by
    unfold Dev.spoilBy
    obtain hsp | hsp | ⟨hb, ho⟩ := hsp
    · rw [hsp]; simp
    · rw [hsp]; simp
    · simp [hb, ho]
  refine ⟨_, Dev.dropWork_unworked (d := modifyLetter d x.id fun z => { z with result := some (st, dt % 65536) }) hw, ?_⟩
  unfold Dev.finish
  simp only [hx, hres, hflush, hspoil]
  simp <;> rfl

/-- Without such reads nothing else changes. -/
theorem Dev.finish_quiet (hpcie : y.pcieLast = none) (hregions : y.regions = []) (dt : Nat) :
    OnlyRegs ShowsBags (modifyLetter d x.id fun z => { z with result := some (st, dt % 65536) }) (d.finish x.id st dt) := by
  obtain ⟨e, he, hfin⟩ := Dev.finish_reads hx hres hw hflush hsp dt
  rw [hpcie, hregions] at hfin
  rw [hfin]
  split <;> exact he

end

/-! ### A letter that a check refuses -/

section
variable {d : Dev} {l : LetterId} {op : Nat} {x : Letter}

theorem not_started_of_mayStart (h : mayStart d x = true) : x.started = false ∧ x.result = none := by
  unfold mayStart at h
  simp only [Bool.and_eq_true, Bool.not_eq_true', Option.isNone_iff_eq_none] at h
  obtain ⟨⟨⟨⟨hres, hstarted⟩, -⟩, -⟩, -⟩ := h
  exact ⟨hstarted, hres⟩

variable (hx : findLetter d l = some x) (hmay : mayStart d x = true)
include hx hmay

theorem onLetterOn_fresh (f : Letter → Dev → Dev) : d.onLetterOn l op f = d.onLetter l op f := by
  unfold Dev.onLetterOn
  simp [hx, (not_started_of_mayStart hmay).1]

variable (hop : x.opcode = op)
include hop

theorem onLetter_refused (f : Letter → Dev → Dev) {st dt : Nat} (hcheck : letterCheck d l.mbx op x.ctx x.gen x.route x.body = some (st, dt)) :
    d.onLetter l op f = d.finish l st dt := by
  unfold Dev.onLetter
  simp [hx, hop, hmay, hcheck]

/-- Each opcode's command acts on its letter. -/
theorem exec_letterCommand {s : State} (hd : s.dev = d) {c : Instr} (hc : (op, c) ∈ letterCommands l)
    (hend : op = 0x15 → ∀ y ∈ d.letters, ¬ (y.bracket = 2 ∧ y.ctx = x.ctx)) :
    ∃ f, exec c s = .next { s with dev := d.onLetter l op f } := by
  subst hd
  simp only [letterCommands, List.mem_cons, Prod.mk.injEq, List.not_mem_nil, or_false] at hc
  obtain ⟨rfl, rfl⟩ | ⟨rfl, rfl⟩ | ⟨rfl, rfl⟩ | ⟨rfl, rfl⟩ | ⟨rfl, rfl⟩ | ⟨rfl, rfl⟩ | ⟨rfl, rfl⟩ | ⟨rfl, rfl⟩ | ⟨rfl, rfl⟩ | ⟨rfl, rfl⟩ | ⟨rfl, rfl⟩ |
    ⟨rfl, rfl⟩ | ⟨rfl, rfl⟩ | ⟨rfl, rfl⟩ | ⟨rfl, rfl⟩ | ⟨rfl, rfl⟩ | ⟨rfl, rfl⟩ | ⟨rfl, rfl⟩ | ⟨rfl, rfl⟩ := hc
  case inr.inr.inr.inr.inr.inl => exact ⟨_, congrArg (fun e => Host.Outcome.next (⟨s.pending, s.sec, e⟩ : State)) (onLetterOn_fresh hx hmay _)⟩
  case inr.inr.inr.inr.inr.inr.inr.inr.inr.inl => exact ⟨_, congrArg (fun e => Host.Outcome.next (⟨s.pending, s.sec, e⟩ : State)) (onLetterOn_fresh hx hmay _)⟩
  case inr.inr.inr.inr.inr.inr.inr.inr.inr.inr.inr.inr.inr.inl =>
    have hany : (s.dev.letters.any fun z => decide (z.bracket = 2 ∧ z.ctx = x.ctx)) = false := by
      rw [List.any_eq_false]
      exact fun y hy => by simpa using hend rfl y hy
    refine ⟨fun x d => if mapGet? d.evals x.ctx = some (x.opnd 0 8) then
      ({ d with evals := mapErase d.evals x.ctx }.setBit (.gateStep x.ctx) 6 false).finish x.id 0 0 else d.stepOrder x, ?_⟩
    show execEvalEnd l s = _
    unfold execEvalEnd State.onDev
    simp only [hx, hany]
    rfl
  all_goals exact ⟨_, rfl⟩

/-- A letter that is refused ends with the status of the check, and is not started. -/
theorem letterCommand_refused {s : State} (hd : s.dev = d) {c : Instr} (hc : (op, c) ∈ letterCommands l) (hwork : Unworked d x)
    (hend : op = 0x15 → ∀ y ∈ d.letters, ¬ (y.bracket = 2 ∧ y.ctx = x.ctx)) {st dt : Nat}
    (hcheck : letterCheck d l.mbx op x.ctx x.gen x.route x.body = some (st, dt)) (hdt : dt < 65536) :
    Answers c s fun t => t = { s with dev := { d with letters := lettersWith d l (fun y => { y with result := some (st, dt) }), regs := t.dev.regs } } ∧
      ∀ r, (∀ p, r ≠ .redStatus p ∧ r ≠ .fltWait p 18) → t.dev.reg r = d.reg r := by
  obtain ⟨f, hf⟩ := exec_letterCommand hx hmay hop hd hc hend
  rw [onLetter_refused hx hmay hop f hcheck] at hf
  obtain ⟨hstarted, hres⟩ := not_started_of_mayStart hmay
  have hwork' := hwork
  obtain ⟨-, -, -, -, -, -, -, -, hpcie, hregions, hflush⟩ := hwork'
  have hid : x.id = l := findLetter_id hx
  obtain ⟨⟨m, hm⟩, hread⟩ := Dev.finish_quiet (hid ▸ hx) hres hwork hflush (.inr (.inl hstarted)) (st := st) hpcie hregions dt
  rw [hid, Nat.mod_eq_of_lt hdt] at hm hread
  refine ⟨_, hf, ?_, fun r hr => hread r fun ⟨k, hk⟩ => hk.elim (hr k).1 (hr k).2⟩
  rw [hm]
  rfl

end

/-! ### NOTE, FENCE and SEAL -/

section
variable {s : State} {l : LetterId} {x : Letter}

theorem note_ends (h : Due s.dev l 0x3F x) : Answers (.note l) s fun t => Ends s t l 0 0 s.dev [] :=
  h.answersEnds rfl rfl h.runsOn h.unworked rfl (by omega)

/-- FENCE with INVAL discards the context's cached translations (R120). -/
theorem fence_ends (h : Due s.dev l 0x07 x) : Answers (.fence l) s fun t =>
    Ends s t l 0 0 { s.dev with tlb := if bitN (x.opnd 0 1) 0 then s.dev.tlb.filter (fun e => e.1.1 ≠ x.ctx) else s.dev.tlb } [] := by
  refine h.answersEnds rfl rfl ?_ (by split <;> exact h.unworked) rfl (by omega)
  split
  · exact h.runsOn.change (g := fun d => d.dropTlb x.ctx) fun _ _ _ _ => rfl
  · exact h.runsOn

/-- A SEAL of a context without early stores has nothing to take over. -/
theorem seal_nothing (h : Due s.dev l 0x08 x) (hearly : ∀ e ∈ s.dev.early, e.ctx ≠ x.ctx) : Answers (.seal l) s fun t => Ends s t l 0 0 s.dev [] := by
  have hmine : (s.dev.startLetter x).early.filter (fun e => decide (e.ctx = x.ctx)) = [] := by
    rw [List.filter_eq_nil_iff]
    exact fun e he => by simpa using hearly e he
  have hothers : (s.dev.startLetter x).early.filter (fun e => decide (e.ctx ≠ x.ctx)) = (s.dev.startLetter x).early := by
    rw [List.filter_eq_self]
    exact fun e he => by simpa using hearly e he
  refine h.answersEnds rfl ?_ h.runsOn h.unworked rfl (by omega)
  dsimp only
  rw [hmine, hothers]
  rfl

/-- A letter that has started and taken over one early store on PCIe. -/
def Letter.sealing (a : Nat) (x : Letter) : Letter := { x.begun with pcieLast := some a, podAcks := x.podAcks + 0 }

/-- What a SEAL takes over from one letter without regions and acknowledgements due. -/
def Dev.takeOver (d : Dev) (l from_ : LetterId) (a : Nat) : Dev :=
  modifyLetter ((modifyLetter { d with early := [] } l fun y => { y with pcieLast := some a }).handOver from_ l) l fun y => { y with podAcks := y.podAcks + 0 }

theorem letters_takeOver {d e : Dev} {l : LetterId} (hletters : e.letters = lettersWith d l Letter.begun) (from_ : LetterId) (a : Nat) :
    (e.takeOver l from_ a).letters = lettersWith d l (Letter.sealing a) := by
  show (lettersWith _ l fun y => { y with podAcks := y.podAcks + 0 }) = _
  exact lettersWith_lettersWith d _ l (fun y => { y.begun with pcieLast := some a }) _ (fun _ => rfl)
    (lettersWith_lettersWith d e l Letter.begun (fun y => { y with pcieLast := some a }) (fun _ => rfl) hletters)

/-- Memory, what goes out and the requests are as they were; no early store is left. -/
theorem takeOver_keeps (d : Dev) (l from_ : LetterId) (a : Nat) : (d.takeOver l from_ a).mem = d.mem ∧ (d.takeOver l from_ a).out = d.out ∧
    (d.takeOver l from_ a).remotes = d.remotes ∧ (d.takeOver l from_ a).early = [] := ⟨rfl, rfl, rfl, rfl⟩

theorem freeTag_congr {d e : Dev} (h : e.remotes = d.remotes) : freeTag e = freeTag d := by
  unfold freeTag hostReads
  rw [h]

/-- A zero-length read with a free tag goes out. -/
theorem Dev.zeroRead_sent {d : Dev} {l : LetterId} {a tag : Nat} (htag : freeTag d = some tag) :
    (d.zeroRead l a none).letters = lettersWith d l (fun y => { y with zeroReads := y.zeroReads + 1 }) ∧
    (d.zeroRead l a none).out = d.out ++ [.pcieZeroRead tag a] ∧ (d.zeroRead l a none).mem = d.mem ∧ (d.zeroRead l a none).early = d.early := by
  have htag' : freeTag (modifyLetter d l fun x => { x with zeroReads := x.zeroReads + 1 }) = some tag := htag
  unfold Dev.zeroRead Dev.flushRead
  rw [htag']
  exact ⟨rfl, rfl, rfl, rfl⟩

/-- A SEAL that takes over one store on PCIe flushes its path (R123). -/
theorem seal_flushes (h : Due s.dev l 0x08 x) {e : Letter} {a tag : Nat} (htag : freeTag s.dev = some tag) (hflag : bitN x.flags 0 = false)
    (hzero : x.zeroReads = 0) (hearly : s.dev.early = [e]) (hctx : e.ctx = x.ctx) (hpcie : e.pcieLast = some a) (hregions : e.regions = []) 
    (hacks : e.podAcks = 0) : Answers (.seal l) s fun t => t.dev.early = [] ∧ t.dev.out = s.dev.out ++ [.pcieZeroRead tag a] ∧ t.dev.mem = s.dev.mem ∧
      (∀ y, findLetter t.dev l = some y → y.result = some (0, 0) ∧ y.zeroReads = 1) ∧ (findLetter t.dev l).isSome = true := by
  have hid := h.id
  refine h.answers rfl fun b ds hb => ?_
  have hletters := letters_takeOver (e := s.dev.startLetter x) (by rw [Dev.startLetter_letters, hid]) e.id a
  have hfound : findLetter ((s.dev.startLetter x).takeOver l e.id a) x.id = some (x.sealing a) := by
    rw [hid, findLetter_lettersWith s.dev _ l (Letter.sealing a) (fun _ => rfl) hletters, h.found]
    rfl
  have hwork : Unworked ((s.dev.startLetter x).takeOver l e.id a) x := h.unworked
  obtain ⟨-, -, -, -, -, -, -, -, -, hxregions, hxflush⟩ := h.unworked
  obtain ⟨f, ⟨⟨m, hm⟩, -⟩, hfin⟩ := Dev.finish_reads (st := 0) hfound h.result hwork hxflush (.inl rfl) 0
  have hfin' : ((s.dev.startLetter x).takeOver l e.id a).finish l 0 0 = f.zeroRead l a none := by
    rw [hid] at hfin
    rw [hfin, show (x.sealing a).flags = x.flags from rfl, hflag, show (x.sealing a).regions = [] from hxregions]
    rfl
  have hbody : b = f.zeroRead l a none := by
    rw [← hb, ← hfin']
    have hmine : (s.dev.startLetter x).early.filter (fun e => decide (e.ctx = x.ctx)) = [e] := by
      rw [show (s.dev.startLetter x).early = [e] from hearly]
      simp [hctx]
    have hothers : (s.dev.startLetter x).early.filter (fun e => decide (e.ctx ≠ x.ctx)) = [] := by
      rw [show (s.dev.startLetter x).early = [e] from hearly]
      simp [hctx]
    dsimp only
    rw [hmine, hothers, Dev.each_cons, Dev.each_nil, hpcie, hregions, hacks, hid]
    rfl
  obtain ⟨hkmem, hkout, hkremotes, hkearly⟩ := takeOver_keeps (s.dev.startLetter x) l e.id a
  have hfmem : f.mem = s.dev.mem := (congrArg Dev.mem hm).trans hkmem
  have hfout : f.out = s.dev.out := (congrArg Dev.out hm).trans hkout
  have hfearly : f.early = [] := (congrArg Dev.early hm).trans hkearly
  have hfremotes : f.remotes = s.dev.remotes := (congrArg Dev.remotes hm).trans hkremotes
  have htag' : freeTag f = some tag := (freeTag_congr hfremotes).trans htag
  obtain ⟨hl, hout, hmem, hearly'⟩ := Dev.zeroRead_sent (l := l) (a := a) htag'
  rw [hid] at hm
  have hf : f.letters = lettersWith s.dev l fun y => { y.sealing a with result := some (0, 0) } := by
    rw [hm]
    exact lettersWith_lettersWith s.dev _ l (Letter.sealing a) (fun z => { z with result := some (0, 0) }) (fun _ => rfl) hletters
  have hfinal : (f.zeroRead l a none).letters = lettersWith s.dev l fun y => { y.sealing a with result := some (0, 0), zeroReads := (y.sealing a).zeroReads + 1 } :=
    hl.trans (lettersWith_lettersWith s.dev f l (fun y => { y.sealing a with result := some (0, 0) }) _ (fun _ => rfl) hf)
  have hlast : findLetter (f.zeroRead l a none) l = some { x.sealing a with result := some (0, 0), zeroReads := (x.sealing a).zeroReads + 1 } := by
    rw [findLetter_lettersWith s.dev _ l (fun y => { y.sealing a with result := some (0, 0), zeroReads := (y.sealing a).zeroReads + 1 }) (fun _ => rfl) hfinal, h.found]
    rfl
  rw [hbody]
  refine ⟨hearly'.trans hfearly, hout.trans (by rw [hfout]), hmem.trans hfmem, fun y hy => ?_, ?_⟩
  · obtain rfl := Option.some.inj (hlast.symm.trans hy)
    exact ⟨rfl, congrArg (· + 1) hzero⟩
  · exact Option.isSome_iff_exists.mpr ⟨_, hlast⟩

end

/-! ### CTX_OPEN -/

/-- `e` is `d` but for a step's state and for registers: those of `P` are 0, the others read as they did. -/
def Cleared (P : Reg → Prop) (d e : Dev) : Prop :=
  (∃ m xr xb ds sp ev, e = { d with regs := m, xruns := xr, xbase := xb, decisions := ds, stepParts := sp, evals := ev }) ∧
  ∀ r, (P r → e.reg r = 0#64) ∧ (¬ P r → e.reg r = d.reg r)

theorem Cleared.setReg (d : Dev) (r : Reg) : Cleared (r = ·) d (d.setReg r 0#64) :=
  ⟨⟨_, _, _, _, _, _, rfl⟩, fun q => ⟨fun h => by rw [Dev.reg_setReg, if_pos h], fun h => by rw [Dev.reg_setReg, if_neg h]⟩⟩

section
variable {P Q : Reg → Prop} {d e f : Dev}

theorem Cleared.trans (h : Cleared P d e) (h' : Cleared Q e f) : Cleared (fun r => P r ∨ Q r) d f := by
  obtain ⟨⟨_, _, _, _, _, _, rfl⟩, hr⟩ := h
  obtain ⟨⟨_, _, _, _, _, _, rfl⟩, hr'⟩ := h'
  refine ⟨⟨_, _, _, _, _, _, rfl⟩, fun r => ⟨fun hp => ?_, fun hp => ?_⟩⟩
  · by_cases hq : Q r
    · exact (hr' r).1 hq
    · exact ((hr' r).2 hq).trans ((hr r).1 (hp.resolve_right hq))
  · exact ((hr' r).2 fun hq => hp (.inr hq)).trans ((hr r).2 fun hq => hp (.inl hq))

theorem Cleared.and (h : Cleared P d e) (r : Reg) : Cleared (fun q => P q ∨ r = q) d (e.setReg r 0#64) := h.trans (.setReg e r)

theorem Cleared.stepState (h : Cleared P d e) (xr : Map (Nat × Nat × Nat) Nat) (xb : Map (Nat × Nat × Nat) Nat) (ds : Map (Nat × Nat) Bool)
    (sp : Map Nat (List Nat)) (ev : Map Nat Nat) : Cleared P d { e with xruns := xr, xbase := xb, decisions := ds, stepParts := sp, evals := ev } := by
  obtain ⟨⟨_, _, _, _, _, _, rfl⟩, hr⟩ := h
  exact ⟨⟨_, _, _, _, _, _, rfl⟩, hr⟩

theorem Cleared.congr (h : Cleared P d e) (hpq : ∀ r, P r ↔ Q r) : Cleared Q d e := by
  rwa [show Q = P from funext fun r => propext (hpq r).symm]

theorem Cleared.each {α : Type} {P : α → Reg → Prop} {g : Dev → α → Dev} (hg : ∀ d x, Cleared (P x) d (g d x)) (xs : List α) (d : Dev) :
    Cleared (fun r => ∃ x ∈ xs, P x r) d (d.each xs g) := by
  induction xs generalizing d with
  | nil => exact ⟨⟨_, _, _, _, _, _, rfl⟩, fun r => ⟨fun ⟨_, hx, _⟩ => absurd hx List.not_mem_nil, fun _ => rfl⟩⟩
  | cons x xs ih => exact ((hg d x).trans (ih (g d x))).congr fun r => by simp

end

/-- What opening a context zeroes. -/
theorem openCounts_cleared (d : Dev) (c : Nat) : Cleared (fun r => openZero c r = true) d (d.openCounts c) := by
  have hfrk : ∀ (p : Nat) (d : Dev) (t : Nat), Cleared (fun r => .frkSat p t c = r ∨ .frkNonfinite p t c = r) d
      ((d.setReg (.frkSat p t c) 0#64).setReg (.frkNonfinite p t c) 0#64) := fun p d t => (Cleared.setReg d _).and _
  have hemb : ∀ (p : Nat) (d : Dev) (t : Nat), Cleared (fun r => .embSat p t c = r ∨ .embNonfinite p t c = r) d
      ((d.setReg (.embSat p t c) 0#64).setReg (.embNonfinite p t c) 0#64) := fun p d t => (Cleared.setReg d _).and _
  have hvec : ∀ (p : Nat) (d : Dev) (t : Nat), Cleared (fun r => ((.vecSat p t c = r ∨ .vecNonfinite p t c = r) ∨ .attSat p t c = r) ∨ .attNonfinite p t c = r) d
      ((((d.setReg (.vecSat p t c) 0#64).setReg (.vecNonfinite p t c) 0#64).setReg (.attSat p t c) 0#64).setReg (.attNonfinite p t c) 0#64) :=
    fun p d t => (((Cleared.setReg d _).and _).and _).and _
  have hpart := fun (d : Dev) (p : Nat) => (((((Cleared.each (hfrk p) (List.range 12) d).trans (Cleared.each (hemb p) [12, 13, 14, 15] _)).trans
    (Cleared.each (hvec p) [16, 17] _)).and (.redSat p c)).and (.redNonfinite p c))
  have hall := fun xr xb ds sp ev =>
    (((((Cleared.each hpart (List.range 4) d).stepState xr xb ds sp ev).and (.gateStep c)).and (.gateStepOpen c)).and (.gateStepCommitted c)).and (.gateNorm c)
  unfold Dev.openCounts
  dsimp only
  have hemb' : ∀ t, t ∈ [12, 13, 14, 15] ↔ 12 ≤ t ∧ t < 16 := fun t => by simp; omega
  have hvec' : ∀ t, t ∈ [16, 17] ↔ 16 ≤ t ∧ t < 18 := fun t => by simp; omega
  refine (hall _ _ _ _ _).congr fun r => ?_
  simp only [List.mem_range, hemb', hvec']
  refine ⟨fun h => ?_, fun h => ?_⟩
  · obtain ((((⟨p, hp, ((((⟨t, ht, rfl | rfl⟩ | ⟨t, ht, rfl | rfl⟩) | ⟨t, ht, ((rfl | rfl) | rfl) | rfl⟩) | rfl) | rfl)⟩ | rfl) | rfl) | rfl) | rfl) := h
    all_goals simp [openZero]
    all_goals omega
  · unfold openZero at h
    split at h
    all_goals simp at h
    all_goals simp
    all_goals omega

/-- The module with an opened context and without its cached translations; its counts are to be zeroed. -/
def Dev.ctxOpened (d : Dev) (x : Letter) : Dev :=
  (d.setCtx x.ctx { d.ctx x.ctx with state := 1, seed := BitVec.ofNat 64 (x.opnd 0 8), root := x.opnd 8 8, routes := openRoutes x.body }).dropTlb x.ctx

theorem Dev.ctx_setCtx (d : Dev) (c : Nat) (v : Ctx) (k : Nat) : (d.setCtx c v).ctx k = if c = k then v else d.ctx k := mapGet_mapSet ..

/-- CTX_OPEN opens the context (R97, R101, R302). -/
theorem ctxOpen_opens {s : State} {l : LetterId} {x : Letter} (h : Due s.dev l 0x20 x) : Answers (.ctxOpen l) s fun t =>
    t.pending = s.pending ∧ t.sec = s.sec ∧ t.dev.mem = s.dev.mem ∧ t.dev.out = s.dev.out ∧
    t.dev.ctx x.ctx = { s.dev.ctx x.ctx with state := 1, seed := BitVec.ofNat 64 (x.opnd 0 8), root := x.opnd 8 8, routes := openRoutes x.body } ∧
    (∀ c, c ≠ x.ctx → t.dev.ctx c = s.dev.ctx c) ∧ t.dev.tlb = s.dev.tlb.filter (fun e => e.1.1 ≠ x.ctx) ∧
    t.dev.letters = lettersWith s.dev l (fun y => { y.begun with result := some (0, 0) }) ∧
    ∀ r, (∀ p, r ≠ .redStatus p ∧ r ≠ .fltWait p 18) → t.dev.reg r = if openZero x.ctx r then 0#64 else s.dev.reg r := by
  have hid := h.id
  refine h.answers rfl fun b ds hb => ?_
  obtain ⟨⟨m, xr, xb, dss, sp, ev, hcounts⟩, hzero⟩ := openCounts_cleared ((s.dev.startLetter x).ctxOpened x) x.ctx
  have hfin : (((s.dev.startLetter x).ctxOpened x).openCounts x.ctx).finish x.id 0 0 = b := hb
  generalize ((s.dev.startLetter x).ctxOpened x).openCounts x.ctx = E at hcounts hzero hfin
  have hletters : E.letters = lettersWith s.dev l Letter.begun := by
    rw [hcounts, ← hid]
    rfl
  have hfound : findLetter E x.id = some x.begun := by
    rw [hid, findLetter_lettersWith s.dev _ l Letter.begun (fun _ => rfl) hletters, h.found]
    rfl
  have hwork : Unworked E x := by
    rw [hcounts]
    exact h.unworked
  obtain ⟨-, -, -, -, -, -, -, -, hpcie, hregions, hflush⟩ := h.unworked
  obtain ⟨⟨m', hm⟩, hread⟩ := Dev.finish_quiet (st := 0) hfound h.result hwork hflush (.inl rfl) hpcie hregions 0
  have hend : lettersWith E l (fun z => { z with result := some (0, 0) }) =
      lettersWith s.dev l fun y => { y.begun with result := some (0, 0) } :=
    lettersWith_lettersWith s.dev _ l Letter.begun (fun z => { z with result := some (0, 0) }) (fun _ => rfl) hletters
  rw [hfin] at hm hread
  have hctx : ∀ k, b.ctx k = ((s.dev.startLetter x).ctxOpened x).ctx k := fun k => by
    rw [hm, hcounts]
    rfl
  refine ⟨rfl, rfl, ?_, ?_, (hctx _).trans ((Dev.ctx_setCtx ..).trans (if_pos rfl)), fun c hc => (hctx c).trans ((Dev.ctx_setCtx ..).trans (if_neg hc.symm)), ?_, ?_,
    fun r hr => ?_⟩
  · show b.mem = _
    rw [hm, hcounts]
    rfl
  · show b.out = _
    rw [hm, hcounts]
    rfl
  · show b.tlb = _
    rw [hm, hcounts]
    rfl
  · show b.letters = _
    rw [hm, ← hend, ← hid]
    rfl
  · refine (hread r fun ⟨k, hk⟩ => hk.elim (hr k).1 (hr k).2).trans ?_
    show E.reg r = _
    split
    · next hz => exact (hzero r).1 hz
    · next hz => exact (hzero r).2 hz

end Sys2Proof.Machine
end

section
/-! COPY (R99, R107): an engine's loads and stores of its own slab, the walk of a context's tables there, and the copy of one block. -/

namespace Sys2Proof.Machine

/-! ### An engine's own slab -/

/-- The slab of partition `p` holds back no access, and its fabric carries those of node `n`. -/
def OwnSlab (d : Dev) (p n : Nat) : Prop := Calm d p ∧ ∀ a len, place a = .slab p → routed d (some (p, n)) a len = true

theorem length_read (m : Mem) (a len : Nat) : (m.read a len).length = len := by simp [Mem.read]

section
variable {d : Dev} {p n a : Nat} (h : OwnSlab d p n) (ha : place a = .slab p)
include h ha

theorem OwnSlab.load {len : Nat} (hend : a + len ≤ slabBase (p + 1)) : (localLoad (some (p, n)) a len).run d = (.ok (d.mem.read a len), d) := by
  obtain ⟨hcalm, hrouted⟩ := h
  have hlines : d.lines = [] := hcalm.2.2.2.2.2
  show localLoad (some (p, n)) a len d = _
  unfold localLoad
  rw [reach_home ha (by rw [exists_slab ha]; simpa using hend) (hrouted _ _ ha)]
  simp [homeOf_slab ha, hcalm.home ha, heldLine, hlines, homeLoad_uncached hlines]
  rfl

theorem OwnSlab.store {bs : List Byte} (hend : a + bs.length ≤ slabBase (p + 1)) :
    ∃ rs, (localStore (some (p, n)) a bs).run d = (.ok (), { d with mem := d.mem.write a bs, reservations := rs }) := by
  obtain ⟨hcalm, hrouted⟩ := h
  have hlines : d.lines = [] := hcalm.2.2.2.2.2
  obtain ⟨rs, hrs⟩ := homeStore_uncached hlines a bs
  refine ⟨rs, ?_⟩
  show localStore (some (p, n)) a bs d = _
  unfold localStore
  rw [reach_home ha (by rw [exists_slab ha]; simpa using hend) (hrouted _ _ ha)]
  simp [homeOf_slab ha, hcalm.home ha, heldLine, hlines, hrs]
  rfl

variable {w : Who} (hpart : w.part = some p) (hnode : w.node = n)
include hpart hnode

theorem OwnSlab.physLoad {len : Nat} (hend : a + len ≤ slabBase (p + 1)) : (physLoad w a len).run d = (.ok (d.mem.read a len), d) := by
  have hsrc : w.src = some (p, n) := by rw [Who.src, hpart, hnode]; rfl
  rw [Machine.physLoad, Act.run_ok (run_devGet d)]
  simp only [untag_lt (lt_of_place (by rw [ha]; simp)), ha, hsrc]
  exact h.load ha hend

theorem OwnSlab.physStore {wt : Waiter} {bs : List Byte} (hend : a + bs.length ≤ slabBase (p + 1)) :
    ∃ rs, (physStoreAs wt w a bs).run d = (.ok (), { d with mem := d.mem.write a bs, reservations := rs }) := by
  obtain ⟨rs, hrs⟩ := h.store ha hend
  have hsrc : w.src = some (p, n) := by rw [Who.src, hpart, hnode]; rfl
  refine ⟨rs, ?_⟩
  rw [physStoreAs, Act.run_ok (run_devGet d)]
  simp only [untag_lt (lt_of_place (by rw [ha]; simp)), ha, hsrc]
  exact hrs

end

/-! ### The walk (R99) -/

/-- The entry of a pointer to a table. -/
theorem pointer_bits {u : Nat} (h : tableOk u = true) : bitN (u + 1) 0 = true ∧ (u + 1) / 2 ^ 56 = 0 ∧ bitN (u + 1) 1 = false ∧ bitsN (u + 1) 11 2 = 0 ∧
    alignDown (u + 1) 4096 % 2 ^ 56 = u := by
  obtain ⟨hlt, halign⟩ : u < 0x40000000000 ∧ u % 4096 = 0 := by simpa [tableOk] using h
  unfold bitN bitsN alignDown
  simp only [Nat.testBit_eq_decide_div_mod_eq]
  refine ⟨by simp; omega, by omega, by simp; omega, by omega, by omega⟩

/-- The entry of a page of 1 GiB that may be read and written. -/
def leafEntry (a : Nat) : Nat := a / 2 ^ 30 * 2 ^ 30 + 15

theorem leaf_bits {a : Nat} (h : a < 0x40000000000) : bitN (leafEntry a) 0 = true ∧ leafEntry a / 2 ^ 56 = 0 ∧ bitN (leafEntry a) 1 = true ∧
    bitsN (leafEntry a) 20 4 = 0 ∧ bitsN (leafEntry a) 29 21 = 0 ∧ bitsN (leafEntry a) 55 54 ≠ 3 := by
  unfold leafEntry bitN bitsN
  simp only [Nat.testBit_eq_decide_div_mod_eq]
  refine ⟨by simp; omega, by omega, by simp; omega, by omega, by omega, by omega⟩

theorem leaf_grants (a : Nat) : bitN (leafEntry a) 2 = true ∧ bitN (leafEntry a) 3 = true := by
  unfold leafEntry bitN
  simp only [Nat.testBit_eq_decide_div_mod_eq]
  refine ⟨by simp; omega, by simp; omega⟩

theorem leaf_page {a va : Nat} (h : a < 0x40000000000) (hoff : a % 2 ^ 30 = va % 2 ^ 30) : leafEntry a % 2 ^ 56 / 2 ^ 30 * 2 ^ 30 + va % 2 ^ 30 = a := by
  unfold leafEntry
  omega

/-- An entry of a table lies in the table's slab. -/
theorem entry_slab {t p i : Nat} (h : tableOk t = true) (hp : place t = .slab p) (hi : i < 512) :
    place (t + 8 * i) = .slab p ∧ t + 8 * i + 8 ≤ slabBase (p + 1) := by
  obtain ⟨-, halign⟩ : t < 0x40000000000 ∧ t % 4096 = 0 := by simpa [tableOk] using h
  obtain ⟨hp4, hlo, hhi⟩ := place_slab.mp hp
  rw [place_slab]
  unfold slabBase at *
  omega

theorem slab_lt {a p : Nat} (h : place a = .slab p) : a < 0x40000000000 := by
  obtain ⟨hp, -, hhi⟩ := place_slab.mp h
  unfold slabBase at hhi
  omega

section
variable {d : Dev} {p n c va a : Nat} (h : OwnSlab d p n) (hmap : Mapped d c p va a)
include h hmap

theorem walk_mapped : (walk (some (p, n)) va 3 (d.ctx c).root 1).run d = (.ok (leafEntry a, 2), d) := by
  obtain ⟨-, hplace, -, hroot, hrootp, u, hu, hup, htop, hleaf⟩ := hmap
  have hleaf : leNat (d.mem.read (u + 8 * (va / 2 ^ 30 % 512)) 8) = leafEntry a := hleaf
  obtain ⟨hv, hhigh, hptr, hres, hnext⟩ := pointer_bits hu
  obtain ⟨lv, lhigh, lleaf, lres, lalign, lkind⟩ := leaf_bits (slab_lt hplace)
  obtain ⟨hroot8, hrootend⟩ := entry_slab hroot hrootp (i := va / 2 ^ 39 % 512) (by omega)
  obtain ⟨hu8, huend⟩ := entry_slab hu hup (i := va / 2 ^ 30 % 512) (by omega)
  unfold walk
  rw [Act.run_ok (h.load hroot8 hrootend)]
  dsimp only
  rw [htop, hv, hhigh, hptr, hres, hnext, hu]
  simp only [Bool.not_true, Bool.false_eq_true, ne_eq, not_true_eq_false, or_self, if_false, OfNat.one_ne_ofNat]
  unfold walk
  rw [Act.run_ok (h.load hu8 huend)]
  dsimp only
  rw [hleaf, lv, lhigh, lleaf, lres, lalign]
  simp [lkind]

end

/-- What the translation of an address leaves: a reading of the clock, and the entry kept. -/
def Dev.translated (d : Dev) (c va a : Nat) : Dev := { d with tick := d.tick + 1, tlb := mapSet d.tlb (c, va / 2 ^ 21) (leafEntry a, 2) }

/-- A mapped address is translated by its table's entry, whether that is cached or not. -/
theorem translate_mapped {d : Dev} {p n c va a : Nat} (h : OwnSlab d p n) (hmap : Mapped d c p va a) (store : Bool)
    (htlb : ∀ e, mapGet? d.tlb (c, va / 2 ^ 21) = some e → e = (leafEntry a, 2)) :
    (translate (some (p, n)) c va store).run d = (.ok a, d.translated c va a) := by
  have hwalk : (walk (some (p, n)) va 3 (mapGet d.ctxs c Ctx.reset).root 1).run { d with tick := d.tick + 1 } =
    (.ok (leafEntry a, 2), { d with tick := d.tick + 1 }) := walk_mapped (d := { d with tick := d.tick + 1 }) h hmap
  obtain ⟨hva, hplace, hoff, hroot, -⟩ := hmap
  have hroot : tableOk (mapGet d.ctxs c Ctx.reset).root = true := hroot
  obtain ⟨hr, hw⟩ := leaf_grants a
  have hpage := leaf_page (slab_lt hplace) hoff
  unfold translate
  rw [if_neg (by simp; omega), Act.run_ok (run_devGet d), Act.run_ok (run_devMod _ d)]
  dsimp only
  split
  · next e huse =>
    obtain rfl : e = (leafEntry a, 2) := by
      split at huse
      · next x hx =>
        split at huse
        · exact Option.some.inj huse ▸ htlb x hx
        · cases huse
      · cases huse
    rw [Act.run_ok (Act.run_pure _ _)]
    dsimp only
    rw [Act.run_ok (run_devMod _ _), hr, hw, if_neg (by simp), if_pos rfl, hpage]
    rfl
  · rw [if_pos hroot, Act.run_ok hwalk]
    dsimp only
    rw [Act.run_ok (run_devMod _ _), hr, hw, if_neg (by simp), if_pos rfl, hpage]
    rfl

/-! ### Loads and stores within one page -/

theorem pages_one {va len : Nat} (hpos : 0 < len) (hpage : va % 2 ^ 21 + len ≤ 2 ^ 21) (hlen : len < 2 ^ 21) : pages (len / 2 ^ 21 + 2) va len = [(va, len)] := by
  have hk : len / 2 ^ 21 + 2 = 1 + 1 := by omega
  have hn : min len (2 ^ 21 - va % 2 ^ 21) = len := by omega
  rw [hk]
  unfold pages
  rw [if_neg (by omega)]
  dsimp only
  rw [hn, Nat.sub_self]
  rfl

theorem Mapped.end_le {d : Dev} {p c va a len : Nat} (hmap : Mapped d c p va a) (hpage : va % 2 ^ 21 + len ≤ 2 ^ 21) :
    a + len ≤ slabBase (p + 1) := by
  obtain ⟨-, hplace, hoff, -⟩ := hmap
  obtain ⟨-, -, hhi⟩ := place_slab.mp hplace
  unfold slabBase at *
  omega

section
variable {d : Dev} {w : Who} {p n c va a len : Nat} (h : OwnSlab d p n) (hmap : Mapped d c p va a) (hpart : w.part = some p) (hnode : w.node = n)
  (hctx : w.ctx = c) (htlb : ∀ e, mapGet? d.tlb (c, va / 2 ^ 21) = some e → e = (leafEntry a, 2)) (hpos : 0 < len) (hlen : len < 2 ^ 21)
  (hpage : va % 2 ^ 21 + len ≤ 2 ^ 21)
include h hmap hpart hnode hctx htlb hpos hlen hpage

theorem virtLoad_mapped : (virtLoad w va len).run d = (.ok (d.mem.read a len), d.translated c va a) := by
  have hsrc : w.src = some (p, n) := by rw [Who.src, hpart, hnode]; rfl
  have hown : OwnSlab (d.translated c va a) p n := h
  have hend := hmap.end_le hpage
  have hone : (mapA [(va, len)] fun q => do let t ← translate w.src w.ctx q.1 false; physLoad w t q.2 : Act (List (List Byte))).run d =
      (.ok [d.mem.read a len], d.translated c va a) := by
    unfold mapA
    rw [Act.run_bind, Act.run_ok (show (translate w.src w.ctx va false).run d = _ by rw [hsrc, hctx]; exact translate_mapped h hmap false htlb),
      hown.physLoad hmap.2.1 hpart hnode hend]
    rfl
  unfold virtLoad
  rw [pages_one hpos hpage hlen, Act.run_ok hone]
  exact congrArg (fun bs => (Except.ok bs, d.translated c va a)) (List.append_nil _)

theorem virtStore_mapped {bs : List Byte} (hbs : bs.length = len) :
    ∃ rs, (virtStore w va bs).run d = (.ok (), { d.translated c va a with mem := d.mem.write a bs, reservations := rs }) := by
  have hsrc : w.src = some (p, n) := by rw [Who.src, hpart, hnode]; rfl
  have hown : OwnSlab (d.translated c va a) p n := h
  have hend := hmap.end_le hpage
  obtain ⟨rs, hrs⟩ := hown.physStore (w := w) (wt := w.waiter) hmap.2.1 hpart hnode (bs := bs) (by rw [hbs]; exact hend)
  refine ⟨rs, ?_⟩
  unfold virtStore virtStoreAs
  rw [hbs, pages_one hpos hpage hlen]
  unfold forA
  rw [Act.run_bind, Act.run_ok (show (translate w.src w.ctx va true).run d = _ by rw [hsrc, hctx]; exact translate_mapped h hmap true htlb)]
  dsimp only
  rw [Nat.sub_self, slice_whole hbs, hrs]
  rfl

end

/-! ### One block -/

/-- Two addresses of one page have one entry. -/
theorem entry_of_page {d : Dev} {p c va vb a b : Nat} (hsrc : Mapped d c p va a) (hdst : Mapped d c p vb b) (hpage : va / 2 ^ 21 = vb / 2 ^ 21) : leafEntry a = leafEntry b := by
  obtain ⟨-, -, -, -, -, u, -, -, htop, hleaf⟩ := hsrc
  obtain ⟨-, -, -, -, -, u', -, -, htop', hleaf'⟩ := hdst
  have h39 : va / 2 ^ 39 = vb / 2 ^ 39 := by omega
  have h30 : va / 2 ^ 30 = vb / 2 ^ 30 := by omega
  rw [h39] at htop
  obtain rfl : u = u' := by omega
  rw [h30] at hleaf
  exact hleaf.symm.trans hleaf'

section
variable {d : Dev} {w : Who} {p n c va vb a b len : Nat} (h : OwnSlab d p n) (hsrc : Mapped d c p va a) (hdst : Mapped d c p vb b) (hpart : w.part = some p)
  (hnode : w.node = n) (hctx : w.ctx = c) (htlb : d.tlb = []) (hpos : 0 < len) (hlen : len ≤ 4096) (hsrcpage : va % 2 ^ 21 + len ≤ 2 ^ 21)
  (hdstpage : vb % 2 ^ 21 + len ≤ 2 ^ 21)
include h hsrc hdst hpart hnode hctx htlb hpos hlen hsrcpage hdstpage

/-- One block is loaded and stored. -/
theorem copyBlocks_one : ∃ rs, (copyBlocks w (ceilDiv len 4096) va vb len).run d =
    (.ok (), { (d.translated c va a).translated c vb b with mem := d.mem.write b (d.mem.read a len), reservations := rs }) := by
  have hkey : ∀ e, mapGet? (d.translated c va a).tlb (c, vb / 2 ^ 21) = some e → e = (leafEntry b, 2) := fun e he => by
    have he' : mapGet? [((c, va / 2 ^ 21), (leafEntry a, 2))] (c, vb / 2 ^ 21) = some e := by
      rw [← he, Dev.translated, htlb]
      rfl
    rw [mapGet?_cons] at he'
    split at he'
    · next hk =>
      obtain rfl := Option.some.inj he'
      rw [entry_of_page hsrc hdst (Prod.mk.inj hk).2]
    · cases he'
  have hload := virtLoad_mapped (len := len) h hsrc hpart hnode hctx (by rw [htlb]; rintro _ ⟨⟩) hpos (by omega) hsrcpage
  obtain ⟨rs, hstore⟩ := virtStore_mapped (d := d.translated c va a) (bs := d.mem.read a len) h hdst hpart hnode hctx hkey hpos (by omega) hdstpage
    (length_read ..)
  have hblocks : ceilDiv len 4096 = 0 + 1 := by unfold ceilDiv; omega
  have hmin : min len 4096 = len := by omega
  refine ⟨rs, ?_⟩
  rw [hblocks]
  unfold copyBlocks
  rw [if_neg (by omega)]
  dsimp only
  rw [hmin, Act.run_ok hload, Act.run_ok hstore]
  rfl

end

/-! ### The letter -/

/-- The module once a block has been copied, but for the engine's registers. -/
def Dev.blockCopied (d : Dev) (c va a vb b len : Nat) (rs : Map Nat Nat) : Dev :=
  { (d.translated c va a).translated c vb b with mem := d.mem.write b (d.mem.read a len), reservations := rs }

/-- The end of an update engine's letter: it waits for nothing, and one block more is done. -/
theorem RunsOn.blockDone {s : State} {b e : Dev} {l : LetterId} {x : Letter} (h : RunsOn s { s with dev := b } l e []) {p : Nat}
    (hw : b.reg (.fltWait p 18) = s.dev.reg (.fltWait p 18)) (hr : b.reg (.redUpdProgress p) = s.dev.reg (.redUpdProgress p)) :
    RunsOn s { s with dev := (b.whoWait (letterWho x (some p) 18 9) 0).wrap (.redUpdProgress p) 1 } l e
      [(.redUpdProgress p, s.dev.reg (.redUpdProgress p) + 1#64), (.fltWait p 18, fset (s.dev.reg (.fltWait p 18)) 3 2 0)] := by
  have hwait : b.whoWait (letterWho x (some p) 18 9) 0 = b.setReg (.fltWait p 18) (fset (s.dev.reg (.fltWait p 18)) 3 2 0) := by
    rw [← hw]
    rfl
  have hdone : (b.setReg (.fltWait p 18) (fset (s.dev.reg (.fltWait p 18)) 3 2 0)).wrap (.redUpdProgress p) 1 =
      (b.setReg (.fltWait p 18) (fset (s.dev.reg (.fltWait p 18)) 3 2 0)).setReg (.redUpdProgress p) (s.dev.reg (.redUpdProgress p) + 1#64) := by
    rw [Dev.wrap, Dev.reg_setReg, if_neg (by simp), hr]
  rw [hwait, hdone]
  exact (h.setReg _ _).setReg _ _

/-- The start of a letter changes none ahead of it. -/
theorem ringAhead_startLetter {d : Dev} {x : Letter} {l : LetterId} (hid : x.id = l) {p node slot : Nat} :
    ringAhead (d.startLetter x) l p node slot = ringAhead d l p node slot := by
  have htake : ∀ ys : List Letter, (ys.map fun y => if y.id = l then y.begun else y).takeWhile (fun y => decide (y.id ≠ l)) =
      ys.takeWhile fun y => decide (y.id ≠ l) := fun ys => by
    induction ys with
    | nil => rfl
    | cons y ys ih =>
      by_cases hy : y.id = l
      · have hb : y.begun.id = l := hy
        simp [hy, hb]
      · simpa [hy] using ih
  subst hid
  unfold ringAhead
  rw [Dev.startLetter_letters, lettersWith, htake]
  rfl

/-- COPY of one block within the engine's slab (R107). -/
theorem copy_block {s : State} {l : LetterId} {x : Letter} {p src dst len : Nat} (h : Due s.dev l 0x06 x) (hp : x.opnd 0x18 1 = p) (hl : x.opnd 0 8 = len)
    (hpos : 0 < len) (hlen : len ≤ 4096) (heng : fnState s.dev (.engine p 18 1) = 2) (hpart : fnState s.dev (.partition p) = 2)
    (hinst : s.dev.installed p = true) (hout : engineOut s.dev p 18 1 = false) (hpow : powerState s.dev = 0) (htrans : s.dev.power.transition = none)
    (htlb : s.dev.tlb = []) (hcalm : Calm s.dev p) (hrun : runOn s.dev p 18 1 = none) (hring : ringAhead s.dev l p 18 1 = false)
    (hrouted : ∀ a n, place a = .slab p → routed s.dev (some (p, 18)) a n = true) (hsrc : Mapped s.dev x.ctx p (x.opnd 8 8) src)
    (hdst : Mapped s.dev x.ctx p (x.opnd 0x10 8) dst) (hsrcpage : x.opnd 8 8 % 2 ^ 21 + len ≤ 2 ^ 21) (hdstpage : x.opnd 0x10 8 % 2 ^ 21 + len ≤ 2 ^ 21) :
    Answers (.copy l) s fun t =>
      Ends s t l 0 0 { s.dev with mem := s.dev.mem.write dst (s.dev.mem.read src len), tlb := t.dev.tlb, tick := t.dev.tick, reservations := t.dev.reservations }
        [(.redUpdProgress p, s.dev.reg (.redUpdProgress p) + 1#64), (.fltWait p 18, fset (s.dev.reg (.fltWait p 18)) 3 2 0)] := by
  have hid := h.id
  have hring' : ringAhead (s.dev.startLetter x) x.id p 18 1 = false := by rw [hid, ← hring]; exact ringAhead_startLetter hid
  have hinst' : (s.dev.startLetter x).installed p = true := hinst
  have hinstalling : (s.dev.startLetter x).installing p = false := by
    have hone : s.dev.fld .structPartState (4 * p + 3) (4 * p) = 1 := of_decide_eq_true hinst
    exact decide_eq_false (by rw [show (s.dev.startLetter x).fld .structPartState (4 * p + 3) (4 * p) = 1 from hone]; omega)
  have hrun' : runOn (s.dev.startLetter x) p 18 1 = none := hrun
  have hout' : engineOut (s.dev.startLetter x) p 18 1 = false := hout
  have hpow' : powerState (s.dev.startLetter x) = 0 := hpow
  obtain ⟨rs, hcopy⟩ := copyBlocks_one (d := s.dev.startLetter x) (w := letterWho x (some p) 18 9) ⟨hcalm, hrouted⟩ hsrc hdst rfl rfl rfl htlb hpos hlen hsrcpage hdstpage
  have hblocks : ceilDiv len 4096 = 1 := by unfold ceilDiv; omega
  have hruns : RunsOn s { s with dev := (s.dev.startLetter x).blockCopied x.ctx (x.opnd 8 8) src (x.opnd 0x10 8) dst len rs } l
      (s.dev.blockCopied x.ctx (x.opnd 8 8) src (x.opnd 0x10 8) dst len rs) [] :=
    h.runsOn.change (g := fun d => d.blockCopied x.ctx (x.opnd 8 8) src (x.opnd 0x10 8) dst len rs) fun _ _ _ _ => rfl
  obtain ⟨f, hexec, hf⟩ : ∃ f, exec (.copy l) s = .next (s.onDev fun d => d.onLetter l 0x06 f) ∧ f x (s.dev.startLetter x) =
      ((((s.dev.startLetter x).blockCopied x.ctx (x.opnd 8 8) src (x.opnd 0x10 8) dst len rs).whoWait (letterWho x (some p) 18 9) 0).wrap
        (.redUpdProgress p) 1).finish x.id 0 0 := by
    refine ⟨_, congrArg (fun e => Host.Outcome.next (⟨s.pending, s.sec, e⟩ : State)) (onLetterOn_fresh h.found h.2.2.1 _), ?_⟩
    dsimp only
    rw [hp, hl]
    refine (if_neg ?_).trans ((if_neg ?_).trans ((if_neg ?_).trans ?_))
    · rintro (hne | hne)
      · exact hne heng
      · exact hne hpart
    · simp [hinst']
    · simp [hrun', hring', hout', hinstalling, hpow', htrans]
    · unfold Dev.runAct
      rw [hcopy, hblocks]
      rfl
  obtain ⟨t, ht, hends⟩ := h.answersEnds (st := 0) (dt := 0) hexec hf (hruns.blockDone rfl rfl) h.unworked rfl (by omega)
  refine ⟨t, ht, ?_⟩
  have htlb' : t.dev.tlb = (s.dev.blockCopied x.ctx (x.opnd 8 8) src (x.opnd 0x10 8) dst len rs).tlb := by rw [hends.1]
  have htick : t.dev.tick = (s.dev.blockCopied x.ctx (x.opnd 8 8) src (x.opnd 0x10 8) dst len rs).tick := by rw [hends.1]
  have hrs : t.dev.reservations = rs := by rw [hends.1]; rfl
  dsimp only
  rw [htlb', htick, hrs]
  exact hends

/-! ### The obligation -/

/-- Settles O30: each letter by what it does beside its end. -/
theorem lettersWithoutStages : Obligations.LettersWithoutStages := by
  unfold Obligations.LettersWithoutStages
  intro s l x
  refine ⟨note_ends, fence_ends, seal_nothing, fun e a tag h htag hflag hzero hearly hctx hpcie hregions hacks =>
    seal_flushes h htag hflag hzero hearly hctx hpcie hregions hacks, fun p src dst len h hp hl hpos hlen _ heng hpart hinst hout hpow htrans htlb hcalm hrun hring
      hrouted hsrc hdst hsrcpage hdstpage => copy_block h hp hl hpos hlen heng hpart hinst hout hpow htrans htlb hcalm hrun hring hrouted hsrc hdst hsrcpage hdstpage,
    ctxOpen_opens, fun op st dt c hc hx hop hmay hwork hend hcheck hdt => letterCommand_refused hx hmay hop rfl hc hwork hend hcheck hdt⟩

end Sys2Proof.Machine
end

section
/-! Stash entries in use (R318): two letters of one name. -/

namespace Sys2Proof.Machine

/-- A letter of context 0 for mailbox 0, with the first three bytes of its body. -/
def namedLetter (opcode operand : Nat) : Letter :=
  { id := ⟨0, 0⟩, opcode, flags := 0, ctx := 0, gen := 0, route := 0, postmark := 0#32, rcpt := 0, encLen := 0, body := natLe 8 operand, started := false,
    result := none, sat := 0, nonfin := 0, dead := 0, skipped := false, readThrough := false, stages := [], pcieLast := none, pcieStage := 0, regions := [],
    zeroReads := 0, flushErr := none, podAcks := 0, usesHost := false, usesPod := false, bracket := 0 }

/-- An UNLODGE of a handle stands before a RUN_ROUTE of the same name, whose route has a stage that reads the handle's entry. -/
def twoOfOneName : State :=
  { State.reset with dev := { State.reset.dev with
      ctxs := [(0, { Ctx.reset with state := 1 })]
      letters := [namedLetter 0x03 0xFF0000, namedLetter 0x01 0xFF0000]
      parts := [(0, ⟨[], [], [], [List.replicate 64 0#8], [], [], []⟩)]
      stash := [((0, 0, 0xFF0000), ⟨0, 0, 0, none, false, none⟩)] } }

theorem due_twoOfOneName : Due twoOfOneName.dev ⟨0, 0⟩ 0x03 (namedLetter 0x03 0xFF0000) := by
  unfold Due Unworked
  decide +kernel

/-- No running letter uses the entry. -/
theorem idle_twoOfOneName : stashBusy twoOfOneName.dev 0 0xFF0000 = false := by decide +kernel

/-- The start of the UNLODGE starts the other letter too, which is then found to use the entry: nothing is released. -/
theorem unlodge_keeps : ∃ t, exec (.unlodge ⟨0, 0⟩) twoOfOneName = .next t ∧ t.dev.stash = twoOfOneName.dev.stash := by
  refine ⟨_, rfl, ?_⟩
  decide +kernel

/-- Refutes O32: letters of one name start together, so a handle that no running letter uses may be in use once its UNLODGE has started, and then its
entries stay. -/
theorem not_objectsLodged : ¬ Obligations.ObjectsLodged := by
  unfold Obligations.ObjectsLodged
  intro h
  obtain ⟨-, hhandle⟩ := h.2 twoOfOneName ⟨0, 0⟩ (namedLetter 0x03 0xFF0000) 0xFF0000 ⟨0, 0, 0, 0, 0, 0, false, 0, [], [], [], [], [], []⟩ due_twoOfOneName rfl rfl
    (by rintro a b ⟨⟩) (by decide +kernel)
  obtain ⟨t, ht, hstash, -⟩ := (hhandle rfl).2 ⟨_, List.mem_singleton.mpr rfl, rfl, rfl⟩ idle_twoOfOneName
  obtain ⟨t', ht', hkept⟩ := unlodge_keeps
  obtain rfl : t = t' := Host.Outcome.next.inj (ht.symm.trans ht')
  have hin : ((0, 0, 0xFF0000), (⟨0, 0, 0, none, false, none⟩ : Stash)) ∈ t.dev.stash := by rw [hkept]; exact List.mem_singleton.mpr rfl
  exact ((hstash _).mp hin).2 ⟨rfl, rfl⟩

end Sys2Proof.Machine
end

section
/-! Letters that are stopped one after another (R129, R394, R404): each that has not ended ends with its status, and no other changes. -/

namespace Sys2Proof.Machine

/-! ### One end -/

theorem findLetter_of_letters {d e : Dev} (h : e.letters = d.letters) (l : LetterId) : findLetter e l = findLetter d l := by
  unfold findLetter
  rw [h]

theorem findLetter_lettersWith_other (d e : Dev) {l m : LetterId} {f : Letter → Letter} (hf : ∀ y, (f y).id = y.id) (he : e.letters = lettersWith d l f)
    (hne : m ≠ l) : findLetter e m = findLetter d m := by
  unfold findLetter
  rw [he, lettersWith]
  induction d.letters with
  | nil => rfl
  | cons y ys ih =>
    by_cases hy : y.id = l
    · have hm : ¬ y.id = m := fun h => hne (h.symm.trans hy)
      have hfm : ¬ (f y).id = m := fun h => hm ((hf y).symm.trans h)
      simpa [hy, hm, hfm, hne.symm] using ih
    · by_cases hm : y.id = m
      · subst hm
        simp [hy]
      · simpa [hy, hm] using ih

/-- A letter of another name is not touched. -/
theorem mem_lettersWith_other {d : Dev} {l : LetterId} {f : Letter → Letter} {x : Letter} (hx : x ∈ d.letters) (hne : x.id ≠ l) : x ∈ lettersWith d l f :=
  List.mem_map.mpr ⟨x, hx, if_neg hne⟩

/-- The letters once a letter has been told to end. -/
theorem letters_finish (d : Dev) (l : LetterId) (st dt : Nat) : (d.finish l st dt).letters = d.letters ∨
    ∃ res k, (d.finish l st dt).letters = lettersWith d l fun y => { y with result := some res, zeroReads := y.zeroReads + k } := by
  obtain h | ⟨st', dt', k, h⟩ := ledger_finish_any d l st dt
  · exact .inl (congrArg Ledger.letters h)
  · exact .inr ⟨_, k, congrArg Ledger.letters h⟩

theorem finish_other (d : Dev) {l m : LetterId} (hne : m ≠ l) (st dt : Nat) : findLetter (d.finish l st dt) m = findLetter d m := by
  obtain h | ⟨res, k, h⟩ := letters_finish d l st dt
  · exact findLetter_of_letters h m
  · exact findLetter_lettersWith_other d _ (by exact fun _ => rfl) h hne

theorem finish_mem_other {d : Dev} {l : LetterId} {x : Letter} (hx : x ∈ d.letters) (hne : x.id ≠ l) (st dt : Nat) : x ∈ (d.finish l st dt).letters := by
  obtain h | ⟨res, k, h⟩ := letters_finish d l st dt
  · rw [h]; exact hx
  · rw [h]; exact mem_lettersWith_other hx hne

/-- A letter that has ended does not end again. -/
theorem finish_ended {d : Dev} {l : LetterId} {x : Letter} (hx : findLetter d l = some x) (hres : x.result.isSome = true) (st dt : Nat) : d.finish l st dt = d := by
  unfold Dev.finish
  simp [hx, hres]

theorem finish_ends {d : Dev} {l : LetterId} {x : Letter} {st : Nat} (hx : findLetter d l = some x) (hres : x.result = none) (hst : st ≠ 0) (dt : Nat) :
    (findLetter (d.finish l st dt) l).map (·.result) = some (some (st, dt % 65536)) := by
  obtain ⟨k, hk⟩ := ledger_finish hx hres (.inl hst) dt
  have hletters : (d.finish l st dt).letters = lettersWith d l fun y => { y with result := some (st, dt % 65536), zeroReads := y.zeroReads + k } :=
    congrArg Ledger.letters hk
  rw [findLetter_lettersWith d _ l _ (by exact fun _ => rfl) hletters, hx]
  rfl

/-! ### One end after another -/

/-- Each of the letters ends, with a status and a detail of its own. -/
def Dev.stopAll (d : Dev) (xs : List Letter) (st dt : Letter → Nat) : Dev := d.each xs fun d x => d.finish x.id (st x) (dt x)

theorem Dev.stopAll_cons (d : Dev) (x : Letter) (xs : List Letter) (st dt : Letter → Nat) :
    d.stopAll (x :: xs) st dt = (d.finish x.id (st x) (dt x)).stopAll xs st dt := rfl

section
variable {st dt : Letter → Nat}

/-- Nothing but the letters changes in the ledger. -/
theorem ledger_stopAll (xs : List Letter) (d : Dev) : ∃ ls, (d.stopAll xs st dt).ledger = { d.ledger with letters := ls } := by
  induction xs generalizing d with
  | nil => exact ⟨d.letters, rfl⟩
  | cons x xs ih =>
    rw [Dev.stopAll_cons]
    obtain ⟨ls, hls⟩ := ih (d.finish x.id (st x) (dt x))
    obtain h | ⟨st', dt', k, h⟩ := ledger_finish_any d x.id (st x) (dt x)
    · exact ⟨ls, hls.trans (by rw [h])⟩
    · exact ⟨ls, hls.trans (by rw [h])⟩

/-- A letter that none of them is called as stays. -/
theorem stopAll_mem_other {x : Letter} (xs : List Letter) {d : Dev} (hx : x ∈ d.letters) (hne : ∀ y ∈ xs, x.id ≠ y.id) : x ∈ (d.stopAll xs st dt).letters := by
  induction xs generalizing d with
  | nil => exact hx
  | cons y ys ih =>
    rw [Dev.stopAll_cons]
    exact ih (finish_mem_other hx (hne y (by simp)) _ _) fun z hz => hne z (by simp [hz])

theorem stopAll_other {l : LetterId} (xs : List Letter) (d : Dev) (hne : ∀ y ∈ xs, l ≠ y.id) : findLetter (d.stopAll xs st dt) l = findLetter d l := by
  induction xs generalizing d with
  | nil => rfl
  | cons y ys ih =>
    rw [Dev.stopAll_cons, ih _ fun z hz => hne z (by simp [hz])]
    exact finish_other d (hne y (by simp)) _ _

/-- A letter that has ended keeps its result. -/
theorem stopAll_ended {l : LetterId} {res : Nat × Nat} (xs : List Letter) {d : Dev} (hx : (findLetter d l).map (·.result) = some (some res)) :
    (findLetter (d.stopAll xs st dt) l).map (·.result) = some (some res) := by
  induction xs generalizing d with
  | nil => exact hx
  | cons y ys ih =>
    rw [Dev.stopAll_cons]
    refine ih ?_
    by_cases hy : l = y.id
    · obtain ⟨z, hz, hres⟩ := Option.map_eq_some_iff.mp hx
      rw [← hy, finish_ended hz (by rw [hres]; rfl)]
      exact hx
    · rw [finish_other d hy]
      exact hx

/-- A letter among them, the only one of its name, ends with its status. -/
theorem stopAll_ends {x : Letter} (xs : List Letter) {d : Dev} (hx : findLetter d x.id = some x) (hin : x ∈ xs) (hres : x.result = none) (hst : st x ≠ 0)
    (honly : ∀ y ∈ xs, y.id = x.id → y = x) : (findLetter (d.stopAll xs st dt) x.id).map (·.result) = some (some (st x, dt x % 65536)) := by
  induction xs generalizing d with
  | nil => cases hin
  | cons y ys ih =>
    rw [Dev.stopAll_cons]
    by_cases hy : y.id = x.id
    · obtain rfl := honly y (by simp) hy
      exact stopAll_ended ys (finish_ends hx hres hst _)
    · have hmem : x ∈ ys := (List.mem_cons.mp hin).resolve_left fun h => hy (by rw [h])
      exact ih ((finish_other d (Ne.symm hy) _ _).trans hx) hmem fun z hz => honly z (by simp [hz])

end

/-! ### The letters of a generation that has ended -/

/-- The letters that are stopped: the context's that have not ended, but for one to keep, and for those of the next generation that have not started. -/
def stopped (d : Dev) (c : Nat) (keep : Option LetterId) : List Letter :=
  d.letters.filter fun x => x.ctx = c ∧ x.result.isNone ∧ some x.id ≠ keep ∧ (x.started ∨ x.gen ≠ (d.ctx c).gen)

theorem stopLetters_eq (d : Dev) (c status detail : Nat) (keep : Option LetterId) :
    d.stopLetters c status detail keep =
      d.stopAll (stopped d c keep) (fun x => if x.started then status else 5) (fun x => if x.started then detail else (d.ctx c).gen) := by
  unfold Dev.stopLetters Dev.stopAll Dev.each
  refine congrArg (fun f => List.foldl f d (stopped d c keep)) (funext fun e => funext fun x => ?_)
  dsimp only
  split <;> rfl

theorem mem_stopped {d : Dev} {c : Nat} {keep : Option LetterId} {x : Letter} :
    x ∈ stopped d c keep ↔ x ∈ d.letters ∧ x.ctx = c ∧ x.result = none ∧ some x.id ≠ keep ∧ (x.started = true ∨ x.gen ≠ (d.ctx c).gen) := by
  simp [stopped]

/-- The only letter of its name is found under it. -/
theorem findLetter_only {d : Dev} {x : Letter} (hx : x ∈ d.letters) (honly : ∀ y ∈ d.letters, y.id = x.id → y = x) : findLetter d x.id = some x := by
  obtain ⟨y, hy⟩ : ∃ y, findLetter d x.id = some y := Option.isSome_iff_exists.mp (List.find?_isSome.mpr ⟨x, hx, by simp⟩)
  rw [hy, honly y (List.mem_of_find?_eq_some hy) (findLetter_id hy)]

section
variable {d : Dev} {c status detail : Nat} {keep : Option LetterId} {x : Letter} (hx : x ∈ d.letters) (honly : ∀ y ∈ d.letters, y.id = x.id → y = x)
include hx honly

/-- One that is stopped ends, as running or as stale (R129). -/
theorem stopLetters_ends (hstop : x ∈ stopped d c keep) (hstatus : status ≠ 0) :
    (findLetter (d.stopLetters c status detail keep) x.id).map (·.result) =
      some (some (if x.started then (status, detail % 65536) else (5, (d.ctx c).gen % 65536))) := by
  obtain ⟨-, -, hres, -⟩ := mem_stopped.mp hstop
  rw [stopLetters_eq, stopAll_ends _ (findLetter_only hx honly) hstop hres (by split <;> omega)
    fun y hy => honly y (mem_stopped.mp hy).1]
  split <;> rfl

/-- Another stays. -/
theorem stopLetters_keeps (hstop : x ∉ stopped d c keep) : x ∈ (d.stopLetters c status detail keep).letters := by
  rw [stopLetters_eq]
  exact stopAll_mem_other _ hx fun y hy hid => hstop (honly y (mem_stopped.mp hy).1 hid.symm ▸ hy)

end

/-- The letter to keep stays. -/
theorem stopLetters_kept (d : Dev) (c status detail : Nat) (l : LetterId) : findLetter (d.stopLetters c status detail (some l)) l = findLetter d l := by
  rw [stopLetters_eq]
  exact stopAll_other _ d fun y hy hid => (mem_stopped.mp hy).2.2.2.1 (by rw [hid])

theorem ledger_stopLetters (d : Dev) (c status detail : Nat) (keep : Option LetterId) :
    ∃ ls, (d.stopLetters c status detail keep).ledger = { d.ledger with letters := ls } := by
  rw [stopLetters_eq]
  exact ledger_stopAll _ d

/-! ### The mailbag engines are cleared (R368) -/

/-- Of a context nothing is left in the mailbag engines; only registers change beside. -/
theorem redClear_eq (d : Dev) (c : Nat) : (d.redClear c).ledger = d.ledger ∧ (d.redClear c).bags = d.bags.filter (·.ctx ≠ c) ∧
    (d.redClear c).exchs = d.exchs.filter (·.ctx ≠ c) := by
  unfold Dev.redClear Dev.redDrop
  extract_lets e
  have hsync : ∀ (f : Dev) (q : Nat × Nat), f.ledger = e.ledger ∧ f.bags = e.bags ∧ f.exchs = e.exchs →
      (if f.reg (.redChan q.1 q.2) ≠ 0#64 ∧ f.fld (.redChan q.1 q.2) 21 16 = c then f.redChanSync q.1 q.2 c else f).ledger = e.ledger ∧
      (if f.reg (.redChan q.1 q.2) ≠ 0#64 ∧ f.fld (.redChan q.1 q.2) 21 16 = c then f.redChanSync q.1 q.2 c else f).bags = e.bags ∧
      (if f.reg (.redChan q.1 q.2) ≠ 0#64 ∧ f.fld (.redChan q.1 q.2) 21 16 = c then f.redChanSync q.1 q.2 c else f).exchs = e.exchs := by
    rintro f q ⟨hl, hb, hx⟩
    split
    · exact ⟨((ledger_setFld rfl ..).trans ((ledger_setBit rfl ..).trans ((ledger_setFld rfl ..).trans (ledger_setFld rfl ..)))).trans hl, hb, hx⟩
    · exact ⟨hl, hb, hx⟩
  have hstate : ∀ (f : Dev) (p : Nat), f.ledger = e.ledger ∧ f.bags = e.bags ∧ f.exchs = e.exchs →
      (f.redState p).ledger = e.ledger ∧ (f.redState p).bags = e.bags ∧ (f.redState p).exchs = e.exchs := by
    rintro f p ⟨hl, hb, hx⟩
    obtain ⟨m, hm⟩ := (Dev.redState_showsBags f p).1
    exact ⟨(ledger_redState ..).trans hl, by rw [hm]; exact hb, by rw [hm]; exact hx⟩
  exact Dev.each_keeps (Q := fun f => f.ledger = e.ledger ∧ f.bags = e.bags ∧ f.exchs = e.exchs) _ _ hstate _
    (Dev.each_keeps (Q := fun f => f.ledger = e.ledger ∧ f.bags = e.bags ∧ f.exchs = e.exchs) _ _ hsync e ⟨rfl, rfl, rfl⟩)

end Sys2Proof.Machine
end

section
/-! Context resets (R98, R400, R402, R403): the advance of a generation, its markers, and its end. -/

namespace Sys2Proof.Machine

/-! ### Requests and floors -/

/-- Supplies and their rates, which a floor raises (R394, R426). -/
def Supplies (r : Reg) : Prop := ∃ p, r = .pwrPartStatus p

theorem Dev.raiseFloor_supplies (d : Dev) (p : Nat) : OnlyRegs Supplies d (d.raiseFloor p) := by
  have hvolt : ∀ mv, OnlyRegs Supplies d (d.setVolt p mv) := fun mv => by
    have hfirst : OnlyRegs Supplies d (if voltOf d p = mv then d else d.setBit (.pwrPartStatus p) 31 true) := by
      split
      · exact .refl _ d
      · exact (OnlyRegs.refl _ d).setReg ⟨p, rfl⟩ _
    exact ((hfirst.setReg ⟨p, rfl⟩ _).setReg ⟨p, rfl⟩ _).setReg ⟨p, rfl⟩ _
  unfold Dev.raiseFloor
  split
  · exact hvolt _
  · exact .refl _ d

theorem floors_supplies (d : Dev) (ps : List Nat) : OnlyRegs Supplies d (d.each ps Dev.raiseFloor) := OnlyRegs.each Dev.raiseFloor_supplies ps d

/-- Which edges are in reset is told by FLT_STATUS alone. -/
theorem edgesUp_congr {d e : Dev} (h : ∀ p, e.reg (.fltStatus p) = d.reg (.fltStatus p)) : edgesUp e = edgesUp d := by
  have hreset : ∀ p, e.resetting p = d.resetting p := fun p => by
    unfold Dev.resetting Dev.fld
    rw [h]
  unfold edgesUp
  simp only [hreset]

/-! ### An advance -/

/-- What the advance of a generation comes to (R394, R403). -/
def Advanced (d t : Dev) (c cause g : Nat) : Prop :=
  t.ctx c = { d.ctx c with gen := g } ∧ (∀ k, k ≠ c → t.ctx k = d.ctx k) ∧ t.mem = d.mem ∧ t.objs = d.objs ∧
  (⟨c, g, (d.ctx c).state, edgesUp d⟩ : GenMarker) ∈ t.markers ∧
  (∀ x ∈ d.letters, (∀ y ∈ d.letters, y.id = x.id → y = x) →
    (x.ctx = c → x.result = none → x.started = true ∨ x.gen ≠ g → (findLetter t x.id).map (·.result) = some (some (if x.started then (0x51, cause) else (5, g)))) ∧
    (x.ctx ≠ c ∨ x.result ≠ none ∨ (x.started = false ∧ x.gen = g) → x ∈ t.letters)) ∧
  (∀ b ∈ t.bags, b.ctx ≠ c) ∧ (∀ e ∈ t.exchs, e.ctx ≠ c) ∧
  ∃ r ∈ t.drains, r.ctx = c ∧ r.tear = none ∧ r.oldGen = (d.ctx c).gen ∧ r.cause = cause ∧ .memory ∈ r.paths

section
variable {d : Dev} {c cause g : Nat}

/-- The module whose gate has advanced a generation, with the floors raised. -/
def Dev.resetGen (d : Dev) (c : Nat) : Dev := (d.each (runParts d c) Dev.raiseFloor).advanceGen c ((d.each (runParts d c) Dev.raiseFloor).ctx c).state

theorem resetGen_eq (d : Dev) (c : Nat) : ∃ m es, d.resetGen c = { d with
    regs := m, edges := es, markers := d.markers ++ [⟨c, ((d.ctx c).gen + 1) % 4096, (d.ctx c).state, edgesUp d⟩],
    ctxs := mapSet d.ctxs c { d.ctx c with gen := ((d.ctx c).gen + 1) % 4096 } } := by
  obtain ⟨⟨m, hm⟩, hreg⟩ := floors_supplies d (runParts d c)
  have hup : edgesUp (d.each (runParts d c) Dev.raiseFloor) = edgesUp d := edgesUp_congr fun p => hreg _ (by rintro ⟨q, hq⟩; cases hq)
  have hctx : ∀ k, (d.each (runParts d c) Dev.raiseFloor).ctx k = d.ctx k := fun k => by rw [hm]; rfl
  unfold Dev.resetGen Dev.advanceGen
  dsimp only
  rw [hup, hctx, hm]
  exact ⟨m, _, rfl⟩

theorem ctxReset_advances (hg : g = ((d.ctx c).gen + 1) % 4096) (hcause : 0 < cause) (hfour : cause < 4) : Advanced d (d.ctxReset c cause) c cause g := by
  obtain ⟨m, es, hgen⟩ := resetGen_eq d c
  rw [← hg] at hgen
  have hctx : ∀ k, (d.resetGen c).ctx k = if c = k then { d.ctx c with gen := g } else d.ctx k := fun k => by
    rw [hgen]
    exact mapGet_mapSet ..
  have hletters : (d.resetGen c).letters = d.letters := by rw [hgen]
  have hnew : ((d.resetGen c).ctx c).gen = g := by rw [hctx, if_pos rfl]
  obtain ⟨ls, hstop⟩ := ledger_stopLetters (d.resetGen c) c 0x51 cause none
  obtain ⟨hclear, hbags, hexchs⟩ := redClear_eq ((d.resetGen c).stopLetters c 0x51 cause none) c
  have hledger : (((d.resetGen c).stopLetters c 0x51 cause none).redClear c).ledger = { (d.resetGen c).ledger with letters := ls } := hclear.trans hstop
  have hls : (((d.resetGen c).stopLetters c 0x51 cause none).redClear c).letters = ((d.resetGen c).stopLetters c 0x51 cause none).letters :=
    congrArg Ledger.letters hclear
  have hctxs : (((d.resetGen c).stopLetters c 0x51 cause none).redClear c).ctxs = (d.resetGen c).ctxs := congrArg Ledger.ctxs hledger
  have hctx' : ∀ k, (d.ctxReset c cause).ctx k = (d.resetGen c).ctx k := fun k => congrArg (fun m => mapGet m k Ctx.reset) hctxs
  have hg16 : g < 4096 := by omega
  refine ⟨?_, fun k hk => ?_, ?_, ?_, ?_, fun x hx honly => ⟨fun hc hres hstarted => ?_, fun hkeep => ?_⟩, fun b hb => ?_, fun e he => ?_, ?_⟩
  · rw [hctx', hctx, if_pos rfl]
  · rw [hctx', hctx, if_neg hk.symm]
  · exact (congrArg Ledger.mem hledger).trans (by rw [hgen]; rfl)
  · exact (congrArg Ledger.objs hledger).trans (by rw [hgen]; rfl)
  · have hmarkers : (d.ctxReset c cause).markers = d.markers ++ [⟨c, g, (d.ctx c).state, edgesUp d⟩] :=
      (congrArg Ledger.markers hledger).trans (by rw [hgen]; rfl)
    rw [hmarkers]
    simp
  · have hin : x ∈ stopped (d.resetGen c) c none := mem_stopped.mpr ⟨hletters ▸ hx, hc, hres, by simp, by rw [hnew]; exact hstarted⟩
    have hend := stopLetters_ends (detail := cause) (d := d.resetGen c) (hletters ▸ hx) (by rw [hletters]; exact honly) hin (status := 0x51) (by omega)
    rw [hnew, Nat.mod_eq_of_lt (show g < 65536 by omega), Nat.mod_eq_of_lt (show cause < 65536 by omega)] at hend
    rw [← hend]
    exact congrArg _ (findLetter_of_letters (e := d.ctxReset c cause) hls x.id)
  · have hout : x ∉ stopped (d.resetGen c) c none := fun hin => by
      obtain ⟨-, hc, hres, -, hst⟩ := mem_stopped.mp hin
      rw [hnew] at hst
      obtain hk | hk | ⟨hk, hk'⟩ := hkeep
      · exact hk hc
      · exact hk hres
      · simp [hk, hk'] at hst
    have hmem := stopLetters_keeps (status := 0x51) (detail := cause) (d := d.resetGen c) (hletters ▸ hx) (by rw [hletters]; exact honly) hout
    exact hls.symm ▸ hmem
  · have hb' : b ∈ (((d.resetGen c).stopLetters c 0x51 cause none).redClear c).bags := hb
    rw [hbags] at hb'
    simpa using (List.mem_filter.mp hb').2
  · have he' : e ∈ (((d.resetGen c).stopLetters c 0x51 cause none).redClear c).exchs := he
    rw [hexchs] at he'
    simpa using (List.mem_filter.mp he').2
  · refine ⟨_, List.mem_append_right _ (List.mem_singleton.mpr rfl), rfl, rfl, rfl, rfl, List.mem_cons_self⟩

/-- An advance that nothing holds back takes effect at once. -/
theorem genRequest_effect (hheld : genHeld d c (((d.ctx c).gen + 1) % 4096) = false) (hnone : ∀ a ∈ d.advances, a.1 ≠ c) : d.genRequest c cause = d.genEffect c cause := by
  have hany : d.advances.any (fun a => decide (a.1 = c)) = false := by
    rw [List.any_eq_false]
    exact fun a ha => by simpa using hnone a ha
  unfold Dev.genRequest
  rw [if_neg (by simp only [hheld, hany]; simp)]

/-- One that a request or another advance holds back waits; a reset's floors hold from now on. -/
theorem genRequest_waits (hwait : genHeld d c (((d.ctx c).gen + 1) % 4096) = true ∨ ∃ a ∈ d.advances, a.1 = c) :
    d.genRequest c cause = { (if cause = 0 then d else d.each (runParts d c) Dev.raiseFloor) with advances := (if cause = 0 then d else d.each (runParts d c) Dev.raiseFloor).advances ++ [(c, cause)] } := by
  unfold Dev.genRequest
  rw [if_pos (hwait.imp id fun ⟨a, ha, hac⟩ => List.any_eq_true.mpr ⟨a, ha, by simpa using hac⟩)]

end

/-! ### GATE_CTX_RESET -/

/-- What GATE_CTX_RESET reads once a reset is busy, or has been ignored. -/
def resetWord (d : Dev) (c : Nat) (busy : Bool) : W64 := bset (bset (fset (d.reg .gateCtxReset) 5 0 c) 30 busy) 31 busy

/-- The module with a reset of context `c` written, busy or over. -/
def Dev.resetWritten (d : Dev) (c : Nat) (busy : Bool) : Dev := ((d.setFld .gateCtxReset 5 0 c).setBit .gateCtxReset 30 busy).setBit .gateCtxReset 31 busy

theorem reg_resetWritten (d : Dev) (c : Nat) (busy : Bool) (q : Reg) :
    (d.resetWritten c busy).reg q = if .gateCtxReset = q then resetWord d c busy else d.reg q := by
  unfold Dev.resetWritten resetWord
  rw [Dev.reg_setBit, Dev.reg_setBit, Dev.reg_setBit, Dev.reg_setFld, Dev.reg_setFld, if_pos rfl, if_pos rfl]
  split <;> rfl

section
variable {s : State} {c k : Nat} {v : Via} (hk : k % 64 = c) (h : Granted s.dev v .high .gateCtxReset)
include hk h

theorem exec_contextReset : exec (.contextReset v k) s = .next { s with dev := (
    if (s.dev.across v .gateCtxReset).bit .gateCtxReset 30 then s.dev.across v .gateCtxReset
    else if ((s.dev.across v .gateCtxReset).ctx c).state ≠ 1 then (s.dev.across v .gateCtxReset).resetWritten c false
    else ((s.dev.across v .gateCtxReset).resetWritten c true).genRequest c 1).tells (viaAck v) } := by
  subst hk
  show execContextReset v k s = _
  unfold execContextReset State.onDev
  dsimp only
  rw [Dev.viaReg_granted h]
  rfl

omit hk h in
theorem bit_across (i : Nat) : (s.dev.across v .gateCtxReset).bit .gateCtxReset i = s.dev.bit .gateCtxReset i := by
  rw [Dev.bit, Dev.fld, (s.dev.across_onlyRegs v _).reg_eq (by simp), Dev.bit, Dev.fld]

omit hk h in
theorem ctx_across (k : Nat) : (s.dev.across v .gateCtxReset).ctx k = s.dev.ctx k := by
  obtain ⟨m, hm⟩ := (s.dev.across_onlyRegs v .gateCtxReset).1
  rw [hm]
  rfl

/-- A busy reset is not disturbed. -/
theorem contextReset_busy (hbusy : s.dev.bit .gateCtxReset 30 = true) :
    Runs (.contextReset v k) s { s.dev.across v .gateCtxReset with out := s.dev.out ++ viaAck v } := by
  obtain ⟨m, hm⟩ := (s.dev.across_onlyRegs v .gateCtxReset).1
  have hout : (s.dev.across v .gateCtxReset).out = s.dev.out := by rw [hm]
  show exec _ s = _
  rw [exec_contextReset hk h, if_pos (by rw [bit_across]; exact hbusy), ← hout]
  rfl

/-- A reset of a context that is not OPEN is over at once. -/
theorem contextReset_closed (hbusy : s.dev.bit .gateCtxReset 30 = false) (hctx : (s.dev.ctx c).state ≠ 1) : Answers (.contextReset v k) s fun t =>
    Becomes (s.across v .gateCtxReset) t { s.dev with out := s.dev.out ++ viaAck v } [(.gateCtxReset, resetWord s.dev c false)] := by
  obtain ⟨m, hm⟩ := (s.dev.across_onlyRegs v .gateCtxReset).1
  refine ⟨_, exec_contextReset hk h, ?_⟩
  rw [if_neg (by rw [bit_across, hbusy]; exact Bool.false_ne_true), if_pos (by rw [ctx_across]; exact hctx)]
  refine becomes_tells (e := s.dev) (by rw [hm]; rfl) (fun q => ?_) _
  rw [reg_resetWritten, resetWord, (s.dev.across_onlyRegs v _).reg_eq (by simp), mapGet?_cons]
  split <;> rfl

variable (hbusy : s.dev.bit .gateCtxReset 30 = false) (hopen : (s.dev.ctx c).state = 1)
include hbusy hopen

theorem contextReset_asks : exec (.contextReset v k) s = .next { s with dev := (((s.dev.across v .gateCtxReset).resetWritten c true).genRequest c 1).tells (viaAck v) } := by
  rw [exec_contextReset hk h, if_neg (by rw [bit_across, hbusy]; exact Bool.false_ne_true), if_neg (by rw [ctx_across]; simpa using hopen)]

omit hk h hbusy hopen in
/-- A reset that has been asked for has changed registers alone so far. -/
theorem resetWritten_eq : ∃ m, (s.dev.across v .gateCtxReset).resetWritten c true = { s.dev with regs := m } := by
  obtain ⟨m, hm⟩ := (s.dev.across_onlyRegs v .gateCtxReset).1
  rw [hm]
  exact ⟨_, rfl⟩

/-- While a request holds the new generation, or another advance waits, the reset waits. -/
theorem contextReset_waits (hwait : genHeld s.dev c (((s.dev.ctx c).gen + 1) % 4096) = true ∨ ∃ a ∈ s.dev.advances, a.1 = c) :
    Answers (.contextReset v k) s fun t =>
      t = { s with dev := { s.dev with advances := s.dev.advances ++ [(c, 1)], regs := t.dev.regs, power := t.dev.power, out := s.dev.out ++ viaAck v } } ∧
      t.dev.reg .gateCtxReset = resetWord s.dev c true ∧
      (runParts s.dev c = [] → Becomes (s.across v .gateCtxReset) t { s.dev with advances := s.dev.advances ++ [(c, 1)], out := s.dev.out ++ viaAck v }
        [(.gateCtxReset, resetWord s.dev c true)]) := by
  obtain ⟨m, hm⟩ := resetWritten_eq (s := s) (c := c) (v := v)
  have hreg : ∀ q, ((s.dev.across v .gateCtxReset).resetWritten c true).reg q = if .gateCtxReset = q then resetWord s.dev c true else (s.dev.across v .gateCtxReset).reg q := fun q => by
    rw [reg_resetWritten, resetWord, (s.dev.across_onlyRegs v _).reg_eq (by simp), ← resetWord]
  obtain ⟨⟨m', hm'⟩, hsame⟩ := floors_supplies ((s.dev.across v .gateCtxReset).resetWritten c true) (runParts ((s.dev.across v .gateCtxReset).resetWritten c true) c)
  have hparts : runParts ((s.dev.across v .gateCtxReset).resetWritten c true) c = runParts s.dev c := by rw [hm]; rfl
  refine ⟨_, contextReset_asks hk h hbusy hopen, ?_⟩
  rw [genRequest_waits (by rw [hm]; exact hwait), if_neg (by omega)]
  refine ⟨?_, ?_, fun hnone => ?_⟩
  · rw [hm', hm]
    rfl
  · refine (hsame .gateCtxReset (by rintro ⟨q, hq⟩; cases hq)).trans ?_
    rw [hreg, if_pos rfl]
  · rw [hparts, hnone, Dev.each_nil]
    refine becomes_tells (e := { s.dev with advances := s.dev.advances ++ [(c, 1)] }) (by rw [hm]) (fun q => ?_) _
    refine (hreg q).trans ?_
    rw [mapGet?_cons]
    split <;> rfl

end

/-- What an advance comes to does not rest on the registers that a reset is written at, nor on the advances that wait. -/
theorem Advanced.of_regs {d t : Dev} {c cause g : Nat} {m : Map Reg W64} {as : List (Nat × Nat)} (h : Advanced { d with regs := m, advances := as } t c cause g)
    (hup : edgesUp { d with regs := m, advances := as } = edgesUp d) (ack : List Output) : Advanced d (t.tells ack) c cause g := by
  unfold Advanced at h
  rw [hup] at h
  exact h

/-- A reset that nothing holds back takes effect at once. -/
theorem contextReset_advances {s : State} {c k g : Nat} {v : Via} (hk : k % 64 = c) (h : Granted s.dev v .high .gateCtxReset)
    (hbusy : s.dev.bit .gateCtxReset 30 = false) (hopen : (s.dev.ctx c).state = 1) (hg : g = ((s.dev.ctx c).gen + 1) % 4096)
    (hheld : genHeld s.dev c g = false) (hnone : ∀ a ∈ s.dev.advances, a.1 ≠ c) : Answers (.contextReset v k) s fun t => Advanced s.dev t.dev c 1 g := by
  obtain ⟨m, hm⟩ := resetWritten_eq (s := s) (c := c) (v := v)
  have hup : edgesUp ((s.dev.across v .gateCtxReset).resetWritten c true) = edgesUp s.dev := edgesUp_congr fun p => by
    rw [reg_resetWritten, if_neg (by simp), (s.dev.across_onlyRegs v _).reg_eq (by simp)]
  rw [hm] at hup
  refine ⟨_, contextReset_asks hk h hbusy hopen, ?_⟩
  rw [hm, genRequest_effect (d := { s.dev with regs := m }) (by rw [hg] at hheld; exact hheld) hnone]
  exact (ctxReset_advances (d := { s.dev with regs := m }) hg (by omega) (by omega)).of_regs (as := s.dev.advances) hup _

/-! ### The advances that waited -/

/-- One takes effect once no request holds the new generation (R402). -/
theorem generationAdvance_advances {s : State} {c cause g : Nat} (hg : g = ((s.dev.ctx c).gen + 1) % 4096) (hheld : genHeld s.dev c g = false)
    (hcause : 0 < cause) (hfour : cause < 4) (hfind : s.dev.advances.find? (fun a => decide (a.1 = c)) = some (c, cause)) :
    Answers (.generationAdvance c) s fun t => Advanced s.dev t.dev c cause g := by
  have hexec : exec (.generationAdvance c) s = .next { s with dev := ({ s.dev with advances := s.dev.advances.erase (c, cause) } : Dev).genEffect c cause } := by
    show execGenerationAdvance c s = _
    unfold execGenerationAdvance State.onDev
    dsimp only
    rw [hfind]
    dsimp only
    rw [← hg, hheld, if_neg Bool.false_ne_true]
  refine ⟨_, hexec, ?_⟩
  unfold Dev.genEffect
  rw [if_pos (by omega)]
  have hadv := (ctxReset_advances (d := { s.dev with advances := s.dev.advances.erase (c, cause) }) hg hcause hfour).of_regs (d := s.dev) (m := s.dev.regs)
    (as := s.dev.advances.erase (c, cause)) rfl []
  rwa [Dev.tells_nil] at hadv

theorem generationAdvance_held {s : State} {c : Nat} {a : Nat × Nat} (hfind : s.dev.advances.find? (fun a => decide (a.1 = c)) = some a)
    (hheld : genHeld s.dev c (((s.dev.ctx c).gen + 1) % 4096) = true) : exec (.generationAdvance c) s = .next s := by
  show execGenerationAdvance c s = _
  unfold execGenerationAdvance State.onDev
  dsimp only
  rw [hfind]
  dsimp only
  rw [hheld, if_pos rfl]

/-! ### Markers -/

/-- A marker reaches an edge, which latches its generation (R400). -/
theorem generationMarkerArrive_latches {s : State} {c edge : Nat} {m : GenMarker}
    (hfind : s.dev.markers.find? (fun m => m.ctx = c ∧ m.left.contains edge) = some m) : Answers (.generationMarkerArrive c edge) s fun t =>
      t = { s with dev := { s.dev with edges := t.dev.edges, markers := t.dev.markers } } ∧ (t.dev.edgeGen edge c = m.gen) ∧
      (∀ e k, (e, k) ≠ (edge, c) → mapGet? t.dev.edges (e, k) = mapGet? s.dev.edges (e, k)) ∧ m ∉ t.dev.markers := by
  have hleft : edge ∈ m.left := by
    have hm := List.find?_some hfind
    simp only [decide_eq_true_eq, List.contains_iff_mem] at hm
    exact hm.2
  have hexec : exec (.generationMarkerArrive c edge) s = .next { s with dev := { s.dev with
      edges := mapSet s.dev.edges (edge, c) (m.gen, m.state)
      markers := (s.dev.markers.map fun k => if k = m then { k with left := m.left.filter (· ≠ edge) } else k).filter (·.left ≠ []) } } := by
    show execGenerationMarkerArrive c edge s = _
    unfold execGenerationMarkerArrive State.onDev
    dsimp only
    rw [hfind]
  refine ⟨_, hexec, rfl, ?_, fun e k hek => ?_, fun hin => ?_⟩
  · exact congrArg Prod.fst ((mapGet_mapSet ..).trans (if_pos rfl))
  · exact (mapGet?_mapSet ..).trans (if_neg hek.symm)
  · obtain ⟨k, -, hkm⟩ := List.mem_map.mp (List.mem_filter.mp hin).1
    split at hkm
    · have hgone : m.left.filter (· ≠ edge) = m.left := congrArg GenMarker.left hkm
      have hstill : edge ∈ m.left.filter (· ≠ edge) := by rw [hgone]; exact hleft
      simp at hstill
    · next hne => exact hne hkm

/-! ### The end of a reset (R403) -/

theorem contextResetDone_waits {s : State} {c : Nat} {r : Drain} (hfind : s.dev.drains.find? (fun r => r.ctx = c ∧ r.tear.isNone) = some r)
    (hdrained : drained s.dev r = false) : exec (.contextResetDone c) s = .next s := by
  show execContextResetDone c s = _
  unfold execContextResetDone State.onDev
  dsimp only
  rw [hfind]
  dsimp only
  rw [hdrained]
  rfl

/-- What the end of a reset reports (R412). -/
def resetOverInc (c : Nat) (r : Drain) : Inc :=
  { cls := 0x280, eng := 0x20, die := dieGate, part := none, ctx := some (c, (r.oldGen + 1) % 4096), d0 := r.oldGen + (r.oldGen + 1) % 4096 * 2 ^ 16 + r.cause * 2 ^ 32 }

theorem contextResetDone_reports {s : State} {c : Nat} {r : Drain} (hfind : s.dev.drains.find? (fun r => r.ctx = c ∧ r.tear.isNone) = some r)
    (hdrained : drained s.dev r = true) : Answers (.contextResetDone c) s fun t => Reports s t { s.dev with drains := s.dev.drains.filter (· ≠ r) }
      (if r.cause = 1 then [(.gateCtxReset, bset (bset (s.dev.reg .gateCtxReset) 30 false) 31 false)] else [])
      (resetOverInc c r) := by
  have hexec : exec (.contextResetDone c) s = .next { s with dev :=
      (if r.cause = 1 then ({ s.dev with drains := s.dev.drains.filter (· ≠ r) } : Dev).ctxResetOver else { s.dev with drains := s.dev.drains.filter (· ≠ r) }).raise (resetOverInc c r) } := by
    show execContextResetDone c s = _
    unfold execContextResetDone State.onDev
    dsimp only
    rw [hfind]
    dsimp only
    rw [hdrained]
    rfl
  refine ⟨_, hexec, { s with dev := if r.cause = 1 then ({ s.dev with drains := s.dev.drains.filter (· ≠ r) } : Dev).ctxResetOver else
    { s.dev with drains := s.dev.drains.filter (· ≠ r) } }, ?_, rfl⟩
  split
  · refine ⟨rfl, fun q => ?_⟩
    show (({ s.dev with drains := s.dev.drains.filter (· ≠ r) } : Dev).ctxResetOver).reg q = _
    unfold Dev.ctxResetOver
    rw [Dev.reg_setBit, Dev.reg_setBit, Dev.reg_setBit, if_pos rfl, mapGet?_cons]
    split <;> rfl
  · exact ⟨rfl, fun q => rfl⟩

/-! ### The obligation -/

/-- Settles O50: a reset is refused, waits or takes effect; its markers latch; and its end. -/
theorem contextReset : Obligations.ContextReset := by
  unfold Obligations.ContextReset
  intro s c hc
  refine ⟨fun v k hk h => ⟨contextReset_busy hk h, contextReset_closed hk h, contextReset_waits hk h⟩, fun i cause g hg hheld hcause hfour hi => ?_,
    fun a hfind hheld => generationAdvance_held hfind hheld, fun edge m hfind => generationMarkerArrive_latches hfind,
    fun r hfind => ⟨contextResetDone_waits hfind, contextResetDone_reports hfind⟩⟩
  obtain ⟨v, k, rfl, hk, h, hbusy, hopen, hnone, rfl⟩ | ⟨rfl, hfind⟩ := hi
  · exact contextReset_advances hk h hbusy hopen hg hheld hnone
  · exact generationAdvance_advances hg hheld hcause hfour hfind

end Sys2Proof.Machine
end

section
/-! Teardowns (R97, R155, R404, R405): how CTX_TEAR takes effect, and how its markers return. -/

namespace Sys2Proof.Machine

/-! ### What a partition's hall does for itself -/

/-- Of the ledger, memory and registers alone differ: post halls have been written. -/
def HallOnly (d e : Dev) : Prop := ∃ m rs, e.ledger = { d.ledger with mem := m, regs := rs }

theorem HallOnly.refl (d : Dev) : HallOnly d d := ⟨d.mem, _, rfl⟩

theorem HallOnly.trans {d e f : Dev} (h : HallOnly d e) (h' : HallOnly e f) : HallOnly d f := by
  obtain ⟨m, rs, hm⟩ := h
  obtain ⟨m', rs', hm'⟩ := h'
  exact ⟨m', rs', by rw [hm', hm]⟩

theorem HallOnly.each {α : Type} {f : Dev → α → Dev} (hf : ∀ d x, HallOnly d (f d x)) (xs : List α) (d : Dev) : HallOnly d (d.each xs f) :=
  Dev.each_keeps (Q := HallOnly d) xs f (fun e x he => he.trans (hf e x)) d (.refl d)

theorem HallOnly.setReg (d : Dev) (r : Reg) (v : W64) : HallOnly d (d.setReg r v) := ⟨d.mem, _, rfl⟩

theorem hallOnly_homeStore (d : Dev) (a : Nat) (bs : List Byte) : HallOnly d (homeStore d a bs) := by
  have hsnoop : ∀ (e : Dev) (line : Nat) (w : Bool), HallOnly e (snoopWrite e line w) := fun e line w => by
    obtain ⟨m, rs, h, -⟩ := snoopWrite_cases e line w
    rw [h]
    exact ⟨m, _, rfl⟩
  unfold homeStore
  split
  · exact (HallOnly.each (fun e l => hsnoop e l _) _ d).trans ⟨_, _, rfl⟩
  · exact ⟨_, _, rfl⟩

theorem hallOnly_dirWrite (d : Dev) (p slot : Nat) (bs : List Byte) : HallOnly d (d.dirWrite p slot bs) := by
  obtain h | ⟨a, -, ⟨-, h⟩ | ⟨-, h⟩⟩ := dirWrite_cases d p slot bs
  · rw [h]; exact .refl d
  · rw [h]; exact ⟨d.mem, _, rfl⟩
  · rw [h]; exact hallOnly_homeStore ..

theorem hallOnly_histSet (d : Dev) (p off len v : Nat) : HallOnly d (d.histSet p off len v) := hallOnly_homeStore ..

/-! ### Pools (R269) -/

theorem hallOnly_dropRef (d : Dev) (q : Pool) (f : Nat) : HallOnly d (d.dropRef q f) := by
  unfold Dev.dropRef Dev.freeIfDue
  split
  · exact (hallOnly_histSet ..).trans (hallOnly_histSet ..)
  · exact hallOnly_histSet ..

theorem hallOnly_poolSync (d : Dev) (p k : Nat) : HallOnly d (d.poolSync p k) := by
  unfold Dev.poolSync
  split
  · exact (hallOnly_histSet ..).trans (.setReg ..)
  · exact .setReg ..

theorem hallOnly_releasePools (d : Dev) (c : Nat) : HallOnly d (d.releasePools c) := by
  have hseq : ∀ (q : Pool) (e : Dev) (n : Nat), HallOnly e (e.releaseSeq q n) := fun q e n =>
    (hallOnly_histSet ..).trans (.each (fun f k => hallOnly_dropRef f q k) _ _)
  unfold Dev.releasePools
  refine .each (fun e pk => ?_) _ d
  split
  · exact ((HallOnly.each (hseq _) _ e).trans (hallOnly_histSet ..)).trans (hallOnly_poolSync ..)
  · exact .refl e

/-! ### Pins (R155) -/

/-- Of the ledger, memory, registers and objects alone differ: the objects are `os`. -/
def ObjsOnly (d e : Dev) (os : Map Nat Obj) : Prop := ∃ m rs, e.ledger = { d.ledger with mem := m, regs := rs, objs := os }

theorem ObjsOnly.trans {d e f : Dev} {os os' : Map Nat Obj} (h : ObjsOnly d e os) (h' : ObjsOnly e f os') : ObjsOnly d f os' := by
  obtain ⟨m, rs, hm⟩ := h
  obtain ⟨m', rs', hm'⟩ := h'
  exact ⟨m', rs', by rw [hm', hm]⟩

theorem ObjsOnly.objs_eq {d e : Dev} {os : Map Nat Obj} (h : ObjsOnly d e os) : e.objs = os := by
  obtain ⟨m, rs, hm⟩ := h
  exact congrArg Ledger.objs hm

theorem ObjsOnly.refl (d : Dev) : ObjsOnly d d d.objs := ⟨d.mem, _, rfl⟩

theorem putObj_objsOnly (d : Dev) (id : Nat) (o : Obj) : ObjsOnly d (d.putObj id o) (mapSet d.objs id o) := by
  unfold Dev.putObj
  dsimp only
  split
  · next k _ =>
    obtain ⟨m, rs, hm⟩ := hallOnly_dirWrite { d with objs := mapSet d.objs id o } o.home k (dirEntry id o true)
    exact ⟨m, rs, hm⟩
  · exact ⟨d.mem, _, rfl⟩

/-- An object loses a context's pin; no other object changes. -/
theorem unpin_objsOnly (d : Dev) (id c : Nat) : ∃ os, ObjsOnly d (d.unpin id c none) os ∧ (∀ k, k ≠ id → mapGet? os k = mapGet? d.objs k) ∧
    ∀ o, mapGet? os id = some o → c ∉ o.pins := by
  have hput : ∀ o : Obj, c ∉ o.pins → ∃ os, ObjsOnly d (d.putObj id o) os ∧ (∀ k, k ≠ id → mapGet? os k = mapGet? d.objs k) ∧
      ∀ o, mapGet? os id = some o → c ∉ o.pins := fun o ho => by
    refine ⟨_, putObj_objsOnly d id o, fun k hk => (mapGet?_mapSet ..).trans (if_neg hk.symm), fun o' ho' => ?_⟩
    rw [mapGet?_mapSet, if_pos rfl] at ho'
    obtain rfl := Option.some.inj ho'
    exact ho
  have hgone : ∀ o : Obj, c ∉ o.pins.filter (· ≠ c) := by simp
  unfold Dev.unpin
  dsimp only
  split
  · next hnone => exact ⟨d.objs, .refl d, fun _ _ => rfl, fun o ho => by rw [hnone] at ho; cases ho⟩
  · next o ho =>
    split
    · next hpin =>
      refine ⟨d.objs, .refl d, fun _ _ => rfl, fun o' ho' => ?_⟩
      rw [ho] at ho'
      obtain rfl := Option.some.inj ho'
      simpa using hpin
    · split
      · exact hput _ (hgone o)
      · split
        · exact hput _ (hgone o)
        · split <;> exact hput _ (hgone o)

theorem mem_of_mapGet? {κ α : Type} [DecidableEq κ] {m : Map κ α} {k : κ} {v : α} (h : mapGet? m k = some v) : (k, v) ∈ m := by
  induction m with
  | nil => cases h
  | cons e m ih =>
    rw [mapGet?_cons] at h
    split at h
    · next hk =>
      obtain rfl := Option.some.inj h
      exact hk ▸ List.mem_cons_self
    · exact List.mem_cons_of_mem _ (ih h)

theorem clearPins_objsOnly (d : Dev) (c : Nat) : ∃ os, ObjsOnly d (d.clearPins c) os ∧ ∀ k o, mapGet? os k = some o → c ∉ o.pins := by
  have hall : ∀ (es : Map Nat Obj) (d : Dev), ∃ os, ObjsOnly d (d.each es fun d e => d.unpin e.1 c none) os ∧
      ∀ k o, mapGet? os k = some o → c ∈ o.pins → k ∉ es.map (·.1) ∧ mapGet? d.objs k = some o := fun es => by
    induction es with
    | nil => exact fun d => ⟨d.objs, .refl d, fun k o ho _ => ⟨by simp, ho⟩⟩
    | cons e es ih =>
      intro d
      obtain ⟨os, hfirst, hothers, hgone⟩ := unpin_objsOnly d e.1 c
      obtain ⟨os', hrest, hleft⟩ := ih (d.unpin e.1 c none)
      refine ⟨os', hfirst.trans hrest, fun k o ho hpin => ?_⟩
      obtain ⟨hnot, hstill⟩ := hleft k o ho hpin
      rw [hfirst.objs_eq] at hstill
      have hne : k ≠ e.1 := by
        rintro rfl
        exact hgone o hstill hpin
      exact ⟨by simp [hne, hnot], (hothers k hne).symm.trans hstill⟩
  obtain ⟨os, hos, hleft⟩ := hall d.objs d
  refine ⟨os, hos, fun k o ho hpin => ?_⟩
  obtain ⟨hnot, hstill⟩ := hleft k o ho hpin
  exact hnot (List.mem_map.mpr ⟨(k, o), mem_of_mapGet? hstill, rfl⟩)

/-! ### A teardown takes effect (R404) -/

/-- Zero-length reads of a letter change its count alone. -/
def ZeroReads (d e : Dev) (l : LetterId) : Prop := ∃ k, e.ledger = { d.ledger with letters := lettersWith d l fun y => { y with zeroReads := y.zeroReads + k } }

theorem ZeroReads.refl (d : Dev) (l : LetterId) : ZeroReads d d l := by
  refine ⟨0, ?_⟩
  have hsame : (lettersWith d l fun y => { y with zeroReads := y.zeroReads + 0 }) = d.letters := by
    unfold lettersWith
    simp
  rw [hsame]
  rfl

theorem ZeroReads.zeroRead {d e : Dev} {l : LetterId} (h : ZeroReads d e l) (a : Nat) (region : Option Region) : ZeroReads d (e.zeroRead l a region) l := by
  obtain ⟨k, hk⟩ := h
  have hadd : lettersWith e l (fun y => { y with zeroReads := y.zeroReads + 1 }) = lettersWith d l fun y => { y with zeroReads := y.zeroReads + (k + 1) } :=
    lettersWith_lettersWith d e l (fun y => { y with zeroReads := y.zeroReads + k }) _ (fun _ => rfl) (congrArg Ledger.letters hk)
  exact ⟨k + 1, by rw [ledger_zeroRead, hk, hadd]⟩

theorem ZeroReads.each {d : Dev} {l : LetterId} (rs : List Region) : ∀ e, ZeroReads d e l → ZeroReads d (e.each rs fun e r => e.zeroRead l r.last (some r)) l :=
  Dev.each_keeps (Q := fun e => ZeroReads d e l) rs _ fun _ _ h => h.zeroRead _ _

/-- The module whose gate has advanced the generation of a context that is torn down, with its letters stopped. -/
def Dev.tornLetters (d : Dev) (c : Nat) (l : LetterId) : Dev := (d.advanceGen c 2).stopLetters c 0x50 0 (some l)

/-- After a teardown took effect: the pins are cleared, and its markers are on their way; of the ledger, beside that only memory, registers and the count
of its letter's zero-length reads differ from what the advance and the stop of the letters leave. -/
theorem tear_effect (d : Dev) (c : Nat) (l : LetterId) : ∃ m rs os k r, (d.tear c l).ledger = { (d.tornLetters c l).ledger with
      mem := m, regs := rs, objs := os, letters := lettersWith (d.tornLetters c l) l (fun y => { y with zeroReads := y.zeroReads + k }), drains := (d.tornLetters c l).drains ++ [r] } ∧
    (∀ id o, mapGet? os id = some o → c ∉ o.pins) ∧ r.ctx = c ∧ r.tear = some l ∧ .fabric ∈ r.paths ∧ .memory ∈ r.paths := by
  obtain ⟨hclear, -, -⟩ := redClear_eq (d.tornLetters c l) c
  obtain ⟨os, ⟨m, rs, hpins⟩, hgone⟩ := clearPins_objsOnly ((d.tornLetters c l).redClear c) c
  obtain ⟨m', rs', hpools⟩ := hallOnly_releasePools (((d.tornLetters c l).redClear c).clearPins c) c
  rw [hpins, hclear] at hpools
  unfold Dev.tear
  extract_lets old ps mine up regs objs e rel f g g' paths
  have he : (d.tornLetters c l).redClear c = e := rfl
  rw [he] at hpools
  have hrel : rel.ledger = { (d.tornLetters c l).ledger with mem := m', regs := rs', objs := os } := hpools
  clear_value rel
  have hf : f.ledger = { (d.tornLetters c l).ledger with mem := m', regs := rs', objs := os } := hrel
  clear_value f up
  have hletters : f.letters = (d.tornLetters c l).letters := congrArg Ledger.letters hf
  have hg : ZeroReads f g l := by
    unfold g
    split
    · exact (ZeroReads.refl f l).zeroRead _ _
    · exact .refl f l
  obtain ⟨k, hk⟩ := ZeroReads.each regs g hg
  have hg' : g'.ledger = { (d.tornLetters c l).ledger with mem := m', regs := rs', objs := os, letters := lettersWith (d.tornLetters c l) l fun y => { y with zeroReads := y.zeroReads + k } } := by
    rw [show g'.ledger = _ from hk, hf, lettersWith, hletters]
    rfl
  have hdrains : g'.drains = (d.tornLetters c l).drains := congrArg Ledger.drains hg'
  refine ⟨m', rs', os, k, ⟨c, some l, old, 0, paths, objs, ps⟩, ?_, hgone, rfl, rfl, by simp [paths], by simp [paths]⟩
  show ({ g'.ledger with drains := g'.drains ++ _ } : Ledger) = _
  rw [hdrains, hg']

/-- What a teardown that takes effect comes to. -/
def Torn (d t : Dev) (c : Nat) (l : LetterId) : Prop :=
  t.ctx c = { d.ctx c with state := 2, gen := ((d.ctx c).gen + 1) % 4096 } ∧ (∀ k o, mapGet? t.objs k = some o → c ∉ o.pins) ∧ t.tlb = d.tlb ∧
  (findLetter t l).map (fun y => (y.started, y.result)) = (findLetter d l).map (fun y => (y.started, y.result)) ∧
  (∀ y ∈ d.letters, y.id ≠ l → y.ctx = c → y.result = none → y.started = true ∨ y.gen ≠ ((d.ctx c).gen + 1) % 4096 → (∀ z ∈ d.letters, z.id = y.id → z = y) →
    (findLetter t y.id).map (·.result) = some (some (if y.started then (0x50, 0) else (5, ((d.ctx c).gen + 1) % 4096)))) ∧
  ∃ r ∈ t.drains, r.ctx = c ∧ r.tear = some l ∧ .fabric ∈ r.paths ∧ .memory ∈ r.paths

theorem advanceGen_eq (d : Dev) (c st : Nat) : ∃ es ms, d.advanceGen c st =
    { d with edges := es, markers := ms, ctxs := mapSet d.ctxs c { d.ctx c with gen := ((d.ctx c).gen + 1) % 4096, state := st } } := ⟨_, _, rfl⟩

theorem tear_tears (d : Dev) (c : Nat) (l : LetterId) : Torn d (d.tear c l) c l := by
  obtain ⟨m, rs, os, k, r, htear, hgone, hr⟩ := tear_effect d c l
  obtain ⟨es, ms, hadv⟩ := advanceGen_eq d c 2
  obtain ⟨ls, hstop⟩ := ledger_stopLetters (d.advanceGen c 2) c 0x50 0 (some l)
  have hctx : ∀ e : Dev, e.ctxs = (d.advanceGen c 2).ctxs → e.ctx c = { d.ctx c with state := 2, gen := ((d.ctx c).gen + 1) % 4096 } := fun e he => by
    unfold Dev.ctx
    rw [he, hadv]
    exact (mapGet_mapSet ..).trans (if_pos rfl)
  have hnew : ((d.advanceGen c 2).ctx c).gen = ((d.ctx c).gen + 1) % 4096 := congrArg Ctx.gen (hctx _ rfl)
  have hbefore : (d.advanceGen c 2).letters = d.letters := by rw [hadv]
  have hletters : (d.tear c l).letters = lettersWith (d.tornLetters c l) l fun y => { y with zeroReads := y.zeroReads + k } := congrArg Ledger.letters htear
  have hctxs : (d.tornLetters c l).ctxs = (d.advanceGen c 2).ctxs := congrArg Ledger.ctxs hstop
  have htlb : (d.tornLetters c l).tlb = (d.advanceGen c 2).tlb := congrArg Ledger.tlb hstop
  refine ⟨hctx _ ((congrArg Ledger.ctxs htear).trans hctxs), fun id o ho => hgone id o ?_, (congrArg Ledger.tlb htear).trans (htlb.trans (by rw [hadv])),
    ?_, fun y hy hne hc hres hst honly => ?_, r, ?_, hr⟩
  · have hobjs : (d.tear c l).objs = os := congrArg Ledger.objs htear
    rwa [hobjs] at ho
  · rw [findLetter_lettersWith (d.tornLetters c l) _ l _ (by exact fun _ => rfl) hletters,
      show findLetter (d.tornLetters c l) l = findLetter d l from (stopLetters_kept ..).trans (findLetter_of_letters hbefore l), Option.map_map]
    rfl
  · rw [findLetter_lettersWith_other (d.tornLetters c l) _ (by exact fun _ => rfl) hletters hne]
    have hin : y ∈ stopped (d.advanceGen c 2) c (some l) := mem_stopped.mpr ⟨hbefore ▸ hy, hc, hres, by simpa using hne, by rw [hnew]; exact hst⟩
    have hend := stopLetters_ends (detail := 0) (d := d.advanceGen c 2) (hbefore ▸ hy) (by rw [hbefore]; exact honly) hin (status := 0x50) (by omega)
    rw [hnew, Nat.mod_eq_of_lt (show ((d.ctx c).gen + 1) % 4096 < 65536 by omega)] at hend
    exact hend
  · rw [show (d.tear c l).drains = (d.tornLetters c l).drains ++ [r] from congrArg Ledger.drains htear]
    simp

/-- A letter after a change of those called `l` is one of them, or has not changed. -/
theorem mem_lettersWith_cases {d : Dev} {l : LetterId} {f : Letter → Letter} {y : Letter} (hy : y ∈ lettersWith d l f) :
    (∃ z ∈ d.letters, z.id = l ∧ y = f z) ∨ (y ∈ d.letters ∧ y.id ≠ l) := by
  obtain ⟨z, hz, rfl⟩ := List.mem_map.mp hy
  split
  · next hid => exact .inl ⟨z, hz, hid, rfl⟩
  · next hid => exact .inr ⟨hz, hid⟩

/-- An advance for a teardown is the teardown of the letter that asked for it. -/
theorem genEffect_tears {d : Dev} {c : Nat} {l : LetterId} (hsome : ∃ x ∈ d.letters, x.ctx = c ∧ x.opcode = 0x21 ∧ x.started = true ∧ x.result = none)
    (honly : ∀ y ∈ d.letters, y.ctx = c → y.opcode = 0x21 → y.id = l) : d.genEffect c 0 = d.tear c l := by
  obtain ⟨x, hx, hc, hop, hst, hres⟩ := hsome
  obtain ⟨z, hz⟩ : ∃ z, d.letters.find? (fun x => x.ctx = c ∧ x.opcode = 0x21 ∧ x.started ∧ x.result.isNone) = some z :=
    Option.isSome_iff_exists.mp (List.find?_isSome.mpr ⟨x, hx, by simp [hc, hop, hst, hres]⟩)
  obtain ⟨hzc, hzop, -⟩ : z.ctx = c ∧ z.opcode = 0x21 ∧ z.started = true ∧ z.result.isNone = true := by simpa using List.find?_some hz
  unfold Dev.genEffect
  rw [if_neg (by omega), hz, ← honly z (List.mem_of_find?_eq_some hz) hzc hzop]

section
variable {s : State} {l : LetterId} {x : Letter} (h : Due s.dev l 0x21 x)
include h

/-- A teardown that a request or another advance holds back waits. -/
theorem ctxTear_waits (hwait : genHeld s.dev x.ctx (((s.dev.ctx x.ctx).gen + 1) % 4096) = true ∨ ∃ a ∈ s.dev.advances, a.1 = x.ctx) :
    Answers (.ctxTear l) s fun t => RunsOn s t l
      { s.dev with ctxs := mapSet s.dev.ctxs x.ctx { s.dev.ctx x.ctx with state := 2 }, tlb := s.dev.tlb.filter (fun e => e.1.1 ≠ x.ctx), advances := s.dev.advances ++ [(x.ctx, 0)] } [] := by
  have hgen : (((s.dev.startLetter x).setCtx x.ctx { (s.dev.startLetter x).ctx x.ctx with state := 2 }).dropTlb x.ctx).ctx x.ctx =
      { s.dev.ctx x.ctx with state := 2 } := (Dev.ctx_setCtx ..).trans (if_pos rfl)
  refine h.answersRunsOn rfl (genRequest_waits ?_) (h.runsOn.change (g := fun d =>
    { d with ctxs := mapSet d.ctxs x.ctx { d.ctx x.ctx with state := 2 }, tlb := d.tlb.filter (fun e => e.1.1 ≠ x.ctx), advances := d.advances ++ [(x.ctx, 0)] })
    fun _ _ _ _ => rfl)
  rw [hgen]
  exact hwait

/-- One that nothing holds back takes effect at once. -/
theorem ctxTear_tears (hheld : genHeld s.dev x.ctx (((s.dev.ctx x.ctx).gen + 1) % 4096) = false) (hnone : ∀ a ∈ s.dev.advances, a.1 ≠ x.ctx)
    (honly : ∀ y ∈ s.dev.letters, y.ctx = x.ctx → y.opcode = 0x21 → y.id = l) : Answers (.ctxTear l) s fun t =>
      t.dev.ctx x.ctx = { s.dev.ctx x.ctx with state := 2, gen := ((s.dev.ctx x.ctx).gen + 1) % 4096 } ∧
      (∀ k o, mapGet? t.dev.objs k = some o → x.ctx ∉ o.pins) ∧ (∀ e ∈ t.dev.tlb, e.1.1 ≠ x.ctx) ∧
      (findLetter t.dev l).map (fun y => (y.started, y.result)) = some (true, none) ∧
      (∀ y ∈ s.dev.letters, y.id ≠ l → y.ctx = x.ctx → y.result = none → y.started = true ∨ y.gen ≠ ((s.dev.ctx x.ctx).gen + 1) % 4096 → (∀ z ∈ s.dev.letters, z.id = y.id → z = y) →
        (findLetter t.dev y.id).map (·.result) = some (some (if y.started then (0x50, 0) else (5, ((s.dev.ctx x.ctx).gen + 1) % 4096)))) ∧
      ∃ r ∈ t.dev.drains, r.ctx = x.ctx ∧ r.tear = some l ∧ .fabric ∈ r.paths ∧ .memory ∈ r.paths := by
  refine h.answers rfl fun b ds hb => ?_
  dsimp only at hb
  have hfound := h.findLetter_startLetter
  have hctx : (((s.dev.startLetter x).setCtx x.ctx { (s.dev.startLetter x).ctx x.ctx with state := 2 }).dropTlb x.ctx).ctx x.ctx =
      { s.dev.ctx x.ctx with state := 2 } := (Dev.ctx_setCtx ..).trans (if_pos rfl)
  have hletters : (((s.dev.startLetter x).setCtx x.ctx { (s.dev.startLetter x).ctx x.ctx with state := 2 }).dropTlb x.ctx).letters = lettersWith s.dev l Letter.begun := by
    rw [← h.id]
    rfl
  have htlb : (((s.dev.startLetter x).setCtx x.ctx { (s.dev.startLetter x).ctx x.ctx with state := 2 }).dropTlb x.ctx).tlb = s.dev.tlb.filter (fun e => e.1.1 ≠ x.ctx) := rfl
  have hrequest : (((s.dev.startLetter x).setCtx x.ctx { (s.dev.startLetter x).ctx x.ctx with state := 2 }).dropTlb x.ctx).genRequest x.ctx 0 = _ :=
    genRequest_effect (cause := 0) (by rw [hctx]; exact hheld) hnone
  rw [hrequest] at hb
  generalize ((s.dev.startLetter x).setCtx x.ctx { (s.dev.startLetter x).ctx x.ctx with state := 2 }).dropTlb x.ctx = d at hb hctx hletters htlb
  have hfind : findLetter d l = some x.begun := by
    rw [findLetter_lettersWith s.dev d l Letter.begun (fun _ => rfl) hletters, h.found]
    rfl
  have hmine : ∀ y ∈ d.letters, y.ctx = x.ctx → y.opcode = 0x21 → y.id = l := fun y hy hc hop => by
    obtain ⟨z, -, hid, rfl⟩ | ⟨hz, -⟩ := mem_lettersWith_cases (hletters ▸ hy)
    · exact hid
    · exact honly y hz hc hop
  rw [genEffect_tears (c := x.ctx) ⟨x.begun, List.mem_of_find?_eq_some hfind, rfl, h.2.1, rfl, h.result⟩ hmine] at hb
  subst hb
  obtain ⟨hgen, hpins, htlb', hrun, hstops, hdrain⟩ := tear_tears d x.ctx l
  rw [hctx] at hgen hstops
  rw [htlb] at htlb'
  rw [hfind] at hrun
  have hrun' : (x.begun.started, x.begun.result) = (true, none) := by rw [show x.begun.result = none from h.result]; rfl
  refine ⟨hgen, hpins, fun e he => ?_, hrun.trans (congrArg some hrun'), fun y hy hne hc hres hst hown => ?_, hdrain⟩
  · have he' : e ∈ (d.tear x.ctx l).tlb := he
    rw [htlb'] at he'
    simpa using (List.mem_filter.mp he').2
  · refine hstops y (hletters ▸ mem_lettersWith_other hy hne) hne hc hres hst fun z hz hid => ?_
    obtain ⟨w, -, hwl, rfl⟩ | ⟨hw, -⟩ := mem_lettersWith_cases (hletters ▸ hz)
    · exact absurd (hid.symm.trans hwl) hne
    · exact hown z hw hid

end

/-! ### The last step of a teardown -/

theorem journalsEnd_inactive {d : Dev} {c : Nat} (h : ∀ p t, journalActive d p t c = false) (commit : Bool) : d.journalsEnd commit c = (true, d) := by
  unfold Dev.journalsEnd
  induction (List.range 16).map fun i => (i / 4, 12 + i % 4) with
  | nil => rfl
  | cons e es ih =>
    have hone : d.journalEnd commit c e.1 e.2 = (true, d) := by
      unfold Dev.journalEnd
      rw [h]
      rfl
    rw [List.foldl_cons, hone]
    exact ih

theorem ledger_stashStatus (d : Dev) (p : Nat) : (d.stashStatus p).ledger = d.ledger :=
  (ledger_setFld rfl ..).trans ((ledger_setFld rfl ..).trans (ledger_setFld rfl ..))

theorem ledger_releaseStash (d : Dev) (hit : Nat × Nat × Nat → Bool) : (d.releaseStash hit).ledger = { d.ledger with stash := d.stash.filter fun e => !hit e.1 } :=
  (ledger_each _ fun e p => ledger_stashStatus e p).trans rfl

/-- A teardown may end: every marker has returned and has latched, nothing is on its way out, and no receipt is owed (R404). -/
def TearDue (d : Dev) (r : Drain) (l : LetterId) : Prop :=
  r.tear = some l ∧ r.paths = [] ∧ latched d r.ctx ((r.oldGen + 1) % 4096) = true ∧ (∀ k ∈ r.objs, leaving d k = false) ∧ tearOwes d r l = false ∧
  ∀ p t, journalActive d p t r.ctx = false

section
variable {d : Dev} {r : Drain} {l : LetterId}

/-- The module with the context of a teardown closed. -/
def Dev.ctxClosed (d : Dev) (r : Drain) : Dev :=
  let d := { d with drains := d.drains.filter (· ≠ r), evals := mapErase d.evals r.ctx }
  d.setCtx r.ctx { d.ctx r.ctx with state := 0 }

theorem ledger_ctxClosed (d : Dev) (r : Drain) :
    (d.ctxClosed r).ledger = { d.ledger with drains := d.drains.filter (· ≠ r), ctxs := mapSet d.ctxs r.ctx { d.ctx r.ctx with state := 0 } } := rfl

/-- The module with a teardown's context closed and what the context had cached released. -/
def Dev.tornDown (d : Dev) (r : Drain) : Dev := ((d.dropTlb r.ctx).releaseStash fun k => k.2.1 = r.ctx).ctxClosed r

/-- The end of a teardown once its journals are rolled back, or while one of them waits. -/
def Dev.tearEnd (a : Bool × Dev) (r : Drain) (l : LetterId) : Dev := if !a.1 then a.2 else (a.2.tornDown r).finish l 0 0

theorem tearTry_free (htear : r.tear = some l)
    (hfree : ¬ (r.paths ≠ [] ∨ (!latched d r.ctx ((r.oldGen + 1) % 4096)) = true ∨ r.objs.any (leaving d) = true ∨ tearOwes d r l = true)) :
    d.tearTry r = Dev.tearEnd (d.journalsEnd false r.ctx) r l := by
  unfold Dev.tearTry
  rw [htear]
  dsimp -zeta only
  rw [if_neg hfree]
  generalize d.journalsEnd false r.ctx = a
  obtain ⟨ok, e⟩ := a
  dsimp -zeta only
  unfold Dev.tearEnd Dev.tornDown
  generalize (e.dropTlb r.ctx).releaseStash (fun k => decide (k.2.1 = r.ctx)) = f
  rfl

theorem tearTry_due (h : TearDue d r l) : d.tearTry r = (d.tornDown r).finish l 0 0 := by
  obtain ⟨htear, hpaths, hlatched, hobjs, howes, hjournals⟩ := h
  have hleft : r.objs.any (leaving d) = false := by
    rw [List.any_eq_false]
    exact fun k hk => by simpa using hobjs k hk
  rw [tearTry_free htear (by simp [hpaths, hlatched, hleft, howes]), journalsEnd_inactive hjournals]
  exact if_neg (by simp)

theorem ledger_tornDown (d : Dev) (r : Drain) : (d.tornDown r).ledger = { d.ledger with
    tlb := d.tlb.filter fun e => e.1.1 ≠ r.ctx
    stash := d.stash.filter fun e => !decide (e.1.2.1 = r.ctx)
    drains := d.drains.filter (· ≠ r)
    ctxs := mapSet d.ctxs r.ctx { d.ctx r.ctx with state := 0 } } := by
  have hrel := ledger_releaseStash (d.dropTlb r.ctx) (fun k => decide (k.2.1 = r.ctx))
  unfold Dev.tornDown
  generalize (d.dropTlb r.ctx).releaseStash (fun k => decide (k.2.1 = r.ctx)) = e at hrel ⊢
  have hctxs : e.ctxs = d.ctxs := congrArg Ledger.ctxs hrel
  have hdrains : e.drains = d.drains := congrArg Ledger.drains hrel
  have hctx : e.ctx r.ctx = d.ctx r.ctx := by
    unfold Dev.ctx
    rw [hctxs]
  rw [ledger_ctxClosed, hrel, hctxs, hdrains, hctx]
  rfl

/-- What the end of a teardown comes to. -/
def TornDown (d t : Dev) (r : Drain) (l : LetterId) : Prop :=
  t.drains = d.drains.filter (· ≠ r) ∧ t.ctx r.ctx = { d.ctx r.ctx with state := 0 } ∧ (∀ k, k ≠ r.ctx → t.ctx k = d.ctx k) ∧
  (findLetter t l).map (·.result) = some (some (0, 0)) ∧ (∀ k ∈ t.tlb, k.1.1 ≠ r.ctx) ∧ (∀ k, k ∈ t.stash ↔ k ∈ d.stash ∧ k.1.2.1 ≠ r.ctx) ∧
  t.mem = d.mem ∧ t.incHeld = d.incHeld ∧ t.objs = d.objs

theorem tearTry_closes (h : TearDue d r l) {x : Letter} (hx : findLetter d l = some x) (hres : x.result = none) (hflush : x.flushErr = none) :
    TornDown d (d.tearTry r) r l := by
  have hdown := ledger_tornDown d r
  have hletters : (d.tornDown r).letters = d.letters := congrArg Ledger.letters hdown
  obtain ⟨k, hk⟩ := ledger_finish (d := d.tornDown r) (st := 0) ((findLetter_of_letters hletters l).trans hx) hres (.inr hflush) 0
  rw [tearTry_due h]
  have hend : ((d.tornDown r).finish l 0 0).letters = endedWith d l (0, 0) k := by
    refine (congrArg Ledger.letters hk).trans ?_
    show endedWith (d.tornDown r) l (0, 0) k = _
    unfold endedWith lettersWith
    rw [hletters]
  rw [hdown] at hk
  have hctxs : ((d.tornDown r).finish l 0 0).ctxs = mapSet d.ctxs r.ctx { d.ctx r.ctx with state := 0 } := congrArg Ledger.ctxs hk
  have hctx : ∀ c, ((d.tornDown r).finish l 0 0).ctx c = if r.ctx = c then { d.ctx r.ctx with state := 0 } else d.ctx c := fun c => by
    unfold Dev.ctx
    rw [hctxs]
    exact mapGet_mapSet ..
  have htlb : ((d.tornDown r).finish l 0 0).tlb = d.tlb.filter fun e => e.1.1 ≠ r.ctx := congrArg Ledger.tlb hk
  have hstash : ((d.tornDown r).finish l 0 0).stash = d.stash.filter fun e => !decide (e.1.2.1 = r.ctx) := congrArg Ledger.stash hk
  refine ⟨congrArg Ledger.drains hk, (hctx _).trans (if_pos rfl), fun c hc => (hctx c).trans (if_neg hc.symm), ?_, fun e he => ?_, fun e => ?_, congrArg Ledger.mem hk,
    congrArg Ledger.incHeld hk, congrArg Ledger.objs hk⟩
  · rw [findLetter_lettersWith d _ l _ (by exact fun _ => rfl) hend, hx]
    rfl
  · rw [htlb] at he
    simpa using (List.mem_filter.mp he).2
  · rw [hstash, List.mem_filter]
    simp

/-- A teardown of which a letter still owes its receipt does not end. -/
theorem tearTry_owed (htear : r.tear = some l) (howes : tearOwes d r l = true) : d.tearTry r = d := by
  unfold Dev.tearTry
  rw [htear]
  dsimp only
  rw [if_pos (by simp [howes])]

end

/-! ### Markers that return -/

/-- The drain markers, with one back on a path. -/
def returned (d : Dev) (r : Drain) (path : DrainPath) : List Drain :=
  d.drains.map fun k => if k = r then { r with paths := r.paths.filter (· ≠ path) } else k

theorem exec_drainMarkerReturn {s : State} {c : Nat} {r : Drain} {path : DrainPath}
    (hfind : s.dev.drains.find? (fun r => r.ctx = c ∧ r.paths.contains path) = some r) (hpath : path = .fabric ∨ path = .memory) :
    exec (.drainMarkerReturn c path) s = .next { s with dev := ({ s.dev with drains := returned s.dev r path } : Dev).tearAll } := by
  show execDrainMarkerReturn c path s = _
  unfold execDrainMarkerReturn State.onDev
  dsimp only
  rw [hfind]
  dsimp only
  rw [if_neg (by obtain rfl | rfl := hpath <;> simp), if_neg (by obtain rfl | rfl := hpath <;> simp)]
  rfl

theorem drainMarkerReturn_reset {s : State} {c : Nat} {r : Drain} {path : DrainPath}
    (hfind : s.dev.drains.find? (fun r => r.ctx = c ∧ r.paths.contains path) = some r) (hpath : path = .fabric ∨ path = .memory)
    (hnone : ∀ k ∈ s.dev.drains, k.tear = none) : Runs (.drainMarkerReturn c path) s { s.dev with drains := returned s.dev r path } := by
  have hall : ({ s.dev with drains := returned s.dev r path } : Dev).tearAll = { s.dev with drains := returned s.dev r path } := by
    refine Dev.each_same _ fun k hk => ?_
    have hk' : k.tear = none := by
      obtain ⟨m, hm, rfl⟩ := List.mem_map.mp hk
      split
      · exact hnone r (List.mem_of_find?_eq_some hfind)
      · exact hnone m hm
    unfold Dev.tearTry
    rw [hk']
  show exec _ s = _
  rw [exec_drainMarkerReturn hfind hpath, hall]

section
variable {s : State} {l : LetterId} {c : Nat} {r : Drain} {path : DrainPath} (honly : s.dev.drains = [r]) (hc : r.ctx = c)
include honly hc

theorem exec_lastMarkerReturn (hpaths : r.paths = [path]) (hpath : path = .fabric ∨ path = .memory) :
    exec (.drainMarkerReturn c path) s = .next { s with dev := ({ s.dev with drains := [{ r with paths := [] }] } : Dev).tearAll } := by
  have hfind : s.dev.drains.find? (fun r => r.ctx = c ∧ r.paths.contains path) = some r := by
    rw [honly, List.find?_cons_of_pos (by simp [hc, hpaths])]
  have hback : returned s.dev r path = [{ r with paths := [] }] := by
    unfold returned
    rw [honly, hpaths]
    simp
  rw [exec_drainMarkerReturn hfind hpath, hback]

theorem drainMarkerReturn_owed (htear : r.tear = some l) (hpaths : r.paths = [path]) (hpath : path = .fabric ∨ path = .memory)
    (howes : tearOwes s.dev r l = true) : Runs (.drainMarkerReturn c path) s { s.dev with drains := [{ r with paths := [] }] } := by
  show exec _ s = _
  rw [exec_lastMarkerReturn honly hc hpaths hpath]
  exact congrArg (fun d : Dev => Host.Outcome.next { s with dev := d }) (tearTry_owed (d := { s.dev with drains := [{ r with paths := [] }] }) (r := { r with paths := [] }) (l := l) htear howes)

end

/-! ### The bound of a teardown (R405) -/

/-- An incident before a ring is enabled is kept or counted as lost; nothing else changes (R411). -/
theorem raise_early {d : Dev} (hseen : d.incSeen = false) (i : Inc) : (d.raise i).ledger = { d.ledger with incHeld := (d.raise i).incHeld } ∧
    ∀ p, (d.raise i).reg (.fltStatus p) = d.reg (.fltStatus p) := by
  have hstamp : (d.stamp i.die).2.ledger = d.ledger ∧ (d.stamp i.die).2.regs = d.regs ∧ (d.stamp i.die).2.incSeen = d.incSeen := ⟨rfl, rfl, rfl⟩
  unfold Dev.raise
  generalize d.stamp i.die = stamped at hstamp ⊢
  obtain ⟨st, e⟩ := stamped
  obtain ⟨hledger, hregs, hincs⟩ : e.ledger = d.ledger ∧ e.regs = d.regs ∧ e.incSeen = d.incSeen := hstamp
  have hreg : ∀ q, e.reg q = d.reg q := fun q => by
    unfold Dev.reg
    rw [hregs]
  dsimp -zeta only
  extract_lets rcd own counted ring
  rw [if_pos (by rw [hincs, hseen]; rfl)]
  split
  · refine ⟨(ledger_setFld rfl ..).trans ?_, fun p => (Dev.reg_setFld ..).trans ((if_neg (by simp)).trans (hreg _))⟩
    exact congrArg (fun L : Ledger => { L with incHeld := e.incHeld ++ [(own, rcd)] }) hledger
  · refine ⟨?_, fun p => (Dev.reg_setFld e ..).trans ((if_neg (by simp)).trans (hreg _))⟩
    have hcount : (e.count .gateIncLost 1).ledger = e.ledger := ledger_setFld rfl ..
    exact hcount.trans (hledger.trans (congrArg (fun h => ({ d.ledger with incHeld := h } : Ledger)) (congrArg Ledger.incHeld hledger).symm))

/-- What a letter of the context still waits for is let go. -/
def Letter.unowed (c : Nat) (x : Letter) : Letter := if x.ctx = c then { x with zeroReads := 0, podAcks := 0 } else x

/-- The stores of the mailbag engines, of which none is a letter's of the context any more. -/
def unownedStores (d : Dev) (c : Nat) : List PodStore :=
  d.podStores.map fun t => match t.who with
    | .letter l _ => if ((d.letters.filter (·.ctx = c)).map (·.id)).contains l then { t with who := .loader } else t
    | _ => t

/-- The module when the bound of a teardown has passed: no letter of the context waits for a store, and no marker is awaited. -/
def Dev.bounded (d : Dev) (c : Nat) (r : Drain) : Dev :=
  { d with letters := d.letters.map (Letter.unowed c), podStores := unownedStores d c, drains := d.drains.map fun k => if k = r then { k with paths := [] } else k }

/-- The incident of R412 for markers that are outstanding at the bound. -/
def boundInc (c : Nat) (r : Drain) : Inc :=
  { cls := 0x284, eng := 0x20, die := dieGate, part := none, ctx := some (c, r.oldGen), d0 := (r.paths.map pathBit).sum }

theorem findLetter_bounded (d : Dev) (c : Nat) (r : Drain) (l : LetterId) :
    findLetter (d.bounded c r) l = (findLetter d l).map (Letter.unowed c) := by
  unfold findLetter Dev.bounded
  rw [List.find?_map]
  refine congrArg _ (congrArg (fun f => List.find? f d.letters) (funext fun x => ?_))
  unfold Letter.unowed
  dsimp only [Function.comp]
  split <;> rfl

theorem tearOwes_bounded (d : Dev) (c : Nat) (r r' : Drain) (l : LetterId) : tearOwes (d.bounded c r) r' l = tearOwes d r' l := by
  unfold tearOwes Dev.bounded
  rw [List.any_map]
  refine congrArg (fun f => List.any d.letters f) (funext fun x => ?_)
  unfold Letter.unowed
  dsimp only [Function.comp]
  split <;> rfl

theorem exec_teardownBound {s : State} {c : Nat} {r : Drain} (honly : s.dev.drains = [r]) (hc : r.ctx = c) (htear : r.tear.isSome = true) (hpaths : r.paths ≠ []) :
    exec (.teardownBound c) s = .next { s with dev := ((s.dev.raise (boundInc c r)).bounded c r).tearAll } := by
  have hfind : s.dev.drains.find? (fun r => r.ctx = c ∧ r.tear.isSome ∧ r.paths ≠ []) = some r := by
    rw [honly, List.find?_cons_of_pos (by simp [hc, htear, hpaths])]
  show execTeardownBound c s = _
  unfold execTeardownBound State.onDev
  dsimp -zeta only
  rw [hfind]
  rfl

/-- The context is closed by the end of its teardown, whose letter has ended with SUCCESS; `held` are the incidents that wait for a ring. -/
def ClosedFor (d t : Dev) (c : Nat) (l : LetterId) (held : List (Option Nat × List Byte)) : Prop :=
  t.drains = [] ∧ t.ctx c = { d.ctx c with state := 0 } ∧ (∀ k, k ≠ c → t.ctx k = d.ctx k) ∧ (findLetter t l).map (·.result) = some (some (0, 0)) ∧
  (∀ k ∈ t.tlb, k.1.1 ≠ c) ∧ (∀ k, k ∈ t.stash ↔ k ∈ d.stash ∧ k.1.2.1 ≠ c) ∧ t.mem = d.mem ∧ t.incHeld = held ∧ t.objs = d.objs

section
variable {s : State} {l : LetterId} {c : Nat} {r : Drain} (hc : r.ctx = c) (htear : r.tear = some l) (howes : tearOwes s.dev r l = false)
  (hlatched : latched s.dev c ((r.oldGen + 1) % 4096) = true) (hobjs : ∀ k ∈ r.objs, leaving s.dev k = false) (hjournals : ∀ p t, journalActive s.dev p t c = false)
include hc htear howes hlatched hobjs hjournals

/-- A teardown whose paths are all back ends in every module that agrees on what it waits for. -/
theorem tearAll_closes {d : Dev} (hdrains : d.drains = [{ r with paths := [] }]) (hletter : ∃ y, findLetter d l = some y ∧ y.result = none ∧ y.flushErr = none)
    (howes' : tearOwes d r l = tearOwes s.dev r l) (hledger : d.ledger = { s.dev.ledger with letters := d.letters, drains := d.drains, incHeld := d.incHeld })
    (hstatus : ∀ p, d.reg (.fltStatus p) = s.dev.reg (.fltStatus p)) :
    ClosedFor s.dev d.tearAll c l d.incHeld := by
  obtain ⟨y, hy, hyres, hyflush⟩ := hletter
  subst hc
  have hctxs : d.ctxs = s.dev.ctxs := congrArg Ledger.ctxs hledger
  have hmarkers : d.markers = s.dev.markers := congrArg Ledger.markers hledger
  have hobj : d.objs = s.dev.objs := congrArg Ledger.objs hledger
  have hstash : d.stash = s.dev.stash := congrArg Ledger.stash hledger
  have hmem : d.mem = s.dev.mem := congrArg Ledger.mem hledger
  have hctx : ∀ k, d.ctx k = s.dev.ctx k := fun k => by
    unfold Dev.ctx
    rw [hctxs]
  have hreset : ∀ p, d.resetting p = s.dev.resetting p := fun p => by
    unfold Dev.resetting Dev.fld
    rw [hstatus]
  have hjournal : ∀ p t, journalActive d p t r.ctx = journalActive s.dev p t r.ctx := fun p t => by
    have hread := congrFun (congrArg Ledger.regs hledger) (.embJournal p t r.ctx)
    unfold journalActive Dev.bit Dev.fld
    rw [show d.reg (.embJournal p t r.ctx) = s.dev.reg (.embJournal p t r.ctx) from Option.some.inj hread]
  have hdue : TearDue d { r with paths := [] } l := by
    refine ⟨htear, rfl, ?_, fun k hk => ?_, howes'.trans howes, fun p t => ?_⟩
    · rw [← hlatched]
      unfold latched
      rw [hmarkers]
      simp only [hreset]
    · rw [← hobjs k hk]
      unfold leaving
      rw [hobj]
    · exact (hjournal p t).trans (hjournals p t)
  have hall : d.tearAll = d.tearTry { r with paths := [] } := by
    unfold Dev.tearAll
    rw [hdrains]
    rfl
  obtain ⟨hdrained, hclosed, hothers, hend, htlb, hfreed, hmem', hheld, hobjs'⟩ := tearTry_closes hdue hy hyres hyflush
  rw [hall]
  refine ⟨hdrained.trans (by rw [hdrains]; simp), hclosed.trans (by rw [hctx]), fun k hk => (hothers k hk).trans (hctx k), hend, htlb,
    fun k => (hfreed k).trans (by rw [hstash]), hmem'.trans hmem, hheld, hobjs'.trans hobj⟩

/-- At the bound the markers count as back, and no letter waits for a store. -/
theorem bounded_closes {d : Dev} {x : Letter} (honly : s.dev.drains = [r]) (hx : findLetter s.dev l = some x) (hres : x.result = none) (hflush : x.flushErr = none)
    (hraised : d.ledger = { s.dev.ledger with incHeld := d.incHeld }) (hstatus : ∀ p, d.reg (.fltStatus p) = s.dev.reg (.fltStatus p)) :
    ClosedFor s.dev (d.bounded c r).tearAll c l d.incHeld := by
  have hletters : d.letters = s.dev.letters := congrArg Ledger.letters hraised
  have hdrains : d.drains = [r] := (congrArg Ledger.drains hraised).trans honly
  refine tearAll_closes (d := d.bounded c r) hc htear howes hlatched hobjs hjournals ?_ ⟨x.unowed c, ?_, ?_, ?_⟩ ?_ ?_ hstatus
  · show (d.drains.map fun k => if k = r then { k with paths := [] } else k) = _
    rw [hdrains]
    simp
  · rw [findLetter_bounded, findLetter_of_letters hletters, hx]
    rfl
  · unfold Letter.unowed
    split <;> exact hres
  · unfold Letter.unowed
    split <;> exact hflush
  · rw [tearOwes_bounded]
    unfold tearOwes
    rw [hletters]
  · show ({ d.ledger with letters := (d.bounded c r).letters, drains := (d.bounded c r).drains } : Ledger) = _
    rw [hraised]
    rfl

end

/-! ### The obligation -/

/-- Settles O51: a teardown waits or takes effect; its markers return; and the last of them, or the bound, closes the context. -/
theorem contextTeardown : Obligations.ContextTeardown := by
  unfold Obligations.ContextTeardown
  intro s l x c
  refine ⟨?_, fun r path hfind hpath hnone => drainMarkerReturn_reset hfind hpath hnone,
    fun r path honly hc htear hpaths hpath howes => drainMarkerReturn_owed honly hc htear hpaths hpath howes, ?_⟩
  · rintro h rfl
    exact ⟨ctxTear_waits h, ctxTear_tears h⟩
  · intro i r path e honly hc htear hx hres hflush howes hlatched hobjs hjournals hi
    obtain ⟨rfl, hpaths, hpath, rfl⟩ | ⟨rfl, hpaths, hseen, rfl⟩ := hi
    · exact ⟨_, exec_lastMarkerReturn honly hc hpaths hpath, tearAll_closes hc htear howes hlatched hobjs hjournals rfl ⟨x, hx, hres, hflush⟩ rfl rfl fun _ => rfl⟩
    · obtain ⟨hraised, hstatus⟩ := raise_early hseen (boundInc c r)
      exact ⟨_, exec_teardownBound honly hc (by rw [htear]; rfl) hpaths,
        bounded_closes (d := s.dev.raise (boundInc c r)) hc htear howes hlatched hobjs hjournals honly hx hres hflush hraised hstatus⟩

end Sys2Proof.Machine
end

section
/-! Exchanges (R367) whose stage record names a node other than the mailbag engine's. -/

namespace Sys2Proof.Machine

/-- A load of a slab from its own partition, with nothing in its way, reads memory and changes nothing. -/
theorem localLoad_quiet {d : Dev} {p n a len : Nat} (hp : place a = .slab p) (he : exists_ d a len false = true) (hr : routed d (some (p, n)) a len = true)
    (hhome : homeCheck d p a len false = none) (hlines : d.lines = []) : (localLoad (some (p, n)) a len).run d = (.ok (d.mem.read a len), d) := by
  show localLoad (some (p, n)) a len d = _
  unfold localLoad
  rw [reach_home hp he hr]
  simp [homeOf_slab hp, hhome, heldLine, hlines, homeLoad_uncached hlines]
  rfl

/-- Memory in which nothing has been written reads as zeros. -/
theorem read_fresh {m : Mem} (hcells : m.cells = []) (hholes : m.holes = []) (a len : Nat) : m.read a len = List.replicate len 0#8 := by
  refine List.ext_getElem (by simp [Mem.read]) fun i hi _ => ?_
  simp [Mem.read, Mem.get, hcells, cellGet?, Mem.unlisted, hholes, holeAt]

theorem leNat_zeros (n : Nat) : leNat (List.replicate n 0#8) = 0 := by
  induction n with
  | zero => rfl
  | succ n ih => simp [List.replicate_succ, leNat, ih]

theorem field_zeros (n o k : Nat) : field (List.replicate n 0#8) o k = 0 := by
  have hslice : slice (List.replicate n 0#8) o k = List.replicate k 0#8 := by
    unfold slice
    dsimp only
    rw [List.drop_replicate, List.take_replicate, List.length_replicate, List.replicate_append_replicate]
    congr 1
    omega
  rw [field, hslice, leNat_zeros]

/-! ### The state -/

/-- An EXCHANGE stage of stage 0 of route 0 whose record is of node 12; words 0 and 1 of its letter name the lists. -/
def strayStage : Rec := [0, 0, 0, 8, 12].map (BitVec.ofNat 8 ·) ++ List.replicate 11 0#8 ++ [2#8] ++ List.replicate 8 0#8 ++ [1#8] ++ List.replicate 6 0#8

/-- A routing table in which each node is the next hop to itself from everywhere. -/
def straightFabric : Rec := (List.range 34).flatMap fun _ => (List.range 34).map fun t => BitVec.ofNat 8 t

/-- A letter that runs, with the two lists for its operands. -/
def strayLetter : Letter := { namedLetter 1 0 with body := natLe 8 3 ++ natLe 8 3, encLen := 16, started := true }

/-- An object in which both lists lie. -/
def strayObj : Obj := ⟨0, 0, 0, 0x9000, 0x20000, 0, false, 0, [], [], [], [], [], []⟩

/-- The stage runs on node 12 and has not begun its exchange; the mailbag engine, of node 18, is in reset. -/
def strayState : State :=
  { State.reset with dev := { State.reset.dev with
      regs := [(.memStatus 0, 1#64), (.structPartState, 1#64)]
      parts := [(0, ⟨[], [], straightFabric, [strayStage], [], [], []⟩)]
      objs := [(3, strayObj)]
      letters := [strayLetter]
      runs := [newRun strayLetter 0 strayStage]
      engResets := [⟨0, 18, 0, [], false, false⟩] } }

/-- The exchange that the stage would begin. -/
def strayExch : Exch := ⟨⟨0, 0⟩, 0, 0, 0, 0, 0, 0, 0, 0, [], false, [], [], [], []⟩

theorem acting_strayState : Acting strayState.dev ⟨0, 0⟩ 0 8 1 strayLetter 0 strayStage strayState.dev :=
  .inr ⟨by decide +kernel, by decide +kernel, by decide +kernel, rfl⟩

/-- Its list has no entries. -/
theorem outDir_strayState : Reads strayState.dev (outDir strayState.dev strayExch) (List.replicate 4096 (0, 0), 0x9000 - dataBase) := by
  have hword : wordObj (exchWord strayState.dev strayExch (xSrc (exchRec strayState.dev strayExch))) = 3 := by decide +kernel
  have hobj : (getObj 3).run strayState.dev = (.ok strayObj, strayState.dev) := rfl
  have hread : (objLoad (exchWho strayExch) 3 0 dataBase).run strayState.dev = (.ok (List.replicate dataBase 0#8), strayState.dev) := by
    rw [objLoad, Act.run_ok hobj, if_neg (by decide)]
    refine (localLoad_quiet (p := 0) (n := 18) (by decide) (by decide +kernel) (by decide +kernel) (by decide +kernel) rfl).trans ?_
    rw [read_fresh rfl rfl]
  rw [Reads, outDir, hword, Act.run_ok hobj, Act.run_ok hread]
  simp only [Act.run_pure, field_zeros, List.map_const', List.length_range]
  rfl

/-- The command begins nothing while the mailbag engine is in reset. -/
theorem exchange_strayState : ∃ t, exec (.exchange ⟨0, 0⟩ 0) strayState = .next t ∧ t.dev.xruns = [] := by
  refine ⟨_, rfl, ?_⟩
  decide +kernel

/-- Refutes O60: an EXCHANGE stage whose record names another node than 18 acts on that node's engine, but its command waits for the mailbag
engine, and while that is in reset no run begins. -/
theorem not_stagesOnChannels : ¬ Obligations.StagesOnChannels := by
  unfold Obligations.StagesOnChannels
  intro h
  obtain ⟨-, -, hexchange, -⟩ := h strayState ⟨0, 0⟩ 0 strayLetter 0 12 strayStage strayState.dev _ rfl (by decide +kernel)
  obtain ⟨t, ht, hruns⟩ := hexchange (List.replicate 4096 (0, 0)) (0x9000 - dataBase) strayExch strayObj strayObj acting_strayState
    (by decide +kernel) (by decide +kernel) (by decide +kernel) (by decide +kernel) (by decide +kernel) (by decide +kernel) (by decide +kernel)
    (by decide +kernel) (by decide +kernel) (by decide) (by decide +kernel) outDir_strayState fun c hc => by rw [(List.mem_replicate.mp hc).2]
  obtain ⟨t', ht', hnone⟩ := exchange_strayState
  obtain rfl : t = t' := Host.Outcome.next.inj (ht.symm.trans ht')
  rw [hnone] at hruns
  exact absurd hruns (by decide +kernel)

end Sys2Proof.Machine
end

section
/-! Stages of one command that act (R53, R127): what their end leaves of what their action has done. -/

namespace Sys2Proof.Machine

/-! ### The end of a stage -/

theorem ledger_whoWait (d : Dev) (w : Who) (k : Nat) : (d.whoWait w k).ledger = d.ledger := by
  unfold Dev.whoWait
  split
  · split
    · exact ledger_setWait ..
    · rfl
  · rfl

/-- Nothing but letters changes in the ledger, and the cached lines stay. -/
def LettersOnly (d e : Dev) : Prop := (∃ ls, e.ledger = { d.ledger with letters := ls }) ∧ e.lines = d.lines

theorem LettersOnly.trans {d e f : Dev} (h : LettersOnly d e) (h' : LettersOnly e f) : LettersOnly d f := by
  obtain ⟨⟨ls, hls⟩, hlines⟩ := h
  obtain ⟨⟨ls', hls'⟩, hlines'⟩ := h'
  exact ⟨⟨ls', by rw [hls', hls]⟩, hlines'.trans hlines⟩

theorem LettersOnly.of_ledger {d e : Dev} (h : e.ledger = d.ledger) (hlines : e.lines = d.lines) : LettersOnly d e := ⟨⟨d.letters, h⟩, hlines⟩

theorem lettersOnly_whoWait (d : Dev) (w : Who) (k : Nat) : LettersOnly d (d.whoWait w k) := by
  obtain ⟨m, hm⟩ := whoWait_onlyRegs d w k
  exact .of_ledger (ledger_whoWait ..) (by rw [hm])

theorem lettersOnly_letterDone (d : Dev) (l : LetterId) : LettersOnly d (d.letterDone l) := by
  refine ⟨?_, lines_of_apart (apart_letterDone ..)⟩
  unfold Dev.letterDone
  split
  · split
    · obtain h | ⟨st, dt, k, h⟩ := ledger_finish_any d l 0 0
      · exact ⟨_, h⟩
      · exact ⟨_, h⟩
    · exact ⟨_, rfl⟩
  · exact ⟨_, rfl⟩

/-- The letters that there are, by their names. -/
def names (d : Dev) : List LetterId := d.letters.map (·.id)

theorem names_modifyLetter (d : Dev) (l : LetterId) {f : Letter → Letter} (hf : ∀ y, (f y).id = y.id) : names (modifyLetter d l f) = names d := by
  unfold names modifyLetter
  rw [List.map_map]
  refine List.map_congr_left fun y _ => ?_
  dsimp only [Function.comp]
  split
  · exact hf y
  · rfl

theorem names_of_apart {d e : Dev} (h : e.apart = d.apart) : names e = names d := by
  have hcourse : e.letters.map (fun y => (y.id, y.stages)) = d.letters.map fun y => (y.id, y.stages) := congrArg Tables.course (tables_of_apart h)
  simpa [names, List.map_map, Function.comp_def] using congrArg (List.map (·.1)) hcourse

theorem names_of_ledger {d e : Dev} (h : e.ledger = d.ledger) : names e = names d := by
  have hletters : e.letters = d.letters := congrArg Ledger.letters h
  unfold names
  rw [hletters]

theorem findLetter_of_names {d e : Dev} {l : LetterId} {x : Letter} (h : names e = names d) (hx : findLetter d l = some x) : ∃ y, findLetter e l = some y := by
  have hin : l ∈ names e := h ▸ List.mem_map.mpr ⟨x, List.mem_of_find?_eq_some hx, findLetter_id hx⟩
  obtain ⟨y, hy, hid⟩ := List.mem_map.mp hin
  exact Option.isSome_iff_exists.mp (List.find?_isSome.mpr ⟨y, hy, by simpa using hid⟩)

/-- The end of a stage changes letters alone in the ledger, and no letter goes. -/
theorem stageDone_keeps (d : Dev) (x : Letter) (stage : Nat) : LettersOnly d (d.stageDone x stage) ∧ names (d.stageDone x stage) = names d := by
  unfold Dev.stageDone
  extract_lets d₁ d₂ d₃
  have h₁ : d₁.ledger = d.ledger ∧ d₁.lines = d.lines := by
    unfold d₁
    split
    · split
      · exact ⟨(ledger_redState ..).trans (ledger_dropRun ..), lines_of_apart ((apart_redState ..).trans (apart_dropRun ..))⟩
      · exact ⟨ledger_dropRun .., lines_of_apart (apart_dropRun ..)⟩
    · exact ⟨rfl, rfl⟩
  have hn₁ : names d₁ = names d := names_of_ledger h₁.1
  have h₃ : LettersOnly d d₃ := (LettersOnly.of_ledger h₁.1 h₁.2).trans ⟨⟨_, rfl⟩, rfl⟩
  have hn₃ : names d₃ = names d := (names_modifyLetter d₁ x.id (by exact fun _ => rfl)).trans hn₁
  clear_value d₃
  split
  · exact ⟨h₃, hn₃⟩
  · extract_lets fed d₄ d₅
    have h₅ : LettersOnly d₃ d₅ := ⟨⟨_, rfl⟩, rfl⟩
    have hn₅ : names d₅ = names d₃ := names_modifyLetter d₃ x.id (by exact fun _ => rfl)
    exact ⟨(h₃.trans h₅).trans (lettersOnly_letterDone ..), (names_of_apart (apart_letterDone ..)).trans (hn₅.trans hn₃)⟩

/-! ### A stage that acts -/

section
variable {s : State} {c : Instr} {l : LetterId} {stage kind st : Nat} {x : Letter} {p : Nat} {r : Rec} {d : Dev} {a : Act Unit}
  {f : Letter → Nat → Rec → Act Unit}

theorem oneShot_acting {mode : Rec → Bool} (h : Acting s.dev l stage kind st x p r d) (hmode : mode r = true) :
    s.dev.oneShot l stage [kind] mode st f = d.stageAct x p r (f x p r) (·.stageDone x stage) := by
  obtain ⟨hdue, rfl⟩ | ⟨hat, hrun, hout, rfl⟩ := h
  · exact oneShot_due hdue hmode
  · unfold Dev.oneShot
    rw [hat]
    dsimp only
    rw [if_neg (by simp [hmode]), if_pos (Option.isSome_iff_ne_none.mpr hrun), if_neg (by simp [hout])]

theorem gatherShot_acting {m : Nat} (h : Acting s.dev l stage 4 1 x p r d) (hmode : eOpt r 0 = m) (hfree : s.dev.bit (.embStatus p (stNode r)) 6 = false) :
    s.dev.gatherShot l stage m f = d.stageAct x p r (f x p r) (·.stageDone x stage) := by
  rw [← oneShot_acting (mode := fun r => eOpt r 0 = m) h (decide_eq_true hmode)]
  have hat : stageAt s.dev l stage [4] = some (x, p, r) := by
    obtain ⟨⟨hat, -⟩, -⟩ | ⟨hat, -⟩ := h <;> exact hat
  unfold Dev.gatherShot
  rw [hat]
  dsimp only
  rw [if_neg (by simp [hfree])]

/-- A command that carries out a stage from start to end comes to its action. -/
theorem runs_oneShot {mode : Rec → Bool} (hexec : exec c s = .next { s with dev := s.dev.oneShot l stage [kind] mode st f })
    (h : Acting s.dev l stage kind st x p r d) (hmode : mode r = true) : Runs c s (d.stageAct x p r (f x p r) (·.stageDone x stage)) := by
  rw [Runs, hexec, oneShot_acting h hmode]

theorem runs_gatherShot {m : Nat} (hexec : exec c s = .next { s with dev := s.dev.gatherShot l stage m f }) (h : Acting s.dev l stage 4 1 x p r d)
    (hmode : eOpt r 0 = m) (hfree : s.dev.bit (.embStatus p (stNode r)) 6 = false) : Runs c s (d.stageAct x p r (f x p r) (·.stageDone x stage)) := by
  rw [Runs, hexec, gatherShot_acting h hmode hfree]

/-- What a stage that acts works on: memory and the letters are as they were. -/
theorem Acting.start (h : Acting s.dev l stage kind st x p r d) : d.apart = s.dev.apart ∧ x.id = l ∧ ∃ y, findLetter s.dev l = some y := by
  have hfound : stageAt s.dev l stage [kind] = some (x, p, r) → ∃ y, findLetter s.dev l = some y := fun hat => by
    unfold stageAt at hat
    split at hat
    · cases hat
    · next y hy => exact ⟨y, hy⟩
  obtain ⟨⟨hat, -⟩, rfl⟩ | ⟨hat, -, -, rfl⟩ := h
  · exact ⟨apart_startStage .., (stageAt_spec hat).1, hfound hat⟩
  · exact ⟨rfl, (stageAt_spec hat).1, hfound hat⟩

theorem Acting.mem_eq (h : Acting s.dev l stage kind st x p r d) : d.mem = s.dev.mem := mem_of_apart h.start.1

/-- Bytes outside a range that a stage stores in are as they were before it began. -/
theorem Acting.keptBut {b n : Nat} {m : Mem} (h : Acting s.dev l stage kind st x p r d) (hkept : KeptBut d m b n) : KeptBut s.dev m b n :=
  fun b hb => by rw [hkept b hb, h.mem_eq]

/-- A stage whose action goes through is over, with what the action has done. -/
theorem acting_over {e : Dev} (h : Acting s.dev l stage kind st x p r d) (hexec : Runs c s (d.stageAct x p r a (·.stageDone x stage)))
    (hrun : a.run d = (.ok (), e)) (hnames : names e = names d) : Answers c s fun t =>
      StageOver s t l stage ∧ LettersOnly e t.dev := by
  obtain ⟨hstart, rfl, z, hz⟩ := h.start
  rw [stageAct_ok _ hrun] at hexec
  obtain ⟨hledger, hkeep⟩ := stageDone_keeps (e.whoWait (stageWho x p r) 0) x stage
  have hwait : (e.whoWait (stageWho x p r) 0).ledger = e.ledger := ledger_whoWait ..
  have hnames' : names ((e.whoWait (stageWho x p r) 0).stageDone x stage) = names s.dev :=
    hkeep.trans ((names_of_ledger hwait).trans (hnames.trans (names_of_apart hstart)))
  obtain ⟨y, hy⟩ := findLetter_of_names hnames' hz
  exact ⟨_, hexec, ⟨rfl, rfl, y, hy, hasStage_stageDone _ x stage y (List.mem_of_find?_eq_some hy) (findLetter_id hy)⟩,
    (lettersOnly_whoWait ..).trans hledger⟩

end

section
variable {d e : Dev} (h : LettersOnly d e)
include h

theorem LettersOnly.mem_eq : e.mem = d.mem := by
  obtain ⟨⟨ls, h⟩, -⟩ := h
  exact congrArg Ledger.mem h

theorem LettersOnly.parts_eq : e.parts = d.parts := by
  obtain ⟨⟨ls, h⟩, -⟩ := h
  exact congrArg Ledger.parts h

theorem LettersOnly.lines_eq : e.lines = d.lines := h.2

theorem LettersOnly.reg_eq {r : Reg} (hr : ledgerReg r = true) : e.reg r = d.reg r := by
  obtain ⟨⟨ls, h⟩, -⟩ := h
  exact reg_of_ledger h hr

end

end Sys2Proof.Machine
end

section
/-! The actions of stages: what reads change nothing, what stores of lent objects and counts leave as it is. -/

namespace Sys2Proof.Machine

/-! ### Actions over lists -/

/-- An action over a list that, step by step, keeps what is known of the module. -/
theorem forA_keeps {α : Type} {Q : Dev → Prop} {f : α → Act Unit} : ∀ (l : List α),
    (∀ v ∈ l, ∀ d, Q d → ∃ e, (f v).run d = (.ok (), e) ∧ Q e) → ∀ d, Q d → ∃ e, (forA l f).run d = (.ok (), e) ∧ Q e
  | [], _, d, hd => ⟨d, rfl, hd⟩
  | v :: l, hstep, d, hd => by
    obtain ⟨e, he, hQ⟩ := hstep v (by simp) d hd
    obtain ⟨g, hg, hQ'⟩ := forA_keeps l (fun w hw => hstep w (by simp [hw])) e hQ
    exact ⟨g, (Act.run_ok he).trans hg, hQ'⟩

/-- An action over a list each step of which goes through and changes nothing. -/
theorem forA_still {α : Type} {f : α → Act Unit} {d : Dev} (l : List α) (h : ∀ v ∈ l, (f v).run d = (.ok (), d)) : (forA l f).run d = (.ok (), d) := by
  obtain ⟨e, he, rfl⟩ := forA_keeps (Q := (· = d)) l (fun v hv e he => ⟨e, he ▸ h v hv, he⟩) d rfl
  exact he

/-- What is read for each element of a list. -/
theorem mapA_reads {α β : Type} {f : α → Act β} {d : Dev} : ∀ l : List α, (∀ v ∈ l, ∃ y, Reads d (f v) y) → ∃ ys, Reads d (mapA l f) ys
  | [], _ => ⟨[], rfl⟩
  | v :: l, h => by
    obtain ⟨y, hy⟩ := h v (by simp)
    obtain ⟨ys, hys⟩ := mapA_reads l fun w hw => h w (by simp [hw])
    exact ⟨y :: ys, (Act.run_ok hy).trans (Act.run_ok hys)⟩

/-! ### What an action works on -/

/-- Registers in which stages count elements and accesses. -/
def tallyReg : Reg → Bool
  | .embSat _ _ _ | .embNonfinite _ _ _ | .embCacheHits _ _ | .embCacheMisses _ _ | .embGranuleReads _ _ | .embRowReads _ _ | .embStampReads _ _
  | .attSat _ _ _ | .attNonfinite _ _ _ => true
  | _ => false

/-- `e` is `d` but for bytes of memory, reservations, the counts of letters and of engines, and free values that have been drawn. -/
structure Worked (d e : Dev) : Prop where
  same : ∃ m rs tk ls gs, e = { d with mem := m, reservations := rs, tick := tk, letters := ls, regs := gs }
  bad : d.mem.bad = [] → e.mem.bad = []
  routes : e.letters.map (fun y => (y.id, y.route)) = d.letters.map fun y => (y.id, y.route)
  reg : ∀ r, tallyReg r = false → e.reg r = d.reg r

theorem Worked.refl (d : Dev) : Worked d d := ⟨⟨_, _, _, _, _, rfl⟩, id, rfl, fun _ _ => rfl⟩

theorem Worked.trans {d e f : Dev} (h : Worked d e) (h' : Worked e f) : Worked d f := by
  obtain ⟨⟨_, _, _, _, _, rfl⟩, hbad, hroutes, hreg⟩ := h
  obtain ⟨⟨_, _, _, _, _, rfl⟩, hbad', hroutes', hreg'⟩ := h'
  exact ⟨⟨_, _, _, _, _, rfl⟩, fun hd => hbad' (hbad hd), hroutes'.trans hroutes, fun r hr => (hreg' r hr).trans (hreg r hr)⟩

theorem worked_write (d : Dev) (a : Nat) (bs : List Byte) (rs : Map Nat Nat) : Worked d { d with mem := d.mem.write a bs, reservations := rs } :=
  ⟨⟨_, _, _, _, _, rfl⟩, fun hd => by simp [Mem.write, hd], rfl, fun _ _ => rfl⟩

theorem worked_draw (d : Dev) : Worked d d.draw.2 := ⟨⟨_, _, _, _, _, rfl⟩, id, rfl, fun _ _ => rfl⟩

theorem worked_setReg {r : Reg} (hr : tallyReg r = true) (d : Dev) (v : W64) : Worked d (d.setReg r v) :=
  ⟨⟨_, _, _, _, _, rfl⟩, id, rfl, fun q hq => by rw [Dev.reg_setReg, if_neg (by rintro rfl; simp [hr] at hq)]⟩

theorem worked_count {r : Reg} (hr : tallyReg r = true) (d : Dev) (k : Nat) : Worked d (d.count r k) := worked_setReg hr d _
theorem worked_count64 {r : Reg} (hr : tallyReg r = true) (d : Dev) (k : Nat) : Worked d (d.count64 r k) := worked_setReg hr d _

theorem worked_addCounts (d : Dev) (l : LetterId) (sat nf : Nat) : Worked d (d.addCounts l sat nf) := by
  refine ⟨⟨_, _, _, _, _, rfl⟩, id, ?_, fun _ _ => rfl⟩
  unfold Dev.addCounts modifyLetter
  rw [List.map_map]
  refine List.map_congr_left fun y _ => ?_
  dsimp only [Function.comp]
  split <;> rfl

theorem worked_convCounts (d : Dev) (l : LetterId) {satReg nfReg : Reg} (hs : tallyReg satReg = true) (hn : tallyReg nfReg = true) (sat nf : Nat) :
    Worked d (d.convCounts l satReg nfReg sat nf) := ((worked_addCounts ..).trans (worked_count hs ..)).trans (worked_count hn ..)

/-- Counts leave memory. -/
theorem convCounts_mem (d : Dev) (l : LetterId) (satReg nfReg : Reg) (sat nf : Nat) : (d.convCounts l satReg nfReg sat nf).mem = d.mem := rfl

namespace Worked

variable {d e : Dev} (h : Worked d e)
include h

theorem names_eq : names e = names d := by
  simpa [names, List.map_map, Function.comp_def] using congrArg (List.map (·.1)) h.routes

theorem parts_eq : e.parts = d.parts := by
  obtain ⟨_, _, _, _, _, rfl⟩ := h.same
  rfl

theorem objs_eq : e.objs = d.objs := by
  obtain ⟨_, _, _, _, _, rfl⟩ := h.same
  rfl

theorem lines_eq : e.lines = d.lines := by
  obtain ⟨_, _, _, _, _, rfl⟩ := h.same
  rfl

theorem runs_eq : e.runs = d.runs := by
  obtain ⟨_, _, _, _, _, rfl⟩ := h.same
  rfl

theorem chans_eq : e.chans = d.chans := by
  obtain ⟨_, _, _, _, _, rfl⟩ := h.same
  rfl

theorem calm {p : Nat} (hc : Calm d p) : Calm e p := by
  obtain ⟨htrained, hthrottle, hlost, hretrains, hbad, hlines⟩ := hc
  have hst : e.reg (.memStatus p) = d.reg (.memStatus p) := h.reg _ rfl
  have hret : e.retrains = d.retrains := by
    obtain ⟨_, _, _, _, _, rfl⟩ := h.same
    rfl
  refine ⟨?_, ?_, fun k => (h.reg _ rfl).trans (hlost k), hret.trans hretrains, h.bad hbad, h.lines_eq.trans hlines⟩
  · rw [← htrained, Dev.trained, Dev.trained, Dev.bit, Dev.bit, Dev.fld, Dev.fld, hst]
  · rw [← hthrottle, Dev.bit, Dev.bit, Dev.fld, Dev.fld, hst]

theorem routed_eq (src : Src) (a k : Nat) : routed e src a k = routed d src a k := by
  have hinst : ∀ q, e.installed q = d.installed q := fun q => by rw [Dev.installed, Dev.installed, Dev.fld, Dev.fld, h.reg _ rfl]
  have hnode : nodeOf e = nodeOf d := funext fun b => by
    unfold nodeOf
    split
    · rw [Dev.regN, Dev.regN, h.reg _ rfl]
    · rfl
    · rfl
  unfold routed
  rw [h.parts_eq, hnode]
  simp only [hinst]

/-- What is lent stays lent. -/
theorem lent {p n id : Nat} {o : Obj} (ho : Lent d p n id o) : Lent e p n id o := by
  obtain ⟨hobj, hid, htier, hstate, hp, hplace, hend, hcalm, hrouted⟩ := ho
  exact ⟨(congrArg (fun m => mapGet? m id) h.objs_eq).trans hobj, hid, htier, hstate, hp, hplace, hend, h.calm hcalm,
    fun a k ha => (h.routed_eq ..).trans (hrouted a k ha)⟩

theorem findLetter_route (l : LetterId) : (findLetter e l).map (·.route) = (findLetter d l).map (·.route) := by
  have hpair : ∀ ls : List Letter, (ls.find? (·.id = l)).map (·.route) = ((ls.map fun y => (y.id, y.route)).find? (·.1 = l)).map (·.2) := fun ls => by
    rw [List.find?_map, Option.map_map]
    rfl
  unfold findLetter
  rw [hpair, hpair, h.routes]

theorem stageFound (l : LetterId) (stage : Nat) :
    ((findLetter e l).bind fun x => findStage e x.route stage) = (findLetter d l).bind fun x => findStage d x.route stage := by
  have hroute := h.findLetter_route l
  have hstage : findStage e = findStage d := by
    funext r k
    unfold findStage
    rw [h.parts_eq]
  rw [hstage]
  cases he : findLetter e l <;> cases hd : findLetter d l <;> simp_all

theorem frkTiles_eq (p t : Nat) : frkTiles e p t = frkTiles d p t := by
  unfold frkTiles
  rw [h.runs_eq, h.chans_eq]
  simp only [h.stageFound]

theorem consumerRuns_eq (l : LetterId) (en : Nat × Nat) : consumerRuns e l en = consumerRuns d l en := by
  have hbind : ∀ g : Dev, consumerRuns g l en = g.runs.any fun r => r.letter = l && r.part = en.1 && !r.parked &&
      match (findLetter g l).bind fun x => findStage g x.route r.stage with
      | some (_, st) => (stInA st = en.2 || stInB st = en.2) && (stKind st ≠ 1 || frkTiles g r.part r.node < 2)
      | none => false := fun g => by
    unfold consumerRuns
    refine congrArg (fun f => List.any g.runs f) (funext fun r => ?_)
    cases findLetter g l <;> rfl
  rw [hbind, hbind, h.runs_eq]
  simp only [h.stageFound, h.frkTiles_eq]

/-- Room in a channel stays. -/
theorem chanRoom_eq (l : LetterId) (p ch : Nat) (i : Item) : chanRoom e l p ch i = chanRoom d l p ch i := by
  have hrec : chanRec e = chanRec d := by
    funext q c
    unfold chanRec
    rw [h.parts_eq]
  have hend : chanEnd e = chanEnd d := by
    funext q c
    unfold chanEnd
    rw [hrec]
  have hheld : chanHeld e = chanHeld d := by
    funext en
    unfold chanHeld
    rw [h.chans_eq]
    simp only [h.consumerRuns_eq]
  unfold chanRoom
  rw [hrec, hend, hheld]
  simp only [h.consumerRuns_eq]

end Worked

/-! ### Accesses -/

section
variable {d : Dev} {p n id : Nat} {o : Obj} (h : Lent d p n id o)
include h

theorem Lent.getObj : Reads d (getObj id) o := by
  obtain ⟨hobj, -⟩ := h
  unfold Reads Machine.getObj
  rw [Act.run_ok (run_devGet d), hobj]
  rfl

/-- A store to a lent object: its bytes are in memory. -/
theorem Lent.stores {w : Who} (hw : w.src = some (p, n)) {off : Nat} {bs : List Byte} (hl : off + bs.length ≤ o.footprint) :
    ∃ e, (objStore w id off bs).run d = (.ok (), e) ∧ Worked d e ∧ e.mem = d.mem.write (o.base + off) bs ∧ ∀ r, e.reg r = d.reg r := by
  obtain ⟨rs, hrun⟩ := h.store hw hl
  exact ⟨_, hrun, worked_write .., rfl, fun _ => rfl⟩

end

/-- The footprint of an object is no less than its size (R138). -/
theorem size_le_footprint (o : Obj) : o.size ≤ o.footprint := by
  unfold Obj.footprint
  split <;> omega

/-! ### Operand words -/

section
variable {d : Dev} {x : Letter} {p n i : Nat} {o : Obj}

theorem needWord_reads (h : i < x.nWords) : Reads d (needWord x i) (x.word i) := by
  unfold Reads needWord
  rw [if_pos h]
  rfl

/-- A word that is looked up where a stage has one. -/
theorem needWord_checked {α : Type} {c : Prop} [Decidable c] (h : c → i < x.nWords) (a : Act α) :
    Act.run (if c then needWord x i >>= fun _ => a else a) d = a.run d := by
  split
  · next hc => exact Act.run_ok (needWord_reads (h hc))
  · rfl

variable (h : Operand d x p n i o)
include h

theorem Operand.needSize {k : Nat} (hk : k ≤ o.size) : (needSize x i k).run d = (.ok (), d) := by
  obtain ⟨-, -, hlent⟩ := h
  unfold Machine.needSize
  rw [Act.run_ok hlent.getObj, if_neg (by omega)]
  rfl

theorem Operand.objWord : Reads d (objWord x i) (x.word i) := by
  obtain ⟨hi, hbits, -⟩ := h
  unfold Reads Machine.objWord
  rw [Act.run_ok (needWord_reads hi), if_neg (by simp [hbits])]
  rfl

end

/-- The words of a stage name lodged objects (R300). -/
theorem needObjs_ok {d : Dev} {x : Letter} {p n : Nat} {ws mats : List Nat} (h : ∀ i ∈ ws ++ mats, ∃ o, Operand d x p n i o) :
    (needObjs x ws mats).run d = (.ok (), d) := by
  have hget : ∀ i ∈ ws ++ mats, (getObj (wordObj (x.word i)) >>= fun _ => pure ()).run d = (.ok (), d) := fun i hi => by
    obtain ⟨o, -, -, ho⟩ := h i hi
    exact Act.run_ok ho.getObj
  have hwords : (forA (ws ++ mats) fun i => do let _ ← needWord x i; pure ()).run d = (.ok (), d) := forA_still _ fun i hi => by
    obtain ⟨o, hlt, -⟩ := h i hi
    exact Act.run_ok (needWord_reads hlt)
  have hobjs : (forA ws fun i => do let _ ← getObj (wordObj (x.word i)); pure ()).run d = (.ok (), d) :=
    forA_still _ fun i hi => hget i (List.mem_append_left _ hi)
  have hmats : (forA (mats.filter fun i => !isHandle (wordObj (x.word i))) fun i => do let _ ← getObj (wordObj (x.word i)); pure ()).run d = (.ok (), d) :=
    forA_still _ fun i hi => hget i (List.mem_append_right _ (List.mem_filter.mp hi).1)
  unfold needObjs
  rw [Act.run_ok hwords, Act.run_ok hobjs, Act.run_ok hmats]
  refine forA_still _ fun i hi => ?_
  obtain ⟨o, -, hbits, -⟩ := h i hi
  rw [if_neg (by simp [hbits])]
  rfl

/-! ### Tokens -/

/-- SEND signals OUT_A, which has room; the ledger stays. -/
theorem signal_ok {d : Dev} {x : Letter} {p : Nat} {r : Rec} {send : Bool}
    (hroom : send = true → stOutA r ≠ 0xFFFF → chanRoom d x.id p (stOutA r) (.token 0) = true) :
    ∃ e, (signal x p r send).run d = (.ok (), e) ∧ e.ledger = d.ledger := by
  unfold signal
  split
  · next hsend =>
    have hgo : stOutA r = 0xFFFF ∨ chanRoom d x.id p (stOutA r) (.token 0) = true := by
      by_cases hch : stOutA r = 0xFFFF
      · exact .inl hch
      · exact .inr (hroom hsend hch)
    refine ⟨d.emit x.id p (stOutA r) (.token 0), ?_, ?_⟩
    · show sendItem x.id p (stOutA r) (.token 0) d = _
      unfold sendItem
      rw [if_pos hgo]
      rfl
    · unfold Dev.emit
      split <;> rfl
  · exact ⟨d, rfl, rfl⟩

end Sys2Proof.Machine
end

section
/-! The lists that stages write (R278, R279, R285): how many bytes they take, and that writes stay within them. -/

namespace Sys2Proof.Machine

/-! ### Writes within a range -/

theorem KeptBut.refl (d : Dev) (a n : Nat) : KeptBut d d.mem a n := fun _ _ => rfl

/-- A further write within the range. -/
theorem KeptBut.write {d : Dev} {m : Mem} {a n b : Nat} {bs : List Byte} (h : KeptBut d m a n) (hlo : a ≤ b) (hhi : b + bs.length ≤ a + n) :
    KeptBut d (m.write b bs) a n := fun c hc => by
  rw [Mem.get_write, if_neg (by omega)]
  exact h c hc

/-- Bytes of a write are read back. -/
theorem read_write_within (m : Mem) (a : Nat) {bs : List Byte} {off k : Nat} (h : off + k ≤ bs.length) : (m.write a bs).read (a + off) k = slice bs off k := by
  rw [slice_eq_map]
  unfold Mem.read
  refine List.map_congr_left fun i hi => ?_
  have hi := List.mem_range.mp hi
  rw [Mem.get_write, if_pos (by omega)]
  congr 1
  omega

/-- A number of a write is read back. -/
theorem field_write_within (m : Mem) (a : Nat) {bs : List Byte} {off k : Nat} (h : off + k ≤ bs.length) :
    field ((m.write a bs).read (a + off) k) 0 k = field bs off k := by
  rw [read_write_within m a h, field, slice_whole (length_slice bs off k), field]

theorem ceilDiv_mono {a b : Nat} (h : a ≤ b) (k : Nat) : ceilDiv a k ≤ ceilDiv b k := Nat.div_le_div_right (by omega)

theorem up64_mono {a b : Nat} (h : a ≤ b) : up64 a ≤ up64 b := Nat.mul_le_mul_right _ (ceilDiv_mono h 64)

theorem le_up64 (a : Nat) : a ≤ up64 a := by
  unfold up64 ceilDiv
  omega

/-! ### Sums -/

theorem sum_le_mul {α : Type} {f : α → Nat} {k : Nat} : ∀ l : List α, (∀ v ∈ l, f v ≤ k) → (l.map f).sum ≤ l.length * k
  | [], _ => by simp
  | v :: l, h => by
    have hv := h v (by simp)
    have ih := sum_le_mul l fun w hw => h w (by simp [hw])
    simp only [List.map_cons, List.sum_cons, List.length_cons, Nat.succ_mul]
    omega

theorem sum_le_sum {α : Type} {f g : α → Nat} : ∀ l : List α, (∀ v ∈ l, f v ≤ g v) → (l.map f).sum ≤ (l.map g).sum
  | [], _ => by simp
  | v :: l, h => by
    have hv := h v (by simp)
    have ih := sum_le_sum l fun w hw => h w (by simp [hw])
    simp only [List.map_cons, List.sum_cons]
    omega

/-- Of the classes of a list, counted over numbers, each element is in one at most. -/
theorem sum_classes_le {α : Type} (key size : α → Nat) (out : List α) (k : Nat) :
    ((List.range k).map fun n => ((out.filter fun e => key e = n).map size).sum).sum ≤ (out.map size).sum := by
  induction out with
  | nil => simp
  | cons e out ih =>
    have hone : ((List.range k).map fun n => if key e = n then size e else 0).sum ≤ size e := by
      have hsum : ∀ j, ((List.range j).map fun n => if key e = n then size e else 0).sum = if key e < j then size e else 0 := fun j => by
        induction j with
        | zero => simp
        | succ j hj =>
          rw [List.range_succ, List.map_append, List.sum_append, hj]
          simp only [List.map_cons, List.map_nil, List.sum_singleton]
          split <;> split <;> split <;> omega
      rw [hsum]
      split <;> omega
    have hsplit : ((List.range k).map fun n => (((e :: out).filter fun e => key e = n).map size).sum) =
        (List.range k).map fun n => (if key e = n then size e else 0) + ((out.filter fun e => key e = n).map size).sum := by
      refine List.map_congr_left fun n _ => ?_
      rw [List.filter_cons]
      by_cases hn : key e = n <;> simp [hn]
    rw [hsplit, List.sum_map_add, List.map_cons, List.sum_cons]
    omega

/-! ### Lists in segments -/

theorem length_dirBytes (unit o : Nat) (segs : List (Nat × List Byte)) : (dirBytes unit o segs).length = 8 * segs.length := by
  induction segs generalizing o with
  | nil => rfl
  | cons s segs ih =>
    simp only [dirBytes, List.length_append, length_natLe, ih, List.length_cons]
    omega

theorem length_listBytes (unit : Nat) (segs : List (Nat × List Byte)) :
    (listBytes unit segs).length = 64 + 8 * segs.length + (segs.map fun s => s.2.length).sum := by
  simp only [listBytes, List.length_append, length_natLe, List.length_replicate, length_dirBytes, List.length_flatMap]

/-- Entries in the 4,096 segments of a list. -/
def entrySegs (out : List (Nat × List Byte)) : List (Nat × List Byte) :=
  (List.range 4096).map fun n => let l := out.filter fun e => e.1 = n; (l.length, l.flatMap (·.2))

/-- A list takes its header, its directory and no more than its entries. -/
theorem length_listBytes_le (unit : Nat) (out : List (Nat × List Byte)) :
    (listBytes unit (entrySegs out)).length ≤ dataBase + (out.map fun e => e.2.length).sum := by
  have hsum : ((entrySegs out).map fun s => s.2.length).sum ≤ (out.map fun e => e.2.length).sum := by
    unfold entrySegs
    rw [List.map_map]
    simpa [Function.comp_def, List.length_flatMap] using sum_classes_le (·.1) (fun e => e.2.length) out 4096
  have hlen : (entrySegs out).length = 4096 := by simp [entrySegs]
  rw [length_listBytes, hlen, dataBase]
  omega

/-- A record takes its header and values, rounded up. -/
theorem length_recordBytes (bag n : Nat) (vals : List Byte) : (recordBytes bag n vals).length = up64 (16 + vals.length) := by
  have hhead : (natLe 4 bag ++ natLe 4 n ++ List.replicate 8 0#8 ++ vals).length = 16 + vals.length := by
    simp only [List.length_append, length_natLe, List.length_replicate]
  have hle := le_up64 (16 + vals.length)
  unfold recordBytes
  dsimp only
  rw [List.length_append, List.length_replicate, hhead]
  omega

/-- The values of a record take what its format says (R279). -/
theorem length_recordVals {f : EFmt} (hf : f = .bf16 ∨ f = .fp32) (rnd : Nat → Rnd) (vs : List W32) :
    (recordVals f rnd vs).1.length = vs.length * (f.bits / 8) := by
  obtain rfl | rfl := hf
  · show (packCodes .bf16 _).length = _
    unfold packCodes
    rw [if_neg (by decide), List.length_flatMap]
    simp [EFmt.bits, Function.comp_def, List.map_const']
  · show (vs.flatMap fun v => natLe 4 v.toNat).length = _
    rw [List.length_flatMap]
    simp [EFmt.bits]

theorem outFmt_cases (r : Rec) : outFmt r = .bf16 ∨ outFmt r = .fp32 := by
  unfold outFmt
  split
  · exact .inl rfl
  · exact .inr rfl

/-- A record list of records of up to `k` bytes each. -/
theorem length_recordList_le {recs : List (Nat × List Byte)} {k : Nat} (h : ∀ e ∈ recs, e.2.length ≤ k) :
    (recordList recs).length ≤ dataBase + recs.length * k :=
  (length_listBytes_le 64 recs).trans (Nat.add_le_add_left (sum_le_mul recs h) _)

/-! ### Entries -/

/-- Bags do not outnumber the entries that they are made of. -/
theorem length_bagsOf_le : ∀ es : List (Nat × Ent), (bagsOf es).length ≤ es.length
  | [] => Nat.le_refl _
  | e :: es => by
    have ih := length_bagsOf_le es
    unfold bagsOf
    split
    · next h =>
      rw [h] at ih
      split <;> simp at ih ⊢ <;> omega
    · simp only [List.length_cons]
      omega

/-- Every entry of a bag is one of the list, and no bag is empty. -/
theorem mem_bagsOf : ∀ (es : List (Nat × Ent)) (g : List (Nat × Ent)), g ∈ bagsOf es → g ≠ [] ∧ ∀ e ∈ g, e ∈ es
  | [], g, hg => by cases hg
  | e :: es, g, hg => by
    have ih := mem_bagsOf es
    have hself : ∀ (k : List (List (Nat × Ent))), (∀ g ∈ k, g ≠ [] ∧ ∀ e ∈ g, e ∈ es) → g ∈ [e] :: k → g ≠ [] ∧ ∀ v ∈ g, v ∈ e :: es := fun k hk hg => by
      obtain rfl | hg := List.mem_cons.mp hg
      · exact ⟨by simp, fun v hv => by simp at hv; simp [hv]⟩
      · exact ⟨(hk g hg).1, fun v hv => List.mem_cons_of_mem _ ((hk g hg).2 v hv)⟩
    unfold bagsOf at hg
    split at hg
    · next f g' rest h =>
      rw [h] at ih
      split at hg
      · obtain rfl | hg := List.mem_cons.mp hg
        · refine ⟨by simp, fun v hv => ?_⟩
          obtain rfl | hv := List.mem_cons.mp hv
          · exact List.mem_cons_self
          · exact List.mem_cons_of_mem _ ((ih (f :: g') (by simp)).2 v hv)
        · exact ⟨(ih g (by simp [hg])).1, fun v hv => List.mem_cons_of_mem _ ((ih g (by simp [hg])).2 v hv)⟩
      · exact hself _ ih hg
    · exact hself _ ih hg

/-! ### Sorted entries -/

theorem length_insertBy {α : Type} (le : α → α → Bool) (a : α) (l : List α) : (insertBy le a l).length = l.length + 1 := by
  induction l with
  | nil => rfl
  | cons b l ih =>
    unfold insertBy
    split <;> simp [ih]

theorem length_sortBy {α : Type} (le : α → α → Bool) (l : List α) : (sortBy le l).length = l.length := by
  induction l with
  | nil => rfl
  | cons a l ih => rw [sortBy, length_insertBy, ih, List.length_cons]

theorem mem_insertBy {α : Type} {le : α → α → Bool} {a b : α} {l : List α} (h : b ∈ insertBy le a l) : b = a ∨ b ∈ l := by
  induction l with
  | nil => exact .inl (List.mem_singleton.mp h)
  | cons c l ih =>
    unfold insertBy at h
    split at h
    · exact List.mem_cons.mp h
    · obtain rfl | h := List.mem_cons.mp h
      · exact .inr List.mem_cons_self
      · exact (ih h).imp id (List.mem_cons_of_mem _)

theorem mem_sortBy {α : Type} {le : α → α → Bool} {a : α} {l : List α} (h : a ∈ sortBy le l) : a ∈ l := by
  induction l with
  | nil => cases h
  | cons b l ih =>
    obtain rfl | h := mem_insertBy h
    · exact List.mem_cons_self
    · exact List.mem_cons_of_mem _ (ih h)

end Sys2Proof.Machine
end

section
/-! The sorting engine (R284-R286): SPLIT and SORT on operands that can be read. -/

namespace Sys2Proof.Machine

/-! ### Stages that go through -/

/-- The action goes through, with what `Q` says of the module, and no letter goes. -/
def Goes (a : Act Unit) (d : Dev) (Q : Dev → Prop) : Prop := ∃ e, a.run d = (.ok (), e) ∧ names e = names d ∧ Q e

/-- Of an action that begins as another does, what that one comes to. -/
theorem Goes.congr {a b : Act Unit} {d : Dev} {Q : Dev → Prop} (h : a.run d = b.run d) (hgo : Goes b d Q) : Goes a d Q := by
  obtain ⟨e, hrun, hQ⟩ := hgo
  exact ⟨e, h.trans hrun, hQ⟩

/-- A stage whose action goes through is over; then the ledger but for letters is as its action left it. -/
theorem Goes.over {s : State} {c : Instr} {l : LetterId} {stage kind st : Nat} {x : Letter} {p : Nat} {r : Rec} {d : Dev} {a : Act Unit} {Q : Dev → Prop}
    (hgo : Goes a d Q) (h : Acting s.dev l stage kind st x p r d) (hexec : Runs c s (d.stageAct x p r a (·.stageDone x stage))) :
    Answers c s fun t => StageOver s t l stage ∧ ∃ e, Q e ∧ LettersOnly e t.dev := by
  obtain ⟨e, hrun, hnames, hQ⟩ := hgo
  obtain ⟨t, ht, hover, hledger⟩ := acting_over h hexec hrun hnames
  exact ⟨t, ht, hover, e, hQ, hledger⟩

/-- At its end a stage of the embedding engines counts its progress and signals. -/
theorem progress_signal {d e : Dev} {x : Letter} {p : Nat} {r : Rec} {send : Bool} (h : Worked d e)
    (hroom : send = true → stOutA r ≠ 0xFFFF → chanRoom d x.id p (stOutA r) (.token 0) = true) {q : Reg} (hq : ledgerReg q = true)
    (htally : tallyReg q = false) (k : Nat) :
    ∃ f, (devMod (fun d => d.wrap q k) >>= fun _ => signal x p r send).run e = (.ok (), f) ∧ names f = names d ∧ f.mem = e.mem ∧
      f.reg q = d.reg q + BitVec.ofNat 64 k := by
  have hroom' : send = true → stOutA r ≠ 0xFFFF → chanRoom (e.wrap q k) x.id p (stOutA r) (.token 0) = true :=
    fun hs ho => (h.chanRoom_eq ..).trans (hroom hs ho)
  obtain ⟨f, hf, hledger⟩ := signal_ok hroom'
  refine ⟨f, (Act.run_ok (run_devMod ..)).trans hf, (names_of_ledger hledger).trans h.names_eq, congrArg Ledger.mem hledger, ?_⟩
  have hreg : f.reg q = (e.wrap q k).reg q := reg_of_ledger (ls := (e.wrap q k).letters) hledger hq
  rw [hreg, Dev.wrap, Dev.reg_setReg, if_pos rfl, h.reg q htally]

theorem stageWho_src (x : Letter) (p : Nat) (r : Rec) : (stageWho x p r).src = some (p, stNode r) := rfl

/-! ### SPLIT -/

section
variable {d : Dev} {x : Letter} {p : Nat} {r : Rec}

theorem split_goes {b : BatchList} {m : List MapEnt} {ob om o : Obj} (hb : Operand d x p (stNode r) (eOpt r 1) ob)
    (hm : Operand d x p (stNode r) (eOpt r 2) om) (ho : Operand d x p (stNode r) (eOpt r 3) o)
    (hopt : eOpt r 4 ≠ 0xFF → ∃ oo, Operand d x p (stNode r) (eOpt r 4) oo) (hbatch : Reads d (readBatch x (stageWho x p r) (eOpt r 1)) b)
    (hmap : Reads d (readMap x (stageWho x p r) (eOpt r 2)) m) (howned : ∀ e ∈ b.ents, (ownerOf m e).isSome = true)
    (hsize : dataBase + 16 * b.ents.length ≤ o.size)
    (hroom : bitN (eOpt r 5) 0 = true → stOutA r ≠ 0xFFFF → chanRoom d x.id p (stOutA r) (.token 0) = true) :
    Goes (split x p r) d fun e => KeptBut d e.mem o.base (dataBase + 16 * b.ents.length) ∧
      e.reg (.embSortProgress p (stNode r)) = d.reg (.embSortProgress p (stNode r)) + BitVec.ofNat 64 b.ents.length := by
  have hwords : ∀ i ∈ [eOpt r 1, eOpt r 2, eOpt r 3, eOpt r 4].filter (· ≠ 0xFF) ++ [], ∃ o, Operand d x p (stNode r) i o := fun i hi => by
    simp only [List.append_nil, List.mem_filter, List.mem_cons, List.not_mem_nil, or_false, decide_eq_true_eq] at hi
    obtain ⟨rfl | rfl | rfl | rfl, hne⟩ := hi
    · exact ⟨ob, hb⟩
    · exact ⟨om, hm⟩
    · exact ⟨o, ho⟩
    · exact hopt hne
  have hfound : (b.ents.map (ownerOf m)).any (·.isNone) = false := by
    rw [List.any_eq_false]
    intro k hk
    obtain ⟨e, he, rfl⟩ := List.mem_map.mp hk
    simpa [Option.isSome_iff_ne_none] using howned e he
  let out := ((b.ents.zip b.owners).zip (b.wts.zip (b.ents.map (ownerOf m)))).map fun e =>
    (e.2.2.getD 0, natLe 8 e.1.1 ++ natLe 4 e.1.2 ++ natLe 4 e.2.1)
  have hlen : (listBytes 16 (entrySegs out)).length ≤ dataBase + 16 * b.ents.length := by
    have hle := length_listBytes_le 16 out
    have hsum := sum_le_mul (f := fun e : Nat × List Byte => e.2.length) (k := 16) out fun e he => by
      obtain ⟨v, -, rfl⟩ := List.mem_map.mp he
      simp [List.length_append]
    have hout : out.length ≤ b.ents.length := by simp only [out, List.length_map, List.length_zip]; omega
    omega
  obtain ⟨-, -, hlent⟩ := id ho
  obtain ⟨e, hstore, hworked, hmem, -⟩ := hlent.stores (stageWho_src x p r) (off := 0) (bs := listBytes 16 (entrySegs out))
    (by have := size_le_footprint o; omega)
  obtain ⟨f, hend, hnames, hmem', hreg⟩ := progress_signal hworked hroom (q := .embSortProgress p (stNode r)) rfl rfl b.ents.length
  refine ⟨f, ?_, hnames, ?_, hreg⟩
  · unfold split
    rw [Act.run_ok (needObjs_ok hwords), Act.run_ok hbatch, Act.run_ok hmap, Act.run_ok (ho.needSize hsize)]
    dsimp only
    rw [hfound, if_neg Bool.false_ne_true]
    exact (Act.run_ok hstore).trans hend
  · rw [hmem', hmem]
    exact (KeptBut.refl d _ _).write (by omega) (by omega)

end

/-! ### SORT -/

theorem length_mergeRuns_le (i : Nat) (ks : List Nat) : (mergeRuns i ks).length ≤ ks.length := by
  induction ks generalizing i with
  | nil => exact Nat.le_refl _
  | cons k ks ih =>
    have ih := ih (i + 1)
    unfold mergeRuns
    split
    · next h =>
      rw [h] at ih
      split <;> simp at ih ⊢ <;> omega
    · simp

/-- The unique keys are keys of the list. -/
theorem key_of_mergeRuns {i : Nat} {ks : List Nat} {u : Nat × Nat × Nat} (h : u ∈ mergeRuns i ks) : u.1 ∈ ks := by
  induction ks generalizing i u with
  | nil => cases h
  | cons k ks ih =>
    unfold mergeRuns at h
    split at h
    · next k' f c rest hrest =>
      have ih' : ∀ v ∈ (k', f, c) :: rest, v.1 ∈ ks := fun v hv => ih (hrest ▸ hv)
      split at h
      · obtain rfl | h := List.mem_cons.mp h
        · exact List.mem_cons_self
        · exact List.mem_cons_of_mem _ (ih' u (List.mem_cons_of_mem _ h))
      · obtain rfl | h := List.mem_cons.mp h
        · exact List.mem_cons_self
        · exact List.mem_cons_of_mem _ (ih' u h)
    · rw [List.mem_singleton] at h
      subst h
      exact List.mem_cons_self

/-- The entries in the order of their keys, each with its place in the list. -/
def sortedOf (es : List Ent) : List (Ent × Nat) := sortBy (fun a b => a.1.key ≤ b.1.key) es.zipIdx

/-- The unique keys of a list of entries. -/
def uniqOf (es : List Ent) : List (Nat × Nat × Nat) := mergeRuns 0 ((sortedOf es).map (·.1.key))

theorem length_uniqOf_le (es : List Ent) : (uniqOf es).length ≤ es.length := by
  have hle := length_mergeRuns_le 0 ((sortedOf es).map (·.1.key))
  rwa [List.length_map, sortedOf, length_sortBy, List.length_zipIdx] at hle

theorem key_of_uniqOf {es : List Ent} {u : Nat × Nat × Nat} (h : u ∈ uniqOf es) : ∃ e ∈ es, u.1 = e.key := by
  obtain ⟨v, hv, hkey⟩ := List.mem_map.mp (key_of_mergeRuns h)
  exact ⟨v.1, List.fst_mem_of_mem_zipIdx (mem_sortBy hv), hkey.symm⟩

/-- Bytes with zeros up to a length. -/
def padTo (l : List Byte) (k : Nat) : List Byte := l ++ List.replicate (k - l.length) 0#8

theorem length_padTo {l : List Byte} {k : Nat} (h : l.length ≤ k) : (padTo l k).length = k := by
  unfold padTo
  rw [List.length_append, List.length_replicate]
  omega

/-- The header of a runs object and its unique keys. -/
def runsHead (es : List Ent) : List Byte :=
  natLe 4 es.length ++ natLe 4 (uniqOf es).length ++ List.replicate 56 0#8 ++ (uniqOf es).flatMap fun u => natLe 8 u.1 ++ natLe 4 u.2.1 ++ natLe 4 u.2.2

/-- A runs object (R285), with PERM and UIDX at given offsets. -/
def runsBytes (es : List Ent) (pa ua : Nat) : List Byte :=
  padTo (padTo (runsHead es) pa ++ (sortedOf es).flatMap fun e => natLe 4 e.2) ua ++
    es.flatMap fun e => natLe 4 (((uniqOf es).findIdx? (·.1 = e.key)).getD 0)

theorem length_runsBytes (es : List Ent) {pa ua : Nat} (h : runsAt es.length (uniqOf es).length = (pa, ua)) :
    (runsBytes es pa ua).length = ua + 4 * es.length := by
  obtain ⟨rfl, rfl⟩ := Prod.mk.inj h
  have hhead : (runsHead es).length = 64 + 16 * (uniqOf es).length := by
    simp only [runsHead, List.length_append, length_natLe, List.length_replicate, List.length_flatMap, List.map_const', List.sum_replicate, smul_eq_mul]
    omega
  have hperm : ((sortedOf es).flatMap fun e => natLe 4 e.2).length = 4 * es.length := by
    simp [sortedOf, List.length_flatMap, length_sortBy, Nat.mul_comm]
  have hfirst := length_padTo (l := runsHead es) (k := up64 (0x40 + 16 * (uniqOf es).length)) (by rw [hhead]; exact le_up64 _)
  have hsecond := length_padTo (l := padTo (runsHead es) (up64 (0x40 + 16 * (uniqOf es).length)) ++ (sortedOf es).flatMap fun e => natLe 4 e.2)
    (k := up64 (up64 (0x40 + 16 * (uniqOf es).length) + 4 * es.length)) (by rw [List.length_append, hfirst, hperm]; exact le_up64 _)
  unfold runsBytes
  rw [List.length_append, hsecond]
  simp [List.length_flatMap, Nat.mul_comm]

theorem field_runsBytes (es : List Ent) (pa ua : Nat) (h : es.length ≤ 65536) : field (runsBytes es pa ua) 0 4 = es.length := by
  unfold runsBytes padTo runsHead
  simp only [List.append_assoc]
  rw [field_natLe_append]
  omega

/-- Fewer unique keys take no more room. -/
theorem runsAt_mono (n : Nat) {u v : Nat} (h : u ≤ v) : (runsAt n u).2 ≤ (runsAt n v).2 :=
  up64_mono (Nat.add_le_add_right (up64_mono (by omega)) _)

/-- A runs object has its header. -/
theorem runsAt_header {n u pa ua : Nat} (h : runsAt n u = (pa, ua)) : 64 ≤ ua := by
  obtain ⟨rfl, rfl⟩ := Prod.mk.inj h
  have hfirst := le_up64 (0x40 + 16 * u)
  have hsecond := le_up64 (up64 (0x40 + 16 * u) + 4 * n)
  omega

section
variable {d : Dev} {x : Letter} {p : Nat} {r : Rec}

theorem sort_goes {es : List Ent} {oi o ow : Obj} (hi : Operand d x p (stNode r) (eOpt r 1) oi) (ho : Operand d x p (stNode r) (eOpt r 3) o)
    (hw : Operand d x p (stNode r) (eOpt r 4) ow) (hread : Reads d (readEntries x (stageWho x p r) (eOpt r 1)) es) (hmax : es.length ≤ 65536)
    (hshards : ∀ e ∈ es, ∃ f k v, locate (shardsIn d) e.key = some (f, k) ∧ Reads d (readShard (stageWho x p r) f.id false) v)
    (hsize : (runsAt es.length es.length).2 + 4 * es.length ≤ o.size) (hwork : 32 * es.length ≤ ow.size)
    (hroom : bitN (eOpt r 5) 0 = true → stOutA r ≠ 0xFFFF → chanRoom d x.id p (stOutA r) (.token 0) = true) :
    Goes (sortStage x p r) d fun e => KeptBut d e.mem o.base ((runsAt es.length es.length).2 + 4 * es.length) ∧
      field (e.mem.read o.base 4) 0 4 = es.length ∧
      e.reg (.embSortProgress p (stNode r)) = d.reg (.embSortProgress p (stNode r)) + BitVec.ofNat 64 (sortPasses es.length * es.length) := by
  have hwords : ∀ i ∈ [eOpt r 1, eOpt r 3, eOpt r 4] ++ [], ∃ o, Operand d x p (stNode r) i o := by
    simp only [List.append_nil, List.forall_mem_cons, List.not_mem_nil, false_implies, implies_true, and_true]
    exact ⟨⟨oi, hi⟩, ⟨o, ho⟩, ⟨ow, hw⟩⟩
  have hmono := runsAt_mono es.length (length_uniqOf_le es)
  have hlocated : ∀ u ∈ uniqOf es, ∃ f k v, locate (shardsIn d) u.1 = some (f, k) ∧ Reads d (readShard (stageWho x p r) f.id false) v := fun u hu => by
    obtain ⟨e, he, hkey⟩ := key_of_uniqOf hu
    rw [hkey]
    exact hshards e he
  have hfound : ((uniqOf es).map fun u => locate (shardsIn d) u.1).any (·.isNone) = false := by
    rw [List.any_eq_false]
    intro k hk
    obtain ⟨u, hu, rfl⟩ := List.mem_map.mp hk
    obtain ⟨f, k, v, hf, -⟩ := hlocated u hu
    simp [hf]
  have hheaders : (forA (((((uniqOf es).map fun u => locate (shardsIn d) u.1).filterMap id).map fun e => e.1.id).eraseDups)
      fun s => do let _ ← readShard (stageWho x p r) s false; pure ()).run d = (.ok (), d) := forA_still _ fun s hs => by
    obtain ⟨e, he, rfl⟩ := List.mem_map.mp (List.mem_eraseDups.mp hs)
    obtain ⟨u, hu, hue⟩ := List.mem_map.mp (List.mem_filterMap.mp he).choose_spec.1
    obtain ⟨f, k, v, hf, hv⟩ := hlocated u hu
    have heq := (List.mem_filterMap.mp he).choose_spec.2
    rw [← hue, hf] at heq
    obtain rfl := Option.some.inj heq
    exact Act.run_ok hv
  obtain ⟨⟨pa, ua⟩, hat⟩ : ∃ q, runsAt es.length (uniqOf es).length = q := ⟨_, rfl⟩
  have hlen := length_runsBytes es hat
  rw [hat] at hmono
  dsimp only at hmono
  obtain ⟨-, -, hlent⟩ := id ho
  obtain ⟨e, hstore, hworked, hmem, -⟩ := hlent.stores (stageWho_src x p r) (off := 0) (bs := runsBytes es pa ua)
    (by have := size_le_footprint o; omega)
  obtain ⟨f, hend, hnames, hmem', hreg⟩ := progress_signal hworked hroom (q := .embSortProgress p (stNode r)) rfl rfl (sortPasses es.length * es.length)
  refine ⟨f, ?_, hnames, ?_, ?_, hreg⟩
  · unfold sortStage
    rw [Act.run_ok (needObjs_ok hwords), Act.run_ok hread]
    dsimp only
    have hat' : runsAt es.length (mergeRuns 0 ((sortBy (fun a b => decide (a.1.key ≤ b.1.key)) es.zipIdx).map (·.1.key))).length = (pa, ua) := hat
    rw [hat']
    dsimp only
    rw [Act.run_ok (ho.needSize (by omega)), Act.run_ok (hw.needSize hwork), Act.run_ok (run_devGet d)]
    refine (congrArg (Act.run · d) (if_neg (ne_true_of_eq_false hfound))).trans ?_
    refine (Act.run_ok hheaders).trans ?_
    rw [if_neg (by omega)]
    exact (Act.run_ok hstore).trans hend
  · rw [hmem', hmem]
    exact (KeptBut.refl d _ _).write (by omega) (by omega)
  · rw [hmem', hmem, ← field_runsBytes es pa ua hmax]
    have hheader := runsAt_header hat
    exact field_write_within d.mem o.base (off := 0) (by omega)

end

end Sys2Proof.Machine
end

section
/-! The gather/pool engine (R287-R292): GATHER_POOL, COMBINE and SCATTER on operands that can be read. -/

namespace Sys2Proof.Machine

/-! ### Rows -/

theorem foldl_max_le {l : List Nat} {a k : Nat} (ha : a ≤ k) (h : ∀ v ∈ l, v ≤ k) : l.foldl max a ≤ k := by
  induction l generalizing a with
  | nil => exact ha
  | cons v l ih =>
    have hv := h v (by simp)
    exact ih (by omega) fun w hw => h w (by simp [hw])

theorem bits_le (f : EFmt) : f.bits / 8 ≤ 4 := by cases f <;> decide

/-- A shard whose header keeps R274 is one in which the key lies, with rows of at most 4,096 bytes. -/
theorem goodShard_spec {d : Dev} {key : Nat} {f : Shard} (h : goodShard d key = some f) : (∃ k, locate (shardsIn d) key = some (f, k)) ∧ f.rowBytes ≤ 4096 := by
  unfold goodShard at h
  obtain ⟨⟨g, k⟩, hlocate, h⟩ := Option.bind_eq_some_iff.mp h
  obtain ⟨o, -, h⟩ := Option.bind_eq_some_iff.mp h
  dsimp only at h
  split at h
  case isFalse => cases h
  case isTrue hok =>
    obtain rfl := Option.some.inj h
    have hlen : g.rowLen ≤ 1024 := by
      have := hok.2
      simp only [shardOk, Bool.and_eq_true, Bool.or_eq_true, decide_eq_true_eq] at this
      omega
    refine ⟨⟨k, hlocate⟩, ?_⟩
    calc g.rowBytes ≤ 1024 * 4 := Nat.mul_le_mul hlen (bits_le g.fmt)
      _ = 4096 := rfl

theorem length_poolBag (weighted : Bool) (len : Nat) (es : List (W32 × List W32)) : (poolBag weighted len es).length = len := by
  have hfold : ∀ (es : List (W32 × List W32)) (acc : List W32), (es.foldl (fun acc e => acc.zipIdx.map fun a =>
      let v := e.2.getD a.2 0#32
      if weighted then fma e.1 v a.1 else fadd a.1 v) acc).length = acc.length := fun es => by
    induction es with
    | nil => exact fun _ => rfl
    | cons e es ih =>
      intro acc
      rw [List.foldl_cons, ih]
      simp
  unfold poolBag
  rw [hfold, List.length_replicate]

/-! ### The bags of a gather -/

/-- The bags of the inbound entries, each entry with its unique row. -/
def gatherGroups (es : List Ent) (ru : RunsObj) : List (List (Nat × Ent)) := bagsOf ((es.zip ru.uidx).map fun e => (e.2, e.1))

theorem length_gatherGroups_le (es : List Ent) (ru : RunsObj) : (gatherGroups es ru).length ≤ es.length :=
  (length_bagsOf_le _).trans (by simp only [List.length_map, List.length_zip]; omega)

/-- The row lengths of a bag, as far as its rows' shards are known. -/
def groupLens (known : List (Option Shard)) (g : List (Nat × Ent)) : List Nat := g.filterMap fun e => (known.getD e.1 none).map (·.rowLen)

/-- The row length of a bag. -/
def groupLen (known : List (Option Shard)) (g : List (Nat × Ent)) : Nat := ((groupLens known g).head?).getD 0

section
variable {known : List (Option Shard)} {len : Nat} (h : ∀ f, some f ∈ known → f.rowLen = len)
include h

theorem groupLens_eq {g : List (Nat × Ent)} {k : Nat} (hk : k ∈ groupLens known g) : k = len := by
  obtain ⟨e, -, he⟩ := List.mem_filterMap.mp hk
  obtain ⟨f, hf, rfl⟩ := Option.map_eq_some_iff.mp he
  refine h f ?_
  rw [List.getD_eq_getElem?_getD] at hf
  cases hget : known[e.1]? with
  | none => rw [hget] at hf; cases hf
  | some v =>
    rw [hget] at hf
    exact (show v = some f from hf) ▸ List.mem_of_getElem? hget

theorem groupLen_le (g : List (Nat × Ent)) : groupLen known g ≤ len := by
  unfold groupLen
  cases hhead : (groupLens known g).head? with
  | none => exact Nat.zero_le _
  | some k => exact (groupLens_eq h (List.mem_of_head? hhead)).le

/-- Rows of one length agree in every bag. -/
theorem groupLens_agree (g : List (Nat × Ent)) : (groupLens known g).any (fun k => k ≠ groupLen known g) = false := by
  rw [List.any_eq_false]
  intro k hk
  have hlen : groupLen known g = len := by
    unfold groupLen
    cases hhead : (groupLens known g).head? with
    | none => rw [List.head?_eq_none_iff.mp hhead] at hk; cases hk
    | some j => exact groupLens_eq h (List.mem_of_head? hhead)
  simp [hlen, groupLens_eq h hk]

end

/-- A pooled record (R279, R290), with its counts. -/
def pooledRecord (weighted : Bool) (f : EFmt) (known : List (Option Shard)) (vals : List (List (W32 × Bool))) (g : List (Nat × Ent)) : (Nat × List Byte) × Nat × Nat :=
  let acc := poolBag weighted (groupLen known g) (g.map fun e => (e.2.wt, (vals.getD e.1 []).map (·.1)))
  let (b, sat, nf) := recordVals f (fun _ => .rne) acc
  let first := match g with | e :: _ => (e.2.seg, e.2.bag) | [] => (0, 0)
  ((first.1, recordBytes first.2 g.length b), sat, nf)

theorem length_pooledRecord {f : EFmt} (hf : f = .bf16 ∨ f = .fp32) (weighted : Bool) (known : List (Option Shard)) (vals : List (List (W32 × Bool)))
    (g : List (Nat × Ent)) : (pooledRecord weighted f known vals g).1.2.length = up64 (16 + groupLen known g * (f.bits / 8)) := by
  unfold pooledRecord
  dsimp only
  rw [length_recordBytes, length_recordVals hf, length_poolBag]

/-! ### Accesses -/

/-- What an engine leaves in a scratch object. -/
theorem Lent.scratch {d : Dev} {p n id : Nat} {o : Obj} (h : Lent d p n id o) {w : Who} (hw : w.src = some (p, n)) {len : Nat} (hl : len ≤ o.footprint) :
    ∃ e bs, (Machine.scratch w id len).run d = (.ok (), e) ∧ Worked d e ∧ e.mem = d.mem.write o.base bs ∧ bs.length = len := by
  obtain ⟨e, hrun, hworked, hmem, -⟩ := ((worked_draw d).lent h).stores hw (off := 0) (bs := (List.range len).map fun i => Config.freeByte d.tick i)
    (by rw [List.length_map, List.length_range]; omega)
  refine ⟨e, _, ?_, (worked_draw d).trans hworked, hmem, by rw [List.length_map, List.length_range]⟩
  unfold Machine.scratch
  exact (Act.run_ok (run_devGet d)).trans ((Act.run_ok (run_devMod ..)).trans hrun)

theorem worked_countReads (d : Dev) (p t : Nat) (cache : Bool) (cmin : Nat) (rows : List (Shard × Nat)) (missed : List Bool) :
    Worked d (d.countReads p t cache cmin rows missed) ∧ (d.countReads p t cache cmin rows missed).mem = d.mem := by
  unfold Dev.countReads
  extract_lets miss base gs whole single lines e
  have he : Worked d e ∧ e.mem = d.mem := by
    unfold e
    split
    · exact ⟨(worked_count64 rfl ..).trans (worked_count64 rfl ..), rfl⟩
    · exact ⟨.refl d, rfl⟩
  exact ⟨((he.1.trans (worked_count64 rfl ..)).trans (worked_count64 rfl ..)).trans (worked_count64 rfl ..), he.2⟩

/-- The rows of unique keys that this tile owns. -/
theorem ownRows_reads {d : Dev} {x : Letter} {p : Nat} {r : Rec} {keys : List Nat}
    (h : ∀ u ∈ keys, ∃ f k v, locate (shardsIn d) u = some (f, k) ∧ ownedBy d p (stNode r) f = true ∧ Reads d (readShard (stageWho x p r) f.id false) v) :
    Reads d (ownRows x p r keys) (keys.filterMap (locate (shardsIn d))) := by
  have hfound : (keys.map (locate (shardsIn d))).any (·.isNone) = false := by
    rw [List.any_eq_false]
    intro e he
    obtain ⟨u, hu, rfl⟩ := List.mem_map.mp he
    obtain ⟨f, k, v, hf, -⟩ := h u hu
    simp [hf]
  have hrows : (keys.map (locate (shardsIn d))).filterMap id = keys.filterMap (locate (shardsIn d)) := by simp [List.filterMap_map]
  have hown : ∀ e ∈ keys.filterMap (locate (shardsIn d)), ownedBy d p (stNode r) e.1 = true ∧ ∃ v, Reads d (readShard (stageWho x p r) e.1.id false) v := fun e he => by
    obtain ⟨u, hu, hue⟩ := List.mem_filterMap.mp he
    obtain ⟨f, k, v, hf, hmine, hv⟩ := h u hu
    obtain rfl := Option.some.inj (hue.symm.trans hf)
    exact ⟨hmine, v, hv⟩
  have hmine : (keys.filterMap (locate (shardsIn d))).any (fun e => !ownedBy d p (stNode r) e.1) = false := by
    rw [List.any_eq_false]
    exact fun e he => by simp [(hown e he).1]
  have hheaders : (forA (((keys.filterMap (locate (shardsIn d))).map fun e => e.1.id).eraseDups)
      fun s => do let _ ← readShard (stageWho x p r) s false; pure ()).run d = (.ok (), d) := forA_still _ fun s hs => by
    obtain ⟨e, he, rfl⟩ := List.mem_map.mp (List.mem_eraseDups.mp hs)
    obtain ⟨-, v, hv⟩ := hown e he
    exact Act.run_ok hv
  unfold Reads ownRows
  rw [Act.run_ok (run_devGet d)]
  dsimp only
  rw [hfound, if_neg Bool.false_ne_true, hrows, hmine, if_neg Bool.false_ne_true, Act.run_ok hheaders]
  rfl

/-! ### GATHER_POOL -/

section
variable {d : Dev} {x : Letter} {p : Nat} {r : Rec}

theorem gather_goes {es : List Ent} {ru : RunsObj} {len : Nat} {got : List ((List Byte × Nat) × Bool)} {oa ob oc o : Obj}
    (ha : Operand d x p (stNode r) (eOpt r 2) oa) (hb : Operand d x p (stNode r) (eOpt r 3) ob) (hc : Operand d x p (stNode r) (eOpt r 4) oc)
    (ho : Operand d x p (stNode r) (eOpt r 5) o) (hentries : Reads d (readEntries x (stageWho x p r) (eOpt r 2)) es)
    (hruns : Reads d (readRuns x (stageWho x p r) (eOpt r 3) es.length) ru)
    (hshards : ∀ u ∈ ru.uniq, ∃ f k v, locate (shardsIn d) u.1 = some (f, k) ∧ f.rowLen = len ∧ ownedBy d p (stNode r) f = true ∧
      Reads d (readShard (stageWho x p r) f.id false) v)
    (hcache : bitN (eOpt r 8) 0 = false)
    (hfetch : Reads d (fetchRows (stageWho x p r) p (stNode r) false (ru.uniq.filterMap fun u => locate (shardsIn d) u.1)) got)
    (hscratch : 64 + ru.uniq.length * 4160 ≤ oc.size) (hsize : dataBase + es.length * up64 (16 + 4 * len) ≤ o.size)
    (hroom : bitN (eOpt r 8) 1 = true → stOutA r ≠ 0xFFFF → chanRoom d x.id p (stOutA r) (.token 0) = true) :
    Goes (gatherPool x p r) d fun e =>
      (∀ b, (b < oc.base ∨ oc.base + (64 + ru.uniq.length * 4160) ≤ b) → (b < o.base ∨ o.base + (dataBase + es.length * up64 (16 + 4 * len)) ≤ b) →
        e.mem.get b = d.mem.get b) ∧
      e.reg (.embGatherProgress p (stNode r)) = d.reg (.embGatherProgress p (stNode r)) + BitVec.ofNat 64 (ru.uniq.length + es.length) := by
  have hwords : ∀ i ∈ [eOpt r 2, eOpt r 3, eOpt r 4, eOpt r 5] ++ [], ∃ o, Operand d x p (stNode r) i o := by
    simp only [List.append_nil, List.forall_mem_cons, List.not_mem_nil, false_implies, implies_true, and_true]
    exact ⟨⟨oa, ha⟩, ⟨ob, hb⟩, ⟨oc, hc⟩, ⟨o, ho⟩⟩
  generalize hkeys : ru.uniq.map (·.1) = keys
  have hcount : keys.length = ru.uniq.length := by rw [← hkeys, List.length_map]
  have hkey : ∀ k ∈ keys, ∃ f j v, locate (shardsIn d) k = some (f, j) ∧ f.rowLen = len ∧ ownedBy d p (stNode r) f = true ∧
      Reads d (readShard (stageWho x p r) f.id false) v := fun k hk => by
    rw [← hkeys] at hk
    obtain ⟨u, hu, rfl⟩ := List.mem_map.mp hk
    exact hshards u hu
  have hrows : keys.filterMap (locate (shardsIn d)) = ru.uniq.filterMap fun u => locate (shardsIn d) u.1 := by
    rw [← hkeys, List.filterMap_map]
    rfl
  have hown : Reads d (ownRows x p r keys) (keys.filterMap (locate (shardsIn d))) := ownRows_reads fun k hk => by
    obtain ⟨f, j, v, hf, -, hmine, hv⟩ := hkey k hk
    exact ⟨f, j, v, hf, hmine, hv⟩
  rw [hrows] at hown
  have hlens : ∀ f, some f ∈ keys.map (goodShard d) → f.rowLen = len ∧ f.rowBytes ≤ 4096 := fun f hf => by
    obtain ⟨k, hk, hgood⟩ := List.mem_map.mp hf
    obtain ⟨⟨i, hlocate⟩, hbytes⟩ := goodShard_spec hgood
    obtain ⟨g, j, v, hg, hlen, -⟩ := hkey k hk
    obtain ⟨rfl, -⟩ := Prod.mk.inj (Option.some.inj (hlocate.symm.trans hg))
    exact ⟨hlen, hbytes⟩
  have hwidest : (((keys.map (goodShard d)).filterMap id).map Shard.rowBytes).foldl max 0 ≤ 4096 := foldl_max_le (Nat.zero_le _) fun v hv => by
    obtain ⟨f, hf, rfl⟩ := List.mem_map.mp hv
    obtain ⟨a, ha', rfl⟩ := List.mem_filterMap.mp hf
    exact (hlens f ha').2
  have hlen : ∀ f, some f ∈ keys.map (goodShard d) → f.rowLen = len := fun f hf => (hlens f hf).1
  generalize hknown : keys.map (goodShard d) = known at hwidest hlen
  generalize hwide : ((known.filterMap id).map Shard.rowBytes).foldl max 0 = widest at hwidest
  have hscratch' : 64 + keys.length * (widest + 64) ≤ 64 + ru.uniq.length * 4160 := by
    rw [hcount]
    exact Nat.add_le_add_left (Nat.mul_le_mul_left _ (by omega)) _
  have hbytes : ∀ g, up64 (16 + groupLen known g * ((outFmt r).bits / 8)) ≤ up64 (16 + 4 * len) := fun g => up64_mono (by
    have hmul := Nat.mul_le_mul (groupLen_le hlen g) (bits_le (outFmt r))
    omega)
  have hgroups := Nat.mul_le_mul_right (up64 (16 + 4 * len)) (length_gatherGroups_le es ru)
  have hneed : dataBase + ((gatherGroups es ru).map fun g => up64 (16 + groupLen known g * ((outFmt r).bits / 8))).sum ≤ o.size := by
    have hsum := sum_le_mul (gatherGroups es ru) fun g _ => hbytes g
    omega
  have hagree : (gatherGroups es ru).any (fun g => (groupLens known g).any fun n => n ≠ groupLen known g) = false := by
    rw [List.any_eq_false]
    exact fun g _ => ne_true_of_eq_false (groupLens_agree hlen g)
  obtain ⟨-, -, hclent⟩ := id hc
  obtain ⟨-, -, holent⟩ := id ho
  obtain ⟨hreads, hreadsmem⟩ := worked_countReads d p (stNode r) false (eOpt r 6) (ru.uniq.filterMap fun u => locate (shardsIn d) u.1) (got.map (·.2))
  obtain ⟨e, bs, hscr, hscrw, hscrm, hbs⟩ := (hreads.lent hclent).scratch (stageWho_src x p r) (len := 64 + keys.length * (widest + 64))
    (by have := size_le_footprint oc; omega)
  have hworked := hreads.trans hscrw
  let vals := ((ru.uniq.filterMap fun u => locate (shardsIn d) u.1).zip got).map fun e => decodeRow e.1.1 e.2.1.1 e.2.1.2
  let recs := (gatherGroups es ru).map (pooledRecord (eOpt r 1 = 2) (outFmt r) known vals)
  have hlist : (recordList (recs.map (·.1))).length ≤ dataBase + es.length * up64 (16 + 4 * len) := by
    have hle := length_recordList_le (recs := recs.map (·.1)) (k := up64 (16 + 4 * len)) fun v hv => by
      simp only [recs, List.map_map, List.mem_map, Function.comp] at hv
      obtain ⟨g, -, rfl⟩ := hv
      rw [length_pooledRecord (outFmt_cases r)]
      exact hbytes g
    have hcnt : (recs.map (·.1)).length = (gatherGroups es ru).length := by simp only [recs, List.length_map]
    rw [hcnt] at hle
    omega
  obtain ⟨f, hstore, hstorew, hstorem, -⟩ := (hworked.lent holent).stores (stageWho_src x p r) (off := 0) (bs := recordList (recs.map (·.1)))
    (by have := size_le_footprint o; omega)
  have hworked' := (hworked.trans hstorew).trans (worked_convCounts f x.id (satReg := .embSat p (stNode r) x.ctx) (nfReg := .embNonfinite p (stNode r) x.ctx) rfl rfl
    ((vals.map satsOf).sum + (recs.map (·.2.1)).sum) (recs.map (·.2.2)).sum)
  obtain ⟨g, hend, hnames, hmem, hreg⟩ := progress_signal hworked' hroom (q := .embGatherProgress p (stNode r)) rfl rfl (keys.length + es.length)
  refine ⟨g, ?_, hnames, fun b hbc hbo => ?_, by rw [hreg, hcount]⟩
  · unfold gatherPool
    refine (Act.run_ok (needObjs_ok hwords)).trans ((Act.run_ok hentries).trans ((Act.run_ok hruns).trans ((Act.run_ok (run_devGet d)).trans ?_)))
    dsimp only
    rw [hkeys, hknown, hwide]
    refine (Act.run_ok (hc.needSize (hscratch'.trans hscratch))).trans ?_
    refine (congrArg (Act.run · d) (if_neg (ne_true_of_eq_false hagree))).trans ?_
    refine (Act.run_ok (ho.needSize hneed)).trans ((Act.run_ok hown).trans ?_)
    rw [hcache]
    refine (Act.run_ok hfetch).trans ((Act.run_ok (run_devMod ..)).trans ((Act.run_ok hscr).trans ?_))
    exact (Act.run_ok hstore).trans ((Act.run_ok (run_devMod ..)).trans hend)
  · rw [hmem, convCounts_mem, hstorem, Mem.get_write, if_neg (by omega), hscrm, Mem.get_write, if_neg (by omega), hreadsmem]

end

end Sys2Proof.Machine
end

section
/-! Parcels that stages store in objects (R138, R140), one and many, and lists of them as COMBINE and SCATTER use them (R291, R292). -/

namespace Sys2Proof.Machine

/-! ### One parcel -/

theorem length_sideBytes (s : Side) : s.toBytes.length = 512 := by
  simp only [Side.toBytes, List.length_append, length_natLe, List.length_replicate, length_slice]

theorem length_convertParcel (c : ConvSpec) (elements : Nat) (src : List SrcElem) : (convertParcel c elements src).payload.length = 4096 :=
  length_slice _ 0 4096

/-- A parcel that an object holds lies in its footprint with its side record. -/
theorem Holds.room {o : Obj} {i : Nat} (h : o.hasSide = true) (hi : 4096 * (i + 1) ≤ o.size) :
    4096 * i + 4096 ≤ o.size ∧ o.size + 512 * i + 512 ≤ o.footprint := by
  have hfoot : o.footprint = o.size + o.size / 8 := if_pos h
  omega

/-- A parcel stored in a lent object: its payload, then its side record. -/
theorem Lent.parcel {d : Dev} {p n id : Nat} {o : Obj} (h : Lent d p n id o) {w : Who} (hw : w.src = some (p, n)) {i : Nat} (hside : o.hasSide = true)
    (hi : 4096 * (i + 1) ≤ o.size) (layer parcels : Nat) {payload side : List Byte} (hp : payload.length = 4096) (hs : side.length = 512) :
    ∃ e, (parcelStore w layer id i parcels payload side).run d = (.ok (), e) ∧ Worked d e ∧
      e.mem = (d.mem.write (o.base + 4096 * i) payload).write (o.base + (o.size + 512 * i)) side := by
  obtain ⟨hpay, hsd⟩ := Holds.room hside hi
  obtain ⟨e, hstore, hworked, hmem, -⟩ := h.stores hw (off := 4096 * i) (bs := payload) (by omega)
  obtain ⟨f, hstore', hworked', hmem', -⟩ := (hworked.lent h).stores hw (off := o.size + 512 * i) (bs := side) (by omega)
  refine ⟨f, ?_, hworked.trans hworked', by rw [hmem', hmem]⟩
  unfold parcelStore parcelStoreAt
  rw [h.2.1, if_neg Bool.false_ne_true, Act.run_ok h.getObj]
  exact (Act.run_ok ((Act.run_ok hstore).trans rfl)).trans hstore'

/-! ### Many parcels -/

theorem KeptButParcels.refl (d : Dev) (o : Obj) (first count : Nat) : KeptButParcels d d.mem o first count := fun _ _ _ => rfl

theorem KeptButParcels.parcel {d : Dev} {m : Mem} {o : Obj} {first count i : Nat} (h : KeptButParcels d m o first count) (hlo : first ≤ i) (hhi : i < first + count)
    {payload side : List Byte} (hp : payload.length = 4096) (hs : side.length = 512) :
    KeptButParcels d ((m.write (o.base + 4096 * i) payload).write (o.base + (o.size + 512 * i)) side) o first count := fun b hb hb' => by
  rw [Mem.get_write, if_neg (by omega), Mem.get_write, if_neg (by omega)]
  exact h b hb hb'

/-- An action of parcel stores, one after another, changes those parcels alone. -/
theorem forA_parcels {d : Dev} {o : Obj} {first count : Nat} {f : Nat → Act Unit}
    (h : ∀ k < count, ∀ e, Worked d e → ∃ g, (f k).run e = (.ok (), g) ∧ Worked d g ∧ ∃ payload side, payload.length = 4096 ∧ side.length = 512 ∧
      g.mem = (e.mem.write (o.base + 4096 * (first + k)) payload).write (o.base + (o.size + 512 * (first + k))) side) :
    ∃ e, (forA (List.range count) f).run d = (.ok (), e) ∧ Worked d e ∧ KeptButParcels d e.mem o first count := by
  refine forA_keeps (Q := fun e => Worked d e ∧ KeptButParcels d e.mem o first count) _ (fun k hk e he => ?_) d ⟨.refl d, .refl d o first count⟩
  obtain ⟨hworked, hkept⟩ := he
  have hk := List.mem_range.mp hk
  obtain ⟨g, hrun, hworked', payload, side, hp, hs, hmem⟩ := h k hk e hworked
  exact ⟨g, hrun, hworked', hmem ▸ hkept.parcel (by omega) (by omega) hp hs⟩

/-! ### A matrix -/

section
variable {d : Dev} {x : Letter} {p : Nat} {r : Rec}

theorem needMatrix_ok {i rows cols : Nat} {o : Obj} (h : Operand d x p (stNode r) i o)
    (hsize : 4096 * (wordFirst (x.word i) + ceilDiv rows 128 * ceilDiv cols 8) ≤ o.size) : (needMatrix x i rows cols).run d = (.ok (), d) := by
  obtain ⟨-, -, hlent⟩ := h
  obtain ⟨-, hid, -⟩ := id hlent
  unfold needMatrix
  dsimp only
  rw [hid, if_neg Bool.false_ne_true, Act.run_ok hlent.getObj, if_neg (by omega)]
  rfl

theorem writeMatrix_ok {i rows cols : Nat} {o : Obj} (h : Operand d x p (stNode r) i o)
    (hheld : Holds o (wordFirst (x.word i)) (ceilDiv rows 128 * ceilDiv cols 8)) (val : Nat → Nat → W32) :
    ∃ e, (writeMatrix x p r i rows cols val).run d = (.ok (), e) ∧ Worked d e ∧
      KeptButParcels d e.mem o (wordFirst (x.word i)) (ceilDiv rows 128 * ceilDiv cols 8) := by
  obtain ⟨-, -, hlent⟩ := h
  obtain ⟨hside, hsize⟩ := hheld
  refine forA_parcels fun k hk e he => ?_
  dsimp only
  generalize hout : convertParcel _ _ _ = out
  have hlen : out.payload.length = 4096 := hout ▸ length_convertParcel ..
  have hfit : 4096 * (wordFirst (x.word i) + k + 1) ≤ o.size := by omega
  obtain ⟨g, hrun, hworked, hmem⟩ := (he.lent hlent).parcel (stageWho_src x p r) hside hfit (stLayer r) (ceilDiv rows 128 * ceilDiv cols 8) hlen
    (length_sideBytes out.side)
  exact ⟨g, hrun, he.trans hworked, _, _, hlen, length_sideBytes _, hmem⟩

/-- A matrix that is written at the end of a stage. -/
theorem matrix_goes {i rows cols : Nat} {o : Obj} {send : Bool} (h : Operand d x p (stNode r) i o)
    (hheld : Holds o (wordFirst (x.word i)) (ceilDiv rows 128 * ceilDiv cols 8))
    (hroom : send = true → stOutA r ≠ 0xFFFF → chanRoom d x.id p (stOutA r) (.token 0) = true) (val : Nat → Nat → W32) (k : Nat) :
    Goes (do writeMatrix x p r i rows cols val; devMod fun d => d.wrap (.embGatherProgress p (stNode r)) k; signal x p r send) d fun e =>
      KeptButParcels d e.mem o (wordFirst (x.word i)) (ceilDiv rows 128 * ceilDiv cols 8) ∧
      e.reg (.embGatherProgress p (stNode r)) = d.reg (.embGatherProgress p (stNode r)) + BitVec.ofNat 64 k := by
  obtain ⟨e, hwrite, hworked, hkept⟩ := writeMatrix_ok h hheld val
  obtain ⟨f, hend, hnames, hmem, hreg⟩ := progress_signal hworked hroom (q := .embGatherProgress p (stNode r)) rfl rfl k
  exact ⟨f, (Act.run_ok hwrite).trans hend, hnames, hmem ▸ hkept, hreg⟩

/-! ### COMBINE -/

theorem combine_goes {b : BatchList} {recs : List RecIn} {oa ob o : Obj} (ha : Operand d x p (stNode r) (eOpt r 2) oa)
    (hb : Operand d x p (stNode r) (eOpt r 3) ob) (ho : Operand d x p (stNode r) (eOpt r 5) o)
    (hbatch : Reads d (readBatch x (stageWho x p r) (eOpt r 3)) b)
    (hrecs : Reads d (readRecords x (stageWho x p r) (eOpt r 2) (recordFmt d x 0) fun _ bag => if bag < b.bags then some (b.feat bag).2 else none) recs)
    (hheld : Holds o (wordFirst (x.word (eOpt r 5))) (ceilDiv b.samples 128 * ceilDiv b.cols 8))
    (hroom : bitN (eOpt r 8) 1 = true → stOutA r ≠ 0xFFFF → chanRoom d x.id p (stOutA r) (.token 0) = true) :
    Goes (combine x p r) d fun e => KeptButParcels d e.mem o (wordFirst (x.word (eOpt r 5))) (ceilDiv b.samples 128 * ceilDiv b.cols 8) ∧
      e.reg (.embGatherProgress p (stNode r)) = d.reg (.embGatherProgress p (stNode r)) + BitVec.ofNat 64 recs.length := by
  have hwords : ∀ i ∈ [eOpt r 2, eOpt r 3] ++ [eOpt r 5], ∃ o, Operand d x p (stNode r) i o := by
    simp only [List.cons_append, List.nil_append, List.forall_mem_cons, List.not_mem_nil, false_implies, implies_true, and_true]
    exact ⟨⟨oa, ha⟩, ⟨ob, hb⟩, ⟨o, ho⟩⟩
  exact .congr ((Act.run_ok (needObjs_ok hwords)).trans ((Act.run_ok hbatch).trans ((Act.run_ok (needMatrix_ok ho hheld.2)).trans
    ((Act.run_ok (run_devGet d)).trans (Act.run_ok hrecs))))) (matrix_goes ho hheld hroom _ _)

end

end Sys2Proof.Machine
end

section
/-! SCATTER (R292) on operands that can be read. -/

namespace Sys2Proof.Machine

/-! ### What a batch list keeps -/

/-- Of two actions that go through together, each goes through. -/
theorem Act.of_run_ok {α β : Type} {a : Act α} {f : α → Act β} {d e : Dev} {v : β} (h : Act.run (a >>= f) d = (.ok v, e)) :
    ∃ u g, a.run d = (.ok u, g) ∧ (f u).run g = (.ok v, e) := by
  rw [Act.run_bind] at h
  split at h
  · next u g hu => exact ⟨u, g, hu, h⟩
  · cases h

/-- An action that stops under a condition, and goes through, does not meet it. -/
theorem ite_run_ok {α : Type} {c : Prop} [Decidable c] {s a : Act α} {d e : Dev} {v : α} (hs : ∀ d, ∃ t, (s.run d).1 = .error t)
    (h : Act.run (if c then s else a) d = (.ok v, e)) : ¬ c ∧ a.run d = (.ok v, e) := by
  split at h
  · obtain ⟨t, ht⟩ := hs d
    rw [h] at ht
    cases ht
  · next hc => exact ⟨hc, h⟩

theorem wordFormat_stops {α : Type} (i : Nat) (d : Dev) : ∃ t, ((wordFormat i : Act α).run d).1 = .error t := ⟨_, rfl⟩

/-- The columns of a feature lie within those of the matrix (R278). -/
theorem readBatch_feats {d e : Dev} {x : Letter} {w : Who} {i : Nat} {b : BatchList} (h : (readBatch x w i).run d = (.ok b, e)) :
    ∀ v ∈ b.feats, v.1 + v.2 ≤ b.cols := by
  unfold readBatch at h
  obtain ⟨-, d₁, -, h⟩ := Act.of_run_ok h
  obtain ⟨hd, d₂, -, h⟩ := Act.of_run_ok h
  dsimp only at h
  obtain ⟨o, d₃, -, h⟩ := Act.of_run_ok h
  obtain ⟨-, h⟩ := ite_run_ok (wordFormat_stops i) h
  obtain ⟨fb, d₄, -, h⟩ := Act.of_run_ok h
  obtain ⟨ob, d₅, -, h⟩ := Act.of_run_ok h
  obtain ⟨eb, d₆, -, h⟩ := Act.of_run_ok h
  have hend : ∀ {wb : List Byte} {g : Dev} {jp : List Byte → Act BatchList} {a : Act (List Byte)} {c : Bool},
      (if c = true then a >>= jp else pure [] >>= jp).run g = (.ok b, e) → ∃ wb g, (jp wb).run g = (.ok b, e) := fun {wb g jp a c} h => by
    split at h <;> obtain ⟨wb, g, -, h⟩ := Act.of_run_ok h <;> exact ⟨wb, g, h⟩
  obtain ⟨wb, g, h⟩ := hend (wb := []) h
  obtain ⟨hgood, h⟩ := ite_run_ok (wordFormat_stops i) h
  obtain ⟨rfl, -⟩ : _ = b ∧ g = e := by simpa using h
  push Not at hgood
  obtain ⟨-, -, -, -, hfeats, -⟩ := hgood
  intro v hv
  simpa using List.any_eq_false.mp (Bool.eq_false_iff.mpr hfeats) v hv

/-- The length of a bag's rows is within the matrix. -/
theorem feat_le {b : BatchList} (h : ∀ v ∈ b.feats, v.1 + v.2 ≤ b.cols) (bag : Nat) : (b.feat bag).2 ≤ b.cols := by
  unfold BatchList.feat
  rw [List.getD_eq_getElem?_getD]
  cases hget : b.feats[bag % b.nf]? with
  | none => exact Nat.zero_le _
  | some v => exact (Nat.le_add_left ..).trans (h v (List.mem_of_getElem? hget))

/-! ### The bags of a scatter -/

/-- The bags of the entries of an exchange list. -/
def scatterGroups (es : List Ent) : List (List (Nat × Ent)) := bagsOf (es.map fun e => (0, e))

theorem length_scatterGroups_le (es : List Ent) : (scatterGroups es).length ≤ es.length :=
  (length_bagsOf_le _).trans (by rw [List.length_map])

/-- The segment and bag of a group. -/
def groupBag (g : List (Nat × Ent)) : Nat × Nat := (g.head?.map fun e => (e.2.seg, e.2.bag)).getD (0, 0)

/-- A group's bag is one of an entry's. -/
theorem groupBag_mem {es : List Ent} {g : List (Nat × Ent)} (h : g ∈ scatterGroups es) : ∃ e ∈ es, (groupBag g).2 = e.bag := by
  obtain ⟨hne, hmem⟩ := mem_bagsOf _ g h
  cases g with
  | nil => exact absurd rfl hne
  | cons e g =>
    obtain ⟨v, hv, rfl⟩ := List.mem_map.mp (hmem e (by simp))
    exact ⟨v, hv, rfl⟩

/-- A scattered record (R292), with its counts. -/
def scatterRecord (b : BatchList) (mode : Nat) (f : EFmt) (ps : List (Nat × Parcel)) (key obj : Nat) (g : List (Nat × Ent) × Nat) : (Nat × List Byte) × Nat × Nat :=
  let (seg, bag) := groupBag g.1
  let (off, n) := b.feat bag
  let vs := (List.range n).map fun k =>
    let v := (matElem 8 b.cols ps (bag / b.nf) (off + k)).1
    if mode = 1 then fdiv v (f32OfNat (b.bagSize bag)) else v
  let (bytes, sat, nf) := recordVals f (fun k => .stoch (draw key (g.2 + k) obj 5)) vs
  ((seg, recordBytes bag g.1.length bytes), sat, nf)

theorem length_scatterRecord {f : EFmt} (hf : f = .bf16 ∨ f = .fp32) (b : BatchList) (mode : Nat) (ps : List (Nat × Parcel)) (key obj : Nat)
    (g : List (Nat × Ent) × Nat) : (scatterRecord b mode f ps key obj g).1.2.length = up64 (16 + (b.feat (groupBag g.1).2).2 * (f.bits / 8)) := by
  unfold scatterRecord
  dsimp only
  rw [length_recordBytes, length_recordVals hf, List.length_map, List.length_range]

section
variable {d : Dev} {x : Letter} {p : Nat} {r : Rec}

theorem scatter_goes {b : BatchList} {es : List Ent} {oa ob oc o : Obj} (ha : Operand d x p (stNode r) (eOpt r 2) oa)
    (hb : Operand d x p (stNode r) (eOpt r 3) ob) (hc : Operand d x p (stNode r) (eOpt r 4) oc) (ho : Operand d x p (stNode r) (eOpt r 5) o)
    (hseed : bitN (eOpt r 8) 2 = true → eOpt r 5 + 1 ≠ 0xFF → eOpt r 5 + 1 < x.nWords) (hbatch : Reads d (readBatch x (stageWho x p r) (eOpt r 2)) b)
    (hentries : Reads d (readEntries x (stageWho x p r) (eOpt r 3)) es) (hbags : ∀ e ∈ es, e.bag < b.bags)
    (hmatrix : 4096 * (wordFirst (x.word (eOpt r 4)) + ceilDiv b.samples 128 * ceilDiv b.cols 8) ≤ oc.size)
    (hsize : dataBase + es.length * up64 (16 + 4 * b.cols) ≤ o.size)
    (hparcels : ∀ rt < ceilDiv b.samples 128, ∃ v, Reads d (matParcels x (stageWho x p r) (eOpt r 4) b.cols rt 0 b.cols) v ∧ ∀ e ∈ v.2, e.2.fmt = .fp32)
    (hroom : bitN (eOpt r 8) 1 = true → stOutA r ≠ 0xFFFF → chanRoom d x.id p (stOutA r) (.token 0) = true) :
    Goes (scatter x p r) d fun e => KeptBut d e.mem o.base (dataBase + es.length * up64 (16 + 4 * b.cols)) := by
  have hwords : ∀ i ∈ [eOpt r 2, eOpt r 3, eOpt r 5] ++ [eOpt r 4], ∃ o, Operand d x p (stNode r) i o := by
    simp only [List.cons_append, List.nil_append, List.forall_mem_cons, List.not_mem_nil, false_implies, implies_true, and_true]
    exact ⟨⟨oa, ha⟩, ⟨ob, hb⟩, ⟨o, ho⟩, ⟨oc, hc⟩⟩
  have hbytes : ∀ bag, up64 (16 + (b.feat bag).2 * ((outFmt r).bits / 8)) ≤ up64 (16 + 4 * b.cols) := fun bag => up64_mono (by
    have hmul := Nat.mul_le_mul (feat_le (readBatch_feats hbatch) bag) (bits_le (outFmt r))
    omega)
  have hgroups := Nat.mul_le_mul_right (up64 (16 + 4 * b.cols)) (length_scatterGroups_le es)
  have hneed : dataBase + ((scatterGroups es).map fun g => up64 (16 + (b.feat (groupBag g).2).2 * ((outFmt r).bits / 8))).sum ≤ o.size := by
    have hsum := sum_le_mul (scatterGroups es) fun g _ => hbytes (groupBag g).2
    omega
  have hin : es.any (fun e => b.bags ≤ e.bag) = false := by
    rw [List.any_eq_false]
    exact fun e he => by simpa using hbags e he
  obtain ⟨parcels, hread⟩ : ∃ v, Reads d (mapA ((scatterGroups es).map fun g => (groupBag g).2 / b.nf / 128).eraseDups fun rt => do
      let (_, ps) ← matParcels x (stageWho x p r) (eOpt r 4) b.cols rt 0 b.cols
      if ps.any fun (e : Nat × Parcel) => e.2.fmt ≠ .fp32 then
        stop (.mem (parcelAddr d (stageWho x p r) (wordObj (x.word (eOpt r 4))) (wordFirst (x.word (eOpt r 4)))) 4) else pure ps) v := by
    refine mapA_reads _ fun rt hrt => ?_
    obtain ⟨g, hg, rfl⟩ := List.mem_map.mp (List.mem_eraseDups.mp hrt)
    obtain ⟨e, he, hbag⟩ := groupBag_mem hg
    have hsample : (groupBag g).2 / b.nf < b.samples := Nat.div_lt_of_lt_mul (by
      rw [hbag, Nat.mul_comm]
      exact hbags e he)
    obtain ⟨v, hv, hfmt⟩ := hparcels ((groupBag g).2 / b.nf / 128) (by unfold ceilDiv; omega)
    refine ⟨v.2, (Act.run_ok hv).trans ?_⟩
    dsimp only
    rw [if_neg (by simpa using fun a q hq => hfmt (a, q) hq)]
    rfl
  let key := seedKey d x (if bitN (eOpt r 8) 2 then eOpt r 5 + 1 else 0xFF)
  let starts := (scatterGroups es).zipIdx.map fun g => (((scatterGroups es).take g.2).map fun g => (b.feat (groupBag g).2).2).sum
  let recs := ((scatterGroups es).zip starts).map (scatterRecord b (eOpt r 1) (outFmt r) parcels.flatten key (wordObj (x.word (eOpt r 5))))
  have hlist : (recordList (recs.map (·.1))).length ≤ dataBase + es.length * up64 (16 + 4 * b.cols) := by
    have hle := length_recordList_le (recs := recs.map (·.1)) (k := up64 (16 + 4 * b.cols)) fun v hv => by
      simp only [recs, List.map_map, List.mem_map, Function.comp] at hv
      obtain ⟨g, -, rfl⟩ := hv
      rw [length_scatterRecord (outFmt_cases r)]
      exact hbytes _
    have hcnt : (recs.map (·.1)).length ≤ (scatterGroups es).length := by simp only [recs, List.length_map, List.length_zip]; omega
    have hmul := Nat.mul_le_mul_right (up64 (16 + 4 * b.cols)) hcnt
    omega
  obtain ⟨-, -, hlent⟩ := id ho
  obtain ⟨f, hstore, hstorew, hstorem, -⟩ := hlent.stores (stageWho_src x p r) (off := 0) (bs := recordList (recs.map (·.1)))
    (by have := size_le_footprint o; omega)
  have hworked := hstorew.trans (worked_convCounts f x.id (satReg := .embSat p (stNode r) x.ctx) (nfReg := .embNonfinite p (stNode r) x.ctx) rfl rfl
    (recs.map (·.2.1)).sum (recs.map (·.2.2)).sum)
  obtain ⟨g, hend, hnames, hmem, -⟩ := progress_signal hworked hroom (q := .embGatherProgress p (stNode r)) rfl rfl recs.length
  refine ⟨g, ?_, hnames, ?_⟩
  · unfold scatter
    refine (Act.run_ok (needObjs_ok hwords)).trans ?_
    dsimp only
    refine (needWord_checked (fun h => ?_) _).trans ((Act.run_ok hbatch).trans ((Act.run_ok hentries).trans ?_))
    · split at h
      case isTrue hbit =>
        rw [if_pos hbit]
        exact hseed hbit h
      case isFalse => exact absurd rfl h
    refine (congrArg (Act.run · d) (if_neg (ne_true_of_eq_false hin))).trans ?_
    refine (Act.run_ok (needMatrix_ok hc hmatrix)).trans ((Act.run_ok (ho.needSize hneed)).trans ((Act.run_ok (run_devGet d)).trans
      ((Act.run_ok hread).trans ?_)))
    exact (Act.run_ok hstore).trans ((Act.run_ok (run_devMod ..)).trans hend)
  · show KeptBut d g.mem _ _
    rw [hmem, convCounts_mem, hstorem]
    exact (KeptBut.refl d _ _).write (by omega) (by omega)

end

end Sys2Proof.Machine
end

section
/-! Row updates without rows, and RECOVER (R293-R300). -/

namespace Sys2Proof.Machine

/-! ### An update that opens its journal -/

section
variable {d : Dev} {x : Letter} {p : Nat} {r : Rec}

/-- The header of a journal that is opened (R296). -/
def journalHead (d : Dev) (c : Nat) : List Byte :=
  natLe 8 (stepOpen d c) ++ natLe 8 0 ++ natLe 4 0 ++ natLe 1 c ++ natLe 1 1 ++ List.replicate 42 0#8

theorem length_journalHead (d : Dev) (c : Nat) : (journalHead d c).length = 64 := by
  simp only [journalHead, List.length_append, length_natLe, List.length_replicate]

theorem update_goes {adam : Bool} {ru : RunsObj} {recs : List RecIn} {oi or og oj : Obj} (hi : Operand d x p (stNode r) (eOpt r 1) oi)
    (hr : Operand d x p (stNode r) (eOpt r 2) or) (hg : Operand d x p (stNode r) (eOpt r 3) og) (hj : Operand d x p (stNode r) (eOpt r 5) oj)
    (hhyper : eOpt r 4 < x.nWords) (hhyper' : adam = true → eOpt r 4 + 1 < x.nWords) (hseed : eOpt r 6 ≠ 0xFF → eOpt r 6 < x.nWords)
    (hentries : Reads d (readEntries x (stageWho x p r) (eOpt r 1)) []) (hruns : Reads d (readRuns x (stageWho x p r) (eOpt r 2) 0) ru) (huniq : ru.uniq = [])
    (hrecs : Reads d (readRecords x (stageWho x p r) (eOpt r 3) (recordFmt d x 2) fun _ _ => none) recs) (hsize : 64 ≤ oj.size)
    (hstep : stepState d x.ctx = 1) (hbracket : x.bracket = 1) (hjournal : journalActive d p (stNode r) x.ctx = false) :
    Goes (rowUpdate adam x p r) d fun e => KeptBut d e.mem oj.base 64 ∧
      e.reg (.embJournal p (stNode r) x.ctx) = BitVec.ofNat 64 (wordObj (x.word (eOpt r 5)) + 2 ^ 24) := by
  have hwords : ∀ i ∈ [eOpt r 1, eOpt r 2, eOpt r 3, eOpt r 5] ++ [], ∃ o, Operand d x p (stNode r) i o := by
    simp only [List.append_nil, List.forall_mem_cons, List.not_mem_nil, false_implies, implies_true, and_true]
    exact ⟨⟨oi, hi⟩, ⟨or, hr⟩, ⟨og, hg⟩, ⟨oj, hj⟩⟩
  have hfoot := size_le_footprint oj
  obtain ⟨-, -, hlent⟩ := id hj
  obtain ⟨e, hstore, hworked, hmem, -⟩ := hlent.stores (stageWho_src x p r) (off := 0) (bs := journalHead d x.ctx) (by rw [length_journalHead]; omega)
  have hown : Reads d (ownRows x p r []) [] := ownRows_reads (keys := []) fun u hu => by cases hu
  have hhead := hlent.load (stageWho_src x p r) (off := 0) (len := 64) (by omega)
  have hsecond : ∀ k : Nat → Act Unit, ∃ v, Act.run (if adam = true then needWord x (eOpt r 4 + 1) >>= k else pure 0 >>= k) d = (k v).run d := fun k => by
    split
    · next ha => exact ⟨_, Act.run_ok (needWord_reads (hhyper' ha))⟩
    · exact ⟨0, rfl⟩
  refine ⟨e.setReg (.embJournal p (stNode r) x.ctx) (BitVec.ofNat 64 (wordObj (x.word (eOpt r 5)) + 2 ^ 24)), ?_, hworked.names_eq, ?_, ?_⟩
  · unfold rowUpdate
    refine (Act.run_ok (needObjs_ok hwords)).trans ((Act.run_ok (needWord_reads hhyper)).trans ?_)
    dsimp only
    obtain ⟨v, hv⟩ := hsecond _
    refine hv.trans ?_
    refine (needWord_checked hseed _).trans ((Act.run_ok hentries).trans ((Act.run_ok hruns).trans ((Act.run_ok (hj.needSize hsize)).trans ((Act.run_ok (run_devGet d)).trans ?_))))
    rw [huniq]
    refine (congrArg (Act.run · d) (if_neg (by simp))).trans ?_
    refine (Act.run_ok hrecs).trans ?_
    refine (congrArg (Act.run · d) (if_neg (by simp))).trans ?_
    refine (Act.run_ok hown).trans ((Act.run_ok (Act.run_pure ..)).trans ((Act.run_ok (run_devGet d)).trans ?_))
    refine (congrArg (Act.run · d) (if_neg (by simp [hstep, hbracket]))).trans ((Act.run_ok hhead).trans ?_)
    rw [hjournal]
    refine (congrArg (Act.run · d) (if_neg (by simp))).trans ((Act.run_ok hlent.getObj).trans ?_)
    refine (congrArg (Act.run · d) (if_neg (by simpa using hsize))).trans ?_
    refine (congrArg (Act.run · d) (if_pos rfl)).trans ?_
    exact (Act.run_ok hstore).trans ((Act.run_ok (run_devMod ..)).trans rfl)
  · show KeptBut d e.mem _ _
    rw [hmem]
    exact (KeptBut.refl d _ _).write (by omega) (by rw [length_journalHead])
  · rw [Dev.reg_setReg, if_pos rfl]

end

/-! ### RECOVER -/

/-- Part of what is read. -/
theorem field_read (m : Mem) (a : Nat) {n off k : Nat} (h : off + k ≤ n) : field (m.read a n) off k = leNat (m.read (a + off) k) := by
  rw [field, slice_eq_map]
  unfold Mem.read
  refine congrArg leNat (List.map_congr_left fun i hi => ?_)
  have hi := List.mem_range.mp hi
  rw [List.getD_eq_getElem?_getD, List.getElem?_map, List.getElem?_range (by omega), Nat.add_assoc]
  rfl

/-- A journal is emptied (R298): USED, ENTRIES and ACTIVE are zero. -/
theorem journalEmpty_ok {d : Dev} {p n j : Nat} {o : Obj} (h : Lent d p n j o) {w : Who} (hw : w.src = some (p, n)) (hsize : 64 ≤ o.size) :
    ∃ e, (journalEmpty w j).run d = (.ok (), e) ∧ Worked d e ∧ KeptBut d e.mem o.base 64 ∧ bitN (field (e.mem.read o.base 64) 0x15 1) 0 = false := by
  have hfoot := size_le_footprint o
  obtain ⟨e, hstore, hworked, hmem, -⟩ := h.stores hw (off := 8) (bs := List.replicate 12 0#8) (by simp only [List.length_replicate]; omega)
  have hload := (hworked.lent h).load hw (off := 0x15) (len := 1) (by omega)
  generalize e.mem.read (o.base + 0x15) 1 = f at hload
  obtain ⟨g, hstore', hworked', hmem', -⟩ := (hworked.lent h).stores hw (off := 0x15) (bs := natLe 1 (leNat f / 2 * 2)) (by rw [length_natLe]; omega)
  refine ⟨g, (Act.run_ok hstore).trans ((Act.run_ok hload).trans hstore'), hworked.trans hworked', ?_, ?_⟩
  · rw [hmem', hmem]
    exact ((KeptBut.refl d _ _).write (by omega) (by simp only [List.length_replicate]; omega)).write (by omega) (by rw [length_natLe]; omega)
  · have hread := Mem.read_write e.mem (o.base + 0x15) (natLe 1 (leNat f / 2 * 2))
    rw [length_natLe] at hread
    rw [field_read _ _ (by omega), hmem', hread, leNat_natLe, bitN, Nat.testBit_zero]
    simp only [decide_eq_false_iff_not]
    omega

section
variable {d : Dev} {x : Letter} {p : Nat} {r : Rec} {oj : Obj} (hj : Operand d x p (stNode r) (eOpt r 5) oj) (hsize : 64 ≤ oj.size)
  (hword : eOpt r 4 < x.nWords) (hmode : x.word (eOpt r 4) < 2) (hstep : stepState d x.ctx = 0) (hopen : d.bit (.gateStep x.ctx) 6 = false)
  (hjournal : journalActive d p (stNode r) x.ctx = false)
include hj hsize hword hmode hstep hopen hjournal

/-- RECOVER looks at the journal's header first. -/
theorem recover_begins : (recoverStage x p r).run d = Act.run (
    if !bitN (field (d.mem.read oj.base 64) 0x15 1) 0 then pure () else do
    let es ← journalList (stageWho x p r) (wordObj (x.word (eOpt r 5)))
    let ids ← mapA es fun at_ => do let sh ← objLoad (stageWho x p r) (wordObj (x.word (eOpt r 5))) at_ 4; pure (bitsN (leNat sh) 23 0)
    forA ids.eraseDups fun id => do
      let d ← devGet
      match mapGet? d.objs id with
      | some o => if ownedBy d p (stNode r) (Shard.fields id (homeView d o.loadBase 64)) then pure () else stop (.fail 0x21 0)
      | none => stop (.fail 0x21 0)
    forA ids.eraseDups fun id => do
      let s ← readShard (stageWho x p r) id false
      let _ ← readMoments (stageWho x p r) s
      pure ()
    if bitN (x.word (eOpt r 4)) 0 then journalEmpty (stageWho x p r) (wordObj (x.word (eOpt r 5)))
    else rollback (stageWho x p r) p (stNode r) (wordObj (x.word (eOpt r 5)))) d := by
  have hwords : ∀ i ∈ [eOpt r 5] ++ [], ∃ o, Operand d x p (stNode r) i o := by
    simp only [List.append_nil, List.forall_mem_cons, List.not_mem_nil, false_implies, implies_true, and_true]
    exact ⟨oj, hj⟩
  obtain ⟨-, -, hlent⟩ := id hj
  have hfoot := size_le_footprint oj
  have hhead := hlent.load (stageWho_src x p r) (off := 0) (len := 64) (by omega)
  unfold recoverStage
  refine (Act.run_ok (needObjs_ok hwords)).trans ((Act.run_ok (needWord_reads hword)).trans ?_)
  refine (congrArg (Act.run · d) (if_neg (by omega))).trans ((Act.run_ok (hj.needSize hsize)).trans ((Act.run_ok (run_devGet d)).trans ?_))
  refine (congrArg (Act.run · d) (if_neg ?_)).trans (Act.run_ok hhead)
  simp [hstep, hopen, hjournal]

/-- A journal that is not in use is left. -/
theorem recover_unused (hunused : bitN (field (d.mem.read oj.base 64) 0x15 1) 0 = false) : Goes (recoverStage x p r) d fun e => e.mem = d.mem := by
  refine ⟨d, (recover_begins hj hsize hword hmode hstep hopen hjournal).trans ?_, rfl, rfl⟩
  rw [hunused]
  rfl

/-- A journal without entries is emptied. -/
theorem recover_empty (hused : bitN (field (d.mem.read oj.base 64) 0x15 1) 0 = true) (hnone : field (d.mem.read oj.base 64) 8 8 = 0) :
    Goes (recoverStage x p r) d fun e => KeptBut d e.mem oj.base 64 ∧ bitN (field (e.mem.read oj.base 64) 0x15 1) 0 = false := by
  obtain ⟨-, -, hlent⟩ := id hj
  have hfoot := size_le_footprint oj
  have hhead := hlent.load (stageWho_src x p r) (off := 0) (len := 64) (by omega)
  have hlist : (journalList (stageWho x p r) (wordObj (x.word (eOpt r 5)))).run d = (.ok [], d) := by
    unfold journalList
    refine (Act.run_ok hhead).trans ?_
    rw [show d.mem.read (oj.base + 0) 64 = d.mem.read oj.base 64 from rfl, hnone]
    rfl
  obtain ⟨e, hempty, hworked, hkept, hbit⟩ := journalEmpty_ok hlent (stageWho_src x p r) hsize
  have hbegin := recover_begins hj hsize hword hmode hstep hopen hjournal
  rw [hused] at hbegin
  have hrest := hbegin.trans ((Act.run_ok hlist).trans ((Act.run_ok (Act.run_pure ..)).trans ((Act.run_ok (Act.run_pure ..)).trans (Act.run_ok (Act.run_pure ..)))))
  cases hrest_mode : bitN (x.word (eOpt r 4)) 0 with
  | true =>
    rw [hrest_mode] at hrest
    exact ⟨e, hrest.trans hempty, hworked.names_eq, hkept, hbit⟩
  | false =>
    rw [hrest_mode] at hrest
    refine ⟨e.count (.embRollbacks p (stNode r)) 1, hrest.trans ?_, hworked.names_eq, hkept, hbit⟩
    unfold rollback
    exact (Act.run_ok hlist).trans ((Act.run_ok (Act.run_pure ..)).trans ((Act.run_ok hempty).trans rfl))

end

end Sys2Proof.Machine
end

section
/-! The embedding stages (R284-R300) as commands. -/

namespace Sys2Proof.Machine

/-- Settles O58: each stage checks its words, reads its lists, stores its result in its destinations alone, counts and signals. -/
theorem embeddingStages : Obligations.EmbeddingStages := by
  unfold Obligations.EmbeddingStages
  rintro s l stage x p n r d w rfl rfl
  refine ⟨fun h hroom => ⟨?_, ?_⟩, fun h hfree hroom => ⟨?_, ?_, ?_⟩, ?_, ?_⟩
  · intro b m ob om o hmode hb hm ho hopt hbatch hmap howned hsize
    obtain ⟨t, ht, hover, e, ⟨hkept, hreg⟩, hledger⟩ := (split_goes hb hm ho hopt hbatch hmap howned hsize hroom).over h
      (runs_oneShot (c := .split l stage) (f := split) (mode := fun r => eOpt r 0 = 0) rfl h (decide_eq_true hmode))
    exact ⟨t, ht, hover, hledger.mem_eq ▸ h.keptBut hkept, (hledger.reg_eq rfl).trans hreg⟩
  · intro es oi o ow hmode hi ho hw hread hmax hshards hsize hwork
    obtain ⟨t, ht, hover, e, ⟨hkept, hcount, hreg⟩, hledger⟩ := (sort_goes hi ho hw hread hmax hshards hsize hwork hroom).over h
      (runs_oneShot (c := .sort l stage) (f := sortStage) (mode := fun r => eOpt r 0 = 1) rfl h (decide_eq_true hmode))
    exact ⟨t, ht, hover, hledger.mem_eq ▸ h.keptBut hkept, hledger.mem_eq ▸ hcount, (hledger.reg_eq rfl).trans hreg⟩
  · intro es ru len got oa ob oc o hmode ha hb hc ho hentries hruns hshards hcache hfetch hscratch hsize
    obtain ⟨t, ht, hover, e, ⟨hkept, hreg⟩, hledger⟩ := (gather_goes ha hb hc ho hentries hruns hshards hcache hfetch hscratch hsize hroom).over h
      (runs_gatherShot (c := .gatherPool l stage) (f := gatherPool) rfl h hmode hfree)
    exact ⟨t, ht, hover, fun b hbc hbo => by rw [hledger.mem_eq, hkept b hbc hbo, h.mem_eq], (hledger.reg_eq rfl).trans hreg⟩
  · rintro b recs oa ob o first count hmode ha hb ho hbatch hrecs rfl rfl hheld
    obtain ⟨t, ht, hover, e, ⟨hkept, hreg⟩, hledger⟩ := (combine_goes ha hb ho hbatch hrecs hheld hroom).over h
      (runs_gatherShot (c := .combine l stage) (f := combine) rfl h hmode hfree)
    exact ⟨t, ht, hover, fun b hb hb' => by rw [hledger.mem_eq, hkept b hb hb', h.mem_eq], (hledger.reg_eq rfl).trans hreg⟩
  · intro b es oa ob oc o hmode ha hb hc ho hseed hbatch hentries hbags hmatrix hsize hparcels
    obtain ⟨t, ht, hover, e, hkept, hledger⟩ := (scatter_goes ha hb hc ho hseed hbatch hentries hbags hmatrix hsize hparcels hroom).over h
      (runs_gatherShot (c := .scatter l stage) (f := scatter) rfl h hmode hfree)
    exact ⟨t, ht, hover, hledger.mem_eq ▸ h.keptBut hkept⟩
  · intro c adam ru recs oi or og oj hc h hi hr hg hj hhyper hhyper' hseed hentries hruns huniq hrecs hsize hstep hbracket hjournal
    have hexec : Runs c s (d.stageAct x p r (rowUpdate adam x p r) (·.stageDone x stage)) := by
      obtain ⟨rfl, rfl, hmode⟩ | ⟨rfl, rfl, hmode⟩ := hc
      · exact runs_oneShot (f := rowUpdate false) (mode := fun r => eOpt r 0 = 0) rfl h (decide_eq_true hmode)
      · exact runs_oneShot (f := rowUpdate true) (mode := fun r => eOpt r 0 = 1) rfl h (decide_eq_true hmode)
    obtain ⟨t, ht, hover, e, ⟨hkept, hreg⟩, hledger⟩ :=
      (update_goes hi hr hg hj hhyper hhyper' hseed hentries hruns huniq hrecs hsize hstep hbracket hjournal).over h hexec
    exact ⟨t, ht, hover, hledger.mem_eq ▸ h.keptBut hkept, (hledger.reg_eq rfl).trans hreg⟩
  · rintro oj _ h hmode hj hsize hword hvalue hstep hopen hjournal rfl
    have hexec : Runs (.recover l stage) s (d.stageAct x p r (recoverStage x p r) (·.stageDone x stage)) :=
      runs_oneShot (f := recoverStage) (mode := fun r => eOpt r 0 = 2) rfl h (decide_eq_true hmode)
    refine ⟨fun hunused => ?_, fun hused hnone => ?_⟩
    · obtain ⟨t, ht, hover, e, hmem, hledger⟩ := (recover_unused hj hsize hword hvalue hstep hopen hjournal hunused).over h hexec
      exact ⟨t, ht, hover, fun b => by rw [hledger.mem_eq, hmem, h.mem_eq]⟩
    · obtain ⟨t, ht, hover, e, ⟨hkept, hbit⟩, hledger⟩ := (recover_empty hj hsize hword hvalue hstep hopen hjournal hused hnone).over h hexec
      exact ⟨t, ht, hover, hledger.mem_eq ▸ h.keptBut hkept, hledger.mem_eq ▸ hbit⟩

end Sys2Proof.Machine
end

section
/-! The history table (R249-R251): its records as they are read and written while no line is cached, and what a pool's FREE and status follow. -/

namespace Sys2Proof.Machine

/-! ### The table in memory -/

/-- `e` is `d` but for bytes of memory, reservations, and the status registers of pools. -/
structure TableOnly (d e : Dev) : Prop where
  same : ∃ m rs gs, e = { d with mem := m, reservations := rs, regs := gs }
  reg : ∀ r, (∀ p k, r ≠ .hallHistPool p k) → e.reg r = d.reg r

theorem TableOnly.refl (d : Dev) : TableOnly d d := ⟨⟨_, _, _, rfl⟩, fun _ _ => rfl⟩

theorem TableOnly.trans {d e f : Dev} (h : TableOnly d e) (h' : TableOnly e f) : TableOnly d f := by
  obtain ⟨⟨_, _, _, rfl⟩, hreg⟩ := h
  obtain ⟨⟨_, _, _, rfl⟩, hreg'⟩ := h'
  exact ⟨⟨_, _, _, rfl⟩, fun r hr => (hreg' r hr).trans (hreg r hr)⟩

theorem histBase_congr {d e : Dev} (h : e.parts = d.parts) (p : Nat) : histBase e p = histBase d p := by
  unfold histBase histRegion regions carves
  rw [h]

theorem histRegion_congr {d e : Dev} (h : e.parts = d.parts) (p : Nat) : histRegion e p = histRegion d p := by
  unfold histRegion regions carves
  rw [h]

namespace TableOnly
variable {d e : Dev} (h : TableOnly d e)
include h

theorem parts_eq : e.parts = d.parts := by
  obtain ⟨_, _, _, rfl⟩ := h.same
  rfl

theorem lines_eq : e.lines = d.lines := by
  obtain ⟨_, _, _, rfl⟩ := h.same
  rfl

theorem names_eq : names e = names d := by
  obtain ⟨_, _, _, rfl⟩ := h.same
  rfl

end TableOnly

theorem histGet_uncached {d : Dev} (h : d.lines = []) (p off len : Nat) : histGet d p off len = leNat (d.mem.read (histBase d p + off) len) := by
  unfold histGet
  rw [homeLoad_uncached h]

/-- Two modules whose memory agrees on a record read the same there. -/
theorem histGet_congr {d e : Dev} (hparts : e.parts = d.parts) (hd : d.lines = []) (he : e.lines = []) {p off len : Nat}
    (h : ∀ i < len, e.mem.get (histBase d p + off + i) = d.mem.get (histBase d p + off + i)) : histGet e p off len = histGet d p off len := by
  rw [histGet_uncached hd, histGet_uncached he, histBase_congr hparts]
  unfold Mem.read
  exact congrArg leNat (List.map_congr_left fun i hi => h i (List.mem_range.mp hi))

/-- Modules of one memory, without cached lines, have one table. -/
theorem poolValid_congr {d e : Dev} (hparts : e.parts = d.parts) (hd : d.lines = []) (he : e.lines = []) (hmem : e.mem = d.mem) (p k : Nat) :
    poolValid e p k = poolValid d p k := by
  unfold poolValid poolGet
  rw [histRegion_congr hparts, histGet_congr hparts hd he fun i _ => by rw [hmem]]

theorem seqValid_congr {d e : Dev} (hparts : e.parts = d.parts) (hd : d.lines = []) (he : e.lines = []) (hmem : e.mem = d.mem) (q : Pool) (k : Nat) :
    seqValid e q k = seqValid d q k := by
  unfold seqValid
  rw [histGet_congr hparts hd he fun i _ => by rw [hmem]]

theorem seqLen_congr {d e : Dev} (hparts : e.parts = d.parts) (hd : d.lines = []) (he : e.lines = []) (hmem : e.mem = d.mem) (q : Pool) (k : Nat) :
    seqLen e q k = seqLen d q k := histGet_congr hparts hd he fun i _ => by rw [hmem]

/-- A store to the table of bytes `bs`: they are in memory, and nothing else is touched. -/
theorem homeStore_table {d : Dev} (h : d.lines = []) (a : Nat) (bs : List Byte) :
    TableOnly d (homeStore d a bs) ∧ (homeStore d a bs).mem = d.mem.write a bs := by
  obtain ⟨rs, hrs⟩ := homeStore_uncached h a bs
  rw [hrs]
  exact ⟨⟨⟨_, _, _, rfl⟩, fun _ _ => rfl⟩, rfl⟩

theorem histSet_table {d : Dev} (h : d.lines = []) (p off len v : Nat) :
    TableOnly d (d.histSet p off len v) ∧ (d.histSet p off len v).mem = d.mem.write (histBase d p + off) (natLe len v) := homeStore_table h _ _

theorem setReg_table (d : Dev) (p k : Nat) (v : W64) : TableOnly d (d.setReg (.hallHistPool p k) v) :=
  ⟨⟨_, _, _, rfl⟩, fun _ hr => (Dev.reg_setReg ..).trans (if_neg (hr p k).symm)⟩

/-- FREE and the status of a pool follow its records: within the table only four bytes of its descriptor change. -/
theorem poolSync_table {d : Dev} (h : d.lines = []) (p k : Nat) : TableOnly d (d.poolSync p k) ∧
    ∀ b, b < histBase d p + 64 * k + 0x18 ∨ histBase d p + 64 * k + 0x1C ≤ b → (d.poolSync p k).mem.get b = d.mem.get b := by
  unfold Dev.poolSync
  split
  · dsimp only
    obtain ⟨htable, hmem⟩ := histSet_table h p (64 * k + 0x18) 4 ((List.range (pool d p k).frames).filter fun f => !pageUsed d (pool d p k) f).length
    refine ⟨htable.trans (setReg_table ..), fun b hb => ?_⟩
    have hwrite := congrArg (fun m : Mem => m.get b) hmem
    refine hwrite.trans ?_
    rw [Mem.get_write, if_neg (by rw [length_natLe]; omega)]
  · exact ⟨setReg_table .., fun _ _ => rfl⟩

/-- A pool that is not valid shows zero (R272). -/
theorem poolSync_invalid {d : Dev} {p k : Nat} (h : poolValid d p k = false) : d.poolSync p k = d.setReg (.hallHistPool p k) 0#64 := by
  unfold Dev.poolSync
  rw [h]
  exact if_neg Bool.false_ne_true

/-! ### What is read after a write -/

/-- A record that has been written reads as its value. -/
theorem histGet_histSet {d : Dev} (h : d.lines = []) (p off len v : Nat) : histGet (d.histSet p off len v) p off len = v % 256 ^ len := by
  obtain ⟨htable, hmem⟩ := histSet_table h p off len v
  have hread := Mem.read_write d.mem (histBase d p + off) (natLe len v)
  rw [length_natLe] at hread
  rw [histGet_uncached (htable.lines_eq.trans h), histBase_congr htable.parts_eq, hmem, hread, leNat_natLe]

/-- Another record reads as before. -/
theorem histGet_histSet_apart {d : Dev} (h : d.lines = []) {p off len off' len' : Nat} (v : Nat) (hapart : off' + len' ≤ off ∨ off + len ≤ off') :
    histGet (d.histSet p off len v) p off' len' = histGet d p off' len' := by
  obtain ⟨htable, hmem⟩ := histSet_table h p off len v
  refine histGet_congr htable.parts_eq h (htable.lines_eq.trans h) fun i hi => ?_
  rw [hmem, Mem.get_write, if_neg (by rw [length_natLe]; omega)]

/-- A record beyond the descriptors reads as before. -/
theorem histGet_poolSync {d : Dev} (h : d.lines = []) {p k off len : Nat} (hk : k < 8) (hoff : 0x200 ≤ off) :
    histGet (d.poolSync p k) p off len = histGet d p off len := by
  obtain ⟨htable, hmem⟩ := poolSync_table h p k
  exact histGet_congr htable.parts_eq h (htable.lines_eq.trans h) fun i _ => hmem _ (by omega)

end Sys2Proof.Machine
end

section
/-! Table operations of the attention engine (R252-R258): their lists, and POOL_INIT, FORK and RELEASE. -/

namespace Sys2Proof.Machine

/-! ### Lists -/

section
variable {d : Dev} {x : Letter} {p : Nat} {r : Rec} {o : Obj}

/-- A list of no entries. -/
theorem listRead_none (ho : Operand d x p (stNode r) (tList r) o) (hsize : 64 ≤ o.footprint) (hnone : field (d.mem.read o.base 64) 0 4 = 0) :
    Reads d (listRead x p r) (d.mem.read o.base 64, []) := by
  obtain ⟨-, -, hlent⟩ := id ho
  have hhead := hlent.load (stageWho_src x p r) (off := 0) (len := 64) (by omega)
  have hrest := hlent.load (stageWho_src x p r) (off := 64) (len := 8 * 0) (by omega)
  unfold Reads listRead
  refine (Act.run_ok ho.objWord).trans ((Act.run_ok hhead).trans ?_)
  rw [show d.mem.read (o.base + 0) 64 = d.mem.read o.base 64 from rfl, hnone]
  exact (Act.run_ok hrest).trans rfl

/-- A list of one entry. -/
theorem listRead_one (ho : Operand d x p (stNode r) (tList r) o) (hsize : 72 ≤ o.footprint) (hone : field (d.mem.read o.base 64) 0 4 = 1) :
    Reads d (listRead x p r) (d.mem.read o.base 64, [field (d.mem.read (o.base + 64) 8) 0 8]) := by
  obtain ⟨-, -, hlent⟩ := id ho
  have hhead := hlent.load (stageWho_src x p r) (off := 0) (len := 64) (by omega)
  have hrest := hlent.load (stageWho_src x p r) (off := 64) (len := 8 * 1) (by omega)
  unfold Reads listRead
  refine (Act.run_ok ho.objWord).trans ((Act.run_ok hhead).trans ?_)
  rw [show d.mem.read (o.base + 0) 64 = d.mem.read o.base 64 from rfl, hone]
  exact (Act.run_ok hrest).trans rfl

theorem stagePool_reads (hvalid : poolValid d p (tPool r) = true) (howner : (pool d p (tPool r)).owner = x.ctx) :
    Reads d (stagePool x p r) (pool d p (tPool r)) := by
  unfold Reads stagePool
  rw [Act.run_ok (run_devGet d), hvalid]
  refine (congrArg (Act.run · d) (if_neg (by simp))).trans ?_
  rw [if_neg (by simp [howner])]
  rfl

/-- A table operation reads its pool and its list. -/
theorem tableOp_begins {h : List Byte} {es : List Nat} (hvalid : poolValid d p (tPool r) = true) (howner : (pool d p (tPool r)).owner = x.ctx)
    (hmode : tMode r ≠ 5) (hlist : Reads d (listRead x p r) (h, es)) (hzero : zeroRange h 4 60 = true) :
    (tableOp x p r).run d = Act.run (match tMode r with
      | 2 => appendAll x p r (pool d p (tPool r)) 0 es
      | 3 => forA es fun e => do forkEntry p r (pool d p (tPool r)) e; attProgress p r 1
      | _ => forA es fun e => do releaseEntry p r (pool d p (tPool r)) e; attProgress p r 1) d := by
  have hcount : (countOnly r h).run d = (.ok (), d) := by
    unfold countOnly
    rw [if_pos hzero]
    rfl
  unfold tableOp
  rw [if_neg hmode]
  exact (Act.run_ok (stagePool_reads hvalid howner)).trans ((Act.run_ok hlist).trans (Act.run_ok hcount))

theorem tPool_lt (r : Rec) : tPool r < 8 := Nat.mod_lt _ (by omega)

/-- An operation on one entry, and its count. -/
theorem entry_goes {f : Nat → Act Unit} {en : Nat} {e : Dev} (h : (f en).run d = (.ok (), e)) (hnames : names e = names d) {Q : Dev → Prop}
    (hQ : Q (e.wrap (.attProgress p (stNode r)) 1)) : Goes (forA [en] fun v => do f v; attProgress p r 1) d Q := by
  refine ⟨e.wrap (.attProgress p (stNode r)) 1, ?_, hnames, hQ⟩
  refine (Act.run_ok (v := ()) (e := e.wrap (.attProgress p (stNode r)) 1) ?_).trans rfl
  exact (Act.run_ok h).trans rfl

end

/-! ### FORK -/

section
variable {d : Dev} {p : Nat} {r : Rec}

theorem pool_part (d : Dev) (p k : Nat) : (pool d p k).part = p := rfl
theorem pool_k (d : Dev) (p k : Nat) : (pool d p k).k = k := rfl

/-- The module in which a new, empty sequence has been entered in its pool (R254). -/
def Dev.forked (d : Dev) (q : Pool) (k : Nat) : Dev :=
  (((homeStore d (histBase d q.part + seqOff q k 0) (List.replicate 256 0#8)).seqSetLen q k 0).histSet q.part (seqOff q k 5) 1 1).poolSync q.part q.k

theorem forkEntry_ok {q : Pool} {e : Nat} (hp : q.part = p) (hsrc : bitsN e 31 16 = 0xFFFF) (hlen : bitsN e 63 32 = 0) (hlt : bitsN e 15 0 < q.seqs)
    (hfree : seqValid d q (bitsN e 15 0) = false) : (forkEntry p r q e).run d = (.ok (), d.forked q (bitsN e 15 0)) := by
  subst hp
  unfold forkEntry
  dsimp only
  rw [hsrc, hlen]
  refine (Act.run_ok (run_devGet d)).trans ?_
  refine (congrArg (Act.run · d) (if_neg (by omega))).trans ?_
  refine (congrArg (Act.run · d) (if_neg (by simp [hfree]))).trans ?_
  rfl

theorem forked_spec {q : Pool} (hlines : d.lines = []) (hk : q.k < 8) (hrec : 0x200 ≤ q.seqRec) (k : Nat) :
    TableOnly d (d.forked q k) ∧ seqValid (d.forked q k) q k = true ∧ seqLen (d.forked q k) q k = 0 := by
  unfold Dev.forked Dev.seqSetLen
  obtain ⟨h₁, -⟩ := homeStore_table hlines (histBase d q.part + seqOff q k 0) (List.replicate 256 0#8)
  generalize homeStore d (histBase d q.part + seqOff q k 0) (List.replicate 256 0#8) = d₁ at h₁ ⊢
  have hl₁ : d₁.lines = [] := h₁.lines_eq.trans hlines
  obtain ⟨h₂, -⟩ := histSet_table hl₁ q.part (seqOff q k 0) 4 0
  have hlen₂ : histGet (d₁.histSet q.part (seqOff q k 0) 4 0) q.part (seqOff q k 0) 4 = 0 := histGet_histSet hl₁ ..
  generalize d₁.histSet q.part (seqOff q k 0) 4 0 = d₂ at h₂ hlen₂ ⊢
  have hl₂ : d₂.lines = [] := h₂.lines_eq.trans hl₁
  obtain ⟨h₃, -⟩ := histSet_table hl₂ q.part (seqOff q k 4) 1 (ceilDiv 0 256)
  have hlen₃ : histGet (d₂.histSet q.part (seqOff q k 4) 1 (ceilDiv 0 256)) q.part (seqOff q k 0) 4 = 0 :=
    (histGet_histSet_apart hl₂ _ (.inl (by unfold seqOff; omega))).trans hlen₂
  generalize d₂.histSet q.part (seqOff q k 4) 1 (ceilDiv 0 256) = d₃ at h₃ hlen₃ ⊢
  have hl₃ : d₃.lines = [] := h₃.lines_eq.trans hl₂
  obtain ⟨h₄, -⟩ := histSet_table hl₃ q.part (seqOff q k 5) 1 1
  have hlen₄ : histGet (d₃.histSet q.part (seqOff q k 5) 1 1) q.part (seqOff q k 0) 4 = 0 :=
    (histGet_histSet_apart hl₃ _ (.inl (by unfold seqOff; omega))).trans hlen₃
  have hval₄ : histGet (d₃.histSet q.part (seqOff q k 5) 1 1) q.part (seqOff q k 5) 1 = 1 := histGet_histSet hl₃ ..
  generalize d₃.histSet q.part (seqOff q k 5) 1 1 = d₄ at h₄ hlen₄ hval₄ ⊢
  have hl₄ : d₄.lines = [] := h₄.lines_eq.trans hl₃
  obtain ⟨h₅, -⟩ := poolSync_table hl₄ q.part q.k
  refine ⟨(((h₁.trans h₂).trans h₃).trans h₄).trans h₅, ?_, ?_⟩
  · unfold seqValid
    rw [histGet_poolSync hl₄ hk (by unfold seqOff; omega), hval₄]
    rfl
  · unfold seqLen
    rw [histGet_poolSync hl₄ hk (by unfold seqOff; omega), hlen₄]

/-! ### RELEASE -/

/-- The module in which a sequence has left its pool (R254). -/
def Dev.released (d : Dev) (q : Pool) (k : Nat) : Dev := (d.histSet q.part (seqOff q k 5) 1 0).poolSync q.part q.k

theorem releaseEntry_ok {q : Pool} {e : Nat} (hp : q.part = p) (hlt : e < q.seqs) (h16 : e < 2 ^ 16) (hvalid : seqValid d q e = true) (hpages : seqPages d q e = []) :
    (releaseEntry p r q e).run d = (.ok (), d.released q e) := by
  subst hp
  have hself : bitsN e 15 0 = e := by unfold bitsN; omega
  have hrelease : d.releaseSeq q e = d.histSet q.part (seqOff q e 5) 1 0 := by
    unfold Dev.releaseSeq
    rw [hpages]
    rfl
  unfold releaseEntry
  dsimp only
  rw [hself]
  refine (Act.run_ok (run_devGet d)).trans ?_
  refine (congrArg (Act.run · d) (if_neg (by omega))).trans ?_
  refine (congrArg (Act.run · d) (if_neg (by simp [hvalid]))).trans ?_
  rw [run_devMod, hrelease]
  rfl

theorem released_spec {q : Pool} (hlines : d.lines = []) (hk : q.k < 8) (hrec : 0x200 ≤ q.seqRec) (k : Nat) :
    TableOnly d (d.released q k) ∧ seqValid (d.released q k) q k = false := by
  unfold Dev.released
  obtain ⟨h₁, -⟩ := histSet_table hlines q.part (seqOff q k 5) 1 0
  have hval : histGet (d.histSet q.part (seqOff q k 5) 1 0) q.part (seqOff q k 5) 1 = 0 := histGet_histSet hlines ..
  have hl₁ := h₁.lines_eq.trans hlines
  obtain ⟨h₂, -⟩ := poolSync_table hl₁ q.part q.k
  refine ⟨h₁.trans h₂, ?_⟩
  unfold seqValid
  rw [histGet_poolSync hl₁ hk (by unfold seqOff; omega), hval]
  rfl

/-! ### POOL_INIT without frames -/

/-- The module in which a pool has been made invalid (R257). -/
def Dev.poolGone (d : Dev) (p k : Nat) : Dev := (d.poolSet p k 0 4 0).poolSync p k

theorem poolGone_spec (hlines : d.lines = []) (p k : Nat) :
    TableOnly d (d.poolGone p k) ∧ poolValid (d.poolGone p k) p k = false ∧ (d.poolGone p k).reg (.hallHistPool p k) = 0#64 := by
  obtain ⟨h₁, -⟩ := histSet_table hlines p (64 * k + 0) 4 0
  have hzero : histGet (d.histSet p (64 * k + 0) 4 0) p (64 * k + 0) 4 = 0 := histGet_histSet hlines ..
  have hinvalid : poolValid (d.poolSet p k 0 4 0) p k = false := by
    unfold poolValid poolGet Dev.poolSet
    rw [hzero, bitN, Nat.zero_testBit, Bool.and_false]
  have hset : TableOnly d (d.poolSet p k 0 4 0) := h₁
  unfold Dev.poolGone
  generalize d.poolSet p k 0 4 0 = e at hset hinvalid ⊢
  have hlines' : e.lines = [] := hset.lines_eq.trans hlines
  rw [poolSync_invalid hinvalid]
  refine ⟨hset.trans (setReg_table ..), ?_, ?_⟩
  · exact (poolValid_congr (d := e) (e := e.setReg (.hallHistPool p k) 0#64) rfl hlines' hlines' rfl p k).trans hinvalid
  · rw [Dev.reg_setReg, if_pos rfl]

theorem poolInit_goes {x : Letter} {o : Obj} (ho : Operand d x p (stNode r) (tList r) o) (hsize : 64 ≤ o.footprint)
    (hframes : field (d.mem.read o.base 64) 0x10 4 = 0) (hvalid : poolValid d p (tPool r) = true) (howner : (pool d p (tPool r)).owner = x.ctx)
    (hseqs : ∀ k < (pool d p (tPool r)).seqs, seqValid d (pool d p (tPool r)) k = false)
    (hreaders : ∀ f < (pool d p (tPool r)).frames, pageReaders d (pool d p (tPool r)) f = 0) :
    (poolInit x p r).run d = (.ok (), d.poolGone p (tPool r)) := by
  obtain ⟨-, -, hlent⟩ := id ho
  have hhead := hlent.load (stageWho_src x p r) (off := 0) (len := 64) (by omega)
  have hidle : ((List.range (pool d p (tPool r)).seqs).any (seqValid d (pool d p (tPool r))) ||
      (List.range (pool d p (tPool r)).frames).any fun f => pageReaders d (pool d p (tPool r)) f ≠ 0) = false := by
    rw [Bool.or_eq_false_iff, List.any_eq_false, List.any_eq_false]
    exact ⟨fun k hk => by simp [hseqs k (List.mem_range.mp hk)], fun f hf => by simp [hreaders f (List.mem_range.mp hf)]⟩
  unfold poolInit
  refine (Act.run_ok ho.objWord).trans ((Act.run_ok hhead).trans ((Act.run_ok (run_devGet d)).trans ?_))
  rw [show d.mem.read (o.base + 0) 64 = d.mem.read o.base 64 from rfl]
  dsimp only
  rw [hframes, hvalid]
  refine (congrArg (Act.run · d) (if_neg (by simp [howner]))).trans ?_
  refine (congrArg (Act.run · d) (if_pos rfl)).trans ?_
  refine (congrArg (Act.run · d) (if_pos rfl)).trans ?_
  refine (congrArg (Act.run · d) (if_neg ?_)).trans rfl
  rw [Bool.not_eq_true]
  exact hidle

end

end Sys2Proof.Machine
end

section
/-! What keeps every letter: accesses to memory, parcels that are read and stored, and the entries of an APPEND (R253, R255). -/

namespace Sys2Proof.Machine

/-! ### Changes of the module -/

theorem names_of_letters {d e : Dev} (h : e.letters = d.letters) : names e = names d := by
  unfold names
  rw [h]

theorem HallOnly.names_eq {d e : Dev} (h : HallOnly d e) : names e = names d := by
  obtain ⟨m, rs, h⟩ := h
  exact names_of_letters (congrArg Ledger.letters h)

theorem names_each {α : Type} {f : Dev → α → Dev} (h : ∀ d v, names (f d v) = names d) (l : List α) (d : Dev) : names (d.each l f) = names d :=
  Dev.each_keeps (Q := fun e => names e = names d) l f (fun e v he => (h e v).trans he) d rfl

theorem names_count (d : Dev) (r : Reg) (k : Nat) : names (d.count r k) = names d := rfl

theorem names_crossing (d : Dev) (src tgt a len : Nat) (w : Bool) : names (crossing d src tgt a len w).2 = names d := by
  unfold crossing
  split
  · rfl
  · split
    · rfl
    · split
      · rfl
      · obtain ⟨⟨m, hm⟩, -⟩ := d.forwarded_counts (if w = true then tgt else src) a len
        exact names_of_letters (by rw [hm])

theorem names_reach (d : Dev) (src : Src) (a len : Nat) (store : Bool) : names (reach d src a len store).2 = names d := by
  unfold reach
  dsimp only
  split
  · exact names_crossing ..
  · split
    · rfl
    · exact names_crossing ..

theorem names_homeLoad (d : Dev) (a len : Nat) : names (homeLoad d a len).2 = names d := by
  have hsnoop : ∀ (e : Dev) (line : Nat), names (snoopRead e line) = names e := fun e line => by
    unfold snoopRead
    exact names_each (fun _ _ => by rfl) _ e
  unfold homeLoad
  split
  · exact names_each hsnoop _ d
  · rfl

theorem names_putObj (d : Dev) (id : Nat) (o : Obj) : names (d.putObj id o) = names d := by
  obtain ⟨m, rs, h⟩ := putObj_objsOnly d id o
  exact names_of_letters (congrArg Ledger.letters h)

theorem names_setStash (d : Dev) (p c h : Nat) (e : Stash) : names (d.setStash p c h e) = names d :=
  names_of_ledger (d := { d with stash := mapSet d.stash (p, c, h) e }) (ledger_stashStatus _ p)

theorem names_releaseStash (d : Dev) (hit : Nat × Nat × Nat → Bool) : names (d.releaseStash hit) = names d :=
  names_of_letters (congrArg Ledger.letters (ledger_releaseStash d hit))

theorem names_stashMake (w : Who) (p h layer parcels units k : Nat) (d : Dev) : names (d.stashMake w p h layer parcels units k).2 = names d := by
  induction k generalizing d with
  | zero => rfl
  | succ k ih =>
    unfold Dev.stashMake
    dsimp only
    split
    · exact names_setStash ..
    · split
      · exact (names_count ..).trans (names_setStash ..)
      · split
        · rfl
        · exact (ih _).trans ((names_count ..).trans (names_setStash ..))

/-! ### Actions -/

/-- An action that, where it goes through, takes no letter away and adds none. -/
def KeepsNames {α : Type} (a : Act α) : Prop := ∀ (d : Dev) (v : α) (e : Dev), a.run d = (.ok v, e) → names e = names d

namespace KeepsNames

theorem bind {α β : Type} {a : Act α} {f : α → Act β} (ha : KeepsNames a) (hf : ∀ v, KeepsNames (f v)) : KeepsNames (a >>= f) := by
  intro d v e h
  obtain ⟨u, g, hu, hv⟩ := Act.of_run_ok h
  exact (hf u g v e hv).trans (ha d u g hu)

theorem pure {α : Type} (v : α) : KeepsNames (Pure.pure v) := by
  rintro d u e h
  cases h
  rfl

theorem stop {α : Type} (s : Stop) : KeepsNames (Machine.stop s : Act α) := by
  rintro d u e h
  cases h

theorem devGet : KeepsNames devGet := by
  rintro d u e h
  cases h
  rfl

theorem devMod {f : Dev → Dev} (h : ∀ d, names (f d) = names d) : KeepsNames (devMod f) := by
  rintro d u e hrun
  cases hrun
  exact h d

theorem forA {α : Type} {f : α → Act Unit} (hf : ∀ v, KeepsNames (f v)) : ∀ l : List α, KeepsNames (forA l f)
  | [] => .pure _
  | v :: l => .bind (hf v) fun _ => KeepsNames.forA hf l

theorem mapA {α β : Type} {f : α → Act β} (hf : ∀ v, KeepsNames (f v)) : ∀ l : List α, KeepsNames (mapA l f)
  | [] => .pure _
  | v :: l => .bind (hf v) fun _ => .bind (KeepsNames.mapA hf l) fun _ => .pure _

theorem onStop {α : Type} {a : Act α} (h : KeepsNames a) (clean : Dev → Dev) : KeepsNames (onStop clean a) := by
  rintro d v e hrun
  refine h d v e ?_
  have hrun' : (match a.run d with
    | (.ok a, d) => ((.ok a, d) : Except Stop α × Dev)
    | (.error e, d) => (.error e, clean d)) = (.ok v, e) := hrun
  split at hrun'
  next u g hu =>
    rw [hu]
    exact hrun'
  next => cases hrun'

end KeepsNames

/-! ### Memory -/

theorem keepsNames_localLoad (src : Src) (a len : Nat) : KeepsNames (localLoad src a len) := by
  intro d v e h
  have hreach := names_reach d src a len false
  change localLoad src a len d = _ at h
  unfold localLoad at h
  split at h
  case h_1 => cases h
  case h_2 d' he =>
    rw [he] at hreach
    split at h
    · cases h
    · split at h
      · cases h
      · cases h
        exact (names_homeLoad d' a len).trans hreach

theorem keepsNames_localStore (src : Src) (a : Nat) (bs : List Byte) : KeepsNames (localStore src a bs) := by
  intro d v e h
  have hreach := names_reach d src a bs.length true
  change localStore src a bs d = _ at h
  unfold localStore at h
  split at h
  case h_1 => cases h
  case h_2 d' he =>
    rw [he] at hreach
    split at h
    · cases h
    · split at h
      · cases h
      · cases h
        exact (hallOnly_homeStore d' a bs).names_eq.trans hreach

/-! ### Objects and stash entries -/

theorem keepsNames_getObj (id : Nat) : KeepsNames (getObj id) := by
  unfold getObj
  refine .bind .devGet fun d => ?_
  split
  · exact .pure _
  · exact .stop _

theorem keepsNames_objLoad (w : Who) (id off len : Nat) : KeepsNames (objLoad w id off len) := by
  unfold objLoad
  refine .bind (keepsNames_getObj id) fun o => ?_
  split
  · exact .stop _
  · exact keepsNames_localLoad _ _ _

theorem keepsNames_objStore (w : Who) (id off : Nat) (bs : List Byte) : KeepsNames (objStore w id off bs) := by
  unfold objStore
  refine .bind (keepsNames_getObj id) fun o => ?_
  split
  · exact .stop _
  · refine .bind .devGet fun d => ?_
    split
    · exact .devMod fun _ => rfl
    · refine .bind (keepsNames_localStore _ _ _) fun _ => ?_
      split
      · exact .devMod fun d => names_putObj ..
      · exact .pure _

theorem keepsNames_stashFor (w : Who) (layer h parcels : Nat) : KeepsNames (stashFor w layer h parcels) := by
  have hmake : ∀ p units, KeepsNames (stashFor.make w layer h parcels p units) := fun p units d v e hrun => by
    have hnames := names_stashMake w p h layer parcels units (d.stash.length + 2) d
    change stashFor.make w layer h parcels p units d = _ at hrun
    unfold stashFor.make at hrun
    split at hrun
    next he =>
      rw [he] at hnames
      cases hrun
      exact hnames
    next => cases hrun
  unfold stashFor
  refine .bind .devGet fun d => ?_
  dsimp only
  split
  · exact .bind (.devMod fun d => names_setStash ..) fun _ => .pure _
  · exact .bind (.devMod fun d => names_releaseStash ..) fun _ => hmake _ _
  · exact hmake _ _

theorem keepsNames_parcelStore (w : Who) (layer id i parcels : Nat) (payload side : List Byte) : KeepsNames (parcelStore w layer id i parcels payload side) := by
  unfold parcelStore parcelStoreAt
  split
  · refine KeepsNames.bind (keepsNames_stashFor _ _ _ _) fun e => ?_
    split
    · exact .pure _
    · split
      · exact .stop _
      · exact .bind (.forA (fun _ => keepsNames_localStore _ _ _) _) fun _ => keepsNames_localStore _ _ _
  · exact .bind (keepsNames_getObj id) fun _ => .bind (.forA (fun _ => keepsNames_objStore _ _ _ _) _) fun _ => keepsNames_objStore _ _ _ _

theorem keepsNames_parcelLoad (w : Who) (id i : Nat) : KeepsNames (parcelLoad w id i) := by
  unfold parcelLoad
  split
  · refine .bind .devGet fun d => ?_
    split
    · exact .stop _
    · split
      · exact .stop _
      · split
        · exact .stop _
        · exact .bind (keepsNames_localLoad _ _ _) fun _ => .bind (keepsNames_localLoad _ _ _) fun _ => .pure _
  · exact .bind (keepsNames_getObj id) fun _ => .bind (keepsNames_objLoad _ _ _ _) fun _ => .bind (keepsNames_objLoad _ _ _ _) fun _ => .pure _

theorem keepsNames_readParcel (w : Who) (id i : Nat) : KeepsNames (readParcel w id i) := by
  refine .bind (keepsNames_parcelLoad w id i) fun _ => ?_
  unfold checkParcel
  dsimp only
  split
  · exact .pure _
  · exact .bind .devGet fun _ => .stop _

theorem keepsNames_chanParcel (x : Letter) (p ch i : Nat) : KeepsNames (chanParcel x p ch i) := by
  unfold chanParcel
  refine .bind .devGet fun d => ?_
  split
  · exact .stop _
  · dsimp only
    split
    · exact .pure _
    · exact .stop _

theorem keepsNames_objWord (x : Letter) (i : Nat) : KeepsNames (objWord x i) := by
  unfold objWord needWord
  refine .bind ?_ fun w => ?_
  · split
    · exact .pure _
    · exact .stop _
  · split
    · exact .stop _
    · exact .pure _

/-! ### The entries of an APPEND -/

theorem keepsNames_matRowF (x : Letter) (p : Nat) (r : Rec) (inch : Bool) (ch word cols row : Nat) : KeepsNames (matRowF x p r inch ch word cols row) := by
  unfold matRowF
  extract_lets w go
  have hgo : ∀ op, KeepsNames (go op) := fun op => by
    refine .bind .devGet fun d => ?_
    extract_lets get peek
    have hget : ∀ j, KeepsNames (get j) := fun j => by
      unfold get
      split
      · exact keepsNames_chanParcel _ _ _ _
      · exact keepsNames_readParcel _ _ _
    clear_value get peek
    split
    · exact .stop _
    · refine .bind (hget _) fun q => .bind (.mapA (fun c => .bind (hget _) fun _ => .pure _) _) fun ps => ?_
      split
      · exact .stop _
      · exact .pure _
  clear_value go
  split
  · exact .bind (.pure _) hgo
  · exact .bind (keepsNames_objWord _ _) hgo

theorem keepsNames_attCount (x : Letter) (p : Nat) (r : Rec) (sat nf : Nat) : KeepsNames (attCount x p r sat nf) :=
  .devMod fun d => (worked_convCounts d x.id rfl rfl sat nf).names_eq

theorem names_pageSet (d : Dev) (q : Pool) (f hi lo v : Nat) : names (d.pageSet q f hi lo v) = names d := (hallOnly_histSet ..).names_eq

theorem keepsNames_newFrame (p : Nat) (q : Pool) (s i n : Nat) : KeepsNames (newFrame p q s i n) := by
  unfold newFrame
  refine .bind .devGet fun d => ?_
  split
  · exact .stop _
  · exact .bind (.devMod fun d => (hallOnly_histSet ..).names_eq.trans ((hallOnly_histSet d.draw.2 _ _ _ _).names_eq.trans rfl)) fun _ => .pure _

theorem keepsNames_poolParcel (w : Who) (q : Pool) (i : Nat) : KeepsNames (poolParcel w q i) := by
  unfold poolParcel
  refine .bind (keepsNames_readParcel _ _ _) fun pc => ?_
  split
  · exact .pure _
  · exact .bind .devGet fun _ => .stop _

theorem keepsNames_copyPage (w : Who) (q : Pool) (src dst n : Nat) : KeepsNames (copyPage w q src dst n) := by
  unfold copyPage
  refine .bind .devGet fun d => ?_
  extract_lets w
  exact .forA (fun kv => .forA (fun rt => .forA (fun c => .bind (keepsNames_poolParcel _ _ _) fun pc =>
    .bind (keepsNames_parcelStore _ _ _ _ _ _ _) fun _ => .devMod fun d => by rfl) _) _) _

theorem keepsNames_appendLanes (w : Who) (q : Pool) (f kv rt c n0 n1 : Nat) (val : Nat → Nat → W32) : KeepsNames (appendLanes w q f kv rt c n0 n1 val) := by
  unfold appendLanes
  extract_lets wd lo hi i src blocks sc o go
  have hgo : ∀ u, KeepsNames (go u) := fun u => .pure _
  clear_value go o
  split
  · exact .bind (keepsNames_parcelStore _ _ _ _ _ _ _) hgo
  · exact .bind (keepsNames_poolParcel _ _ _) fun pc => .bind (keepsNames_parcelStore _ _ _ _ _ _ _) hgo

theorem keepsNames_appendPage (x : Letter) (p : Nat) (r : Rec) (q : Pool) (s i n0 n1 : Nat) (key val : Nat → Nat → W32) :
    KeepsNames (appendPage x p r q s i n0 n1 key val) := by
  unfold appendPage
  extract_lets w go
  have hgo : ∀ f, KeepsNames (go f) := fun f => .bind (.forA (fun kv => .forA (fun rt => .forA (fun c => .bind (keepsNames_appendLanes _ _ _ _ _ _ _ _ _)
    fun u => keepsNames_attCount _ _ _ _ _) _) _) _) fun _ => .devMod fun d => names_pageSet ..
  clear_value go
  refine .bind .devGet fun d => ?_
  split
  · exact .bind (keepsNames_newFrame _ _ _ _ _) hgo
  · dsimp only
    split
    · exact .bind (.pure _) hgo
    · refine .bind (keepsNames_newFrame _ _ _ _ _) fun g => .bind (keepsNames_copyPage _ _ _ _ _) fun _ => .bind (.devMod fun d => ?_) fun _ => .bind (.pure _) hgo
      exact (hallOnly_dropRef ..).names_eq

theorem keepsNames_appendEntry (x : Letter) (p : Nat) (r : Rec) (q : Pool) (row0 e : Nat) : KeepsNames (appendEntry x p r q row0 e) := by
  unfold appendEntry
  extract_lets s n
  refine .bind .devGet fun d => ?_
  split
  · exact .stop _
  · split
    · exact .stop _
    · extract_lets len
      split
      · exact .stop _
      · refine .onStop ?_ _
        refine .bind (.mapA (fun t => keepsNames_matRowF _ _ _ _ _ _ _ _) _) fun kf => .bind (.mapA (fun t => keepsNames_matRowF _ _ _ _ _ _ _ _) _) fun vf => ?_
        extract_lets ks vs nf
        refine .bind (keepsNames_attCount _ _ _ _ _) fun _ => .bind (.forA (fun j => ?_) _) fun _ => .bind (.devMod fun d => ?_) fun _ => .pure _
        · exact keepsNames_appendPage _ _ _ _ _ _ _ _ _ _
        · exact (hallOnly_poolSync ..).names_eq.trans ((hallOnly_histSet ..).names_eq.trans (hallOnly_histSet ..).names_eq)

end Sys2Proof.Machine
end

section
/-! What FORWARD and BACKWARD write (R264, R266): matrices of a row that goes nowhere, and its statistics. -/

namespace Sys2Proof.Machine

/-! ### The first element of an FP32 parcel -/

/-- Bytes elsewhere read as before a write. -/
theorem read_write_apart (m : Mem) {a b k : Nat} {bs : List Byte} (h : b + k ≤ a ∨ a + bs.length ≤ b) : (m.write a bs).read b k = m.read b k := by
  unfold Mem.read
  refine List.map_congr_left fun i hi => ?_
  have hi := List.mem_range.mp hi
  rw [Mem.get_write, if_neg (by omega)]

/-- FP32 to FP32 copies the bits (R206). -/
theorem convertParcel_first {c : ConvSpec} (hfmt : c.fmt = .fp32) (elements : Nat) {v : SrcElem} (hv : v.valid = true) (vs : List SrcElem) :
    field (convertParcel c elements (v :: vs)).payload 0 4 = v.bits.toNat := by
  have hblocks : ∃ bs, blocks32 (ceilDiv (v :: vs).length 32) (v :: vs) = (v :: vs.take 31) :: bs := by
    obtain ⟨k, hk⟩ : ∃ k, ceilDiv (v :: vs).length 32 = k + 1 := ⟨vs.length / 32, by unfold ceilDiv; rw [List.length_cons]; omega⟩
    rw [hk]
    exact ⟨_, rfl⟩
  obtain ⟨bs, hbs⟩ := hblocks
  unfold convertParcel
  generalize chooseScales c.fmt _ = sc
  obtain ⟨codes, hcodes⟩ : ∃ codes, (convBlocks c sc 0 (blocks32 (ceilDiv (v :: vs).length 32) (v :: vs))).map (·.code) = v.bits.toNat :: codes := by
    rw [hbs]
    unfold convBlocks convBlock
    dsimp only
    rw [if_pos hv, if_pos hfmt]
    exact ⟨_, rfl⟩
  show field (slice (packCodes c.fmt ((convBlocks c sc 0 (blocks32 (ceilDiv (v :: vs).length 32) (v :: vs))).map (·.code))) 0 4096) 0 4 = _
  have hpack : packCodes c.fmt (v.bits.toNat :: codes) = natLe 4 v.bits.toNat ++ codes.flatMap (natLe 4) := by
    rw [hfmt]
    rfl
  rw [hcodes, hpack, field, slice_slice _ _ _ (by omega), ← field, Nat.add_zero, field_natLe_append]
  exact Nat.mod_eq_of_lt v.bits.isLt

/-! ### Outputs -/

section
variable {d : Dev} {x : Letter} {p : Nat} {r : Rec}

theorem attCount_ok (d : Dev) (x : Letter) (sat nf : Nat) :
    ∃ e, (attCount x p r sat nf).run d = (.ok (), e) ∧ Worked d e ∧ e.mem = d.mem := by
  have hworked := worked_convCounts d x.id (satReg := .attSat p (stNode r) x.ctx) (nfReg := .attNonfinite p (stNode r) x.ctx) rfl rfl sat nf
  have hmem := convCounts_mem d x.id (.attSat p (stNode r) x.ctx) (.attNonfinite p (stNode r) x.ctx) sat nf
  unfold attCount
  rw [run_devMod]
  generalize d.convCounts x.id (.attSat p (stNode r) x.ctx) (.attNonfinite p (stNode r) x.ctx) sat nf = e at hworked hmem
  exact ⟨e, rfl, hworked, hmem⟩

/-- A matrix that is neither stored nor sent is counted. -/
theorem matOut_counts (f : EFmt) (cls purpose obj first rows cols : Nat) (val : Nat → Nat → W32) :
    ∃ e, (matOut x p r f cls purpose obj first rows cols false false val).run d = (.ok (), e) ∧ Worked d e ∧ e.mem = d.mem := by
  unfold matOut
  extract_lets w wd per
  rw [Act.run_ok (run_devGet d)]
  extract_lets key
  refine forA_keeps (Q := fun e => Worked d e ∧ e.mem = d.mem) _ (fun i _ e he => ?_) d ⟨.refl d, rfl⟩
  extract_lets rt c lanes src o nf sd
  clear_value o nf sd
  obtain ⟨g, hg, hworked, hmem⟩ := attCount_ok (p := p) (r := r) e x o.sat nf
  refine ⟨g, (Act.run_ok hg).trans ?_, he.1.trans hworked, hmem.trans he.2⟩
  rw [if_neg Bool.false_ne_true]
  exact congrArg (Act.run · g) (if_neg Bool.false_ne_true)

/-- A matrix without rows has no parcels. -/
theorem matOut_none (f : EFmt) (cls purpose obj first cols : Nat) (store send : Bool) (val : Nat → Nat → W32) :
    (matOut x p r f cls purpose obj first 0 cols store send val).run d = (.ok (), d) := by
  have hnone : ceilDiv 0 128 * ceilDiv cols f.width = 0 := by
    rw [show ceilDiv 0 128 = 0 from rfl, Nat.zero_mul]
  unfold matOut
  refine (Act.run_ok (run_devGet d)).trans ?_
  dsimp only
  rw [hnone]
  rfl

/-- The statistics of one row: the first head's is in memory. -/
theorem lseOut_one {ol : Obj} {heads : Nat} (h : Operand d x p (stNode r) (tLse r) ol) (hheld : Holds ol (wordFirst (x.word (tLse r))) 1) (hheads : 1 ≤ heads)
    (lse : Nat → Nat → W32) : ∃ e, (lseOut x p r heads 1 lse).run d = (.ok (), e) ∧ Worked d e ∧
      field (e.mem.read (ol.base + 4096 * wordFirst (x.word (tLse r))) 4) 0 4 = (lse 0 0).toNat := by
  obtain ⟨-, -, hlent⟩ := id h
  obtain ⟨hside, hsize⟩ := hheld
  generalize hc : ({ fmt := .fp32, cls := 0, purpose := 0, key := 0, obj := wordObj (x.word (tLse r)), parcel := wordFirst (x.word (tLse r)) + 0, count := false } : ConvSpec) = c
  generalize hsrc : (List.range 1024).map (fun e => if e / 8 < min 128 (1 - 128 * 0) ∧ e % 8 < heads then (⟨lse (128 * 0 + e / 8) (e % 8), true⟩ : SrcElem) else ⟨0#32, false⟩) = src
  have hfirst : ∃ vs, src = ⟨lse 0 0, true⟩ :: vs := by
    rw [← hsrc, List.range_succ_eq_map, List.map_cons, if_pos (by omega)]
    exact ⟨_, rfl⟩
  obtain ⟨vs, hvs⟩ := hfirst
  obtain ⟨e, hcount, hworked, hmem⟩ := attCount_ok (p := p) (r := r) d x 0 (src.filter fun e => e.valid && e.bits ≠ negInf && !finite32 e.bits).length
  obtain ⟨f, hstore, hworked', hmem'⟩ := (hworked.lent hlent).parcel (stageWho_src x p r) (i := wordFirst (x.word (tLse r)) + 0) hside (by omega) (stLayer r) (ceilDiv 1 128)
    (length_convertParcel c (min 128 (1 - 128 * 0) * 8) src) (length_sideBytes (convertParcel c (min 128 (1 - 128 * 0) * 8) src).side)
  refine ⟨f, ?_, hworked.trans hworked', ?_⟩
  · unfold lseOut
    refine (Act.run_ok h.objWord).trans ?_
    subst hc hsrc
    exact (Act.run_ok ((Act.run_ok hcount).trans hstore)).trans rfl
  · have hpay := length_convertParcel c (min 128 (1 - 128 * 0) * 8) src
    have hword : field (convertParcel c (min 128 (1 - 128 * 0) * 8) src).payload 0 4 = (lse 0 0).toNat := by
      rw [hvs]
      exact convertParcel_first (by rw [← hc]) _ rfl vs
    rw [hmem', read_write_apart _ (by omega), ← hword]
    exact field_write_within e.mem (ol.base + 4096 * wordFirst (x.word (tLse r))) (off := 0) (by omega)

end

end Sys2Proof.Machine
end

section
/-! FORWARD and BACKWARD of one row over an empty sequence (R259-R266). -/

namespace Sys2Proof.Machine

/-! ### An empty sequence -/

/-- A row over no keys has the statistic -Inf (R262). -/
theorem softRow_empty (scale : W32) (dim h : Nat) (qv : Nat → W32) (s k limit : Nat) : (softRow scale dim h qv ⟨s, k, []⟩ limit).2 = negInf := by
  have hzero : (f32 0#32).isZero = true := by decide
  unfold softRow softEnd visible
  simp [hzero]

section
variable {d : Dev} {x : Letter} {p : Nat} {r : Rec}

/-- The only row's sequence, without pages, is latched. -/
theorem latch_empty {q : Pool} {en : Nat} (hhead : bitsN en 31 16 = 0) (hlt : bitsN en 15 0 < q.seqs) (hvalid : seqValid d q (bitsN en 15 0) = true)
    (hlen : seqLen d q (bitsN en 15 0) = 0) (hpages : seqPages d q (bitsN en 15 0) = []) : Reads d (latch x p r q [en]) [⟨bitsN en 15 0, 0, []⟩] := by
  have hone : ([en].map fun e => bitsN e 15 0).eraseDups = [bitsN en 15 0] := rfl
  unfold Reads latch
  refine (Act.run_ok (run_devGet d)).trans ?_
  refine (congrArg (Act.run · d) (if_neg (by simp [hlt, hhead]))).trans ?_
  refine (congrArg (Act.run · d) (if_neg (by simp [hvalid]))).trans ?_
  dsimp only
  rw [hone]
  refine (Act.run_ok (v := ⟨bitsN en 15 0, 0, []⟩) (e := d) ?_).trans rfl
  rw [Act.run_ok (run_devGet d), hlen, hpages]
  rfl

theorem rowSeq_one (en k : Nat) (ps : List (Nat × PageData)) : rowSeq [⟨bitsN en 15 0, k, ps⟩] en = ⟨bitsN en 15 0, k, ps⟩ := by
  simp [rowSeq]

/-- Nothing is released of sequences without pages: the pool's records follow. -/
theorem unlatch_empty (d : Dev) (p : Nat) (q : Pool) (s k : Nat) : (unlatch p q [⟨s, k, []⟩]).run d = (.ok (), d.poolSync p q.k) := rfl

theorem seedCheck_ok (h : tSeed r ≠ 0xFF → tSeed r < x.nWords) : (seedCheck x (tSeed r)).run d = (.ok (), d) := by
  unfold seedCheck
  split
  · rfl
  · next hs => exact (Act.run_ok (needWord_reads (h hs))).trans rfl

theorem countOnly_ok {h : List Byte} (hz : zeroRange h 4 60 = true) : (countOnly r h).run d = (.ok (), d) := by
  unfold countOnly
  rw [if_pos hz]
  rfl

/-- One row is read. -/
theorem rows_one (en : Nat) {word cols : Nat} {v : List (W32 × Bool)} (h : Reads d (matRow x p r false 0 word cols 0) v) :
    Reads d (mapA (List.range [en].length) fun i => matRow x p r false 0 word cols i) [v] := (Act.run_ok h).trans rfl

/-- A stage's list is one row over an empty sequence of a valid pool of its context. -/
structure OneRow (d : Dev) (x : Letter) (p : Nat) (r : Rec) (o : Obj) (en : Nat) : Prop where
  lines : d.lines = []
  operand : Operand d x p (stNode r) (tList r) o
  valid : poolValid d p (tPool r) = true
  owner : (pool d p (tPool r)).owner = x.ctx
  size : 72 ≤ o.footprint
  one : field (d.mem.read o.base 64) 0 4 = 1
  entry : en = field (d.mem.read (o.base + 64) 8) 0 8
  head : bitsN en 31 16 = 0
  lt : bitsN en 15 0 < (pool d p (tPool r)).seqs
  seq : seqValid d (pool d p (tPool r)) (bitsN en 15 0) = true
  len : seqLen d (pool d p (tPool r)) (bitsN en 15 0) = 0
  pages : seqPages d (pool d p (tPool r)) (bitsN en 15 0) = []
  seed : tSeed r ≠ 0xFF → tSeed r < x.nWords

section
variable {o : Obj} {en : Nat} (h : OneRow d x p r o en)
include h

theorem OneRow.reads_pool : Reads d (stagePool x p r) (pool d p (tPool r)) := stagePool_reads h.valid h.owner

theorem OneRow.reads_list : Reads d (listRead x p r) (d.mem.read o.base 64, [en]) := h.entry ▸ listRead_one h.operand h.size h.one

theorem OneRow.reads_latch : Reads d (latch x p r (pool d p (tPool r)) [en]) [⟨bitsN en 15 0, 0, []⟩] :=
  latch_empty h.head h.lt h.seq h.len h.pages

end

/-! ### FORWARD -/

/-- The statistics go out, and the stage lets its pool go. -/
theorem statistics_goes {e : Dev} {ol : Obj} {heads : Nat} {lse : Nat → Nat → W32} (hworked : Worked d e) (hlines : d.lines = [])
    (hl : Operand d x p (stNode r) (tLse r) ol) (hheld : Holds ol (wordFirst (x.word (tLse r))) 1) (hheads : 1 ≤ heads)
    (hapart : histBase d p + 0x200 ≤ ol.base ∨ ol.base + ol.footprint ≤ histBase d p) (hlse : lse 0 0 = negInf) (s k n : Nat) :
    ∃ f, Act.run (do lseOut x p r heads 1 lse; unlatch p (pool d p (tPool r)) [⟨s, k, []⟩]; attProgress p r n) e = (.ok (), f) ∧ names f = names d ∧
      field (f.mem.read (ol.base + 4096 * wordFirst (x.word (tLse r))) 4) 0 4 = 0xFF800000 := by
  obtain ⟨hi, hbits, hlent⟩ := hl
  obtain ⟨f, hf, hworked', hfield⟩ := lseOut_one (p := p) (r := r) ⟨hi, hbits, hworked.lent hlent⟩ hheld hheads lse
  have hlines' : f.lines = [] := (hworked.trans hworked').lines_eq.trans hlines
  obtain ⟨htable, hmem⟩ := poolSync_table hlines' p (tPool r)
  have hnames : names (f.poolSync p (tPool r)) = names d := htable.names_eq.trans (hworked.trans hworked').names_eq
  have hread : (f.poolSync p (tPool r)).mem.read (ol.base + 4096 * wordFirst (x.word (tLse r))) 4 = f.mem.read (ol.base + 4096 * wordFirst (x.word (tLse r))) 4 := by
    have hk := tPool_lt r
    have hfoot := size_le_footprint ol
    obtain ⟨-, hheld⟩ := hheld
    unfold Mem.read
    refine List.map_congr_left fun i hi => hmem _ ?_
    have hi := List.mem_range.mp hi
    rw [histBase_congr (hworked.trans hworked').parts_eq]
    omega
  refine ⟨(f.poolSync p (tPool r)).wrap (.attProgress p (stNode r)) n, (Act.run_ok hf).trans ((Act.run_ok (unlatch_empty f p _ s k)).trans rfl), hnames, ?_⟩
  show field ((f.poolSync p (tPool r)).mem.read _ 4) 0 4 = _
  rw [hread, hfield, hlse]
  rfl

theorem attForward_goes {o ol : Obj} {en : Nat} {v : List (W32 × Bool)} (h : OneRow d x p r o en) (hzero : zeroRange (d.mem.read o.base 64) 4 60 = true)
    (hstore : tFlag r 1 = false) (hsend : tFlag r 2 = false) (hrow : Reads d (matRow x p r false 0 (tA r) (pool d p (tPool r)).cols 0) v)
    (hheads : 1 ≤ (pool d p (tPool r)).heads) (hl : Operand d x p (stNode r) (tLse r) ol) (hheld : Holds ol (wordFirst (x.word (tLse r))) 1)
    (hapart : histBase d p + 0x200 ≤ ol.base ∨ ol.base + ol.footprint ≤ histBase d p) :
    Goes (attForward x p r) d fun e => field (e.mem.read (ol.base + 4096 * wordFirst (x.word (tLse r))) 4) 0 4 = 0xFF800000 := by
  obtain ⟨e, hcount, hworked, -⟩ := attCount_ok (p := p) (r := r) d x (([v].map satsOf).sum) 0
  unfold Goes attForward
  rw [Act.run_ok h.reads_pool, Act.run_ok h.reads_list]
  dsimp -zeta only
  rw [if_neg (by simp), Act.run_ok (countOnly_ok hzero), Act.run_ok (seedCheck_ok h.seed), Act.run_ok h.reads_latch, Act.run_ok (rows_one en hrow), Act.run_ok hcount]
  extract_lets res at_ go
  have hstat : (at_ 0 0).2 = negInf := by
    have hres : (res.getD 0 []).getD 0 ([], 0#32) = softRow (tScale r) (pool d p (tPool r)).dim 0 (rowVals v) ⟨bitsN en 15 0, 0, []⟩ (rowLimit en) := by
      obtain ⟨k, hk⟩ := Nat.exists_eq_succ_of_ne_zero (Nat.one_le_iff_ne_zero.mp hheads)
      unfold res
      rw [List.zipIdx_singleton, List.map_singleton, hk, List.range_succ_eq_map, List.map_cons, rowSeq_one]
      rfl
    exact (congrArg Prod.snd hres).trans (softRow_empty ..)
  obtain ⟨f, hf, hworked', -⟩ := matOut_counts (d := e) (x := x) (p := p) (r := r) (tTarget r) 0 0 (wordObj 0) (wordFirst 0) [en].length (pool d p (tPool r)).cols
    fun i c => (at_ i (c / (pool d p (tPool r)).dim)).1.getD (c % (pool d p (tPool r)).dim) 0#32
  obtain ⟨g, hg, hnames, hfield⟩ := statistics_goes (lse := fun i hd => (at_ i hd).2) (hworked.trans hworked') h.lines hl hheld hheads hapart hstat (bitsN en 15 0) 0
    (groupBlocks [en] [⟨bitsN en 15 0, 0, []⟩])
  refine ⟨g, ?_, hnames, hfield⟩
  clear_value at_
  unfold go
  rw [hstore, hsend]
  exact (congrArg (Act.run · e) (if_neg Bool.false_ne_true)).trans ((Act.run_ok rfl).trans ((Act.run_ok hf).trans hg))

/-! ### BACKWARD -/

/-- The reserved bytes of a BACKWARD list are zero (R265). -/
structure BackwardHead (h : List Byte) : Prop where
  reserved : zeroRange h 4 4 = true
  tail : zeroRange h 0x18 40 = true
  key : field h 0xF 1 = 0
  value : field h 0x17 1 = 0

theorem attBackward_goes {o : Obj} {en : Nat} {v v₁ v₂ v₃ : List (W32 × Bool)} (h : OneRow d x p r o en) (hhead : BackwardHead (d.mem.read o.base 64))
    (hstore : tFlag r 1 = false) (hrow : Reads d (matRow x p r false 0 (tA r) (pool d p (tPool r)).cols 0) v)
    (hrow₁ : Reads d (matRow x p r false 0 (tB r) (pool d p (tPool r)).cols 0) v₁) (hrow₂ : Reads d (matRow x p r false 0 (tC r) (pool d p (tPool r)).cols 0) v₂)
    (hrow₃ : Reads d (matRow x p r false 0 (tLse r) (pool d p (tPool r)).heads 0) v₃) : Goes (attBackward x p r) d fun _ => True := by
  obtain ⟨hreserved, htail, hkey, hvalue⟩ := hhead
  have hone : ([en].map fun e => bitsN e 15 0).eraseDups = [bitsN en 15 0] := rfl
  obtain ⟨e, hcount, hworked, -⟩ := attCount_ok (p := p) (r := r) d x ((([v] ++ [v₁] ++ [v₂] ++ [v₃]).map satsOf).sum) 0
  obtain ⟨htable, -⟩ := poolSync_table (hworked.lines_eq.trans h.lines) p (tPool r)
  refine ⟨(e.poolSync p (tPool r)).wrap (.attProgress p (stNode r)) (groupBlocks [en] [⟨bitsN en 15 0, 0, []⟩]), ?_, htable.names_eq.trans hworked.names_eq, trivial⟩
  unfold attBackward
  rw [Act.run_ok h.reads_pool, Act.run_ok h.reads_list]
  dsimp -zeta only
  rw [if_neg (by simp [hreserved, htail, hkey, hvalue]), hone, if_neg (by simp), Act.run_ok (seedCheck_ok h.seed), Act.run_ok h.reads_latch]
  extract_lets rows at_ key starts total own wk wv
  rw [Act.run_ok (rows_one en hrow), Act.run_ok (rows_one en hrow₁), Act.run_ok (rows_one en hrow₂), Act.run_ok (rows_one en hrow₃), Act.run_ok hcount]
  extract_lets grads g dq terms dk dv go
  have htotal : total = 0 := by simp [total, ceilDiv]
  have hgo : (go ()).run e = (.ok (), (e.poolSync p (tPool r)).wrap (.attProgress p (stNode r)) (groupBlocks [en] [⟨bitsN en 15 0, 0, []⟩])) := by
    unfold go
    clear_value dk dv total wk wv
    subst htotal
    rw [Act.run_ok (matOut_none ..), Act.run_ok (matOut_none ..), Act.run_ok (unlatch_empty ..)]
    rfl
  clear_value dq go
  rw [hstore, if_neg Bool.false_ne_true]
  exact hgo

end

end Sys2Proof.Machine
end

section
/-! The attention stages (R252-R266) as commands. -/

namespace Sys2Proof.Machine

/-! ### Actions of attention stages -/

section
variable {d : Dev} {x : Letter} {p : Nat} {r : Rec} {o : Obj}

theorem Lent.lines_eq {n id : Nat} (h : Lent d p n id o) : d.lines = [] := by
  obtain ⟨-, -, -, -, -, -, -, ⟨-, -, -, -, -, hlines⟩, -⟩ := h
  exact hlines

theorem Goes.onStop {a : Act Unit} {Q : Dev → Prop} (h : Goes a d Q) (clean : Dev → Dev) : Goes (onStop clean a) d Q := by
  obtain ⟨e, hrun, hQ⟩ := h
  refine ⟨e, ?_, hQ⟩
  change Machine.onStop clean a d = _
  unfold Machine.onStop
  rw [hrun]
  rfl

/-- An APPEND without entries does nothing. -/
theorem append_none (hvalid : poolValid d p (tPool r) = true) (howner : (pool d p (tPool r)).owner = x.ctx) (ho : Operand d x p (stNode r) (tList r) o)
    (hmode : tMode r = 2) (hsize : 64 ≤ o.footprint) (hnone : field (d.mem.read o.base 64) 0 4 = 0) (hzero : zeroRange (d.mem.read o.base 64) 4 60 = true) :
    Goes (tableOp x p r) d fun e => e.mem = d.mem := by
  refine Goes.congr (tableOp_begins hvalid howner (by omega) (listRead_none ho hsize hnone) hzero) ?_
  rw [hmode]
  exact ⟨d, rfl, rfl, rfl⟩

/-- A stage's list holds one entry for a valid pool of its context. -/
structure OneEntry (d : Dev) (x : Letter) (p : Nat) (r : Rec) (o : Obj) (en : Nat) : Prop where
  operand : Operand d x p (stNode r) (tList r) o
  valid : poolValid d p (tPool r) = true
  owner : (pool d p (tPool r)).owner = x.ctx
  size : 72 ≤ o.footprint
  one : field (d.mem.read o.base 64) 0 4 = 1
  zero : zeroRange (d.mem.read o.base 64) 4 60 = true
  entry : en = field (d.mem.read (o.base + 64) 8) 0 8

section
variable {en : Nat} (h : OneEntry d x p r o en)
include h

theorem OneEntry.begins (hmode : tMode r ≠ 5) : (tableOp x p r).run d = Act.run (match tMode r with
    | 2 => appendAll x p r (pool d p (tPool r)) 0 [en]
    | 3 => forA [en] fun e => do forkEntry p r (pool d p (tPool r)) e; attProgress p r 1
    | _ => forA [en] fun e => do releaseEntry p r (pool d p (tPool r)) e; attProgress p r 1) d :=
  tableOp_begins h.valid h.owner hmode (h.entry ▸ listRead_one h.operand h.size h.one) h.zero

theorem OneEntry.lines : d.lines = [] := by
  obtain ⟨ho⟩ := h
  obtain ⟨-, -, hlent⟩ := ho
  exact hlent.lines_eq

/-- An APPEND of one entry that can be applied. -/
theorem append_one (hmode : tMode r = 2) {row : Nat} {f : Dev} (happlied : (appendEntry x p r (pool d p (tPool r)) 0 en).run d = (.ok row, f)) :
    Goes (tableOp x p r) d fun e => e = f.wrap (.attProgress p (stNode r)) 1 := by
  refine Goes.congr (h.begins (by omega)) ?_
  rw [hmode]
  exact ⟨_, (Act.run_ok happlied).trans rfl, keepsNames_appendEntry _ _ _ _ _ _ d row f happlied, rfl⟩

/-- A FORK of one new sequence. -/
theorem fork_one (hmode : tMode r = 3) (hsrc : bitsN en 31 16 = 0xFFFF) (hlen : bitsN en 63 32 = 0) (hlt : bitsN en 15 0 < (pool d p (tPool r)).seqs)
    (hfree : seqValid d (pool d p (tPool r)) (bitsN en 15 0) = false) (hrec : 0x200 ≤ (pool d p (tPool r)).seqRec) :
    Goes (tableOp x p r) d fun e => e = (d.forked (pool d p (tPool r)) (bitsN en 15 0)).wrap (.attProgress p (stNode r)) 1 := by
  obtain ⟨htable, -⟩ := forked_spec h.lines (q := pool d p (tPool r)) (tPool_lt r) hrec (bitsN en 15 0)
  refine Goes.congr (h.begins (by omega)) ?_
  rw [hmode]
  exact entry_goes (f := forkEntry p r (pool d p (tPool r))) (forkEntry_ok rfl hsrc hlen hlt hfree) htable.names_eq rfl

/-- A RELEASE of one sequence without pages. -/
theorem release_one (hmode : tMode r = 4) (hlt : en < (pool d p (tPool r)).seqs) (h16 : en < 2 ^ 16) (hvalid : seqValid d (pool d p (tPool r)) en = true)
    (hpages : seqPages d (pool d p (tPool r)) en = []) (hrec : 0x200 ≤ (pool d p (tPool r)).seqRec) :
    Goes (tableOp x p r) d fun e => e = (d.released (pool d p (tPool r)) en).wrap (.attProgress p (stNode r)) 1 := by
  obtain ⟨htable, -⟩ := released_spec h.lines (q := pool d p (tPool r)) (tPool_lt r) hrec en
  refine Goes.congr (h.begins (by omega)) ?_
  rw [hmode]
  exact entry_goes (f := releaseEntry p r (pool d p (tPool r))) (releaseEntry_ok rfl hlt h16 hvalid hpages) htable.names_eq rfl

end
end

/-! ### What is left after a stage -/

section
variable {e t : Dev} {g : Reg} {k : Nat} (h : LettersOnly (e.wrap g k) t)
include h

theorem LettersOnly.counted (hg : ledgerReg g = true) : t.reg g = e.reg g + BitVec.ofNat 64 k := by
  rw [h.reg_eq hg, Dev.wrap, Dev.reg_setReg, if_pos rfl]

theorem LettersOnly.seqValid_eq (hlines : e.lines = []) (q : Pool) (k : Nat) : seqValid t q k = seqValid e q k :=
  seqValid_congr (d := e) h.parts_eq hlines (h.lines_eq.trans hlines) h.mem_eq q k

theorem LettersOnly.seqLen_eq (hlines : e.lines = []) (q : Pool) (k : Nat) : seqLen t q k = seqLen e q k :=
  seqLen_congr (d := e) h.parts_eq hlines (h.lines_eq.trans hlines) h.mem_eq q k

end

/-! ### The stages -/

/-- Settles O59: each stage reads its pool and its list, applies its entries or its row to the history table and memory, and ends. -/
theorem attentionStages : Obligations.AttentionStages := by
  unfold Obligations.AttentionStages
  rintro s l stage x p n r d w q o h en rfl rfl ho rfl hvalid rfl howner
  obtain ⟨-, -, hlent⟩ := id ho
  have hlines := hlent.lines_eq
  refine ⟨fun h => ⟨fun hmode hsize hframes hseqs hreaders => ?_, fun hzero => ⟨fun hmode hsize hnone => ?_, fun hsize hone hen => ?_⟩⟩, ?_⟩
  · obtain ⟨htable, hinvalid, hreg⟩ := poolGone_spec hlines p (tPool r)
    have hinit := poolInit_goes ho hsize hframes hvalid howner hseqs hreaders
    have hgo : Goes (tableOp x p r) d (· = d.poolGone p (tPool r)) := by
      refine ⟨_, ?_, htable.names_eq, rfl⟩
      unfold tableOp
      rw [if_pos hmode, hinit]
    obtain ⟨t, ht, hover, _, rfl, hledger⟩ := hgo.over h (runs_oneShot (c := .attPoolInit l stage) (f := tableOp) (mode := fun r => tMode r = 5) rfl h (decide_eq_true hmode))
    have hlines' := htable.lines_eq.trans hlines
    exact ⟨t, ht, hover, (poolValid_congr hledger.parts_eq hlines' (hledger.lines_eq.trans hlines') hledger.mem_eq ..).trans hinvalid, (hledger.reg_eq rfl).trans hreg⟩
  · obtain ⟨t, ht, hover, e, hmem, hledger⟩ := (append_none hvalid howner ho hmode hsize hnone hzero).over h
      (runs_oneShot (c := .attAppend l stage) (f := tableOp) (mode := fun r => tMode r = 2) rfl h (decide_eq_true hmode))
    exact ⟨t, ht, hover, fun b => by rw [hledger.mem_eq, hmem, h.mem_eq]⟩
  · have hentry : OneEntry d x p r o en := ⟨ho, hvalid, howner, hsize, hone, hzero, hen⟩
    refine ⟨fun row f hmode happlied => ?_, fun hmode hsrc hlen hlt hfree hrec => ?_, fun hmode hlt h16 hseq hpages hrec => ?_⟩
    · obtain ⟨t, ht, hover, _, rfl, hledger⟩ := (append_one hentry hmode happlied).over h
        (runs_oneShot (c := .attAppend l stage) (f := tableOp) (mode := fun r => tMode r = 2) rfl h (decide_eq_true hmode))
      exact ⟨t, ht, hover, hledger.mem_eq, hledger.counted rfl⟩
    · obtain ⟨htable, hseq, hzeroLen⟩ := forked_spec hlines (q := pool d p (tPool r)) (tPool_lt r) hrec (bitsN en 15 0)
      obtain ⟨t, ht, hover, _, rfl, hledger⟩ := (fork_one hentry hmode hsrc hlen hlt hfree hrec).over h
        (runs_oneShot (c := .attFork l stage) (f := tableOp) (mode := fun r => tMode r = 3) rfl h (decide_eq_true hmode))
      have hlines' := htable.lines_eq.trans hlines
      exact ⟨t, ht, hover, (hledger.seqValid_eq hlines' ..).trans hseq, (hledger.seqLen_eq hlines' ..).trans hzeroLen,
        (hledger.counted rfl).trans (by rw [htable.reg _ (by simp)])⟩
    · obtain ⟨htable, hgone⟩ := released_spec hlines (q := pool d p (tPool r)) (tPool_lt r) hrec en
      obtain ⟨t, ht, hover, _, rfl, hledger⟩ := (release_one hentry hmode hlt h16 hseq hpages hrec).over h
        (runs_oneShot (c := .attRelease l stage) (f := tableOp) (mode := fun r => tMode r = 4) rfl h (decide_eq_true hmode))
      exact ⟨t, ht, hover, (hledger.seqValid_eq (htable.lines_eq.trans hlines) ..).trans hgone, (hledger.counted rfl).trans (by rw [htable.reg _ (by simp)])⟩
  · rintro v hsize hone hen hhead hlt hseq hlen hpages hseed hstore hrow
    have hone' : OneRow d x p r o en := ⟨hlines, ho, hvalid, howner, hsize, hone, hen, hhead, hlt, hseq, hlen, hpages, hseed⟩
    refine ⟨fun ol h hmode hsend hzero hheads hl hheld hapart => ?_, fun v₁ v₂ v₃ h hmode hreserved htail hkey hvalue hrow₁ hrow₂ hrow₃ => ?_⟩
    · obtain ⟨t, ht, hover, e, hfield, hledger⟩ := ((attForward_goes hone' hzero hstore hsend hrow hheads hl hheld hapart).onStop (·.dropReaders p)).over h
        (runs_oneShot (c := .attForward l stage) (f := fun x p r => onStop (·.dropReaders p) (attForward x p r)) (mode := fun r => tMode r = 0) rfl h (decide_eq_true hmode))
      exact ⟨t, ht, hover, hledger.mem_eq ▸ hfield⟩
    · obtain ⟨t, ht, hover, -⟩ := ((attBackward_goes hone' ⟨hreserved, htail, hkey, hvalue⟩ hstore hrow hrow₁ hrow₂ hrow₃).onStop (·.dropReaders p)).over h
        (runs_oneShot (c := .attBackward l stage) (f := fun x p r => onStop (·.dropReaders p) (attBackward x p r)) (mode := fun r => tMode r = 1) rfl h (decide_eq_true hmode))
      exact ⟨t, ht, hover⟩

end Sys2Proof.Machine
end
